-- ==== Sys2Proof/Word.lean ====
section
/-!
DEFINITION. The word types of the OX-1 and the plainest arithmetic on bit fields
(R6: little-endian, bit 0 least significant, a range [msb:lsb] includes both ends).
-/
namespace Sys2Proof

/-- A register (R9). -/
abbrev Word := BitVec 32
/-- A byte of memory. -/
abbrev Byte := BitVec 8
/-- A thread register (R76), a FLAGS or MASK word (R33). -/
abbrev DWord := BitVec 64
/-- A Bilver command of 64 bytes (R61), word 0 in the low bits. -/
abbrev Cmd := BitVec 512
/-- A Bilver command less its OPCODE byte, which the row fixes. -/
abbrev Body := BitVec 504

/-- The command whose OPCODE is `op` and whose other bits are `b` (R62). -/
def cmdOf (op : Nat) (b : Body) : Cmd := b ++ BitVec.ofNat 8 op

/-- Bits [lo + n - 1 : lo] of a natural number. -/
def bitsOf (w lo n : Nat) : Nat := (w >>> lo) % 2 ^ n

/-- Bit `i` of a natural number. -/
def bitOf (w i : Nat) : Bool := (w >>> i) % 2 == 1

/-- 1 or 0. -/
def b2n (b : Bool) : Nat := if b then 1 else 0

/-- The quotient rounded up. -/
def ceilDiv (a b : Nat) : Nat := (a + b - 1) / b

end Sys2Proof
end

