-- ==== Sys2Proof/Syntax.lean ====
section
/-!
DEFINITION. The commands the block takes: Bilver commands as their issuer and command word, and the events, messages,
register accesses and requests of the operation table with the values that come with them.
-/
namespace Sys2Proof

/-- A command queue (R40), or the Gatehouse's internal queue (R42). -/
inductive QRef where
  | host (q : Fin 256)
  | gate
deriving DecidableEq, Repr

/-- A hardware thread: module core 0–511 (R12) and thread 0–15 (R29). -/
structure Thr where
  core : Fin 512
  thr : Fin 16
deriving DecidableEq, Repr

/-- Where a Bilver command stands (R69): issued by a thread, or an entry of a queue. -/
inductive Issuer where
  | thread (t : Thr)
  | queue (q : QRef)
deriving DecidableEq, Repr

/-- Where a CANCEL or PRIO_SET comes from (R686): a thread or a queue of this module, or another module that its handle carried it from,
with the PRIO_MAX that binds it and the tag and epoch of the request whose confirmation is awaited there. -/
inductive Sender where
  | thread (t : Thr)
  | queue (q : QRef)
  | carried (src : Fin 4096) (max : Fin 8) (tag : BitVec 16) (epoch : BitVec 8)
deriving DecidableEq, Repr

/-- A task slot: Pavilion and slot (R30). -/
structure SlotRef where
  pav : Fin 16
  n : Fin 4096
deriving DecidableEq, Repr

/-- A request at its home: one of this module's threads, by its tag, or the i-th message that has arrived from the fabric. -/
inductive HomeReq where
  | own (tag : Nat)
  | arrived (i : Nat)
deriving DecidableEq, Repr

/-- A reply: to a request that a home of this module has answered, by the request's tag, or the i-th message that has arrived. -/
inductive ReplyRef where
  | own (tag : Nat)
  | arrived (i : Nat)
deriving DecidableEq, Repr

/-- A read that waits for its retry (R593): a request by tag, an engine's outstanding command by id, or a bank that a core's dense engine
fills again (R263). -/
inductive RetryRef where
  | req (tag : Nat)
  | op (id : Nat)
  | refill (core : Nat)
deriving DecidableEq, Repr

/-- A flit of 256 bytes (R504), byte 0 in the low bits. -/
abbrev Flit := BitVec 2048

/-- The answer to a request (STATUS of R506). -/
inductive Status where
  | ok | fenced | uncorrectable | unreachable
deriving DecidableEq, Repr

/-- A reset domain (R589, R629): a core, a Pavilion, a link, an Orangery's channel group, the block of a page, or another module. -/
inductive DomRef where
  | core (c : Fin 512)
  | pav (p : Fin 16)
  | link (l : Fin 64)
  | group (o : Fin 4) (g : Fin 4)
  | page (n : Fin 65536)
  | remote (m : Fin 4096)
deriving DecidableEq, Repr

/-- Who accesses a register (R51, R643): the physical function, the Gatehouse firmware, or management Ethernet. -/
inductive Requester where
  | pf | gatehouse | ethernet
deriving DecidableEq, Repr

/-- A manager message that has reached this module: the i-th that it holds from itself or from management Ethernet, or the i-th
message that has arrived from the fabric. -/
inductive MgrRef where
  | held (i : Nat)
  | arrived (i : Nat)
deriving DecidableEq, Repr

/-- What a link's partner tells at training (R522, R512): the lanes that trained, module, axis, direction and link index, and the
credits of its receiver's virtual channels, VC 0 in the low 10 bits. -/
structure Training where
  lanes : BitVec 2
  mod : BitVec 12
  axis : Fin 4
  dir : Fin 2
  idx : Fin 8
  credits : BitVec 80
deriving DecidableEq, Repr

/-- What start-up meets (R634, R635): a rail that cannot be brought into tolerance, whether the image of slot A and of slot B is
accepted (R577), and the resources that fail a self-test, in the encoding of R584. -/
structure Boot where
  rail : Option (Fin 31) := none
  slotA : Bool := true
  slotB : Bool := true
  failed : List (BitVec 30) := []
  /-- The job's layout, from which the firmware writes PE[0].TOPO and the membership (R527, R532, R534). -/
  topo : BitVec 32 := 0
  spares : List (Fin 4096) := []
deriving DecidableEq, Repr

/-- An SMBus command (R579, R683). -/
inductive Smbus where
  | hostState
  | temperature (die : Fin 20)
  | power
  | replace
  | eeprom (a : Fin 256)
deriving DecidableEq, Repr

/-- A management datagram (R579): a manager message in the layout of R537 with its sender and number, or a register access. -/
inductive Datagram where
  | manager (src : Fin 4096) (num : BitVec 16) (words : BitVec 384) (list : List DWord)
  | read (page : Fin 65536) (off : Fin 4096)
  | write (page : Fin 65536) (off : Fin 4096) (size : Fin 9) (v : DWord)
deriving DecidableEq, Repr

/-- A wake source of the module (R619). -/
inductive Wake where
  | doorbell | barAccess | datagram | smbus | perst
deriving DecidableEq, Repr

/-- The commands and events of the block, one constructor for each row of the operation table. -/
inductive Instr where
  /-- NOP (R90): A NOP command uses up one queue entry, or issues and completes as padding, with no effect. -/
  | nop (iss : Issuer) (b : Body)
  /-- STM_COPY (R456): A stream copies the bytes of a source block list to a destination block list in list order. -/
  | stmCopy (t : Thr) (b : Body)
  /-- STM_LOAD (R456): A stream packs the entries of a source block list contiguously at DST. -/
  | stmLoad (t : Thr) (b : Body)
  /-- STM_STORE (R456): A stream deals the contiguous bytes from SRC out to the entries of a destination block list. -/
  | stmStore (t : Thr) (b : Body)
  /-- STM_STORE_ENC (R458): A stream reads a dense tensor and writes it cast, MX-encoded, row-scaled or BM64-encoded. -/
  | stmStoreEnc (t : Thr) (b : Body)
  /-- STM_FILL (R457): A stream fills a range with an 8-byte pattern and can then set the full/empty tags of the range. -/
  | stmFill (t : Thr) (b : Body)
  /-- STM_LOADREG (R443): A thread loads 1 to 8 bytes into a register, obeying the tag mode of the access. -/
  | stmLoadreg (t : Thr) (b : Body)
  /-- STM_STOREREG (R443): A thread stores the low bytes of a register, obeying the tag mode of the access. -/
  | stmStorereg (t : Thr) (b : Body)
  /-- DNS_LOAD_W (R251): The dense engine fills a weight bank from a weight tensor, directly or through a column list. -/
  | dnsLoadW (t : Thr) (b : Body)
  /-- DNS_MM (R252): The dense engine streams activation rows against a bank into tiles and can drain each row group automatically. -/
  | dnsMm (t : Thr) (b : Body)
  /-- DNS_DRAIN (R253): The dense engine casts a tile and writes it to an output tensor, keeping the tile's contents. -/
  | dnsDrain (t : Thr) (b : Body)
  /-- DNS_ATTN_SCORE (R256): The dense engine computes scaled, optionally causal, scores of up to 32 queries against a span of keys. -/
  | dnsAttnScore (t : Thr) (b : Body)
  /-- DNS_ATTN_VALUE (R257): The dense engine accumulates probabilities against value rows, with an optional per-row rescale of the tile. -/
  | dnsAttnValue (t : Thr) (b : Body)
  /-- DNS_TILE_SAVE (R258): The dense engine writes a tile and its status record to memory. -/
  | dnsTileSave (t : Thr) (b : Body)
  /-- DNS_TILE_RESTORE (R258): The dense engine reads a saved tile back after checking the status record. -/
  | dnsTileRestore (t : Thr) (b : Body)
  /-- SPS_BM64 (R275): The sparse engine walks the bitmap matches of a BM64 operand into the tiles. -/
  | spsBm64 (t : Thr) (b : Body)
  /-- SPS_COO16 (R277): The sparse engine adds the product of each COO16 entry into the tiles in list order. -/
  | spsCoo16 (t : Thr) (b : Body)
  /-- SPS_SEGMENT (R278): The sparse engine aggregates neighbour rows over a Trellis hop, forward or transposed. -/
  | spsSegment (t : Thr) (b : Body)
  /-- SPS_AUTO (R285): The sparse engine resolves each tile job to a walk or to dense expansion by a density hint. -/
  | spsAuto (t : Thr) (b : Body)
  /-- VEC_MAP (R317): The vector engine writes an elementwise function of its inputs. -/
  | vecMap (t : Thr) (b : Body)
  /-- VEC_SOFTMAX (R318): The vector engine computes one span of an online-normalised softmax and updates its running state. -/
  | vecSoftmax (t : Thr) (b : Body)
  /-- VEC_NORM (R320): The vector engine computes L2, sum of squares, RMSNorm or LayerNorm per row in fixed order. -/
  | vecNorm (t : Thr) (b : Body)
  /-- VEC_CAST (R321): The vector engine casts each element to a narrower format, with optional stochastic rounding. -/
  | vecCast (t : Thr) (b : Body)
  /-- VEC_PARTIAL_ADD (R326): The vector engine adds full-width partial records into a target in arrival order or by the fixed tree. -/
  | vecPartialAdd (t : Thr) (b : Body)
  /-- VEC_REDUCE (R319): The vector engine reduces across rows or columns by sum, sum of squares, max, min or argmax. -/
  | vecReduce (t : Thr) (b : Body)
  /-- NUM_BIND (R332): A numerics-monitor tensor slot is bound, snapshotted or unbound. -/
  | numBind (t : Thr) (b : Body)
  /-- SMP_UNIFORM (R166): The samplers build a Trellis by uniform sampling without replacement using Floyd's algorithm. -/
  | smpUniform (t : Thr) (b : Body)
  /-- SMP_ALIAS (R167): The samplers build a Trellis by weighted sampling with replacement, using prefix sums or alias tables. -/
  | smpAlias (t : Thr) (b : Body)
  /-- SMP_RESERVOIR (R170): The samplers build a Trellis by weighted sampling without replacement using reservoir keys. -/
  | smpReservoir (t : Thr) (b : Body)
  /-- SMP_LAYERWISE (R171): The samplers draw one importance-sampled layer per hop for all destinations together. -/
  | smpLayerwise (t : Thr) (b : Body)
  /-- SMP_WALK2 (R172): The samplers advance second-order random walks, one step per hop. -/
  | smpWalk2 (t : Thr) (b : Body)
  /-- SMP_TEMPORAL (R173): The samplers sample only the edges that come strictly before each node's query time. -/
  | smpTemporal (t : Thr) (b : Body)
  /-- SMP_ALIAS_BUILD (R169): The samplers build alias tables for a range of nodes of the module's own partition. -/
  | smpAliasBuild (t : Thr) (b : Body)
  /-- ROW_GATHER (R204): The row engine fetches, deduplicates, decodes and lands the rows that a list names. -/
  | rowGather (t : Thr) (b : Body)
  /-- ROW_GATHER_POOL (R208): The row engine gathers bags of rows and lands one summed or averaged row per bag. -/
  | rowGatherPool (t : Thr) (b : Body)
  /-- ROW_SCATTER (R344): Gradient rows are sent as keyed contributions into the merge windows of a table and step. -/
  | rowScatter (t : Thr) (b : Body)
  /-- ROW_MERGE_FLUSH (R349): A merge window, or a dense region's gradient buffer, is closed and sent to be staged and mirrored. -/
  | rowMergeFlush (t : Thr) (b : Body)
  /-- ROW_MOVE (R222): Blocks of a table are registered to move to a new base and width class at a named step's commit. -/
  | rowMove (t : Thr) (b : Body)
  /-- ROW_POP_READ (R221): A snapshot of popularity counts or of cold ACCESS bits is written, with optional decay. -/
  | rowPopRead (t : Thr) (b : Body)
  /-- COL_REDUCE (R543): A ring reduces the inputs of its participants to the root. -/
  | colReduce (t : Thr) (b : Body)
  /-- COL_ALLREDUCE (R543): A ring reduces the inputs of its participants and delivers the sums to every participant. -/
  | colAllreduce (t : Thr) (b : Body)
  /-- COL_REDUCE_SCATTER (R543): A ring reduces the inputs of its participants and delivers chunk r to rank r. -/
  | colReduceScatter (t : Thr) (b : Body)
  /-- COL_ALLGATHER (R543): A ring concatenates the inputs of its participants at every participant. -/
  | colAllgather (t : Thr) (b : Body)
  /-- RNG_FILL (R473): The random unit writes keyed raw, uniform, normal or Bernoulli values. -/
  | rngFill (t : Thr) (b : Body)
  /-- RNG_LITE_FILL (R478): The random unit writes words from a Lite slot, initialising the slot first if asked. -/
  | rngLiteFill (t : Thr) (b : Body)
  /-- RNG_NOISE_READ (R484): Conditioned noise blocks are written from the pool, waiting while the pool is empty. -/
  | rngNoiseRead (t : Thr) (b : Body)
  /-- SEL_SCAN (R486): The selection unit scans a score vector and writes its maximum, a histogram and the top-K list. -/
  | selScan (t : Thr) (b : Body)
  /-- SEL_DRAW (R490): The selection unit draws indices from a scan record under top-k and top-p, or by a Gumbel race. -/
  | selDraw (t : Thr) (b : Body)
  /-- HDG_LOAD (R293): A Hedge layer slot is filled and the norms of its weight rows are formed. -/
  | hdgLoad (t : Thr) (b : Body)
  /-- HDG_PREDICT (R297): Hedge writes keep records for row groups and can write skip values for the skipped neurons. -/
  | hdgPredict (t : Thr) (b : Body)
  /-- HDG_AUDIT_READ (R302): Hedge reads the outputs of audited neurons, counts misses and can set FALLBACK. -/
  | hdgAuditRead (t : Thr) (b : Body)
  /-- TASK (R84): A queue-level TASK command is checked, waits for its slot and allocates it with its flags and descriptor. -/
  | task (q : QRef) (b : Body)
  /-- SIGNAL (R91): A SIGNAL command ORs bits into a target task's FLAGS once the writes it covers are visible. -/
  | signal (iss : Issuer) (b : Body)
  /-- FENCE (R92): A thread waits until its earlier ASYNC commands have completed and its stores are visible, as the command's scope requires. -/
  | fence (t : Thr) (b : Body)
  /-- ATOMIC (R93): An atomic add, min, max, swap or compare-and-swap is performed at the home of the location. -/
  | atomic (t : Thr) (b : Body)
  /-- CANCEL (R94): A WAITING task of the named generation is freed with a CANCELLED record. -/
  | cancel (iss : Sender) (b : Body)
  /-- MGR_MSG (R95): A manager message is sent to the manager role and completes when the manager acknowledges it. -/
  | mgrMsg (q : QRef) (b : Body)
  /-- END (R96): A thread ends. -/
  | endThread (t : Thr) (b : Body)
  /-- PRIO_SET (R134): A task's own priority is changed, after the clamp, at the next placement decision. -/
  | prioSet (iss : Sender) (b : Body)
  /-- FLAG_SET (R107): A flag set from a signal or completion reaches a dispatcher and is applied to a slot or to its latch. -/
  | flagSet (j : Nat)
  /-- PLACEMENT (R109): The dispatcher places the highest-ranked READY task that fits a core, or resumes a pre-empted one. -/
  | placement (p : Fin 16) (bucket : Fin 8)
  /-- PREEMPTION_CHECK (R126): The dispatcher finds a candidate that fits no core and signals at most one eligible victim per core. -/
  | preemptionCheck (p : Fin 16)
  /-- QUANTUM_END (R127): A running task's quantum expires while a candidate that fits no core is READY. -/
  | quantumEnd (t : SlotRef)
  /-- HEAD_RESERVE (R111): A task skipped for longer than SKIP_LIMIT becomes the head reservation on a chosen core. -/
  | headReserve (t : SlotRef)
  /-- CONTEXT_SAVE (R129): A victim reaches its safe point, its context is written to its frame and it becomes PREEMPTED. -/
  | contextSave (t : SlotRef)
  /-- TASK_DONE (R81): A task whose threads have ended and whose writes are visible sets its completion targets and posts its record. -/
  | taskDone (t : SlotRef)
  /-- ORDERED_RELEASE (R115): A DONE_HELD item of an ordered flow is released once every earlier position has been released. -/
  | orderedRelease (t : SlotRef)
  /-- COOLING_END (R32): The 20 µs hold of a freed slot expires, and a TASK waiting for the slot may proceed. -/
  | coolingEnd (t : SlotRef)
  /-- HUB_SEGMENT_PLACE (R121): A hub segment is placed on a core whose sparse engine is free and forms its partial. -/
  | hubSegmentPlace (h : Nat) (core : Fin 32)
  /-- HUB_PARTIAL_ADD (R123): The issuing core's vector engine adds the next hub partial into the destination row in segment order. -/
  | hubPartialAdd (h : Nat)
  /-- PROFILE (R693): A profile request is checked and written and committed on every member. -/
  | profile (m : MgrRef)
  /-- JOB_START (R539): With no step open, A_m and STEP_LAST_OPEN become the given step on every member, and the alias table is cleared. -/
  | jobStart (m : MgrRef)
  /-- STEP_OPEN (R549): The system manager accepts, holds or refuses a request to open the next step. -/
  | stepOpen (m : MgrRef)
  /-- OPEN_PREPARE (R550): A member compares the profile word and compatibility level and replies OK or PROFILE_MISMATCH. -/
  | openPrepare (m : MgrRef)
  /-- OPEN_GO (R550): A member opens the step. -/
  | openGo (m : MgrRef)
  /-- STEP_SEAL (R357): Every home closes the step's bank, combines its records and forms the per-table sums, and the module sends STAGE_ACK. -/
  | stepSeal (m : MgrRef)
  /-- STAGE_ACK (R540): A stage acknowledgement is combined by the group manager and the system manager, which form the clip factors. -/
  | stageAck (m : MgrRef)
  /-- STEP_COMMIT (R551): A commit is decided at the standby's confirmation and reaches every member with its clip factors. -/
  | stepCommit (m : MgrRef)
  /-- STEP_ABORT (R364): The step's windows and stage banks are discarded, its scatters and flushes fault, and bit 62 is set. -/
  | stepAbort (m : MgrRef)
  /-- APPLIED (R539): A member reports to the system manager that A_m has reached the step. -/
  | applied (m : MgrRef)
  /-- TAINT (R57): A member reports a tainted step, which the system manager marks so that it cannot commit. -/
  | taint (m : MgrRef)
  /-- CHECKPOINT (R370): Journal records through the step are freed, and journal holds and NO_MIRROR may clear. -/
  | checkpoint (m : MgrRef)
  /-- HEARTBEAT (R536): A heartbeat from a module reaches its manager. -/
  | heartbeat (m : MgrRef)
  /-- HEARTBEAT_TICK (R536): The heartbeat interval expires and the module sends HEARTBEAT. -/
  | heartbeatTick
  /-- HEARTBEAT_MISS (R553): A manager hears nothing from a module for three intervals and declares a role loss or a total loss. -/
  | heartbeatMiss (id : Fin 4096) (alive : Bool)
  /-- LOST (R553): A member reports that it has lost its role or must be replaced, and the system manager declares the loss. -/
  | lost (m : MgrRef)
  /-- HALT (R554): Every member stops fetching from the job's queues, and the job state becomes HALTED with a reason. -/
  | halt (m : MgrRef)
  /-- RESUME (R558): HALT is cleared and recovery replay begins. -/
  | resume (m : MgrRef)
  /-- REMAP (R555): Every member rewrites a lost module id to its replacement, using an alias entry unless SAME_POSITION. -/
  | remap (m : MgrRef)
  /-- REBUILD (R554): The lost role's buddy sends its journal since the checkpoint to the replacement, which applies it. -/
  | rebuild (m : MgrRef)
  /-- MIRROR_RESET (R557): A module's journal is restarted at the replacement and NO_MIRROR is set. -/
  | mirrorReset (m : MgrRef)
  /-- DECISION (R559): The standby records the system manager's commit or abort decision and confirms it. -/
  | decision (m : MgrRef)
  /-- MGR_RESEND_TIMEOUT (R536): A manager message left unanswered for 50 µs, or answered UNREACHABLE, is sent again over management Ethernet. -/
  | mgrResendTimeout (num : Nat)
  /-- STANDBY_TAKEOVER (R559): The standby misses three heartbeats, becomes system manager and completes or aborts the undecided steps. -/
  | standbyTakeover
  /-- PROFILE_ACTIVATION (R25): The pending profile becomes active at the next step boundary, or within 1 µs when no step is open. -/
  | profileActivation
  /-- DATA_FLIT (R509): A link receiver checks a DATA flit and accepts it in SEQ order or discards it. -/
  | dataFlit (l : Fin 64) (f : Flit)
  /-- IDLE_FLIT (R509): A received IDLE flit delivers its acknowledgement and credits. -/
  | idleFlit (l : Fin 64) (f : Flit)
  /-- NAK (R510): A transmitter that receives a NAK resends the DATA flits from the named SEQ onward. -/
  | nak (l : Fin 64) (f : Flit)
  /-- NAK_REPEAT (R510): A receiver sends the NAK again every 1 µs while the gap lasts. -/
  | nakRepeat (l : Fin 64)
  /-- ACK_INTERVAL (R509): The acknowledgement interval expires, and a receiver with no DATA to send sends an IDLE flit. -/
  | ackInterval (l : Fin 64)
  /-- FLIT_SLOT (R513): A link direction fills its next flit slot by class share and stream grant. -/
  | flitSlot (l : Fin 64)
  /-- FORWARD (R517): A message that reaches an intermediate module is routed on along its ring or across to the next ring. -/
  | forward (j : Nat)
  /-- READ (R508): A READ request is performed at its home and answered with data. -/
  | read (r : HomeReq)
  /-- WRITE (R508): A WRITE request is performed at its home and acknowledged. -/
  | write (r : HomeReq)
  /-- FABRIC_ATOMIC (R428): An ATOMIC request is performed at its home and answered. -/
  | fabricAtomic (r : HomeReq)
  /-- FABRIC_SIGNAL (R508): A posted SIGNAL message delivers its bits to the target dispatcher. -/
  | fabricSignal (j : Nat)
  /-- ROW_FETCH (R214): A home module resolves a row fetch, serves it, marks it AHEAD or holds it by step. -/
  | rowFetch (r : HomeReq)
  /-- ROW_CHECK (R215): A home answers a STRICT check UNCHANGED or CHANGED from its committed update set. -/
  | rowCheck (r : HomeReq)
  /-- ROW_UPDATE (R356): A home stages a merged update, has it mirrored to the buddy and acknowledges it. -/
  | rowUpdate (r : HomeReq)
  /-- JOURNAL (R368): The buddy writes a journal record into its journal area and confirms it. -/
  | journal (r : HomeReq)
  /-- COLL (R544): A collective piece reaches its owner or a receiving participant and is added or delivered. -/
  | coll (c : HomeReq)
  /-- REPLY_DATA (R587): A data reply is checked against the tag epoch and landed, or dropped as stale, or handled as FENCED. -/
  | replyData (r : ReplyRef)
  /-- REPLY_ACK (R587): An acknowledgement reply completes its request, or is handled as FENCED or UNCORRECTABLE. -/
  | replyAck (r : ReplyRef)
  /-- LINK_TRAINED (R522): A link completes training on one or two lanes, checks its partner and joins its bundle. -/
  | linkTrained (l : Fin 64) (t : Training)
  /-- LINK_RESET (R523): A link leaves its bundle, fences its unacknowledged messages, advances its epoch and retrains. -/
  | linkReset (l : Fin 64)
  /-- SQ_TAIL (R567): A doorbell write moves a queue's tail, or is dropped and counted. -/
  | sqTail (q : Fin 256) (f : Fin 8) (v : Word)
  /-- CQ_HEAD (R567): A doorbell write frees completion records before the new head and may release held records. -/
  | cqHead (q : Fin 256) (f : Fin 8) (v : Word)
  /-- RING_FETCH (R574): The host interface fetches ring entries from head to tail, translating host addresses. -/
  | ringFetch (q : Fin 256)
  /-- COMPLETION_RECORD (R572): A completion record is written to its completion queue, or held while the queue is full. -/
  | completionRecord (c : Fin 256)
  /-- CQ_COAL_TIMER (R573): TIME µs after the first unsignalled record, the completion queue interrupts. -/
  | cqCoalTimer (c : Fin 256)
  /-- FUNCTION_LEVEL_RESET (R568): A function's queues are disabled and cleared, and its tasks are cancelled or left to finish by state. -/
  | functionLevelReset (f : Fin 8)
  /-- HOT_RESET (R629): A PCIe hot reset acts on the functions only. -/
  | hotReset (port : Fin 2)
  /-- APERTURE_READ (R570): A host read through BAR 4 is served as a plain load, with 0xFF for unpopulated bytes. -/
  | apertureRead (off : BitVec 36) (len : Nat)
  /-- APERTURE_WRITE (R569): A host write through BAR 4 is served as a bulk store, or discarded if it touches a protected range. -/
  | apertureWrite (off : BitVec 36) (data : List Byte)
  /-- XLATE_INV (R575): A write requests invalidation of one or all host translation entries. -/
  | xlateInv (r : Requester) (v : Word)
  /-- XLATE_INV_DONE (R575): The invalidation completes, PENDING clears and held fetches and records are tried again. -/
  | xlateInvDone
  /-- FW_START (R578): An FW_CTL write with START begins verification and writing of a staged image into the inactive slot. -/
  | fwStart (r : Requester) (v : Word)
  /-- FW_UPDATE_DONE (R578): The Gatehouse finishes verifying, writing and reading back an image and marks the slot pending, or fails. -/
  | fwUpdateDone (flashOk : Bool)
  /-- COMMIT_SVN (R578): The fused minimum SVN is raised to the SVN of the running image. -/
  | commitSvn (r : Requester)
  /-- COMMIT (R650): A write of COMMIT.GO marks a commit pending until the page's safe point. -/
  | commit (r : Requester) (n : Fin 65536)
  /-- COMMIT_APPLY (R650): At the page's safe point the checks run, and the shadow is copied to the active copy or refused. -/
  | commitApply (n : Fin 65536)
  /-- CTRL_ENABLE (R647): A write of CTRL.ENABLE stops or restarts new work in a block at its next safe point. -/
  | ctrlEnable (r : Requester) (n : Fin 65536) (on : Bool)
  /-- FENCE_REQ (R687): A write of FENCE_REQ fences the block's resource until module reset. -/
  | fenceReq (r : Requester) (n : Fin 65536)
  /-- EXPERT_UNLOCK (R654): A keyed write sets CTRL.EXPERT and makes the page's expert registers writable. -/
  | expertUnlock (r : Requester) (n : Fin 65536) (key : BitVec 8)
  /-- EXPERT_RELOCK (R654): A write of EXPERT = 0 relocks the page and sets uncommitted expert shadows back to their active values. -/
  | expertRelock (r : Requester) (n : Fin 65536)
  /-- SOFT_RESET (R647): A write of SOFT_RESET resets the page's domain. -/
  | softReset (r : Requester) (n : Fin 65536)
  /-- ERR_INJECT (R602): An injection of the chosen kind is armed for COUNT occurrences on a unit. -/
  | errInject (r : Requester) (n : Fin 65536) (v : Word)
  /-- CNT_CLEAR (R137): The selected counters of a page are cleared atomically. -/
  | cntClear (r : Requester) (n : Fin 65536) (v : Word)
  /-- ERR_LATCH_CLEAR (R404): A memory page's ERR_INFO and ERR_ADDR latch is cleared. -/
  | errLatchClear (r : Requester) (n : Fin 65536)
  /-- FAULT_ACK (R106): A FAULTED task of the named slot and generation is acknowledged and freed. -/
  | faultAck (r : Requester) (p : Fin 16) (v : Word)
  /-- REGISTER_LO_READ (R9): A read of a _LO register latches the _HI half for the next _HI read. -/
  | registerLoRead (r : Requester) (n : Fin 65536) (off : Fin 4096) (size : Fin 9)
  /-- SEED_DRAW_LO (R485): A read takes 64 bits from the noise pool, or returns zero and counts SEED_EMPTY if the pool is empty. -/
  | seedDrawLo (p : Fin 16)
  /-- NEAR_RETIRE_CMD (R397): Software requests retirement of a near controller's channel to a spare. -/
  | nearRetireCmd (r : Requester) (p : Fin 16) (v : Word)
  /-- FAR_RETIRE_CMD (R398): Software requests retirement of a far frame, or of a whole channel. -/
  | farRetireCmd (r : Requester) (o : Fin 4) (v : Word)
  /-- PAV_REQ_RUN (R617): A Pavilion is woken to Run. -/
  | pavReqRun (r : Requester) (p : Fin 16)
  /-- PAV_REQ_HOLD (R615): A Pavilion enters Hold. -/
  | pavReqHold (r : Requester) (p : Fin 16)
  /-- PAV_REQ_NAP (R616): A Pavilion enters Nap, or the request is refused BUSY. -/
  | pavReqNap (r : Requester) (p : Fin 16)
  /-- MOD_REQ_RUN (R619): The module is woken from Hold or Nap. -/
  | modReqRun (r : Requester)
  /-- MOD_REQ_HOLD (R618): The module enters Hold if no job runs. -/
  | modReqHold (r : Requester)
  /-- MOD_REQ_NAP (R618): The module enters Nap if no job runs and every Pavilion may nap. -/
  | modReqNap (r : Requester)
  /-- MOD_REQ_REST (R618): The module enters Rest, dropping MOD_READY, if its conditions hold. -/
  | modReqRest (r : Requester)
  /-- MOD_REQ_DORMANT (R618): The module enters Dormant, dropping MOD_READY, if its conditions hold. -/
  | modReqDormant (r : Requester)
  /-- TEST_MODE_ENTER (R659): The 0xC3 then 0x3C sequence enters test mode and withdraws MOD_READY. -/
  | testModeEnter (r : Requester)
  /-- TEST_MODE_EXIT (R601): Writing 0x5A leaves test mode by resetting the module. -/
  | testModeExit (r : Requester) (b : Boot)
  /-- NOISE_CLEAR (R598): A Pavilion's noise-source retirement entry is removed, and the start-up test runs again. -/
  | noiseClear (p : Fin 16)
  /-- BLV_SNAPSHOT (R665): A snapshot of every page's counter window is written, optionally clearing the windows. -/
  | blvSnapshot (r : Requester) (clear : Bool)
  /-- SNAP_PERIOD_TICK (R665): The snapshot period expires and an automatic snapshot starts, or is counted as missed. -/
  | snapPeriodTick
  /-- REGISTER_WRITE (R7): A write to a register with no row of its own takes effect by its access type or is rejected whole. -/
  | registerWrite (r : Requester) (n : Fin 65536) (off : Fin 4096) (size : Fin 9) (v : DWord)
  /-- TAG_BUSY_RETRY (R419): A request refused TAG_BUSY is sent again after 64 CORE cycles. -/
  | tagBusyRetry (tag : Nat)
  /-- STM_PIECE_ISSUE (R446): A stream issues a request of a piece on the light or bulk path once a tag and the run-ahead limit allow it. -/
  | stmPieceIssue (id : Nat)
  /-- GATE_POLL (R452): A stream at a mark reads its gate again every 64 CORE cycles until the mark's conditions hold. -/
  | gatePoll (id : Nat)
  /-- PARTIAL_ARRIVAL (R324): The header read of a partial returns and the partial is added in arrival order or into its tree node. -/
  | partialArrival (id j : Nat)
  /-- VEC_OPERATION (R313): At an operation boundary the vector engine takes the next operation from the queued commands by priority and age. -/
  | vecOperation (core : Fin 512)
  /-- GROUP_SUMMARY (R330): A numerics monitor absorbs a group summary into a slot's way counts and histogram. -/
  | groupSummary (j : Nat)
  /-- SMP_GANG_JOIN (R187): An engine of a gang Pavilion with a free queue entry joins a command and takes a chunk. -/
  | smpGangJoin (id : Nat) (p : Fin 16) (e : Fin 2)
  /-- HOME_APPLIED (R363): A home unit finishes every row and move of a step, and its bank becomes the committed update set. -/
  | homeApplied (u : Fin 20)
  /-- MODULE_STEP_APPLIED (R363): A_m reaches the step, bits 62 and 63 are set, waiting gathers are released and Hedge slots go STALE. -/
  | moduleStepApplied
  /-- APPLY_START (R362): A home begins applying the step's rows once its buddy has confirmed the COMMIT journal record. -/
  | applyStart (u : Fin 20)
  /-- APPLY_RESUME (R362): An apply interrupted by a reset resumes at its cursor after RESET_DONE. -/
  | applyResume (u : Fin 20)
  /-- STAGED_UPDATE_RELEASE (R641): An update held by its sender for want of a stage bank is sent once a bank is freed. -/
  | stagedUpdateRelease (tag : Nat)
  /-- HDG_GRANT (R305): Hedge gives a grant to the waiting request of highest priority, oldest first. -/
  | hdgGrant (p : Fin 16)
  /-- HDG_GRANT_SPLIT (R305): A Hedge grant reaches its length, and the leftover work is queued again. -/
  | hdgGrantSplit (p : Fin 16)
  /-- SEL_GRANT_SPLIT (R494): A selection grant reaches its length, and the command resumes later. -/
  | selGrantSplit (p : Fin 16)
  /-- MERGE_GRANT_SPLIT (R348): A merge-unit grant reaches MERGE_GRANT contributions and the next requester is served. -/
  | mergeGrantSplit (p : Fin 16)
  /-- PATROL_SCRUB (R396): Patrol scrub reads and corrects the next atom, poisoning it if it is uncorrectable. -/
  | patrolScrub (a : Nat) (errs : Fin 3) (last : Bool)
  /-- RETIRE_COPY_DONE (R397): The copy of a retiring channel or frame ends, and reads switch to the spare. -/
  | retireCopyDone (k : Nat)
  /-- ZEROING_DONE (R402): A near controller finishes writing zeros with valid check symbols across its channel. -/
  | zeroingDone (p : Fin 16) (c : Fin 64)
  /-- PIN_LOAD (R390): An Orangery loads the lines of a pinned range in the background. -/
  | pinLoad (o : Fin 4) (l : Nat)
  /-- DIRTY_WRITEBACK (R400): Dirty cache lines kept through a channel-group reset are written back after RESET_DONE. -/
  | dirtyWriteback (o : Fin 4) (l : Nat)
  /-- CHANNEL_GROUP_RESET (R400): An Orangery channel group answers FENCED, keeps its DRAM in self-refresh and advances its epoch. -/
  | channelGroupReset (o : Fin 4) (g : Fin 4)
  /-- CORE_RESET (R437): A core keeps its scratchpad, empties its tags, fences its requests and advances its epoch. -/
  | coreReset (c : Fin 512)
  /-- PAVILION_RESET (R631): Every core and slot of a Pavilion is reset, its commands fault and its merge windows are discarded. -/
  | pavilionReset (p : Fin 16)
  /-- BLOCK_PAGE_RESET (R629): A block's commands in service and queued fault with DOMAIN_RESET. -/
  | blockPageReset (n : Fin 65536)
  /-- RESET_DONE (R589): A requester receives a domain's RESET_DONE and may retry its fenced reads. -/
  | resetDone (d : DomRef)
  /-- READ_RETRY (R593): A fenced read is issued again on its retry schedule, or faults with RETRY_EXHAUSTED. -/
  | readRetry (r : RetryRef)
  /-- REQUEST_TIMEOUT (R586): A request unanswered for 1 ms completes FENCED and is counted as an occurrence against its path. -/
  | requestTimeout (tag : Nat)
  /-- HANG_DETECT (R583): A unit with queued work that makes no progress for 10 ms is reset. -/
  | hangDetect (d : DomRef) (again : Bool)
  /-- INTERNAL_STATE_ERROR (R583): A parity or lock-step error in control state resets its domain. -/
  | internalStateError (d : DomRef) (again : Bool)
  /-- GATEHOUSE_TAKEOVER (R600): The standby Gatehouse pair takes over when the active pair miscompares, fails or is silent for 20 µs. -/
  | gatehouseTakeover
  /-- DROOP (R612): A supply droop stretches the Pavilion's CORE cycles while it lasts. -/
  | droop (p : Fin 16) (n : Fin 1025)
  /-- THERMAL_HOT (R622): A die at HOT is forced to ÷8 with high duty, or an Orangery throttles, until it cools. -/
  | thermalHot (die : Fin 20)
  /-- THERMAL_TRIP (R622): A die at TRIP causes a protective shutdown. -/
  | thermalTrip (die : Fin 20)
  /-- ELECTRICAL_OVERLOAD (R622): Excess input power or a rail current limit slows every Pavilion every 20 µs. -/
  | electricalOverload
  /-- INPUT_VOLTAGE_FAULT (R673): An input feed outside 40–60 V for 1 ms causes a protective shutdown. -/
  | inputVoltageFault
  /-- THERMAL_LOOP_PERIOD (R624): Each 1 ms the thermal loop slows or throttles hot dies and releases cool ones. -/
  | thermalLoopPeriod (temps : BitVec 160)
  /-- POWER_LOOP_PERIOD (R625): Each 1 ms the power loop adjusts dividers and duty against the power cap. -/
  | powerLoopPeriod (watts : BitVec 13) (dv : BitVec 10) (pw : BitVec 256)
  /-- AUTO_HOLD (R615): A Pavilion idle for IDLE_HOLD µs enters Hold. -/
  | autoHold (p : Fin 16)
  /-- PAVILION_WAKE (R617): A request or commit reaching a Pavilion in Hold or Nap wakes it, then is served. -/
  | pavilionWake (p : Fin 16)
  /-- MODULE_WAKE (R619): A wake source brings the module out of Hold, Nap, Rest or Dormant. -/
  | moduleWake (w : Wake) (b : Boot)
  /-- DUTY_WINDOW (R627): A 1,024-cycle window begins, held or open according to the Pavilion's duty. -/
  | dutyWindow (p : Fin 16)
  /-- DIVIDER_CHANGE (R610): A new CORE divider takes effect at the next common root edge. -/
  | dividerChange (p : Fin 16)
  /-- PLL_LOCK_LOSS (R611): A root PLL loses lock, gates its outputs and its die is reset. -/
  | pllLockLoss (die : Fin 20)
  /-- PLL_RELOCK (R611): A root PLL relocks and its die resumes, or an Orangery is fenced after 1 ms. -/
  | pllRelock (die : Fin 20) (ok : Bool)
  /-- REFERENCE_LOSS (R611): The 100 MHz reference is lost and the PLLs hold frequency. -/
  | referenceLoss
  /-- REFERENCE_HOLDOVER_EXPIRY (R611): The reference has not returned after 10 ms and the module shuts down. -/
  | referenceHoldoverExpiry
  /-- POWER_ON (R634): Applied power runs the start-up sequence through to MOD_READY. -/
  | powerOn (b : Boot)
  /-- PERST (R634): PERST# resets the module, or wakes it from Rest, Dormant or TRIPPED. -/
  | perst (b : Boot)
  /-- SMBUS_COMMAND (R579): An SMBus command reads module state, or wakes the module. -/
  | smbusCommand (c : Smbus) (b : Boot)
  /-- MGMT_DATAGRAM (R579): A management datagram carries a manager message, a register read, or a register write if enabled. -/
  | mgmtDatagram (d : Datagram)
  /-- NOISE_BLOCK (R482): A block of 1,024 samples that passed the health tests is conditioned into the pool. -/
  | noiseBlock (p : Fin 16)
  /-- HEALTH_TEST_FAIL (R483): A noise health-test failure empties the pool and sets FAILED or FENCED. -/
  | healthTestFail (p : Fin 16) (apt : Bool) (expired : Nat)
  /-- NOISE_RESTART (R483): 1 ms after a failure the noise source runs its start-up test again. -/
  | noiseRestart (p : Fin 16)
  /-- STARTUP_TEST_PASS (R481): The noise source's start-up test over 4,096 samples passes and STATE becomes OK. -/
  | startupTestPass (p : Fin 16)
  /-- COMMAND_COMPLETION (R79): A command that took time completes: its thread may issue again, its scoreboard entry is released and its completion target is set. -/
  | commandCompletion (id : Nat)
  /-- UNDEFINED_OPCODE (R67): A command with an undefined opcode, or one that is not permitted where it stands, faults with ILLEGAL_OPCODE. -/
  | undefinedOpcode (iss : Issuer) (w : Cmd)
  /-- CONFIGURATION_REQUEST (R565): A PCIe configuration request is answered, with Retry Status until the function is ready, and it may change SR-IOV VF Enable and NumVFs. -/
  | configurationRequest (port : Fin 2) (f : Fin 8) (w : Option (Bool × BitVec 16))
  /-- MSIX_TABLE_WRITE (R573): A host write to an MSI-X table or PBA entry masks or unmasks a vector, and unmasking a pending vector sends its interrupt. -/
  | msixTableWrite (f : Fin 8) (v : Fin 256) (word : Fin 4) (x : Word)
  /-- PCIE_LINK_CHANGE (R581): A PCIe port's link comes up, goes down or retrains, and HOST_STATE updates its up, flit, width and rate fields. -/
  | pcieLinkChange (port : Fin 2) (up : Bool) (flit : Bool) (width : Fin 5) (rate : Fin 6)
  /-- HOT_RELEASE (R622): A die at HOT cools below 100 °C and its forced divider, duty or Orangery throttle is released. -/
  | hotRelease (die : Fin 20)
  /-- ELECTRICAL_PROTECTION_PERIOD (R622): Every 20 µs while an electrical overload holds, every Pavilion slows one more step, and once it clears one step is released every 1 ms. -/
  | electricalProtectionPeriod (still : Bool)
  /-- REFERENCE_RESTORED (R611): The 100 MHz reference returns within the 10 ms holdover, the PLLs lock to it again and the pending shutdown is cancelled. -/
  | referenceRestored
  /-- SUPPLY_REMOVED (R674): Both the 48 V and the AUX inputs are lost, the Gatehouse stops, and every content not held in flash is lost. -/
  | supplyRemoved
  /-- GATEHOUSE_PAIR_FAILURE (R600): A Gatehouse pair fails when no takeover is possible: the standby pair is retired and the module reports DEGRADED, or the last pair is lost and MOD_READY is withdrawn. -/
  | gatehousePairFailure
deriving DecidableEq, Repr

end Sys2Proof
end

