-- ==== Sys2Proof/WellFormed.lean ====
section
/-!
DEFINITION. Well-formed commands. The types of the operands bound every number and field; what is left to check is that the
words of UNDEFINED_OPCODE spell an opcode that is undefined, or not permitted where it stands (R67, R69).
-/
namespace Sys2Proof

/-- The opcodes of R67. -/
def definedOpcode (op : Nat) : Bool :=
  decide (op ≤ 7) || decide (0x20 ≤ op ∧ op ≤ 0x26) || decide (0x40 ≤ op ∧ op ≤ 0x43) || decide (0x50 ≤ op ∧ op ≤ 0x56) ||
  decide (0x60 ≤ op ∧ op ≤ 0x66) || decide (0x70 ≤ op ∧ op ≤ 0x75) || decide (0x80 ≤ op ∧ op ≤ 0x83) || decide (0x90 ≤ op ∧ op ≤ 0x94) ||
  decide (0x98 ≤ op ∧ op ≤ 0x9A) || decide (0xA0 ≤ op ∧ op ≤ 0xA7)

/-- Is the opcode permitted where it stands (R69)? -/
def permittedAt (op : Nat) (i : Issuer) : Bool :=
  definedOpcode op &&
  (match i with
   | .queue _ => op == 0 || op == 0xA0 || op == 0xA1 || op == 0xA4 || op == 0xA5 || op == 0xA7
   | .thread _ => op != 0xA0 && op != 0xA5)

/-- Is the command one of the table's, with operands that its row admits? -/
def Instr.wf (i : Instr) : Bool :=
  match i with
  | .undefinedOpcode iss w => !permittedAt (w.toNat % 256) iss
  | _ => true

end Sys2Proof
end

