-- ==== Sys2Proof/Decode.lean ====
section
/-!
DEFINITION. The block has no instruction decoder: spec/opcode_table.json gives none of its rows any bits, so no word spells a
command. (Bilver commands are decoded by the rows of the table, whose operands are their words: Machine/Operands.lean.)
-/
namespace Sys2Proof

/-- The command that a word spells by the table's bits: the table gives no row any bits. -/
def decodeTableWord (_nbits _w : Nat) : Option Instr := none

end Sys2Proof
end

