-- ==== Sys2Proof/Machine/RegMap.lean ====
section
/-!
DEFINITION. The register maps of every page class (R138, R190, R226, R264, R307, R309, R337, R339, R372, R403, R405, R438,
R440, R464, R496, R498, R526, R529, R561, R580, R655 to R665), as rows, and the page classes of R645.
-/
namespace Sys2Proof.Machine

/-- Access and storage of a register (R7): a saturating counter of 32 or 64 bits, plain, shadowed, write-only or computed. -/
inductive RKind where
  | cnt32 | cnt64 | rw | rws | wo | ro
deriving DecidableEq, Repr

/-- Which selector a register is shown through: none, HIF.Q_SEL, HIF.CQ_SEL, ROW.TBL_SEL or ROW.PRM_SEL. -/
inductive RBank where
  | none | q | cq | tbl | prm
deriving DecidableEq, Repr

/-- One row of a map: `n` registers `step` bytes apart from `off`, the bits a write may set, the Reset value, and the
instances that hold it (0 all, 1 instance 0 only, 2 even instances). -/
structure RegRow where
  off : Nat
  kind : RKind
  mask : Nat := 0
  reset : Nat := 0
  n : Nat := 1
  step : Nat := 4
  bank : RBank := .none
  only : Nat := 0
deriving DecidableEq, Repr

/-- 64-bit counters at these offsets. -/
def c64 (l : List Nat) : List RegRow := l.map (fun o => { off := o, kind := .cnt64 })
/-- 32-bit counters at these offsets. -/
def c32 (l : List Nat) : List RegRow := l.map (fun o => { off := o, kind := .cnt32 })
/-- Registers computed from the state of the units. -/
def ros (l : List Nat) : List RegRow := l.map (fun o => { off := o, kind := .ro })

/-- Page class codes of R645. -/
def clsPAV : Nat := 1
def clsCORE : Nat := 2
def clsDSP : Nat := 3
def clsDNS : Nat := 4
def clsSPS : Nat := 5
def clsHDG : Nat := 6
def clsVEC : Nat := 7
def clsNUM : Nat := 8
def clsSMP : Nat := 9
def clsROW : Nat := 10
def clsSTM : Nat := 11
def clsRNG : Nat := 12
def clsSEL : Nat := 13
def clsNEAR : Nat := 14
def clsFAR : Nat := 15
def clsPROM : Nat := 16
def clsLNK : Nat := 17
def clsPE : Nat := 18
def clsCOL : Nat := 19
def clsGH : Nat := 20
def clsPWR : Nat := 21
def clsCLK : Nat := 22
def clsHIF : Nat := 23
def clsBLV : Nat := 24

/-- Page number n = (class << 8) | instance (R643). -/
def pageNo (cls inst : Nat) : Nat := cls * 256 + inst
/-- Class of a page number. -/
def pageCls (n : Nat) : Nat := n / 256
/-- Instance of a page number. -/
def pageInst (n : Nat) : Nat := n % 256

/-- Implemented instances of a class (R645); 0 for a reserved class. -/
def clsCount (c : Nat) : Nat :=
  if 1 ≤ c ∧ c ≤ 14 then 16
  else match c with
    | 15 => 4 | 16 => 1 | 17 => 64 | 18 => 8 | 19 => 4 | 20 => 2 | 21 => 1 | 22 => 1 | 23 => 1 | 24 => 1
    | _ => 0

/-- Is the page implemented (R644, R645)? -/
def pageImpl (n : Nat) : Bool := decide (pageInst n < clsCount (pageCls n))

/-- The implemented pages in ascending number (R665: 311 of them). -/
def allPages : List Nat :=
  (List.range 25).flatMap (fun c => (List.range (clsCount c)).map (fun i => pageNo c i))

def mapPAV : List RegRow := c32 [0x40, 0x44, 0x48] ++ ros [0x100, 0x104] ++ [{ off := 0x108, kind := .wo, mask := 1 }]
def mapCORE : List RegRow :=
  c64 [0x40, 0x48, 0x50, 0x58, 0x60] ++ c32 [0x68, 0x6C, 0x70, 0x74, 0x78, 0x7C, 0x80] ++
  [{ off := 0x100, kind := .rw, mask := 0x1F }, { off := 0x108, kind := .rw, mask := 0xFFFF }] ++ ros [0x104, 0x10C] ++
  [{ off := 0x110, kind := .wo, mask := 1 }, { off := 0x400, kind := .rws, mask := 0x3FF, reset := 0x20 }]
def mapDSP : List RegRow :=
  ros [0x40, 0x44, 0x48, 0x4C, 0x50, 0x54, 0x58, 0x5C, 0x60, 0x64, 0x68, 0x6C, 0x70, 0x74] ++
  c32 [0x80, 0x84, 0x88, 0x8C, 0x90, 0x94, 0x98, 0x9C, 0xA0, 0xA4, 0xA8, 0xAC, 0xB0] ++
  [{ off := 0x100, kind := .rws, mask := 0x1FFFF, reset := 0x1000 }, { off := 0x104, kind := .rws, mask := 0xFF01, reset := 0x1401 },
   { off := 0x108, kind := .rws, mask := 0xFFFF, reset := 0x32 }, { off := 0x110, kind := .rw, mask := 0xFFF }] ++
  ros [0x114, 0x118, 0x11C, 0x120, 0x124, 0x128, 0x12C, 0x130, 0x138, 0x148, 0x14C] ++
  [{ off := 0x134, kind := .rw, mask := 0xFFF }, { off := 0x13C, kind := .rw, mask := 0x3FFFF },
   { off := 0x140, kind := .wo, mask := 3 }, { off := 0x144, kind := .wo, mask := 0xFFFFF },
   { off := 0x400, kind := .rws, mask := 0xF0000000 }, { off := 0x404, kind := .rws, mask := 0xFFF },
   { off := 0x408, kind := .rws, mask := 1 }, { off := 0x40C, kind := .rws, mask := 0x7F, reset := 0x40 }]
def mapDNS : List RegRow :=
  c64 [0x40, 0x48, 0x50, 0x58] ++ c32 [0x60, 0x64, 0x68, 0x6C, 0x70, 0x74, 0x78] ++
  [{ off := 0x100, kind := .rw, mask := 0x1F }] ++ ros [0x104, 0x108, 0x10C, 0x110, 0x114] ++ [{ off := 0x118, kind := .wo, mask := 1 }]
def mapSPS : List RegRow :=
  c64 [0x40, 0x48, 0x50, 0x58, 0x60] ++ c32 [0x68, 0x6C, 0x70, 0x74] ++
  [{ off := 0x100, kind := .rw, mask := 0x1F }, { off := 0x108, kind := .wo, mask := 1 },
   { off := 0x10C, kind := .rws, mask := 0xFFFFFFFF, reset := 0x0610383B }] ++ ros [0x104]
def mapHDG : List RegRow :=
  c64 [0x40, 0x48, 0x50, 0x58] ++ c32 [0x60, 0x64, 0x68, 0x6C, 0x70, 0x74, 0x78] ++
  [{ off := 0x100, kind := .rw, mask := 0xF }] ++ ros [0x104, 0x108, 0x10C] ++
  [{ off := 0x110, kind := .wo, mask := 1 }, { off := 0x114, kind := .rws, mask := 0xFFF, reset := 0x800 }]
def mapVEC : List RegRow :=
  c64 [0x40, 0x48, 0x50, 0x58] ++ c32 [0x60, 0x64, 0x68, 0x6C, 0x70, 0x74] ++
  [{ off := 0x100, kind := .rw, mask := 0x1F }] ++ ros [0x104] ++ [{ off := 0x108, kind := .wo, mask := 1 }]
def mapNUM : List RegRow :=
  c64 [0x40, 0x48] ++ c32 [0x50, 0x54] ++ [{ off := 0x100, kind := .rw, mask := 0x7FFF }] ++
  ros [0x104, 0x108, 0x10C, 0x110, 0x114, 0x118, 0x11C, 0x120, 0x124, 0x128] ++ [{ off := 0x12C, kind := .wo, mask := 1 }]

/-- One graph descriptor of the SMP page: the ten register pairs or singles from offset 0x200 + 0x50 g (R190). -/
def mapGD (g : Nat) : List RegRow :=
  let b := 0x200 + 0x50 * g
  [{ off := b, kind := .rws, mask := 0xFFFFF000, n := 5, step := 8 }, { off := b + 4, kind := .rws, mask := 0xFFF, n := 5, step := 8 },
   { off := b + 0x28, kind := .rws, mask := 0xFFFFFFFF, n := 4, step := 8 }, { off := b + 0x2C, kind := .rws, mask := 0xFF },
   { off := b + 0x34, kind := .rws, mask := 0xFF }, { off := b + 0x3C, kind := .rws, mask := 0xFFFF },
   { off := b + 0x44, kind := .rws, mask := 0xFF }, { off := b + 0x48, kind := .rws, mask := 0x7FF }]
def mapSMP : List RegRow :=
  c64 [0x40, 0x48, 0x50, 0x58, 0x60, 0x68] ++ c32 [0x70, 0x74, 0x78, 0x7C, 0x80, 0x84, 0x88, 0x8C, 0x90, 0x94, 0x98] ++
  ros [0x100, 0x108] ++ [{ off := 0x104, kind := .wo, mask := 1 }] ++ mapGD 0 ++ mapGD 1 ++ mapGD 2 ++ mapGD 3 ++
  [{ off := 0x400, kind := .rws, mask := 0x3FFF, reset := 0x1000 }, { off := 0x404, kind := .rws, mask := 0x7FF, reset := 0x40 }]
def mapROW : List RegRow :=
  c64 [0x40, 0x48, 0x50, 0x58, 0x60] ++ c32 [0x68, 0x6C, 0x70, 0x74, 0x78, 0x7C, 0x80, 0x84, 0x88, 0x8C, 0x90, 0x94, 0x98] ++
  c64 [0xA0, 0xA8, 0xB0, 0xB8, 0xC0, 0xC8] ++ c32 [0xD0, 0xD4, 0xD8, 0xDC, 0xE0, 0xE4, 0xE8, 0xEC, 0xF0, 0xF4] ++
  ros [0x100, 0x10C, 0x130, 0x134, 0x200, 0x204, 0x234] ++
  [{ off := 0x104, kind := .wo, mask := 3 }, { off := 0x108, kind := .rws, mask := 0x3F, reset := 0x20 },
   { off := 0x110, kind := .rw, mask := 0xFF },
   { off := 0x114, kind := .rws, mask := 0xFFFFFFFF, bank := .tbl }, { off := 0x118, kind := .rws, mask := 0xFF, bank := .tbl },
   { off := 0x11C, kind := .rws, mask := 0xFFFFFFFF, bank := .tbl }, { off := 0x120, kind := .rws, mask := 0xFF, bank := .tbl },
   { off := 0x124, kind := .rws, mask := 0x7FFFFF, bank := .tbl }, { off := 0x128, kind := .rws, mask := 0xFFFFF000, bank := .tbl },
   { off := 0x12C, kind := .rws, mask := 0xF, bank := .tbl },
   { off := 0x208, kind := .rws, mask := 7, bank := .tbl }, { off := 0x20C, kind := .rws, mask := 0xFFFFFFFF, n := 6, bank := .tbl },
   { off := 0x224, kind := .rws, mask := 0xFFFFFFC0, bank := .tbl }, { off := 0x228, kind := .rws, mask := 0xFFF, bank := .tbl },
   { off := 0x22C, kind := .rws, mask := 0xFFFFFFFF, n := 2, bank := .tbl },
   { off := 0x280, kind := .rw, mask := 0x3F, only := 1 }, { off := 0x284, kind := .rws, mask := 0x1F, bank := .prm, only := 1 },
   { off := 0x288, kind := .rws, mask := 0xFFFFFFFF, bank := .prm, only := 1 }, { off := 0x28C, kind := .rws, mask := 0xF, bank := .prm, only := 1 },
   { off := 0x290, kind := .rws, mask := 0xFFFFFFC0, n := 3, step := 8, bank := .prm, only := 1 },
   { off := 0x294, kind := .rws, mask := 0xFFF, n := 3, step := 8, bank := .prm, only := 1 },
   { off := 0x2A8, kind := .rws, mask := 0xFFFFFFFF, n := 5, bank := .prm, only := 1 },
   { off := 0x2BC, kind := .ro, n := 6, only := 1 },
   { off := 0x400, kind := .rws, mask := 0x7FFF, reset := 0x2000 }, { off := 0x404, kind := .rws, mask := 0xFF000000 },
   { off := 0x408, kind := .rws, mask := 0xFFF }, { off := 0x800, kind := .rws, mask := 0x80000000 }, { off := 0x804, kind := .rws, mask := 0xFFF },
   { off := 0x808, kind := .rws, mask := 0xC0000000 }, { off := 0x80C, kind := .rws, mask := 0xFFF },
   { off := 0x810, kind := .rws, mask := 0x1FFFF, reset := 0x4000 }, { off := 0x840, kind := .rws, mask := 0, only := 1 },
   { off := 0x844, kind := .rws, mask := 0xFFF, only := 1 }, { off := 0x848, kind := .rws, mask := 0, only := 1 },
   { off := 0x84C, kind := .rws, mask := 0xFFF, only := 1 }, { off := 0x850, kind := .rws, mask := 0x1F, only := 1 }]
def mapSTM : List RegRow :=
  c64 [0x40, 0x48, 0x50, 0x58] ++ c32 [0x60, 0x64, 0x68, 0x6C, 0x70, 0x74] ++ c64 [0x78] ++ c32 [0x80] ++
  [{ off := 0x100, kind := .rw, mask := 0x1F }] ++ ros [0x104] ++
  [{ off := 0x108, kind := .wo, mask := 1 }, { off := 0x10C, kind := .rws, mask := 0x7FF, reset := 0x100 },
   { off := 0x110, kind := .rws, mask := 0x7F, reset := 0x40 }, { off := 0x400, kind := .rws, mask := 0x3FFFFF, reset := 0x200200 }]
def mapRNG : List RegRow :=
  c64 [0x40, 0x48] ++ c32 [0x50, 0x54, 0x58, 0x5C, 0x60, 0x64] ++ ros [0x100, 0x108, 0x110, 0x114, 0x11C] ++
  [{ off := 0x104, kind := .wo, mask := 1 }, { off := 0x10C, kind := .ro, reset := 0x03390051 }, { off := 0x118, kind := .rw, mask := 0xFF }]
def mapSEL : List RegRow :=
  c64 [0x40, 0x48] ++ c32 [0x50, 0x54, 0x58, 0x5C, 0x60, 0x64, 0x68] ++ ros [0x100] ++
  [{ off := 0x104, kind := .wo, mask := 1 }, { off := 0x108, kind := .rws, mask := 0xFFF, reset := 0x800 }]
def mapNEAR : List RegRow :=
  c64 [0x40, 0x48, 0x50, 0x58] ++ c32 [0x60, 0x64, 0x68, 0x6C, 0x70, 0x74, 0x78] ++
  [{ off := 0x100, kind := .rw, mask := 0x3F }, { off := 0x10C, kind := .wo, mask := 3 },
   { off := 0x110, kind := .rws, mask := 0xFF, reset := 0x18 }] ++ ros [0x104, 0x108, 0x114, 0x118, 0x11C, 0x120] ++
  [{ off := 0x140, kind := .rws, mask := 0x7FFFF, n := 8 }, { off := 0x400, kind := .wo, mask := 0x7F }, { off := 0x404, kind := .rws, mask := 1 }]
def mapFAR : List RegRow :=
  c64 [0x40, 0x48, 0x50, 0x58, 0x60, 0x68] ++
  c32 [0x70, 0x74, 0x78, 0x7C, 0x80, 0x84, 0x88, 0x8C, 0x90, 0x94, 0x98, 0x9C, 0xA0, 0xA4, 0xA8, 0xAC, 0xB0, 0xB4] ++
  [{ off := 0x100, kind := .rw, mask := 0x3F }, { off := 0x108, kind := .wo, mask := 3 },
   { off := 0x10C, kind := .rws, mask := 0xFF, reset := 0x18 }, { off := 0x110, kind := .rws, mask := 3, reset := 1 }] ++
  ros [0x104, 0x114, 0x118, 0x11C, 0x120, 0x124] ++
  [{ off := 0x128, kind := .rws, mask := 0xFF, only := 1 }, { off := 0x130, kind := .rws, mask := 0x3FFFFFFF, n := 16, step := 8 },
   { off := 0x134, kind := .rws, mask := 0x3FFFFFF, n := 16, step := 8 }, { off := 0x1B0, kind := .rws, mask := 0x77F7F, n := 8, only := 1 },
   { off := 0x400, kind := .wo, mask := 0x3FFFFF }, { off := 0x404, kind := .rws, mask := 0xFF, reset := 0x40 },
   { off := 0x408, kind := .rws, mask := 0xF, reset := 8 }]
def mapPROM : List RegRow :=
  ros [0x40, 0x44, 0x48, 0x4C, 0x50, 0x54] ++ c64 [0x58] ++ c32 [0x60, 0x64] ++
  [{ off := 0x100, kind := .rw, mask := 0x1FF }, { off := 0x104, kind := .wo, mask := 1 }, { off := 0x400, kind := .rws, mask := 0x1F, reset := 8 }]
def mapLNK : List RegRow :=
  c64 [0x40, 0x48, 0x50] ++ c32 [0x58, 0x5C, 0x60, 0x64, 0x68, 0x6C, 0x70] ++ ros [0x100, 0x108] ++
  [{ off := 0x104, kind := .wo, mask := 1 }, { off := 0x400, kind := .rws, mask := 3, reset := 3 }]
def mapPE : List RegRow :=
  c64 [0x40, 0x48, 0x50] ++ ros [0x58, 0x5C] ++ c32 [0x60, 0x64, 0x68, 0x6C, 0x70, 0x74, 0x78, 0x7C] ++
  [{ off := 0x100, kind := .rw, mask := 0x1F }, { off := 0x108, kind := .wo, mask := 1 },
   { off := 0x10C, kind := .rws, mask := 0x3F3F, reset := 0x1004 }, { off := 0x110, kind := .rws, mask := 0x7F, reset := 0x10 },
   { off := 0x114, kind := .rws, mask := 0xFFFF, only := 2 }, { off := 0x118, kind := .rws, mask := 0xFFFFFFFF, only := 1 },
   { off := 0x400, kind := .rws, mask := 0xFFFFF, reset := 0x8020 }, { off := 0x404, kind := .rws, mask := 0xFFFFF, reset := 0x10080 },
   { off := 0x408, kind := .rws, mask := 0xFFFFF, reset := 0x100C0, n := 2 }, { off := 0x410, kind := .rws, mask := 0xFFFFF, reset := 0xA108 }] ++
  ros [0x104, 0x11C]
def mapCOL : List RegRow :=
  c64 [0x40, 0x48] ++ c32 [0x50, 0x54, 0x58, 0x5C, 0x60, 0x64] ++ ros [0x100] ++
  [{ off := 0x104, kind := .wo, mask := 1 }, { off := 0x108, kind := .rw, mask := 0xFF, only := 1 }, { off := 0x10C, kind := .ro, n := 2, only := 1 }]
def mapGH0 : List RegRow :=
  c32 [0x40, 0x44, 0x48, 0x4C] ++
  [{ off := 0x100, kind := .ro, reset := 1 }, { off := 0x104, kind := .ro, reset := 0xB1 }, { off := 0x10C, kind := .rws, mask := 0x07FFFFFF, reset := 0x05009190 },
   { off := 0x118, kind := .rws, mask := 0x3FF, reset := 0x64 }, { off := 0x120, kind := .rw, mask := 1 }, { off := 0x124, kind := .wo, mask := 0xFF },
   { off := 0x128, kind := .wo, mask := 1 }, { off := 0x12C, kind := .rw, mask := 0x3F }, { off := 0x134, kind := .rw, mask := 7 },
   { off := 0x138, kind := .ro, n := 12 }] ++ ros [0x108, 0x110, 0x114, 0x11C, 0x130]
def mapGH1 : List RegRow :=
  c64 [0x40] ++ c32 [0x48, 0x4C, 0x50] ++
  [{ off := 0x104, kind := .rw, mask := 0xFFF }, { off := 0x108, kind := .ro, n := 4 }, { off := 0x11C, kind := .wo, mask := 0x1F }, { off := 0x120, kind := .wo, mask := 1 },
   { off := 0x400, kind := .rws, mask := 3, reset := 3 }, { off := 0x404, kind := .rws, mask := 3, reset := 3 },
   { off := 0x408, kind := .rws, mask := 0xFF, reset := 0x18 }, { off := 0x40C, kind := .rws, mask := 0x7F, reset := 0x40 }] ++ ros [0x100, 0x118]
def mapPWR : List RegRow :=
  c64 [0x40, 0x48] ++ c32 [0x50, 0x54, 0x58, 0x5C, 0x60, 0x64] ++ ros [0x100, 0x104, 0x110, 0x120, 0x124] ++
  [{ off := 0x108, kind := .wo, mask := 0x3F }, { off := 0x10C, kind := .wo, mask := 7 }, { off := 0x114, kind := .rws, mask := 0xFFFF, reset := 0x32 },
   { off := 0x118, kind := .rws, mask := 0x7F, reset := 0x5F }, { off := 0x11C, kind := .rw, mask := 0x1F }, { off := 0x128, kind := .wo, mask := 1 }]
def mapCLK : List RegRow :=
  c32 [0x40, 0x44] ++ ros [0x100, 0x104] ++ [{ off := 0x108, kind := .wo, mask := 1 }, { off := 0x110, kind := .rws, mask := 0x1F, n := 16 }]
def mapHIF : List RegRow :=
  c64 [0x40, 0x48, 0x50, 0x58] ++ c32 [0x60, 0x64, 0x68, 0x6C, 0x70, 0x74, 0x78] ++ ros [0x100, 0x104, 0x150, 0x168, 0x180, 0x188] ++
  [{ off := 0x108, kind := .rw, mask := 0xFF }, { off := 0x10C, kind := .rws, mask := 0x3FFFFF, bank := .q },
   { off := 0x110, kind := .rws, mask := 0xFFFFF000, bank := .q }, { off := 0x114, kind := .rws, mask := 0xFFF, bank := .q },
   { off := 0x118, kind := .rws, mask := 0xFFFF, bank := .q }, { off := 0x11C, kind := .rws, mask := 0x1FFFFFF, bank := .q },
   { off := 0x120, kind := .rws, mask := 0xFFFFFFFF, n := 4, step := 12, bank := .q },
   { off := 0x124, kind := .rws, mask := 0xFFFFFFFF, n := 4, step := 12, bank := .q },
   { off := 0x128, kind := .rws, mask := 0x0FFFFFFF, n := 4, step := 12, bank := .q },
   { off := 0x154, kind := .rw, mask := 0xFF }, { off := 0x158, kind := .rws, mask := 0x7FFFF, bank := .cq },
   { off := 0x15C, kind := .rws, mask := 0xFFFFF000, bank := .cq }, { off := 0x160, kind := .rws, mask := 0xFFF, bank := .cq },
   { off := 0x164, kind := .rws, mask := 0xFFFF, reset := 1, bank := .cq }, { off := 0x16C, kind := .wo, mask := 1 },
   { off := 0x170, kind := .rws, mask := 0xFF0 }, { off := 0x174, kind := .rw, mask := 0xFFFFF000 }, { off := 0x178, kind := .rw, mask := 0xFFF },
   { off := 0x17C, kind := .wo, mask := 7 }, { off := 0x184, kind := .wo, mask := 0x1CFFFFF },
   { off := 0x400, kind := .rws, mask := 0xFF800000, n := 2, step := 8 }, { off := 0x404, kind := .rws, mask := 0xFFF, n := 2, step := 8 }]
def mapBLV : List RegRow :=
  c64 [0x40, 0x48, 0x50, 0x58, 0x60] ++ c32 [0x68, 0x6C, 0x70] ++
  [{ off := 0x100, kind := .rws, mask := 0xFFFFF000 }, { off := 0x104, kind := .rws, mask := 0xFFF }, { off := 0x108, kind := .rws, mask := 0xFFFFF },
   { off := 0x10C, kind := .wo, mask := 3 }, { off := 0x114, kind := .wo, mask := 1 }] ++ ros [0x110]

/-- The rows of a page above its common header. -/
def pageMap (n : Nat) : List RegRow :=
  match pageCls n with
  | 1 => mapPAV | 2 => mapCORE | 3 => mapDSP | 4 => mapDNS | 5 => mapSPS | 6 => mapHDG | 7 => mapVEC | 8 => mapNUM | 9 => mapSMP
  | 10 => mapROW | 11 => mapSTM | 12 => mapRNG | 13 => mapSEL | 14 => mapNEAR | 15 => mapFAR | 16 => mapPROM | 17 => mapLNK | 18 => mapPE
  | 19 => mapCOL | 20 => (if pageInst n = 0 then mapGH0 else mapGH1) | 21 => mapPWR | 22 => mapCLK | 23 => mapHIF | 24 => mapBLV
  | _ => []

/-- Does the row hold the register at this offset of this instance? A 64-bit counter also holds its _HI half. -/
def RegRow.covers (r : RegRow) (inst off : Nat) : Bool :=
  (match r.only with | 1 => inst == 0 | 2 => inst % 2 == 0 | _ => true) &&
  (if r.kind = .cnt64 then off == r.off || off == r.off + 4
   else decide (r.off ≤ off ∧ off < r.off + r.n * r.step ∧ (off - r.off) % r.step = 0))

/-- The row of a register, if the page maps one there. -/
def regRow (page off : Nat) : Option RegRow := (pageMap page).find? (fun r => r.covers (pageInst page) off)

/-- Does the page have shadowed fields (PAGE_CAPS.SHADOWED, R647)? -/
def pageShadowed (n : Nat) : Bool := (pageMap n).any (fun r => r.kind == .rws)
/-- Does the page have expert registers (PAGE_CAPS.EXPERT)? -/
def pageExpert (n : Nat) : Bool := (pageMap n).any (fun r => decide (r.off ≥ 0x400))

/-- Does SOFT_RESET of the page reset a domain (PAGE_CAPS.DOMAIN, R629)? The GH, PWR, CLK, HIF, BLV and PROM pages are none (R656, R629). -/
def pageDomain (n : Nat) : Bool := decide (pageCls n ≤ 15 ∨ pageCls n = clsLNK ∨ pageCls n = clsPE ∨ pageCls n = clsCOL)
/-- FENCEABLE (R687). -/
def pageFenceable (n : Nat) : Bool :=
  [clsPAV, clsCORE, clsSMP, clsHDG, clsSEL, clsRNG, clsFAR, clsLNK].contains (pageCls n)
/-- CTRL.ENABLE is read-only 1 on GH, PWR, CLK, HIF and BLV pages (R647). -/
def pageAlwaysEnabled (n : Nat) : Bool := [clsGH, clsPWR, clsCLK, clsHIF, clsBLV].contains (pageCls n)

/-- ERR_INJECT kinds the page supports (R602): bit k − 1 for kind k. -/
def pageInject (n : Nat) : Nat :=
  let c := pageCls n
  (if c = clsNEAR ∨ c = clsFAR ∨ c = clsCORE then 3 else 0) +
  (if c = clsPE ∨ c = clsLNK ∨ c = clsROW ∨ c = clsSTM then 4 else 0) +
  (if pageDomain n then 24 else 0) +
  (if c = clsNEAR ∨ c = clsFAR ∨ c = clsCORE ∨ c = clsLNK then 32 else 0)

/-- PAGE_CAPS (R647). -/
def pageCaps (n : Nat) : Nat :=
  b2n (pageShadowed n) + 2 * b2n (pageExpert n) + 4 * b2n (pageDomain n) + 8 * b2n (pageFenceable n) + 16 * pageInject n

/-- Counters in CNT_CLEAR bit 0's range (and bit 1's where the page has two): first and last offset. -/
def clearRange (cls bit : Nat) : Option (Nat × Nat) :=
  match cls, bit with
  | 3, 1 => some (0x80, 0xB0) | 3, _ => none
  | 10, 0 => some (0x40, 0x98) | 10, _ => some (0xA0, 0xFC)
  | _, 0 => some (0x40, 0xFC)
  | _, _ => none

end Sys2Proof.Machine
end

