-- ==== Sys2Proof/Config.lean ====
section
/-!
DEFINITION. What the spec leaves open: free values, as constants with no body, and the functions whose
results the spec bounds but does not give. Nothing in Lean can evaluate them, so a claim holds whatever they are.
-/
namespace Sys2Proof.Config

/-- The functions that the spec computes by "a fixed algorithm" and bounds in ulps, without giving its bits
(R163, R317, R318, R320, R360, R474). -/
inductive Approx where
  | lg | ln | cosTurn | exp | tanh | sigmoid | gelu | silu | rsqrt | pow
deriving DecidableEq, Repr

/-- How far a fixed algorithm's result lies from the correctly rounded one, for FP32 operands: a free function of them, which
`Machine.near` reduces to the bound that the rule states. -/
opaque approx : Approx → BitVec 32 → BitVec 32 → BitVec 32

/-- The sign of the larger of two FP32 zeros of different sign, by the operands (R317, R318, R328). -/
opaque maxZero : Nat → Nat → Bool

/-- A fresh free value for each count of the state's `fresh` counter (undefined results, undefined bytes). -/
opaque freeValue : Nat → BitVec 64

/-- The random bits of the writeback of a dense region's element, for which no rule gives a seed: by the step, the region and the element
(R328, R366). -/
opaque regionBits : Nat → Nat → Nat → BitVec 24

/-- A rescaled integer, which no rule gives: by the tile's container and the factor (R257, R328). -/
opaque rescaledInt : Nat → Nat → BitVec 32

/-- The bin of the difference of two infinities, by their FP32 bits (R487, R493). -/
opaque infBin : Nat → Nat → Nat

/-- A byte of a Trellis that its layout leaves unnamed, by what the Trellis is made from and the byte's offset (R164, R179). -/
opaque trellisGap : List Nat → Nat → BitVec 8

/-- The position that a binary search over keys out of order returns, by the keys that it knows and the key sought (R156). -/
opaque unsortedPos : List Nat → Nat → Nat

/-- A byte of a memory range whose contents were lost, by the loss and the address: undefined (R381, R402). -/
opaque lostByte : Nat → Nat → BitVec 8

/-- The conditioned output of the true noise source for the n-th block (R482): not determined by any state. -/
opaque noiseBlock : Nat → BitVec 256

/-- What the carrier EEPROM holds of the single module: its serial number, MAC address and date code (R683). -/
opaque eepromByte : Nat → BitVec 8

end Sys2Proof.Config
end

