-- ==== Sys2Proof/Machine/Map.lean ====
section
/-!
DEFINITION. Sparse tables as plain data: a list of (key, value) pairs with strictly rising keys and no
entry equal to what an unlisted key reads as. Memory, the register store and every table of units of the
machine are held in this one form, so equal tables are equal data.
-/
namespace Sys2Proof.Machine

/-- A table from Nat keys to values; its canonical form is `Tab.wf`. -/
abbrev Tab (α : Type) := List (Nat × α)

/-- The value at `k`, `d` where no entry is listed. -/
def Tab.get {α : Type} (d : α) : Tab α → Nat → α
  | [], _ => d
  | (k', v) :: rest, k => if k' = k then v else Tab.get d rest k

/-- The table without an entry at `k`. -/
def Tab.erase {α : Type} : Tab α → Nat → Tab α
  | [], _ => []
  | (k', v) :: rest, k => if k' = k then Tab.erase rest k else (k', v) :: Tab.erase rest k

/-- The table with an entry `v` at `k`. -/
def Tab.insert {α : Type} : Tab α → Nat → α → Tab α
  | [], k, v => [(k, v)]
  | (k', v') :: rest, k, v =>
    if k' = k then (k, v) :: rest
    else if k < k' then (k, v) :: (k', v') :: rest
    else (k', v') :: Tab.insert rest k v

/-- Write `v` at `k`: writing what an unlisted key reads as removes the entry. -/
def Tab.put {α : Type} [DecidableEq α] (d : α) (m : Tab α) (k : Nat) (v : α) : Tab α :=
  if v = d then Tab.erase m k else Tab.insert m k v

/-- Keys strictly above `lo`, rising. -/
def Tab.rising {α : Type} : Option Nat → Tab α → Bool
  | _, [] => true
  | lo, (k, _) :: rest =>
    (match lo with | none => true | some l => decide (l < k)) && Tab.rising (some k) rest

/-- The canonical form: keys strictly rising, no entry equal to the default. -/
def Tab.wf {α : Type} [DecidableEq α] (d : α) (m : Tab α) : Bool :=
  Tab.rising none m && m.all (fun e => decide (e.2 ≠ d))

/-- Apply `f` to the value at `k`. -/
def Tab.upd {α : Type} [DecidableEq α] (d : α) (m : Tab α) (k : Nat) (f : α → α) : Tab α :=
  Tab.put d m k (f (Tab.get d m k))

/-- Apply `f` to every listed entry, dropping those that become the default. -/
def Tab.mapAll {α : Type} [DecidableEq α] (d : α) (f : Nat → α → α) (m : Tab α) : Tab α :=
  (m.map (fun e => (e.1, f e.1 e.2))).filter (fun e => decide (e.2 ≠ d))

/-- Keep the entries whose key and value satisfy `p`. -/
def Tab.keep {α : Type} (p : Nat → α → Bool) (m : Tab α) : Tab α :=
  m.filter (fun e => p e.1 e.2)

end Sys2Proof.Machine
end

