-- ==== Sys2Proof/Machine/Num.lean ====
section
/-!
DEFINITION. The number formats, exact arithmetic and casts of "Dense engine and arithmetic" (R235 to R248), used by
every engine. A value is computed exactly as sign, magnitude and power of two, and narrowed once at the end.
-/
namespace Sys2Proof.Machine

/-- An exact value: `fin neg m e` is (-1)^neg · m · 2^e. -/
inductive Val where
  | nan (neg : Bool)
  | inf (neg : Bool)
  | fin (neg : Bool) (m : Nat) (e : Int)
deriving DecidableEq, Repr

/-- A floating layout of R235: exponent bits, fraction bits, bias, and what the top exponent means. -/
structure Fmt where
  eb : Nat
  fb : Nat
  bias : Nat
  /-- 0: no special values; 1: IEEE; 2: E4M3, whose only NaN is all ones. -/
  special : Nat
deriving DecidableEq, Repr

/-- FP32 (R235). -/
def Fmt.fp32 : Fmt := ⟨8, 23, 127, 1⟩
/-- BF16 (R235). -/
def Fmt.bf16 : Fmt := ⟨8, 7, 127, 1⟩
/-- FP16 (R235). -/
def Fmt.fp16 : Fmt := ⟨5, 10, 15, 1⟩
/-- E4M3 (R235). -/
def Fmt.e4m3 : Fmt := ⟨4, 3, 7, 2⟩
/-- E5M2 (R235). -/
def Fmt.e5m2 : Fmt := ⟨5, 2, 15, 1⟩
/-- E3M2 (R235). -/
def Fmt.e3m2 : Fmt := ⟨3, 2, 3, 0⟩
/-- E2M3 (R235). -/
def Fmt.e2m3 : Fmt := ⟨2, 3, 1, 0⟩
/-- E2M1 (R235). -/
def Fmt.e2m1 : Fmt := ⟨2, 1, 1, 0⟩
/-- FA40 without its 24 zero container bits (R238). -/
def Fmt.fa40 : Fmt := ⟨8, 31, 127, 1⟩

/-- Width of the layout in bits. -/
def Fmt.width (f : Fmt) : Nat := 1 + f.eb + f.fb

/-- Magnitude bits of the largest finite value (R235). -/
def Fmt.maxMag (f : Fmt) : Nat :=
  match f.special with
  | 0 => 2 ^ (f.eb + f.fb) - 1
  | 1 => (2 ^ f.eb - 1) * 2 ^ f.fb - 1
  | _ => 2 ^ (f.eb + f.fb) - 2

/-- The value that an encoding of the layout stands for (R235). -/
def Fmt.decode (f : Fmt) (w : Nat) : Val :=
  let neg := bitOf w (f.eb + f.fb)
  let ex := bitsOf w f.fb f.eb
  let fr := bitsOf w 0 f.fb
  let top := 2 ^ f.eb - 1
  if f.special = 1 ∧ ex = top then (if fr = 0 then .inf neg else .nan neg)
  else if f.special = 2 ∧ ex = top ∧ fr = 2 ^ f.fb - 1 then .nan neg
  else if ex = 0 then .fin neg fr (1 - (f.bias : Int) - f.fb)
  else .fin neg (2 ^ f.fb + fr) ((ex : Int) - f.bias - f.fb)

/-- m · 2^e to an integer, ties to even. -/
def roundRNE (m : Nat) (e : Int) : Nat :=
  if 0 ≤ e then m <<< e.toNat
  else
    let k := (-e).toNat
    let q := m >>> k
    let r := m % 2 ^ k
    let h := 2 ^ (k - 1)
    if r > h ∨ (r = h ∧ q % 2 = 1) then q + 1 else q

/-- m · 2^e to an integer with the 24 random bits `r` (R246). -/
def roundSR (m : Nat) (e : Int) (r : Nat) : Nat :=
  if 0 ≤ e then m <<< e.toNat
  else
    let k := (-e).toNat
    let q := m >>> k
    let rem := m % 2 ^ k
    let d := (rem <<< 24) >>> k
    if rem ≠ 0 ∧ d + r ≥ 2 ^ 24 then q + 1 else q

/-- The magnitude bits of a non-zero m · 2^e rounded to the layout, before the overflow rule; with `sr`, by R246. -/
def Fmt.roundMag (f : Fmt) (m : Nat) (e : Int) (sr : Option Nat) : Nat :=
  let top : Int := (Nat.log2 m : Int) + e
  let emin : Int := 1 - (f.bias : Int)
  let q : Int := (if top < emin then emin else top) - f.fb
  let r := match sr with
    | none => roundRNE m (e - q)
    | some x => roundSR m (e - q) x
  ((q + f.fb + f.bias).toNat * 2 ^ f.fb + r) - 2 ^ f.fb

/-- What a cast reports beside its bits (R245). -/
structure CastFlags where
  ovf : Bool
  unf : Bool
deriving DecidableEq, Repr

/-- A cast to a floating layout with its overflow rule and flags (R244 to R246). `elem` marks an MX element format. -/
def Fmt.cast (f : Fmt) (sat : Bool) (sr : Option Nat) (v : Val) : Nat × CastFlags :=
  let sgn (n : Bool) := b2n n * 2 ^ (f.eb + f.fb)
  let infMag := (2 ^ f.eb - 1) * 2 ^ f.fb
  let overflowTo (n : Bool) : Nat :=
    if sat ∨ f.special = 0 then sgn n + f.maxMag
    else if f.special = 1 then sgn n + infMag
    else sgn n + (2 ^ (f.eb + f.fb) - 1)
  match v with
  | .nan n =>
    if f.special = 2 then (sgn n + (2 ^ (f.eb + f.fb) - 1), ⟨false, false⟩)
    else if f.eb = 5 ∧ f.fb = 2 then (sgn n + infMag + 2, ⟨false, false⟩)
    else (infMag + 2 ^ (f.fb - 1), ⟨false, false⟩)
  | .inf n => (if f.special = 1 then sgn n + infMag else overflowTo n, ⟨false, false⟩)
  | .fin n m e =>
    if m = 0 then (sgn n, ⟨false, false⟩)
    else
      let mag := f.roundMag m e sr
      if mag > f.maxMag then (overflowTo n, ⟨true, false⟩)
      else (sgn n + mag, ⟨false, decide (mag = 0) || decide (mag < 2 ^ f.fb)⟩)

/-- Round to nearest even into the layout, overflow to infinity (R239). -/
def Fmt.rne (f : Fmt) (v : Val) : Nat := (f.cast false none v).1

/-- FP32 bits of an exact value. -/
def to32 (v : Val) : Nat := Fmt.fp32.rne v
/-- The value of FP32 bits. -/
def of32 (w : Nat) : Val := Fmt.fp32.decode w
/-- The canonical FA40 NaN container (R239). -/
def fa40NaN : Nat := 0x7FC0000000000000
/-- The FA40 container of an exact value (R238, R239). -/
def toFa40 (v : Val) : Nat := Fmt.fa40.rne v <<< 24
/-- The value of an FA40 container. -/
def ofFa40 (w : Nat) : Val := Fmt.fa40.decode (w >>> 24)

namespace Val

/-- Is this value a NaN? -/
def isNaN : Val → Bool | .nan _ => true | _ => false
/-- Is this value an infinity? -/
def isInf : Val → Bool | .inf _ => true | _ => false
/-- Is this value finite? -/
def isFin : Val → Bool | .fin .. => true | _ => false
/-- Is this value a zero? -/
def isZero : Val → Bool | .fin _ m _ => m == 0 | _ => false
/-- The sign. -/
def sign : Val → Bool | .nan n => n | .inf n => n | .fin n _ _ => n
/-- The negated value. -/
def neg : Val → Val | .nan n => .nan n | .inf n => .inf (!n) | .fin n m e => .fin (!n) m e
/-- The magnitude. -/
def abs : Val → Val | .nan _ => .nan false | .inf _ => .inf false | .fin _ m e => .fin false m e
/-- An integer as a value. -/
def ofInt (i : Int) : Val := .fin (decide (i < 0)) i.natAbs 0
/-- Positive zero. -/
def zero : Val := .fin false 0 0
/-- One. -/
def one : Val := .fin false 1 0

/-- The exact product; 0 · ∞ is NaN (R239). -/
def mul (a b : Val) : Val :=
  let s := a.sign != b.sign
  match a, b with
  | .nan _, _ => .nan false
  | _, .nan _ => .nan false
  | .inf _, .fin _ m _ => if m = 0 then .nan false else .inf s
  | .fin _ m _, .inf _ => if m = 0 then .nan false else .inf s
  | .inf _, .inf _ => .inf s
  | .fin _ m e, .fin _ m' e' => .fin s (m * m') (e + e')

/-- The signed mantissa at the common exponent `lo`. -/
def scaled (lo : Int) : Val → Int
  | .fin n m e => let x := m <<< (e - lo).toNat; if n then -(x : Int) else x
  | _ => 0

/-- The least exponent of the finite terms. -/
def minExp : List Val → Option Int
  | [] => none
  | .fin _ _ e :: r => (match minExp r with | none => some e | some x => some (if x < e then x else e))
  | _ :: r => minExp r

/-- The exact sum of a list of terms, with the special values and the zero rule of R239. -/
def sum (l : List Val) : Val :=
  if l.any isNaN then .nan false
  else
    let p := l.any (fun v => v.isInf && !v.sign)
    let n := l.any (fun v => v.isInf && v.sign)
    if p && n then .nan false
    else if p then .inf false
    else if n then .inf true
    else
      match minExp l with
      | none => zero
      | some lo =>
        let t := l.foldl (fun acc v => acc + v.scaled lo) 0
        if t = 0 then .fin (l.all (fun v => v.sign)) 0 0 else .fin (decide (t < 0)) t.natAbs lo

/-- The exact sum of two values. -/
def add (a b : Val) : Val := sum [a, b]
/-- The exact difference. -/
def sub (a b : Val) : Val := sum [a, b.neg]

/-- Exact comparison a < b of non-NaN values; zeros compare equal. -/
def lt (a b : Val) : Bool :=
  match a, b with
  | .nan _, _ => false
  | _, .nan _ => false
  | .inf n, .inf n' => n && !n'
  | .inf n, .fin .. => n
  | .fin .., .inf n => !n
  | .fin n m e, .fin n' m' e' =>
    let lo := if e < e' then e else e'
    decide (scaled lo (.fin n m e) < scaled lo (.fin n' m' e'))

/-- Exact comparison a ≤ b of non-NaN values. -/
def le (a b : Val) : Bool := !a.isNaN && !b.isNaN && !(b.lt a)

/-- The quotient with 80 bits and a sticky bit below them: enough for one correct rounding. -/
def div (a b : Val) : Val :=
  let s := a.sign != b.sign
  match a, b with
  | .nan _, _ => .nan false
  | _, .nan _ => .nan false
  | .inf _, .inf _ => .nan false
  | .inf _, .fin .. => .inf s
  | .fin .., .inf _ => .fin s 0 0
  | .fin _ m e, .fin _ m' e' =>
    if m' = 0 then (if m = 0 then .nan false else .inf s)
    else if m = 0 then .fin s 0 0
    else
      let k := 80 + Nat.log2 m'
      let n := m <<< k
      let q := n / m'
      .fin s (2 * q + (if n % m' = 0 then 0 else 1)) (e - e' - k - 1)

end Val

/-- Integer square root by bisection on bits, from bit `k` down. -/
def isqrtAux : Nat → Nat → Nat → Nat
  | 0, _, r => r
  | k + 1, n, r => let t := r + 2 ^ k; isqrtAux k n (if t * t ≤ n then t else r)

/-- The integer square root. -/
def isqrt (n : Nat) : Nat := isqrtAux (Nat.log2 n / 2 + 1) n 0

/-- The square root with a sticky bit: enough for one correct rounding to FP32. -/
def Val.sqrt : Val → Val
  | .nan _ => .nan false
  | .inf n => if n then .nan false else .inf false
  | .fin n m e =>
    if m = 0 then .fin n 0 0
    else if n then .nan false
    else
      let (m, e) := if e % 2 = 0 then (m, e) else (2 * m, e - 1)
      let x := m <<< 128
      let r := isqrt x
      .fin false (2 * r + (if r * r = x then 0 else 1)) (e / 2 - 64 - 1)

/-- An exact value to an integer, ties to even, clamped to ±`lim`; NaN gives 0. The flag reports an overflow (R244). -/
def castInt (lim : Nat) : Val → Int × Bool
  | .nan _ => (0, true)
  | .inf n => (if n then -(lim : Int) else lim, true)
  | .fin n m e =>
    let r := if m = 0 then 0 else if e > 64 then 2 ^ 64 else roundRNE m e
    if r > lim then (if n then -(lim : Int) else lim, true) else (if n then -(r : Int) else r, false)

/-- A two's complement field of n bits as an integer. -/
def signExt (n w : Nat) : Int := if bitOf w (n - 1) then (w % 2 ^ n : Int) - 2 ^ n else (w % 2 ^ n : Int)

/-- An integer as a two's complement field of n bits. -/
def toBits (n : Nat) (i : Int) : Nat := (i % (2 ^ n : Int)).toNat

/-- The floating layout of an element format code (R99, R235); `none` for the integer codes. -/
def fmtOf (code : Nat) : Option Fmt :=
  match code with
  | 0x01 => some .fp32 | 0x02 => some .bf16 | 0x03 => some .fp16
  | 0x04 => some .e4m3 | 0x05 => some .e5m2 | 0x06 => some .e4m3 | 0x07 => some .e5m2
  | 0x08 => some .e3m2 | 0x09 => some .e2m3 | 0x0A => some .e2m1 | 0x0F => some .e4m3
  | _ => none

/-- Is the code one of those that R99 lists? -/
def codeDefined (code : Nat) : Bool := decide (1 ≤ code ∧ code ≤ 0x0F)
/-- Is the code an MX format, with a scale for each block of 32 (R235)? -/
def codeIsMx (code : Nat) : Bool := decide (0x06 ≤ code ∧ code ≤ 0x0A)
/-- Is the code an integer format? -/
def codeIsInt (code : Nat) : Bool := decide (0x0B ≤ code ∧ code ≤ 0x0D)
/-- Element width in bits (R235, R238). -/
def codeBits (code : Nat) : Nat :=
  match code with
  | 0x01 => 32 | 0x02 => 16 | 0x03 => 16 | 0x08 => 6 | 0x09 => 6 | 0x0A => 4
  | 0x0C => 4 | 0x0D => 32 | 0x0E => 64 | _ => 8
/-- G of R233: positions in a slice. -/
def codeG (code : Nat) : Nat :=
  match code with
  | 0x02 => 32 | 0x03 => 32 | 0x0A => 128 | 0x0C => 128 | _ => 64

/-- The value of an element's bits, scales aside; INT8 0x80 and INT4 0x8 read as the symmetric limit (R236). -/
def elemVal (code w : Nat) : Val :=
  match code with
  | 0x0B => let i := signExt 8 w; .ofInt (if i = -128 then -127 else i)
  | 0x0C => let i := signExt 4 w; .ofInt (if i = -8 then -7 else i)
  | 0x0D => .ofInt (signExt 32 w)
  | 0x0E => ofFa40 w
  | c => match fmtOf c with
    | some f => f.decode w
    | none => .zero

/-- Is this element one that R236 clamps? -/
def elemClamped (code w : Nat) : Bool := (code == 0x0B && w % 256 == 0x80) || (code == 0x0C && w % 16 == 8)

/-- An element scaled by its block's E8M0 byte; 0xFF makes it NaN (R235). -/
def mxScaled (x : Nat) (v : Val) : Val :=
  if x = 0xFF then .nan false
  else match v with
    | .fin n m e => .fin n m (e + (x : Int) - 127)
    | v => v

/-- The cast of R244 to a format code: the element's bits and the monitor's flags (R245). -/
def castTo (code : Nat) (sat : Bool) (sr : Option Nat) (v : Val) : Nat × CastFlags :=
  let int (lim n : Nat) := let r := castInt lim v; (toBits n r.1, ⟨r.2, false⟩)
  match code with
  | 0x0B => int 127 8
  | 0x0C => int 7 4
  | 0x0D => int (2 ^ 31 - 1) 32
  | 0x0E => let r := Fmt.fa40.cast sat none v; (r.1 <<< 24, r.2)
  | c => match fmtOf c with
    | some f => f.cast (sat || codeIsMx c) sr v
    | none => (0, ⟨false, false⟩)

/-- emax of R248. -/
def mxEmax (code : Nat) : Int := match code with | 0x06 => 8 | 0x07 => 15 | 0x08 => 4 | _ => 2

/-- floor(log2 |v|) of a non-zero finite value. -/
def Val.floorLog2 : Val → Int | .fin _ m e => (Nat.log2 m : Int) + e | _ => 0

/-- The value times 2^k. -/
def Val.shift (k : Int) : Val → Val | .fin n m e => .fin n m (e + k) | v => v

/-- The block encode of R248: the scale byte, and the elements with their flags. `sr i` gives element i's random bits. -/
def mxEncode (code : Nat) (sr : Nat → Option Nat) (vs : List Val) : Nat × List (Nat × CastFlags) :=
  if vs.any (fun v => !v.isFin) then (0xFF, vs.map (fun _ => (0, ⟨false, false⟩)))
  else
    let am := vs.foldl (fun a v => if a.lt v.abs then v.abs else a) Val.zero
    if am.isZero then (0, vs.map (fun _ => (0, ⟨false, false⟩)))
    else
      let x := am.floorLog2 - mxEmax code
      let x := if x < -127 then -127 else if x > 127 then 127 else x
      ((x + 127).toNat, vs.zipIdx.map (fun p => castTo code true (sr p.2) (p.1.shift (-x))))

/-- FP32 bits of an exact value rounded toward +∞ (R294). -/
def up32 (v : Val) : Nat :=
  let r := to32 v
  if (of32 r).lt v then (if bitOf r 31 then r - 1 else r + 1) else r
/-- FP32 addition, rounded to nearest even. -/
def add32 (a b : Nat) : Nat := to32 ((of32 a).add (of32 b))
/-- FP32 subtraction. -/
def sub32 (a b : Nat) : Nat := to32 ((of32 a).sub (of32 b))
/-- FP32 multiplication. -/
def mul32 (a b : Nat) : Nat := to32 ((of32 a).mul (of32 b))
/-- FP32 division. -/
def div32 (a b : Nat) : Nat := to32 ((of32 a).div (of32 b))
/-- FP32 division by a count, as one rounded quotient. -/
def divBy (a n : Nat) : Nat := to32 ((of32 a).div (Val.ofInt n))
/-- FP32 fused multiply-add a · b + c. -/
def fma32 (a b c : Nat) : Nat := to32 (((of32 a).mul (of32 b)).add (of32 c))
/-- FP32 square root. -/
def sqrt32 (a : Nat) : Nat := to32 (of32 a).sqrt
/-- FA40 addition of two containers, rounded by R239. -/
def addFa40 (a b : Nat) : Nat := toFa40 ((ofFa40 a).add (ofFa40 b))

/-- Integer addition with the clamp of R243; the flag reports a clamp. -/
def addSat32 (a b : Int) : Int × Bool :=
  let s := a + b
  let lim : Int := 2 ^ 31 - 1
  if s > lim then (lim, true) else if s < -lim then (-lim, true) else (s, false)

/-- An INT32 accumulator in its 64-bit container, sign extended (R238). -/
def toI64 (i : Int) : Nat := toBits 64 i
/-- The value of an INT32 container. -/
def ofI64 (w : Nat) : Int := signExt 32 w

end Sys2Proof.Machine
end

