-- ==== Sys2Proof/Machine/State.lean ====
section
/-!
DEFINITION. The state of one OX-1 module, as plain data: memory, registers, and the state of every unit, with the queue
of waiting commands. Numbers that the module only counts or indexes by are Nat; words that software sees are bit vectors.
-/
namespace Sys2Proof.Machine
open Sys2Proof

/-- Why the machine stops with a fault. -/
inductive Fault where
  /-- Raised by a meaning whose operands are no command of the table (`Instr.wf` fails). Safe: the machine stops. -/
  | illFormed
deriving DecidableEq, Repr

/-- Why a command has no meaning here. -/
inductive Refusal where
  /-- Raised by an arm of `exec` whose row has no meaning yet. Safe: the machine stops. -/
  | notModelled (mnemonic : String)
  /-- Raised by UNDEFINED_OPCODE with an opcode 0xF0–0xFF in test mode: R70 places those functions outside the manual. Safe. -/
  | productionTest
deriving DecidableEq, Repr

/-- The orderable parts of R1. -/
inductive Part where
  | qxm4T
  | qxm2T
deriving DecidableEq, Repr

/-- Memory bytes by address, in the canonical form of `Tab.wf`. -/
abbrev Memory := List Host.Cell

/-- The register store (R7, R9, R650): shadow or plain values, active copies, counters and latched _HI halves, by
register key. An unlisted entry has the register's Reset value. -/
structure Regs where
  shadow : Tab (Option Word) := []
  active : Tab (Option Word) := []
  count : Tab Nat := []
  hiLatch : Tab (Option Word) := []
deriving DecidableEq, Repr

/-- The header of a page (R646 to R648), each field at its Reset value by default. -/
structure Page where
  enable : Bool := true
  expert : Bool := false
  evt : BitVec 32 := 0
  evtEn : BitVec 32 := 0
  err : BitVec 32 := 0
  errEn : BitVec 32 := 0
  inject : BitVec 32 := 0
  commitPending : Bool := false
  relockPending : Bool := false
  result : BitVec 32 := 1
  fenced : Bool := false
  retired : Bool := false
  requested : Bool := false
  stopped : Bool := false
deriving DecidableEq, Repr

/-- The service of a reset domain (R589, R591). -/
inductive Service where
  | inService | resetting | fenced
deriving DecidableEq, Repr

/-- A reset domain: its service, its epoch (R587), and what R593 keeps of it. -/
structure Domain where
  service : Service := .inService
  epoch : BitVec 8 := 0
  /-- Epoch of the last RESET_DONE received from it (R587). -/
  done : BitVec 8 := 0
  /-- Resets in a row that it needed within 1 s of its RESET_DONE for the same fault (R593). -/
  again : Nat := 0
deriving DecidableEq, Repr

/-- The slot states of R104. -/
inductive SlotSt where
  | free | waiting | ready | running | preempted | doneHeld | done | faulted
deriving DecidableEq, Repr

/-- The code of R104. -/
def SlotSt.code : SlotSt → Nat
  | .free => 0 | .waiting => 1 | .ready => 2 | .running => 3 | .preempted => 4 | .doneHeld => 5 | .done => 6 | .faulted => 7

/-- A task slot (R30 to R36, R82 to R89, R104 to R118). The default is a slot after module reset (R31). -/
structure Slot where
  st : SlotSt := .free
  gen : BitVec 8 := 0
  cooling : Bool := false
  /-- FLAGS, or the signal latch while FREE (R35). -/
  flags : DWord := 0
  mask : DWord := 0
  prio : Nat := 0
  flowKind : Nat := 0
  flowId : Nat := 0
  /-- Place in the ordered flow's sequence (R114). -/
  pos : Nat := 0
  accept : Nat := 0
  queue : QRef := .gate
  /-- Ring index of the TASK entry, for its record (R571). -/
  index : Nat := 0
  threads : Nat := 0
  engDns : Bool := false
  engSps : Bool := false
  syncMode : Bool := false
  prog : Nat := 0
  stride : Nat := 0
  len : Nat := 0
  arg : DWord := 0
  /-- The four windows as read from the descriptor (R86): scratchpad, near, far, host. -/
  wSp : BitVec 128 := 0
  wNear : BitVec 128 := 0
  wFar : BitVec 128 := 0
  wHost : BitVec 128 := 0
  /-- Completion targets: handle in the low 36 bits, event bit above (R66, R89). -/
  targets : List (BitVec 42) := []
  core : Nat := 0
  /-- The dispatch checks of R45 have been made. -/
  checked : Bool := false
  /-- The task has been pre-empted and not yet resumed (R130). -/
  saved : Bool := false
  /-- A pre-emption has been signalled (R128). -/
  victim : Bool := false
  /-- The quantum of R127 has passed since the last placement. -/
  quantumDone : Bool := false
  /-- PRIO was clamped to PRIO_MAX (R571). -/
  clamped : Bool := false
  /-- The function of its queue has been reset: no record of it is posted, and it is freed when it leaves DONE or FAULTED (R568). -/
  orphan : Bool := false
  /-- The step of R37. -/
  step : BitVec 32 := 0
  /-- The steps in which the task has sent a contribution to a merge unit (R57). -/
  contributed : List (BitVec 32) := []
  /-- A fault of one of its commands while it is PREEMPTED, posted when it resumes (R463): opcode, code, FIELD_POS, address, DETAIL. -/
  heldFault : Option (Nat × Nat × Nat × Nat × Nat) := none
  /-- Its fault code while FAULTED. -/
  code : Nat := 0
  /-- Memory it has written, whose contents a fault leaves undefined (R56): address and length; `hostMark` marks host memory. -/
  wrote : List (Nat × Nat) := []
deriving DecidableEq, Repr

/-- An atomic flow (R117): the slot in service and the accepted slots in order behind it. -/
structure AFlow where
  holder : Option Nat := none
  queue : List Nat := []
deriving DecidableEq, Repr

/-- An active ordered flow (R113 to R116): its Pavilion, the oldest unreleased position, the next position, and the
positions past the oldest that are already cancelled or faulted. -/
structure OFlow where
  pav : Nat := 0
  oldest : Nat := 0
  next : Nat := 0
  skips : List Nat := []
deriving DecidableEq, Repr

/-- A thread of a running task (R75, R76). -/
structure Thread where
  /-- Slot key of its task. -/
  slot : Option Nat := none
  next : Nat := 0
  ended : Bool := false
  /-- The command it waits for (ASYNC = 0 or a FENCE). -/
  waits : Option Nat := none
  regs : Tab DWord := []
deriving DecidableEq, Repr

/-- A unit that serves commands. -/
inductive EUnit where
  | thread (core : Nat) | stm (core : Nat) | dns (core : Nat) | sps (core : Nat) | vec (core : Nat)
  | num (pav : Nat) | smp (pav : Nat) | row (pav : Nat) | merge (pav : Nat) | col (axis : Nat)
  | rng (pav : Nat) | sel (pav : Nat) | hdg (pav : Nat) | dsp (pav : Nat) | mgr
deriving DecidableEq, Repr

/-- Bytes of other modules that work waits for: 1 while they are awaited, 2 once they are here and it is to go on; those that have come, by
global address; and the reads that failed: address, length, code, the record's address and DETAIL. -/
structure Wanted where
  st : Nat := 0
  got : List (Nat × List Byte) := []
  bad : List (Nat × Nat × Nat × Nat × Nat) := []
deriving DecidableEq, Repr

/-- An outstanding command: performed, and not yet completed (R79, R80). -/
structure Op where
  opcode : Nat := 0
  iss : Issuer := .queue .gate
  /-- Slot key and generation of the issuing task. -/
  slot : Option Nat := none
  gen : BitVec 8 := 0
  eu : EUnit := .mgr
  cmd : Cmd := 0
  async : Bool := false
  /-- Completion target (R66). -/
  cpl : Option (BitVec 42) := none
  /-- Register that receives a value at completion, and the value (R77, R444). -/
  dst : Option (Nat × DWord) := none
  /-- A posted store: complete for its thread (R79, R80). -/
  posted : Bool := false
  /-- FENCED completions of its reads so far; not 0 while it waits to read again (R590, R593). -/
  tries : Nat := 0
  /-- Its retry is due: RESET_DONE and the retry time have passed. Where its read completed FENCED; that was a read of its issue, so that
  its effect is still to be made. -/
  due : Bool := false
  fencedAt : Nat := 0
  unrun : Bool := false
  /-- Requests, pieces and conditions it still waits for. -/
  waits : Nat := 0
  /-- Bytes of other modules that it has asked for. -/
  far : Wanted := {}
  /-- In service, rather than queued (register views). -/
  inService : Bool := true
  /-- Contributions that each merge unit is still to serve it, those of its grant in service among them (R348). -/
  grants : List Nat := []
  /-- Merge units whose grant in service is its (R135, R348). -/
  holds : List Nat := []
  /-- Samplers that serve it (R187); ring index of a queue entry, resume point of a stream or grant. -/
  joined : List Nat := []
  cursor : Nat := 0
  /-- Index of its thread within its task, and of the command in the thread's section (R463). -/
  thrIdx : Nat := 0
  cmdIdx : Nat := 0
  /-- Its task is PREEMPTED: the command belongs to no hardware thread, and its record in the frame has this number (R463). -/
  parked : Bool := false
  rec' : Nat := 0
  /-- A vector command of a resumed task that its engine has no room for yet (R313). -/
  kept : Bool := false
  /-- Counters that its completion counts: page, offset, amount. -/
  onDone : List (Nat × Nat × Nat) := []
  /-- Spans of its scoreboard entry (R422): first and last granule, is a write. -/
  spans : List (Nat × Nat × Bool) := []
  /-- Ranges of this module's and host memory that it may write, undefined where its task faults while it is outstanding (R72). -/
  outs : List (Nat × Nat) := []
deriving DecidableEq, Repr

/-- What a request asks of its home. -/
inductive ReqKind where
  /-- Thread accesses (R443, R93). -/
  | load | store | atomic
  /-- A row fetch, a STRICT check, a merged update, a journal record, a read or write of an engine, a SIGNAL, CANCEL or PRIO_SET
  carried to another module, a stream's piece. -/
  | rowFetch | rowCheck | rowUpdate | journal | engine | carried | signal | piece
  /-- A fragment of a collective. -/
  | coll
  /-- The consuming read of a partial's header (R323): its words are the partial's number and, once it is performed, the header. -/
  | header
deriving DecidableEq, Repr

/-- Where a request stands. -/
inductive ReqSt where
  /-- Not yet sent, for want of a tag or of an entry of a reorder table (R189, R387, R447). -/
  | held
  /-- Sent, not yet performed. -/
  | sent
  /-- In its granule's tag-wait list (R418). -/
  | tagWait
  /-- Refused with TAG_BUSY (R419). -/
  | busy
  /-- Answered by a home of this module: status and value. -/
  | answered (st : Status) (val : DWord)
  /-- Completed FENCED: waits for RESET_DONE (false) or, after it, for its retry time (true) (R593). -/
  | fenced (due : Bool)
  /-- Its reply was discarded (R603): nothing but its timeout ends it. -/
  | lost
  /-- Withdrawn from a tag-wait list at a safe point of its task (R420): sent again when the task resumes. -/
  | withdrawn
deriving DecidableEq, Repr

/-- A request in flight (R586 to R593). Its tag is its key, and `tagEpoch` the epoch held for the tag (R587). -/
structure Req where
  kind : ReqKind := .load
  st : ReqSt := .sent
  /-- Key of the domain that serves it. -/
  home : Nat := 0
  tagEpoch : BitVec 8 := 0
  /-- Its FENCED completions so far (R593). -/
  tries : Nat := 0
  /-- Key of the issuing thread, slot key of its task, id of its command. -/
  thr : Option Nat := none
  slot : Option Nat := none
  op : Option Nat := none
  /-- The engine that made it, where one did. -/
  eu : Option EUnit := none
  /-- The core whose miss register it holds (R413). -/
  core : Option Nat := none
  /-- An access of the thread port to its own core's scratchpad takes no miss register (R412). -/
  local' : Bool := false
  /-- Global address and length. -/
  addr : Nat := 0
  len : Nat := 0
  cls : Nat := 2
  /-- Tag mode of R415. -/
  mode : Nat := 0
  /-- Register that receives the value; `wide` sign-extends it (R443). -/
  reg : Option Nat := none
  sext : Bool := false
  /-- OP, SIZE and SIGNED of an atomic (R93). -/
  aop : Nat := 0
  data : DWord := 0
  cmp : DWord := 0
  /-- What other kinds carry: the message's payload, output position and the like. -/
  words : List Nat := []
deriving DecidableEq, Repr

/-- Does the request hold its tag? One that has completed FENCED takes another when it is made again (R446, R462). -/
def Req.holdsTag (r : Req) : Bool := match r.st with | .fenced _ | .held => false | _ => true

/-- A completion record of 32 bytes (R571), with the PHASE bit still to be set when it is written. -/
abbrev CRec := BitVec 256

/-- A submission queue (R40, R567). -/
structure SQ where
  head : BitVec 16 := 0
  tail : BitVec 16 := 0
  /-- Tails written while the queue was disabled, oldest first (R567). -/
  kept : List (BitVec 16) := []
  /-- Entries fetched and not yet accepted, oldest first. -/
  fetched : List Cmd := []
  /-- Fetching stopped by a translation failure (R574). -/
  stalled : Bool := false
  /-- The counter of its next command's wait for a flow entry or a position, which has been counted (R113, R114). -/
  stalledFlow : Option Nat := none
deriving DecidableEq, Repr

/-- A completion queue (R571 to R573). -/
structure CQ where
  head : BitVec 16 := 0
  tail : BitVec 16 := 0
  /-- PHASE of the record at the tail (R571). -/
  phase : Bool := true
  /-- Records written and not yet freed by CQ_HEAD, oldest first. -/
  posted : List CRec := []
  /-- Records held while the ring is full or not writable (R572), oldest first. -/
  held : List CRec := []
  unsignalled : Nat := 0
  timer : Bool := false
  /-- A write of its oldest held record failed translation: it is tried again at the next CQ_HEAD write or after an XLATE_INV (R572). -/
  blocked : Bool := false
deriving DecidableEq, Repr

/-- What leaves the module for an observer outside it. -/
inductive Out where
  /-- An MSI-X message of a function and vector on a port (R573). -/
  | msix (fn vector port : Nat)
  /-- A manager message sent again over management Ethernet (R536): destination, number, words and list. -/
  | ethernet (dst num : Nat) (words list : List Nat)
  /-- A flit sent on a link (R504). -/
  | flit (link : Nat) (f : Flit)
  /-- A CANCEL or PRIO_SET carried to another module (R686): opcode, handle, priority, the PRIO_MAX that binds it, and the tag of its
  confirmation. -/
  | dispatch (opcode handle prio max tag : Nat)
  /-- What this end tells its partner at a link's training (R522, R528): link, module id, axis, direction, link index, and the credits of
  each virtual channel. -/
  | train (link mod axis dir idx : Nat) (credits : List Nat)
  /-- An answer to a host, management or configuration access. -/
  | answer (kind : Nat) (words : List Nat)
deriving DecidableEq, Repr

/-- A flag set on its way to a dispatcher (R38, R91, R107): the target's handle, the bits, and the outstanding commands and
requests whose writes it waits for; `op` is the SIGNAL it performs. -/
structure FlagSet where
  target : BitVec 36
  bits : DWord
  afterOps : List Nat := []
  afterReqs : List Nat := []
  op : Option Nat := none
  /-- A completion event: the die of the dispatcher that sends it, 16 for the host interface, and its PRIO (R506, R507). -/
  die : Nat := 0
  prio : Nat := 0
deriving DecidableEq, Repr

/-- An MSI-X table entry (R573). After reset every vector is masked, as the PCI Express standard has it (PRESUMED). -/
structure Msix where
  addr : DWord := 0
  data : Word := 0
  masked : Bool := true
  pending : Bool := false
deriving DecidableEq, Repr

/-- The PCIe ports and functions as software configures them (R564, R565, R574, R581). -/
structure Pcie where
  vfEnable : Bool := false
  numVfs : Nat := 0
  /-- Up, flit mode, width code and rate code of each port. -/
  up0 : Bool := false
  up1 : Bool := false
  flit0 : Bool := false
  flit1 : Bool := false
  width0 : Nat := 0
  width1 : Nat := 0
  rate0 : Nat := 0
  rate1 : Nat := 0
deriving DecidableEq, Repr

/-- The phases of COMMIT_STATE (R373). -/
inductive Phase where
  | opened | sealed | applying
deriving DecidableEq, Repr

/-- A step that is open, sealed or being applied at this module (R549, R550), with what its OPEN carried. -/
structure StepSt where
  num : BitVec 32
  phase : Phase := .opened
  tainted : Bool := false
  overflow : Bool := false
  /-- STAGE_ACK sent (R357). -/
  acked : Bool := false
  /-- The commit carries these (R358, R551): per-table and dense clip factors as FP32 bits. -/
  clips : List (Nat × Nat) := []
  denseClip : Nat := 0x3F800000
  /-- Dense regions staged for the step (R365), and those applied (R366). -/
  regions : List Nat := []
  regionsDone : List Nat := []
  /-- The optimizer fields captured when STEP_COMMIT arrived (R360): page and table, or 4096 + region, with OPT_CFG or PRM_CFG, LR, B1,
  B2, EPS, WD, state base, seed. -/
  opts : List (Nat × List Nat) := []
  /-- The buddy has confirmed the COMMIT record (R362). -/
  confirmed : Bool := false
  /-- Formed at the seal (R357, R358, R548): FA40 sum of each table with staged rows, staged rows, UPD_MISSING count, DENSE_SUMSQ. -/
  sums : List (Nat × Nat) := []
  rows : Nat := 0
  missing : Nat := 0
  dense : Nat := 0
deriving DecidableEq, Repr

/-- A message of R506: its header's two words, then its payload. -/
abbrev Msg := List DWord

/-- A message that waits at a protocol engine to be sent: its virtual channel, its link once chosen, how many of its words have
been sent, and the credits it holds from its first flit on (R512). -/
structure TxMsg where
  msg : Msg
  vc : Nat
  link : Option Nat := none
  sent : Nat := 0
deriving DecidableEq, Repr

/-- A stream-table entry (R518): the stream, its link, and its unacknowledged messages on it; with none it is free, and is kept only
to count a move to another link. -/
structure StreamEnt where
  stream : Nat
  link : Nat
  unacked : Nat := 0
deriving DecidableEq, Repr

/-- A DATA flit in the replay buffer (R510): its SEQ, its payload words, and the messages that end in it, which are not acknowledged
before it is (R518, R523). -/
structure Sent where
  seq : Nat
  payload : List DWord
  msgs : List Msg := []
deriving DecidableEq, Repr

/-- A link (R503 to R514, R522 to R530). -/
structure Link where
  /-- Code of R530: 0 DOWN, 1 TRAINING, 2 UP, 3 FENCED, 4 RETIRED, 5 MISCABLED. -/
  st : Nat := 0
  lanes : Nat := 0
  partner : Nat := 0
  partnerLink : Nat := 0
  /-- Receiver: SEQ expected, a gap being NAKed, DATA flits accepted since the last acknowledgement sent. -/
  rxNext : Nat := 0
  gap : Bool := false
  unsent : Nat := 0
  /-- Partial message of each virtual channel. -/
  rxPart : Tab Msg := []
  /-- Cumulative credits freed here, by virtual channel (R512). -/
  freed : Tab Nat := []
  /-- Transmitter: next SEQ, replay buffer oldest first, the SEQs still to be resent, resends of the oldest. -/
  txNext : Nat := 0
  replay : List Sent := []
  resend : List Nat := []
  tries : Nat := 0
  /-- Cumulative credits spent and credits the partner has freed, by virtual channel; allocation told at training. -/
  spent : Tab Nat := []
  back : Tab Nat := []
  alloc : Tab Nat := []
  /-- Slot of the frame, control and collective slots used in it (R513); round-robin and grant state (R513, R514). -/
  slot : Nat := 0
  /-- ARB and GRANT as they stood when the frame began (R527). -/
  arb : Nat := 0
  grant : Nat := 0
  ctlUsed : Nat := 0
  colUsed : Nat := 0
  rr : Nat := 0
  grantStream : Tab Nat := []
  grantUsed : Tab Nat := []
  /-- Lanes retired, and lanes that failed the last training, as masks. -/
  lanesOut : Nat := 0
  failed : Nat := 0
deriving DecidableEq, Repr

/-- A Lite slot (R476, R477): its stream and its 64 lanes. -/
structure Lite where
  stream : Nat
  lanes : List DWord
deriving DecidableEq, Repr

/-- A random unit (R476 to R485). -/
structure Rng where
  /-- NOISE_STATE.STATE: 0 STARTUP, 1 OK, 2 FAILED, 3 FENCED. -/
  noise : Nat := 0
  /-- Conditioned blocks, oldest first (R482). -/
  pool : List (BitVec 256) := []
  fails : Nat := 0
  seedOk : Bool := false
  /-- High half of the last SEED_DRAW_LO read (R485). -/
  seedHi : Word := 0
  lite : Tab (Option Lite) := []
deriving DecidableEq, Repr

/-- A way of a tensor slot (R329): its format and reference, and its counts. -/
structure Way where
  fmt : Nat
  href : Int
  seen : Nat := 0
  ovf : Nat := 0
  unf : Nat := 0
  zeroGroups : Nat := 0
  hist : List Nat := List.replicate 32 0
deriving DecidableEq, Repr

/-- A bound tensor slot (R329): its four ways, `none` where a way is unused. -/
structure NumSlot where
  tag : Word
  unboundFmt : Nat := 0
  ways : List (Option Way) := []
deriving DecidableEq, Repr

/-- A group summary on its way to a monitor (R330, R331): slot, format, elements, overflows, underflows, and the exponent of the
largest magnitude, `none` where it is zero. -/
structure Summary where
  slot : Nat
  fmt : Nat
  seen : Nat
  ovf : Nat
  unf : Nat
  top : Option Int
deriving DecidableEq, Repr

/-- One side of a stream (R100, R456): a block list being read, or a contiguous range. -/
structure Side where
  list : Bool
  /-- Global address of the next list entry; entries of this list read, its limit, and entries that the command has read in all, of
  both its lists (R101). -/
  next : Nat := 0
  idx : Nat := 0
  cap : Nat := 65536
  read : Nat := 0
  /-- Global address and bytes left of the entry reached; of a contiguous side, its next byte. -/
  cur : Nat := 0
  left : Nat := 0
  /-- The entry's WAIT_MARK is still to be met; its NO_LIGHT; it carried LAST. -/
  mark : Bool := false
  noLight : Bool := false
  last : Bool := false
deriving DecidableEq, Repr

/-- A piece of a stream command, or what is still to issue of it (R446): its number, its place in the transfer, source and destination
addresses, bytes, and whether it takes the light path (R448). -/
structure Piece where
  num : Nat
  pos : Nat
  src : Nat
  dst : Nat
  left : Nat
  light : Bool
deriving DecidableEq, Repr

/-- A stream command (R445 to R456). -/
structure Strm where
  src : Side
  dst : Side
  started : Bool := false
  /-- Everything is issued; everything has landed. -/
  issued : Bool := false
  finished : Bool := false
  /-- A list or gate read completed FENCED, and is to be made again (R462). -/
  stalled : Bool := false
  /-- LIGHT and RUNAHEAD as read at its start (R465). -/
  light : Nat := 0
  runahead : Nat := 0
  /-- Its service position, below 4. -/
  place : Nat := 0
  /-- Bytes of the pieces reached, in list order; marks met; the reached mark's gate has been met (R452). -/
  pos : Nat := 0
  marks : Nat := 0
  gateOk : Bool := false
  /-- Pieces reached so far, and those of them still to issue, in list order (R446, R448). -/
  piece : Nat := 0
  queue : List Piece := []
  /-- Pieces since the last mark: number, source, destination, length (R454). -/
  spans : List (Nat × Nat × Nat × Nat) := []
  /-- The fault of an entry, taken once the earlier requests have completed (R453): code, FIELD_POS, address, DETAIL. -/
  bad : Option (Nat × Nat × Nat × Nat) := none
  /-- The bytes written, which an encode still has to put into USED (R460). -/
  used : Option Nat := none
deriving DecidableEq, Repr

/-- A tile of a dense engine (R238, R240): its 1,024 containers by 32i + c, an unlisted one being zero, and its status. -/
structure Tile where
  /-- KIND: true for integer. -/
  int : Bool := false
  vals : Tab Nat := []
  chain : Nat := 0
  accLong : Bool := false
  sat : Bool := false
  satCount : Nat := 0
deriving DecidableEq, Repr

/-- A loaded weight bank (R251): the command that names its memory, and what it holds, column by column. -/
structure Bank where
  /-- The DNS_LOAD_W, after substitution. -/
  cmd : Cmd
  /-- Its descriptor's 32 bytes. -/
  desc : BitVec 256
  /-- Weight rows or columns that the bank columns were taken from. -/
  src : List Nat
  /-- Element bits of each bank column, and their values' scales (R235), from K0 on. -/
  bits : List (List Nat)
  scales : List (List Nat)
deriving DecidableEq, Repr

/-- A bank of a resumed task that is still to be filled again (R263): the load that its record in the frame gives, the copy of its descriptor,
the DNS_LOAD_W that a pre-emption abandoned, and the FENCED completions so far (R255). -/
structure Refill where
  key : Nat
  bank : Nat
  cmd : Cmd
  desc : BitVec 256
  op : Option Nat := none
  tries : Nat := 0
  fencedAt : Nat := 0
  /-- Bytes of other modules that it has asked for. -/
  far : Wanted := {}
deriving DecidableEq, Repr

/-- A dense engine (R231, R250). -/
structure Dense where
  a : Tile := {}
  b : Tile := {}
  bank0 : Option Bank := none
  bank1 : Option Bank := none
  refills : List Refill := []
deriving DecidableEq, Repr

/-- A dense command that is served by groups (R252, R256, R257): its descriptors as read at its issue, whether its turn has come, and its
next group of 32 rows or keys. -/
structure DWork where
  a : BitVec 256 := 0
  o : BitVec 256 := 0
  begun : Bool := false
  k : Nat := 0
deriving DecidableEq, Repr

/-- An addition of a walk still to be made: the stored elements, as (column, bits), of a row's block, or one entry, and its block or column
in the row (R275, R277, R290). -/
structure Todo where
  row : Nat
  pos : Nat
  elems : List (Nat × Nat)
deriving DecidableEq, Repr

/-- A sparse command's walk (R283, R290): the operand block and hop record it has read, the thresholds as they were at its issue
(R120, R285), and how far it has come. -/
structure Walk where
  block : BitVec 1024 := 0
  /-- Trellis base and hop record, of a CSR-local operand (R274). -/
  trellis : Nat := 0
  hop : BitVec 1024 := 0
  /-- SPS.AUTO_THR and HUB_SPLIT. -/
  thrs : Nat := 0
  split : Nat := 0
  job : Nat := 0
  begun : Bool := false
  /-- It waits at a row for a hub-flow entry (R122). -/
  stalled : Bool := false
  /-- Next row of the job, the contributing edges of its rows so far, and its largest edge count (R279). -/
  row : Nat := 0
  counts : Tab Nat := []
  longest : Nat := 0
  /-- The walk position (R290): the row's edges once its range is read and the next of them, or the additions read that are still to be made,
  and the regions of a COO16 job begun. -/
  span : Option (Nat × Nat) := none
  edge : Nat := 0
  todo : List Todo := []
  regions : Nat := 0
  /-- The B columns of a BM64 job, read once and shared by its rows (R275): position and value of each element. -/
  cols : List (Tab Val) := []
deriving DecidableEq, Repr

/-- A hub segment's partial (R121, R123, R280): the core it was placed on, the record of the hub buffer that holds its containers, its
contributing edges and clamps. -/
structure HubPart where
  core : Nat
  buf : Nat
  count : Nat
  hits : Nat
deriving DecidableEq, Repr

/-- A hub-flow entry (R120 to R123): a split row of a job of a sparse command. -/
structure Hub where
  op : Nat
  pav : Nat
  /-- Row of the tile, and the row itself. -/
  i : Nat
  row : Nat
  edges : Nat
  placed : Nat := 0
  added : Nat := 0
  parts : Tab (Option HubPart) := []
deriving DecidableEq, Repr

/-- A layer slot of Hedge (R293 to R303). -/
structure HSlot where
  loaded : Bool := false
  /-- The HDG_LOAD that forms its norms. -/
  loading : Option Nat := none
  stale : Bool := false
  fallback : Bool := false
  audits : Nat := 0
  misses : Nat := 0
  /-- Its layer descriptor, and the descriptor of its weight tensor. -/
  desc : BitVec 1024 := 0
  wdesc : BitVec 256 := 0
deriving DecidableEq, Repr

/-- A Hedge command (R305): what it read at its issue, its next group or neuron, and the grant in service. -/
structure HWork where
  desc : BitVec 1024 := 0
  d1 : BitVec 256 := 0
  d2 : BitVec 256 := 0
  begun : Bool := false
  next : Nat := 0
  /-- CORE cycles left of a grant that was split, and a split that is still in service. -/
  left : Nat := 0
  split : Bool := false
deriving DecidableEq, Repr

/-- A vector command (R314 to R327): its descriptors as read at its issue, its next row or column, the summary so far of the group of
columns that it writes, and the state of a VEC_PARTIAL_ADD: its order, its records, the nodes of its tree that await their siblings (by
level · 2048 + index), the partials that have arrived, the sum so far, and the status of the result. -/
structure VWork where
  x : BitVec 256 := 0
  y : BitVec 256 := 0
  o : BitVec 256 := 0
  /-- SR_SEED and SR_STREAM (R321). -/
  key : BitVec 128 := 0
  next : Nat := 0
  group : Option Summary := none
  tree : Bool := false
  recs : List Nat := []
  parts : Tab (Option (List Nat)) := []
  arrived : List Nat := []
  acc : Option (List Nat) := none
  sat : Bool := false
  accLong : Bool := false
  satCount : Nat := 0
  chain : Nat := 0
deriving DecidableEq, Repr

/-- What a dispatcher keeps of a PREEMPTED task beside its frame: the command each thread waits for, in thread order, and the
DNS_LOAD_W that was abandoned (R130, R261). -/
structure Saved where
  thrs : List (Option Nat) := []
  pending : Option Nat := none
deriving DecidableEq, Repr

/-- Object counters of a dispatcher (R136): waiting-time buckets and loads. -/
structure Obj where
  hist : List Nat := List.replicate 8 0
  loads : Nat := 0
  busy : Nat := 0
deriving DecidableEq, Repr

/-- A graph descriptor (R193). -/
structure Graph where
  node : Nat
  edge : Nat
  wgt : Nat
  time : Nat
  aliasTab : Nat
  first : Nat
  size : Nat
  edges : Nat
  aliases : Nat
  cfg : Nat
deriving DecidableEq, Repr

/-- A sampler command that has not been served: its sampling descriptor once read, the graph descriptors that it copied at its issue
(R159), and whether it was issued with no COMMIT of its page pending (R160). -/
structure SWork where
  desc : Option (BitVec 1024) := none
  graphs : List Graph := []
  early : Bool := false
deriving DecidableEq, Repr

/-- A line of a row cache (R388): its address in 256-byte units of the Orangery, the sectors it holds, and those that are dirty. -/
structure Line where
  tag : Nat
  valid : Nat
  dirty : Nat := 0
  pinned : Bool := false
deriving DecidableEq, Repr

/-- A channel of a tier (R397, R398): CHAN_STATE.STATE, the physical channel that serves it (near), its corrected errors, the atoms
or frames copied so far, the frames remapped out of it, the frames fenced, and the copy that runs: to a spare channel (near), or of a
frame or, with `none`, the whole channel (far). -/
structure Chan where
  st : Nat := 0
  phys : Option Nat := none
  ce : Nat := 0
  frames : List Nat := []
  fenced : List Nat := []
  copying : Option (Option Nat) := none
  /-- Where the frames of a far channel that is retired whole lie, in ascending order: runs of spare frames, as channel, first frame and
  length (R398). -/
  into : List (Nat × Nat × Nat) := []
  /-- REASON of the retirement under way (R597). -/
  why : Nat := 0
  /-- Atoms copied so far, as COPY_ATOMS has counted them (R397). -/
  copied : Nat := 0
  /-- The channel could not be read when it was retired: every atom of its spare is poisoned, but for those that the poison table names. -/
  dead : Bool := false
deriving DecidableEq, Repr

/-- An error latch of a memory page (R404, R406): ERR_ADDR and ERR_INFO. -/
structure ErrLatch where
  addr : Nat := 0
  info : Nat := 0
deriving DecidableEq, Repr

/-- A row that a gather names in one deduplication window (R207): 0 to be fetched, 1 fetched, 2 landed, 3 landed and marked AHEAD,
4 under check; its decoded elements as FP32 bits, `none` where it is missing; changed by the check (R215); its fetch left before A_m
reached s − 1, so that its reply may be AHEAD (R218). -/
structure GRow where
  st : Nat := 0
  vals : Option (List Nat) := none
  changed : Bool := false
  early : Bool := false
deriving DecidableEq, Repr

/-- A gather in service (R204 to R218): the gather mode at its issue, the first list position it reads, the ids from there on, bag
offsets and weights, its distinct rows by window · 2^40 + id, the bags still to be formed, a wait for room in the run-ahead area
that has been counted, the Pavilion, and the Orangery whose table has no entry for its next fetch. -/
structure GWork where
  strict : Bool := true
  dlog : Nat := 16
  first : Nat := 0
  ids : List Nat := []
  offs : List Nat := []
  wgts : List Nat := []
  rows : Tab (Option GRow) := []
  bags : List Nat := []
  stalled : Bool := false
  pav : Nat := 0
  want : Option Nat := none
deriving DecidableEq, Repr

/-- A stage record (R354): step, table, id, FLUSH_KEY, source module and Pavilion, contribution count, G as FP32 bits, its address. -/
structure StageRec where
  step : BitVec 32
  tbl : Nat
  id : Nat
  key : Nat
  src : Nat
  pav : Nat
  count : Nat
  g : List Nat
  addr : Nat
deriving DecidableEq, Repr

/-- A ROW_MOVE in service (R223, R224): the blocks still to be moved, and the source spans of those moved, as start and length. -/
structure MWork where
  left : Nat
  src : List (Nat × Nat) := []
deriving DecidableEq, Repr

/-- An apply under way (R362, R366): the step, the rows still to be applied in order, those applied, the dense regions and the moved
blocks (command and block) still to come, and whether it stopped at a domain under reset. -/
structure Apply where
  step : BitVec 32
  rows : List StageRec
  did : List (Nat × Nat) := []
  regions : List Nat := []
  moves : List (Nat × Nat) := []
  stopped : Bool := false
deriving DecidableEq, Repr

/-- What a home's redo slot holds (R362): the new bytes of the last row computed, and of its state, with their addresses. -/
structure Redo where
  row : Nat
  bytes : List Byte
  state : Nat
  stBytes : List Byte
deriving DecidableEq, Repr

/-- A home unit (R353): A_h, its stage records in arrival order, its committed update set as (table, id) pairs (R216),
an apply under way, and its redo slot. -/
structure Home where
  applied : BitVec 32 := 0
  recs : List StageRec := []
  set : List (Nat × Nat) := []
  setStep : BitVec 32 := 0
  work : Option Apply := none
  redo : Option Redo := none
deriving DecidableEq, Repr

/-- A contribution in a merge window (R345, R347): id, position key, row as FP32 bits. -/
structure Contrib where
  id : Nat
  origin : Nat
  pos : Nat
  g : List Nat
deriving DecidableEq, Repr

/-- A record in the journal area (R368): sending module, type, step, offset in the ring, length. -/
structure JRec where
  src : Nat
  kind : Nat
  step : BitVec 32
  off : Nat
  len : Nat
deriving DecidableEq, Repr

/-- An entry of the retirement record (R597), its CHECK aside, which is computed. -/
structure RetEntry where
  resource : Nat
  time : Nat
  reason : Nat
  action : Nat
  spare : Nat := 0xFFFF
deriving DecidableEq, Repr

/-- The power stage, the clocks and their loops (R608 to R628, R661 to R663). -/
structure Power where
  /-- STATE: MODULE, CAUSE, WHERE of R661. -/
  mode : Nat := 0
  cause : Nat := 0
  place : Nat := 0
  /-- State of each Pavilion: 0 Run, 1 Hold, 2 Nap. -/
  pavs : Tab Nat := []
  /-- Divider code in force, 3 after reset (R663), and a change that waits for the next common root edge (R610). -/
  div : Tab Nat := []
  next : Tab (Option Nat) := []
  /-- Duty in sixteenths (R627), and the window reached in the frame of 16. -/
  duty : Tab Nat := []
  window : Tab Nat := []
  /-- Dies at HOT (R622); steps of the electrical protection in force, and periods of 20 µs since the overload cleared. -/
  hot : List Nat := []
  steps : Nat := 0
  clear : Nat := 0
  /-- Divider code and duty that the power loop, and the thermal loop, hold each Pavilion to; the protections act on top. -/
  loopDiv : Tab Nat := []
  loopDuty : Tab Nat := []
  thermDiv : Tab Nat := []
  thermDuty : Tab Nat := []
  /-- Far-tier throttle of each Orangery in sixteenths (R624), periods that each die has been 3 °C below the limit, and periods in a row
  below 98 % of the cap (R625). -/
  throttle : Tab Nat := []
  cool : Tab Nat := []
  calm : Nat := 0
  /-- Temperature of each die, and its highest since module reset; input power in W and voltage in 0.1 V. -/
  temp : Tab Nat := []
  tmax : Tab Nat := []
  watts : Nat := 0
  volts : Nat := 0
  /-- REQ_RESULT (R661): RESULT, SOURCE, PAV; and the requests that wait for a reset domain, in order of arrival: source, Pavilion, target (R620, R662). -/
  result : Nat := 0
  source : Nat := 0
  who : Nat := 0
  request : List (Nat × Nat × Nat) := []
  /-- Root PLLs locked, as a mask of dies; the 100 MHz reference is present; it was lost and the PLLs hold (R611). -/
  pll : Nat := 0
  /-- Dies whose loss of lock has reset them and which have not relocked, as a mask. -/
  unlocked : Nat := 0
  refOk : Bool := false
  holdover : Bool := false
  /-- Near controllers that are still writing zeros (R402), by Pavilion · 64 + controller. -/
  zeroing : List Nat := []
deriving DecidableEq, Repr

/-- A firmware slot (R576): SVN and key of its image, and its measurement. -/
structure FwSlot where
  svn : Nat := 0
  key : Nat := 0
  digest : BitVec 384 := 0
deriving DecidableEq, Repr

/-- Boot and firmware update (R576 to R578, R658). -/
structure Firmware where
  slotA : FwSlot := {}
  slotB : FwSlot := {}
  /-- Active slot, true for B; the other boots next; boots of it that failed; FALLBACKS. -/
  active : Bool := false
  pending : Bool := false
  fails : Nat := 0
  fallbacks : Nat := 0
  /-- FW_STATUS.STATE and FAIL; the slot and the image address of the update under way. -/
  state : Nat := 0
  fail : Nat := 0
  target : Bool := false
  stage : Nat := 0
  /-- Fuses: SHA-384 of the public key of each key slot, revoked slots as a mask, the minimum SVN. -/
  keys : List (BitVec 384) := [0, 0, 0, 0]
  revoked : Nat := 0
  minSvn : Nat := 0
  /-- HOST_STATE.RECOVERY; HOST_STATE.SLOT, true for B. -/
  recovery : Bool := false
  booted : Bool := false
  /-- Measurement registers (R658). -/
  meas : Tab (BitVec 384) := []
deriving DecidableEq, Repr

/-- A manager message (R537): sender, number, its words 4 to 15 and its list; of a host request that a queue of this module made, the
command; the die that sent it, and whether it came over management Ethernet. -/
structure MMsg where
  src : Nat
  num : Nat
  words : List Nat
  list : List Nat := []
  req : Option Nat := none
  die : Nat := 16
  /-- TAG_EPOCH, which its reply returns (R506). -/
  tagEpoch : Nat := 0
  ether : Bool := false
  /-- Of one held here: sender and number of the messages waiting in the inbox when it came (R541). -/
  behind : List (Nat × Nat) := []
deriving DecidableEq, Repr

/-- A manager message sent and not yet answered (R536): destination, the message, and whether it has gone over management Ethernet. -/
structure MOut where
  dst : Nat
  msg : MMsg
  ether : Bool := false
deriving DecidableEq, Repr

/-- A stage acknowledgement (R540): module, step, rows, flags, mask of dense regions, UPD_MISSING, DENSE_SUMSQ, and table sums. -/
structure Ack where
  mod : Nat
  step : BitVec 32
  rows : Nat
  flags : Nat
  mask : Nat
  missing : Nat
  dense : Nat
  sums : List (Nat × Nat)
deriving DecidableEq, Repr

/-- A message that the system manager has sent to several modules (R541): the numbers still unanswered, its type and words, the modules
that are sent it once the first ones have answered (R559), the request that it answers, and a code that a module has replied; a group manager's
part of the system manager's cast (R550). -/
structure MCast where
  left : List Nat
  type : Nat
  step : BitVec 32 := 0
  words : List Nat := []
  next : List Nat := []
  req : Option MMsg := none
  code : Nat := 0
  relay : Bool := false
deriving DecidableEq, Repr

/-- What the system manager keeps of a step (R549 to R552): 0 open, 1 sealed; AUTO; the tasks to notify of SEAL and of its end; the
members whose acknowledgements its groups' sums cover; DENSE_CLIP; a TAINT; its decision (1 COMMIT, 2 ABORT) and whether the
standby has confirmed it; the factors; the members that have not yet applied or discarded it; the COMMIT or ABORT to answer. -/
structure SmStep where
  num : BitVec 32
  phase : Nat := 0
  auto : Bool := false
  sealNote : Option (BitVec 42) := none
  endNote : Option (BitVec 42) := none
  acks : List Ack := []
  clip : Nat := 0
  tainted : Bool := false
  decision : Nat := 0
  confirmed : Bool := false
  cD : Nat := 0
  factors : List Nat := []
  left : List Nat := []
  req : Option MMsg := none
deriving DecidableEq, Repr

/-- The Gatehouse (R535 to R541, R549 to R560, R594 to R600, R656 to R660). -/
structure Gate where
  /-- A job has started (JOB_START) and has not ended; HALTED with its reason; test mode's first code has been written (R659). -/
  started : Bool := false
  halted : Bool := false
  reason : Nat := 0
  testKey : Bool := false
  modReady : Bool := false
  replace : Bool := false
  degraded : Bool := false
  standbyActive : Bool := false
  /-- Gatehouse pairs lost (R600). -/
  pairsLost : Nat := 0
  forwardOnly : Bool := false
  spareExhausted : Bool := false
  /-- The retirement record, the test record, the record's sequence number (R597, R601). -/
  record : List RetEntry := []
  testRecord : List RetEntry := []
  recordSeq : Nat := 0
  /-- Occurrences of each resource within RECUR_WINDOW, and its corrected errors within an hour (R594). -/
  occ : Tab Nat := []
  ce : Tab Nat := []
  /-- Resources classed permanent whose retirement waits for a copy under way, with the reason (R397). -/
  due : List (Nat × Nat) := []
  /-- Membership (R534): spares, and modules retired from the job. The alias table: lost id, replacement (R556). -/
  spares : List Nat := []
  gone : List Nat := []
  aliases : List (Nat × Nat) := []
  /-- System manager since a takeover (R559). -/
  sm : Option Nat := none
  /-- The profile's pending copy (R653). -/
  profile : Option Nat := none
  /-- Manager messages held here, sent and unanswered, the next number, and the sender and number of the latest taken (R536). -/
  inq : List MMsg := []
  outq : List MOut := []
  nextNum : Nat := 0
  seen : List (Nat × Nat) := []
  beats : Nat := 0
  /-- Group manager: acknowledgements of a group not yet forwarded. System manager: its casts, its steps, an OPEN set aside, members
  with NO_MIRROR, losses declared and not yet recovered: the lost id, and its replacement once REMAP has been sent. -/
  acks : List Ack := []
  casts : List MCast := []
  steps : List SmStep := []
  heldOpen : Option MMsg := none
  noMirror : List Nat := []
  lost : List (Nat × Option Nat) := []
  /-- Standby: decisions recorded: step, decision, c_D, factors (R559). -/
  decisions : List (BitVec 32 × Nat × Nat × List Nat) := []
  /-- A roll of acknowledgements with more than 26 entries that is still arriving (R540). -/
  partAcks : List Ack := []
  /-- Buddy of a lost role: the REBUILD to be answered once its replacement has confirmed every record. Replacement: the bytes of the
  records received whose step's COMMIT record has not come (R368, R554). -/
  rebuildReq : Option MMsg := none
  rebuild : List (List Byte) := []
deriving DecidableEq, Repr

/-- A collective in flight on a ring (R542 to R546): its own command once issued, its signature, count and tree or arrival order; the
fragments received as (kind · 16 + rank) · 2^32 + first element: signature, count, then containers; the keys of those held before its own
command issued, in the order in which they arrived; for each piece of its own chunk its
sum so far, as containers, and the ranks added to it as a mask; the results of its own chunk's pieces; its elements formed, and the
elements of its DST written; the ranks counted as held, as a mask; the fragments taken, as sender · 65536 + tag, so that one sent again is
known (R590); whether it has ended here. -/
structure Coll where
  op : Option Nat := none
  sig : Nat := 0
  count : Nat := 0
  tree : Bool := false
  frags : Tab (Option (List Nat)) := []
  order : List Nat := []
  sums : Tab (Option (List Nat)) := []
  added : Tab Nat := []
  done : Tab (Option (List Nat)) := []
  formed : Nat := 0
  got : Nat := 0
  held : Nat := 0
  seen : List Nat := []
  ended : Bool := false
deriving DecidableEq, Repr

-- FAMILY STRUCTURES

/-- The whole state of one module. -/
structure State where
  /-- Commands waiting, first in first out. -/
  pending : List Instr := []
  part : Part := .qxm4T
  /-- The module's own memory by local address: near tier, far tier, scratchpads. -/
  mem : Memory := []
  /-- Host memory by port · 2^64 + bus address. -/
  hostMem : Memory := []
  /-- Full/empty tag of each scratchpad granule (R415), by granule number in the scratchpad region. -/
  tags : Tab Bool := []
  /-- Poisoned atoms (R394), by local address / 64. -/
  poison : Tab Bool := []
  regs : Regs := {}
  pages : Tab Page := []
  doms : Tab Domain := []
  slots : Tab Slot := []
  /-- Acceptance number of each dispatcher (R109). -/
  accepts : Tab Nat := []
  aflows : Tab AFlow := []
  oflows : Tab (Option OFlow) := []
  /-- Head reservation of each Pavilion: slot key and local core (R111). -/
  heads : Tab (Option (Nat × Nat)) := []
  thrs : Tab Thread := []
  ops : Tab (Option Op) := []
  nextOp : Nat := 0
  reqs : Tab (Option Req) := []
  nextReq : Nat := 0
  sqs : Tab SQ := []
  cqs : Tab CQ := []
  /-- Tags of the requests waiting on a granule's tag (R418), oldest first, by granule number in the scratchpad region. -/
  tagWait : Tab (List Nat) := []
  /-- A_m: the last step applied at the module (R214). -/
  applied : BitVec 32 := 0
  /-- STEP_LAST_OPEN (R37). -/
  lastOpen : BitVec 32 := 0
  /-- The unapplied steps, oldest first: at most two (R549). -/
  steps : List StepSt := []
  /-- Pavilions whose CORE time is in a held duty window (R627). -/
  dutyHeld : Tab Bool := []
  /-- Flag sets on their way, oldest first. -/
  sets : List FlagSet := []
  /-- MSI-X entry of function f and vector v, at f · 256 + v. -/
  msix : Tab Msix := []
  pcie : Pcie := {}
  /-- Cached host translation entries (R574), by port · 2^20 + index. -/
  xlate : Tab (Option Nat) := []
  /-- An invalidation under way (R575): the XLATE_INV value. -/
  xlateInv : Option Word := none
  /-- Messages waiting at protocol engine e, oldest first (R512 to R518). -/
  txq : Tab (List TxMsg) := []
  streams : Tab (List StreamEnt) := []
  links : Tab Link := []
  /-- Messages that have arrived and are not yet handled, oldest first: the engine and virtual channel they came on. -/
  inbox : List (Nat × Nat × Msg) := []
  /-- What the module has sent, newest first. -/
  out : List Out := []
  /-- The module is in test mode (R601). -/
  testMode : Bool := false
  rngs : Tab Rng := []
  /-- Blocks that the noise sources have produced: the model's own counter (R482). -/
  noiseCount : Nat := 0
  /-- Tensor slots (R329), by slot number. -/
  numSlots : Tab (Option NumSlot) := []
  /-- Group summaries on their way to the monitors, oldest first. -/
  sums : List Summary := []
  /-- Stream commands by id. -/
  strms : Tab (Option Strm) := []
  /-- Dense engines by module core. -/
  dense : Tab Dense := []
  /-- Walks of sparse commands by id. -/
  walks : Tab (Option Walk) := []
  hubs : Tab (Option Hub) := []
  nextHub : Nat := 0
  /-- Layer slots of Hedge, by Pavilion · 16 + slot. -/
  hslots : Tab HSlot := []
  /-- Hedge commands by id. -/
  hworks : Tab (Option HWork) := []
  /-- Vector commands by id. -/
  vworks : Tab (Option VWork) := []
  /-- The module is in recovery replay (R558). -/
  replay : Bool := false
  /-- Saved contexts by slot key. -/
  saves : Tab (Option Saved) := []
  /-- Object counters: (Pavilion · 4 + kind) · 65536 + index (R136, R147). -/
  objs : Tab Obj := []
  /-- Waiting sampler commands by id. -/
  sworks : Tab (Option SWork) := []
  dworks : Tab (Option DWork) := []
  /-- Row-cache sets (R388), most recently used line first, by Orangery · 65536 + set; and the lines that a pin was refused (R390),
  by Orangery · 2^32 + line. -/
  rcache : Tab (List Line) := []
  pinRefused : Tab Bool := []
  /-- Channels: near controller c of Pavilion p at 64 p + c, far channel c of Orangery o at 4096 + 64 o + c. -/
  chans : Tab Chan := []
  /-- Spare channels taken of each Pavilion p, as a mask at p, and spare frames taken of each far channel, at its key. -/
  spares : Tab Nat := []
  /-- Error latches by page number. -/
  latches : Tab ErrLatch := []
  /-- Gathers by command (R204), and ROW_MOVEs in service (R223). -/
  gworks : Tab (Option GWork) := []
  moves : Tab (Option MWork) := []
  /-- Cached block-map entries of each Pavilion's row engine, newest first: table · 2^34 + block, entry (R198). -/
  bcache : Tab (List (Nat × Nat)) := []
  /-- Popularity table of each Orangery: table · 2^34 + block, count (R219). -/
  pops : Tab (List (Nat × Nat)) := []
  /-- Home units: Pavilion p at p, Orangery o at 16 + o (R353). -/
  homes : Tab Home := []
  /-- Row fetches and checks held at this module's homes, oldest first: own tag, or message (R214, R215). -/
  heldRows : List (Option Nat × Msg) := []
  /-- Blocks moved in the last applied steps (R216): step, table, block. -/
  moved : List (BitVec 32 × Nat × Nat) := []
  /-- Merge windows (R343): Pavilion · 512 + table · 2 + step parity; the oldest contribution last. -/
  mwins : Tab (List Contrib) := []
  /-- ORIGINs held in a window and FLUSH_KEYs used in a step (R346, R349): table · 2 + step parity. -/
  origins : Tab (List Nat) := []
  flushKeys : Tab (List Nat) := []
  /-- Messages of several pieces that are arriving: source module · 2^16 + tag, and the words so far. -/
  parts : Tab (List DWord) := []
  /-- The journal area's records, oldest first, the next offset, this module's next sequence number, and JOURNAL_CKPT (R367 to R370). -/
  journal : List JRec := []
  jtail : Nat := 0
  jseq : Nat := 0
  jckpt : BitVec 32 := 0
  /-- Sum-of-squares slots (R545): step parity · 256 + slot, FA40. -/
  sqSlots : Tab (Option Nat) := []
  /-- Physical near channels retired, as a mask by Pavilion (R403). -/
  nearRetired : Tab Nat := []
  power : Power := {}
  fw : Firmware := {}
  gate : Gate := {}
  /-- Collectives by axis · 2^32 + COLL_ID. -/
  colls : Tab (Option Coll) := []
  /-- The sequence number of the last snapshot written (R665). -/
  snapSeq : Nat := 0
  /-- CFG_FAIL of the HIF page and of the ROW pages (R227, R581): what refused the page's last COMMIT, by page. -/
  cfgFail : Tab Nat := []
  /-- Memory ranges whose contents were lost and are undefined (R381, R402), newest first: address, length, and the loss. -/
  lost : List (Nat × Nat × Nat) := []
  -- FAMILY STATE
  /-- Free values taken so far: the model's own counter. -/
  fresh : Nat := 0
deriving DecidableEq, Repr

/-- The module right after reset. -/
def State.reset : State := {}

end Sys2Proof.Machine
end

