-- ==== Sys2Proof/Machine/Ops.lean ====
section
/-!
DEFINITION. The named operations over memory, registers, counters, domains and units, on which every meaning stands.
-/
namespace Sys2Proof.Machine
open Sys2Proof

/-- What a fault of a command carries into its record (R74, R571, R584): code, FIELD_POS, address, DETAIL. -/
structure FaultInfo where
  code : Nat
  pos : Nat := 0
  addr : Nat := 0
  detail : Nat := 0
deriving DecidableEq, Repr

/-- A computation of a command: it may change the state, and ends in a value or in a fault of its task. -/
abbrev Cm := EStateM FaultInfo State

/-- End with a fault code. -/
def failWith {α : Type} (code : Nat) : Cm α := throw { code }
/-- End with a fault where a condition holds. -/
def faultIf (b : Bool) (f : FaultInfo) : Cm Unit := if b then throw f else pure ()
/-- End with a fault code when a condition holds. -/
def failIf (c : Bool) (code : Nat) : Cm Unit := if c then throw { code } else pure ()
/-- End with a fault of an access at an address (R571). -/
def failAt {α : Type} (code addr : Nat) : Cm α := throw { code, addr }

/- Fault codes of R103. -/
def fIllegalOpcode : Nat := 0x0001
def fReservedField : Nat := 0x0002
def fWindowInvalid : Nat := 0x0003
def fWindowViolation : Nat := 0x0004
def fStagedWrite : Nat := 0x0005
def fAddrUnmapped : Nat := 0x0006
def fMisaligned : Nat := 0x0007
def fGenMismatch : Nat := 0x0008
def fNotPermitted : Nat := 0x0009
def fWriteFenced : Nat := 0x000A
def fBlocklistLimit : Nat := 0x000B
def fPeerLost : Nat := 0x000C
def fCancelled : Nat := 0x000D
def fFlowPavConflict : Nat := 0x0110
def fContextLost : Nat := 0x0111
/- Containment codes of R585. -/
def fCoreFenced : Nat := 0x0200
def fDomainReset : Nat := 0x0201
def fUncorrectable : Nat := 0x0202
def fRetryExhausted : Nat := 0x0203
def fResourceRetired : Nat := 0x0204
def fUnreachable : Nat := 0x0205

/-! ### Free values -/

/-- Take a fresh free value (the counter advances; its value is `Config.freeValue` of it). -/
def takeFree (s : State) : State × Nat := ({ s with fresh := s.fresh + 1 }, (Config.freeValue s.fresh).toNat)

/-! ### Registers and counters -/

/-- Key of a register: page, offset and bank index. -/
def rkey (page off idx : Nat) : Nat := (page * 4096 + off) * 65536 + idx

/-- The Reset value of a register (R10, R646). -/
def regReset (page off : Nat) : Word :=
  match regRow page off with
  | some r => BitVec.ofNat 32 r.reset
  | none => 0

/-- The shadow (or plain) value of a register. -/
def getSh (s : State) (page off idx : Nat) : Word :=
  (s.regs.shadow.get none (rkey page off idx)).getD (regReset page off)
/-- The active copy of a shadowed register. -/
def getAct (s : State) (page off idx : Nat) : Word :=
  (s.regs.active.get none (rkey page off idx)).getD (regReset page off)
/-- The active copy as a number. -/
def actN (s : State) (page off : Nat) (idx : Nat := 0) : Nat := (getAct s page off idx).toNat
/-- A plain register as a number. -/
def shN (s : State) (page off : Nat) (idx : Nat := 0) : Nat := (getSh s page off idx).toNat

/-- An entry that equals the Reset value is not listed. -/
def regEntry (page off : Nat) (v : Word) : Option Word := if v = regReset page off then none else some v

/-- Write a shadow or plain register. -/
def setSh (s : State) (page off idx : Nat) (v : Word) : State :=
  { s with regs := { s.regs with shadow := s.regs.shadow.put none (rkey page off idx) (regEntry page off v) } }
/-- Write an active copy. -/
def setAct (s : State) (page off idx : Nat) (v : Word) : State :=
  { s with regs := { s.regs with active := s.regs.active.put none (rkey page off idx) (regEntry page off v) } }
/-- Write both copies, as the firmware does for an FW value (R10). -/
def setBoth (s : State) (page off idx : Nat) (v : Word) : State := setAct (setSh s page off idx v) page off idx v

/-- The count of a counter. -/
def cnt (s : State) (page off : Nat) (idx : Nat := 0) : Nat := s.regs.count.get 0 (rkey page off idx)

/-- The active profile word (R20, R25, R538). -/
def profileWord (s : State) : Nat := actN s (pageNo clsGH 0) 0x10C
/-- Is the active profile DETERMINISTIC? -/
def deterministic (s : State) : Bool := bitOf (profileWord s) 0

/-- Largest value of a counter (R137): 64-bit pairs and 32-bit counters. -/
def cntMax (page off : Nat) : Nat :=
  match regRow page off with
  | some r => if r.kind = .cnt64 ∨ r.kind = .ro then 2 ^ 64 - 1 else 2 ^ 32 - 1
  | none => 2 ^ 64 - 1

/-- The module counter that counts the same events (R664). -/
def blvOf (page off : Nat) : Option Nat :=
  let c := pageCls page
  if c = clsFAR ∧ off = 0x68 then some 0x40
  else if c = clsDNS ∧ off = 0x40 then some 0x48
  else if c = clsCORE ∧ off = 0x48 then some 0x50
  else if c = clsNEAR ∧ (off = 0x40 ∨ off = 0x48) then some 0x58
  else if c = clsPE ∧ off = 0x50 then some 0x60
  else none

/-- The active RETRY_MAX of GH[1] (R593, R595). -/
def retryMax (s : State) : Nat := bitsOf (actN s (pageNo clsGH 1) 0x400) 0 2

/-- Add to one counter, saturating (R137). -/
def addCnt (s : State) (page off idx n : Nat) : State :=
  let v := cnt s page off idx + n
  let m := cntMax page off
  { s with regs := { s.regs with count := s.regs.count.put 0 (rkey page off idx) (if v > m then m else v) } }

/-- Count `n` events, here and in the module counter of BLV that counts them (R137, R664). -/
def bump (s : State) (page off : Nat) (n : Nat := 1) : State :=
  let s := addCnt s page off 0 n
  match blvOf page off with
  | some o => addCnt s (pageNo clsBLV 0) o 0 n
  | none => s

/-- Page of a class at an instance. -/
def pg (cls inst : Nat) : Nat := pageNo cls inst

/-- The header of a page. -/
def page (s : State) (n : Nat) : Page := s.pages.get {} n
/-- Change the header of a page. -/
def updPage (s : State) (n : Nat) (f : Page → Page) : State := { s with pages := s.pages.upd {} n f }

/-- Does the page raise its summary (R649)? -/
def Page.summary (p : Page) : Bool := (p.evt &&& p.evtEn) != 0 || (p.err &&& p.errEn) != 0

/-- GH[0].EVT_SUMMARY (R649): bit c, a page of class c raises its summary. -/
def evtSummary (s : State) : Nat :=
  s.pages.foldl (fun acc e => if e.2.summary then acc ||| (1 <<< pageCls e.1) else acc) 0

/-- Send something out of the module. -/
def emit (s : State) (o : Out) : State := { s with out := o :: s.out }

/-- Send or pend the interrupt of a function's vector (R573). -/
def interrupt (s : State) (f v port : Nat) : State :=
  let k := f * 256 + v
  let e := s.msix.get {} k
  if e.masked then { s with msix := s.msix.put {} k { e with pending := true } }
  else emit (bump s (pg clsHIF 0) 0x68) (.msix f v port)

/-- Change the status or the enables of a page, with the one interrupt of R649 when EVT_SUMMARY leaves zero. -/
def raisePage (s : State) (n : Nat) (f : Page → Page) : State :=
  let s1 := updPage s n f
  if evtSummary s = 0 ∧ evtSummary s1 ≠ 0 then interrupt s1 0 0 0 else s1
/-- Set a bit of EVT_STATUS (R648). -/
def raiseEvt (s : State) (n bit : Nat) : State := raisePage s n (fun p => { p with evt := p.evt ||| (1 <<< bit) })
/-- Set a bit of ERR_STATUS (R648). -/
def raiseErr (s : State) (n bit : Nat) : State := raisePage s n (fun p => { p with err := p.err ||| (1 <<< bit) })

/-! ### The address map -/

/-- Start of Pavilion p's near tier (R12). -/
def nearBase (p : Nat) : Nat := p * 2 ^ 36
/-- First far-tier address (R43). -/
def farBase : Nat := 0x40000000000
/-- Bytes of the far tier (R1). -/
def farSize (s : State) : Nat := match s.part with | .qxm4T => 2 ^ 42 | .qxm2T => 2 ^ 41
/-- First scratchpad address (R12). -/
def spBase : Nat := 0xC0000000000
/-- Scratchpad of module core c (R12, R408). -/
def spOf (c : Nat) : Nat := spBase + c * 2 ^ 22
/-- First register address (R643). -/
def regSpace : Nat := 0xE0000000000

/-- Is the local address near tier? -/
def isNear (a : Nat) : Bool := decide (a < 2 ^ 40)
/-- Is the local address populated far tier (R3)? -/
def isFar (s : State) (a : Nat) : Bool := decide (farBase ≤ a ∧ a < farBase + farSize s)
/-- Is the local address in the host window (R43)? -/
def isHost (a : Nat) : Bool := decide (0x80000000000 ≤ a ∧ a < 0xC0000000000)
/-- Is the local address a scratchpad? -/
def isSp (a : Nat) : Bool := decide (spBase ≤ a ∧ a < spBase + 512 * 2 ^ 22)
/-- Populated memory of the module itself. -/
def isMem (s : State) (a : Nat) : Bool := isNear a || isFar s a || isSp a
/-- Populated memory, the host window included (R684). -/
def populated (s : State) (a : Nat) : Bool := isMem s a || isHost a
/-- Is every byte of the range populated memory, of whatever kinds (R3, R684)? The far tier of a 4T, the host window and the scratchpads
follow on one another without a gap. -/
def popSpan (s : State) (a len : Nat) : Bool :=
  let pop (x : Nat) : Bool := isFar s x || isHost x || isSp x
  len == 0 || (isNear a && isNear (a + len - 1)) ||
  (pop a && pop (a + len - 1) && (!isFar s a || isFar s (a + len - 1) || farBase + farSize s == 0x80000000000))

/-- Does the whole range lie in one populated kind (R684)? -/
def popRange (s : State) (a len : Nat) : Bool :=
  len == 0 ||
  (isNear a && isNear (a + len - 1)) || (isFar s a && isFar s (a + len - 1)) || (isHost a && isHost (a + len - 1)) ||
  (isSp a && isSp (a + len - 1))

/-- Module id of a global address (R27). -/
def gMod (g : Nat) : Nat := bitsOf g 44 12
/-- Local part of a global address. -/
def gLoc (g : Nat) : Nat := g % 2 ^ 44

/-- Is a value of TOPO a layout (R527)? -/
def layoutOk (t : Nat) : Bool :=
  let len (a : Nat) : Nat := bitsOf t (4 * a) 4 + 1
  decide (len 0 * len 1 * len 2 * len 3 ≤ 4096) && (List.range 4).all (fun a => decide (bitsOf t (16 + 4 * a) 4 < len a))

/-- The torus of R19 and R532 as the active TOPO register of PE[0] holds it: axis lengths and own coordinates. -/
def topo (s : State) : Nat := actN s (pg clsPE 0) 0x118
/-- Length of axis a (0 D, 1 M, 2 P, 3 G). -/
def axisLen (s : State) (a : Nat) : Nat := bitsOf (topo s) (4 * a) 4 + 1
/-- Own coordinate on axis a. -/
def ownCoord (s : State) (a : Nat) : Nat := bitsOf (topo s) (16 + 4 * a) 4
/-- Number of modules of the torus (R19). -/
def torusSize (s : State) : Nat := axisLen s 0 * axisLen s 1 * axisLen s 2 * axisLen s 3
/-- Module id of coordinates (R532). -/
def coordId (s : State) (d m p g : Nat) : Nat := d + axisLen s 0 * (m + axisLen s 1 * (p + axisLen s 2 * g))
/-- The module's own id (R532). -/
def ownId (s : State) : Nat := coordId s (ownCoord s 0) (ownCoord s 1) (ownCoord s 2) (ownCoord s 3)
/-- Coordinate of a module id on axis a (R532). -/
def idCoord (s : State) (id a : Nat) : Nat :=
  match a with
  | 0 => id % axisLen s 0
  | 1 => id / axisLen s 0 % axisLen s 1
  | 2 => id / (axisLen s 0 * axisLen s 1) % axisLen s 2
  | _ => id / (axisLen s 0 * axisLen s 1 * axisLen s 2)
/-- Is the module id in the torus (R27)? -/
def inTorus (s : State) (id : Nat) : Bool := decide (id < torusSize s)
/-- The module that stands for a module id: its replacement once REMAP has named one (R555, R556). -/
def standIn (s : State) (id : Nat) : Nat := ((s.gate.aliases.find? (fun a => a.1 == id)).map (·.2)).getD id
/-- The id of the module's role: that of the module it stands in for, else its own (R555). -/
def roleId (s : State) : Nat := ((s.gate.aliases.find? (fun a => a.2 == ownId s)).map (·.1)).getD (ownId s)
/-- Coordinate of the module's role on axis a. -/
def roleCoord (s : State) (a : Nat) : Nat := idCoord s (roleId s) a
/-- Does the global address name the issuing module (R27)? -/
def isOwn (s : State) (g : Nat) : Bool := standIn s (gMod g) == ownId s
/-- The global address of a local one. -/
def gAddr (s : State) (a : Nat) : Nat := ownId s * 2 ^ 44 + a

/-! ### Memory -/

/-- What the byte at an address reads as where memory lists none: zero (R402, R410, R634 step 9), or, in a range whose contents were
lost, a byte that nothing determines. -/
def bgB (s : State) (a : Nat) : Byte :=
  match s.lost.find? (fun r => decide (r.1 ≤ a ∧ a < r.1 + r.2.1)) with
  | some r => Config.lostByte r.2.2 a
  | none => 0
/-- The byte at a local address: the listed byte is kept as its difference from `bgB`. -/
def rdB (s : State) (a : Nat) : Byte := Tab.get 0 s.mem a ^^^ bgB s a
/-- Write one byte. -/
def wrB (s : State) (a : Nat) (v : Byte) : State := { s with mem := Tab.put 0 s.mem a (v ^^^ bgB s a) }
/-- Forget what memory lists of a range. -/
def dropMem (s : State) (base len : Nat) : State := { s with mem := Tab.keep (fun a _ => !decide (base ≤ a ∧ a < base + len)) s.mem }
/-- The contents of a range are lost: its bytes are undefined from now on. -/
def lose (s : State) (base len : Nat) : State :=
  let s := dropMem s base len
  { s with lost := (base, len, s.fresh) :: s.lost.filter (fun r => !decide (base ≤ r.1 ∧ r.1 + r.2.1 ≤ base + len)), fresh := s.fresh + 1 }
/-- A range is zeroed. -/
def zeroRange (s : State) (base len : Nat) : State :=
  let s := dropMem s base len
  { s with lost := s.lost.filter (fun r => !decide (base ≤ r.1 ∧ r.1 + r.2.1 ≤ base + len)) }
/-- The little-endian number in n bytes at a (R6). -/
def rdN (s : State) (a : Nat) : Nat → Nat
  | 0 => 0
  | n + 1 => (rdB s a).toNat + 256 * rdN s (a + 1) n
/-- Write n bytes, little-endian (R6). -/
def wrN (s : State) (a : Nat) : Nat → Nat → State
  | 0, _ => s
  | n + 1, v => wrN (wrB s a (BitVec.ofNat 8 v)) (a + 1) n (v / 256)
/-- The bytes of a range. -/
def rdBytes (s : State) (a : Nat) : Nat → List Byte
  | 0 => []
  | n + 1 => rdB s a :: rdBytes s (a + 1) n
/-- Write a list of bytes. -/
def wrBytes (s : State) (a : Nat) : List Byte → State
  | [] => s
  | b :: r => wrBytes (wrB s a b) (a + 1) r

/-- The byte of host memory at a port's bus address. -/
def rdHostB (s : State) (port bus : Nat) : Byte := Tab.get 0 s.hostMem (port * 2 ^ 64 + bus)
/-- Write one byte of host memory. -/
def wrHostB (s : State) (port bus : Nat) (v : Byte) : State :=
  { s with hostMem := Tab.put 0 s.hostMem (port * 2 ^ 64 + bus) v }

/-- Tag of a granule, true for FULL (R415). -/
def tagFull (s : State) (a : Nat) : Bool := Tab.get false s.tags ((a - spBase) / 64)
/-- Set the tag of a granule. -/
def setTag (s : State) (a : Nat) (full : Bool) : State := { s with tags := Tab.put false s.tags ((a - spBase) / 64) full }

/-! ### Reset domains (R587 to R591, R629) -/

/-- Key of module core c's domain. -/
def dCore (c : Nat) : Nat := c
/-- Key of a Pavilion's domain. -/
def dPav (p : Nat) : Nat := 0x1000 + p
/-- Key of an Orangery's channel group. -/
def dGroup (o g : Nat) : Nat := 0x2000 + 4 * o + g
/-- Key of a link's domain. -/
def dLink (l : Nat) : Nat := 0x3000 + l
/-- Key of engine e of a Pavilion's samplers, which is only ever fenced (R187, R592). -/
def dSmp (p e : Nat) : Nat := 0x6000 + 2 * p + e
/-- Key of a whole Orangery, which is only ever fenced (R592). -/
def dOrang (o : Nat) : Nat := 0x4000 + o
/-- Key of a remote module, whose domains the module names only by its id (R589). -/
def dRemote (m : Nat) : Nat := 0x5000 + m
/-- Key of a block page. -/
def dPage (n : Nat) : Nat := 0x10000 + n

/-- The domain at a key. -/
def dom (s : State) (k : Nat) : Domain := s.doms.get {} k
/-- Change a domain. -/
def updDom (s : State) (k : Nat) (f : Domain → Domain) : State := { s with doms := s.doms.upd {} k f }
/-- Is the domain fenced? -/
def domFenced (s : State) (k : Nat) : Bool := (dom s k).service == .fenced
/-- Is the domain resetting? -/
def domResetting (s : State) (k : Nat) : Bool := (dom s k).service == .resetting

/-- Domain behind a page (R647, R629): Pavilion, link, channel groups or the block itself. -/
def pageDom (n : Nat) : Nat :=
  match pageCls n with
  | 1 => dPav (pageInst n)
  | 17 => dLink (pageInst n)
  | _ => dPage n

/-- Orangery of a far-tier address: 8 GiB pieces in turn (R377). -/
def farOrang (a : Nat) : Nat := (a - farBase) / 2 ^ 33 % 4

/-- Far address of an Orangery's offset (R377). -/
def farAddr (o x : Nat) : Nat := farBase + x / 2 ^ 33 * 2 ^ 35 + o * 2 ^ 33 + x % 2 ^ 33

/-! ### Channels (R377, R378, R380) -/

/-- Orangery offset of a far address. -/
def farOffset (a : Nat) : Nat := (a - farBase) / 2 ^ 35 * 2 ^ 33 + (a - farBase) % 2 ^ 33

/-- The granule exponent of the valid interleave region that holds a unit of the map (R378, R380): `rd` reads IL0 to IL7, `n` is the
width of BASE. -/
def ilGran (rd : Nat → Nat) (n unit : Nat) : Nat :=
  match (List.range 8).find? (fun i => let r := rd (4 * i); bitOf r 18 && decide (bitsOf r 0 n ≤ unit ∧ unit ≤ bitsOf r 0 n + bitsOf r 8 n)) with
  | some i => 8 + 4 * bitsOf (rd (4 * i)) 16 2
  | none => 8

/-- Offset within a Pavilion or Orangery, and its granule exponent. -/
def ilOffset (s : State) (a : Nat) : Nat × Nat :=
  if isNear a then (a % 2 ^ 36, ilGran (fun i => actN s (pageNo clsNEAR (a / 2 ^ 36)) (0x140 + i)) 8 (a % 2 ^ 36 / 2 ^ 28))
  else (farOffset a, ilGran (fun i => actN s (pageNo clsFAR 0) (0x1B0 + i)) 7 ((a - farBase) / 2 ^ 35))

/-- Channel of a near or far address within its Pavilion or Orangery (R378). -/
def channel (s : State) (a : Nat) : Nat :=
  let (x, g) := ilOffset s a
  (x >>> g) % 64 ^^^ (x >>> (g + 6)) % 64

/-- Channel address (R378). -/
def chanAddr (s : State) (a : Nat) : Nat :=
  let (x, g) := ilOffset s a
  (x >>> (g + 6)) * 2 ^ g + x % 2 ^ g

/-- Key of a channel. -/
def chanKey (s : State) (a : Nat) : Nat :=
  if isNear a then 64 * (a / 2 ^ 36) + channel s a else 4096 + 64 * farOrang a + channel s a
/-- The unit of a channel at a channel address: the map of R378 the other way. -/
def chanUnit (s : State) (k ca : Nat) : Nat :=
  let x (g : Nat) : Nat := (ca / 2 ^ g * 64 + (k % 64 ^^^ ca / 2 ^ g % 64)) * 2 ^ g + ca % 2 ^ g
  if k < 4096 then nearBase (k / 64) + x (ilGran (fun i => actN s (pageNo clsNEAR (k / 64)) (0x140 + i)) 8 (ca / 2 ^ 22))
  else farAddr ((k - 4096) / 64) (x (ilGran (fun i => actN s (pageNo clsFAR 0) (0x1B0 + i)) 7 (ca / 2 ^ 27)))
/-- A channel. -/
def chan (s : State) (k : Nat) : Chan := s.chans.get {} k
/-- Physical channel that serves a near controller: its own, or a spare once the copy has ended (R397). -/
def physOf (s : State) (k : Nat) : Nat := (chan s k).phys.getD (k % 64)
/-- The item of a list of runs at place i. -/
def runAt : List (Nat × Nat × Nat) → Nat → Option (Nat × Nat)
  | [], _ => none
  | (k, b, n) :: r, i => if i < n then some (k, b + i) else runAt r (i - n)
/-- The channel and frame that hold a far channel's frame: its own, or, of a channel retired whole, a spare frame of another; none where it
is fenced (R398). -/
def frameHome (s : State) : Nat → Nat → Nat → Option (Nat × Nat)
  | 0, _, _ => none
  | n + 1, k, f =>
    let c := chan s k
    if c.fenced.contains f then none
    else if c.st != 2 then some (k, f)
    else match runAt c.into (f - (c.fenced.filter (fun x => decide (x < f))).length) with
      | some x => frameHome s n x.1 x.2
      | none => some (k, f)
/-- The channel and frame that hold a far address. -/
def dataFrame (s : State) (a : Nat) : Option (Nat × Nat) := frameHome s 64 (chanKey s a) (chanAddr s a / 2 ^ 20)
/-- The channel of its Orangery that holds a far address. -/
def dataChan (s : State) (a : Nat) : Nat := match dataFrame s a with | some x => x.1 % 64 | none => channel s a
/-- Is the channel, or the frame, of an address fenced (R397, R398)? -/
def chanFenced (s : State) (a : Nat) : Bool :=
  if isNear a then (chan s (chanKey s a)).st == 3 else (dataFrame s a).isNone

/-- Serve state of a local memory address: in service, resetting, or fenced (R589, R591). -/
def memService (s : State) (a : Nat) : Service :=
  let join (x y : Service) : Service := match x, y with
    | .fenced, _ => .fenced | _, .fenced => .fenced | .resetting, _ => .resetting | _, .resetting => .resetting | _, _ => .inService
  if (isNear a || isFar s a) && chanFenced s a then .fenced
  else if isNear a then join (dom s (dPav (a / 2 ^ 36))).service (dom s (dPage (pg clsNEAR (a / 2 ^ 36)))).service
  else if isSp a then
    let c := (a - spBase) / 2 ^ 22
    join (dom s (dCore c)).service (dom s (dPav (c / 32))).service
  else if isFar s a then join (dom s (dOrang (farOrang a))).service (dom s (dGroup (farOrang a) (dataChan s a / 16))).service
  else .inService

/-- Resource word of R584. -/
def resource (die kind index : Nat) : Nat := die + kind * 32 + index * 1024

/-- Resource that a memory address stands on (R583, R584): the physical channel that serves it. -/
def memResource (s : State) (a : Nat) : Nat :=
  if isNear a then resource (a / 2 ^ 36) 1 (physOf s (chanKey s a))
  else if isSp a then let c := (a - spBase) / 2 ^ 22; resource (c / 32) 0 (c % 32)
  else if isFar s a then resource (16 + farOrang a) 2 (dataChan s a)
  else resource 20 14 0

/-! ### Power (R613 to R620) -/

/-- Is a Pavilion out of Run, or the module? What reaches it waits for a wake (R617). -/
def pavAsleep (s : State) (p : Nat) : Bool := s.power.mode != 0 || s.power.pavs.get 0 p != 0
/-- Port that carries a host-window address (R574). -/
def hostPort (a : Nat) : Nat := if a < 0xA0000000000 then 0 else 1

/-- Does a port carry traffic (R564)? Its link is up in flit mode, and ×4 at least. -/
def portServes (s : State) (port : Nat) : Bool :=
  if port = 0 then s.pcie.up0 && s.pcie.flit0 && decide (2 ≤ s.pcie.width0) else s.pcie.up1 && s.pcie.flit1 && decide (2 ≤ s.pcie.width1)

/-- Does a local address lie in memory that is asleep, or behind a port that carries no traffic? DESIGN CHOICE (log entry 91): an access of host
memory waits for its port. -/
def asleep (s : State) (a : Nat) : Bool :=
  if isNear a then pavAsleep s (a / 2 ^ 36)
  else if isSp a then pavAsleep s ((a - spBase) / 2 ^ 22 / 32)
  else s.power.mode != 0 || (isHost a && !portServes s (hostPort a))

/-! ### Units -/

/-- The page whose ENABLE, fence and reset govern a unit. -/
def euPage : EUnit → Nat
  | .thread c => pg clsCORE (c / 32) | .stm c => pg clsSTM (c / 32) | .dns c => pg clsDNS (c / 32) | .sps c => pg clsSPS (c / 32)
  | .vec c => pg clsVEC (c / 32) | .num p => pg clsNUM p | .smp p => pg clsSMP p | .row p => pg clsROW p | .merge p => pg clsROW p
  | .col a => pg clsCOL a | .rng p => pg clsRNG p | .sel p => pg clsSEL p | .hdg p => pg clsHDG p | .dsp p => pg clsDSP p
  | .mgr => pg clsGH 0

/-- Pavilion of a unit, if it has one. -/
def euPav : EUnit → Option Nat
  | .thread c => some (c / 32) | .stm c => some (c / 32) | .dns c => some (c / 32) | .sps c => some (c / 32) | .vec c => some (c / 32)
  | .num p => some p | .smp p => some p | .row p => some p | .merge p => some p | .rng p => some p | .sel p => some p | .hdg p => some p
  | .dsp p => some p | .col _ => none | .mgr => none

/-- Commands a unit can hold, queued or in service (R249, R283, R313, R443, R187, R196, R475, R494, R305). -/
def euDepth : EUnit → Nat
  | .dns _ => 8 | .sps _ => 4 | .vec _ => 8 | .stm _ => 16 | .smp _ => 16 | .row _ => 16 | .rng _ => 16 | .sel _ => 8
  | .hdg _ => 64 | .col _ => 256 | .thread _ => 512 | _ => 4096

/-- The outstanding commands. -/
def opList (s : State) : List (Nat × Op) := s.ops.filterMap (fun e => e.2.map (fun o => (e.1, o)))
/-- How many outstanding commands a unit holds; those of a saved task are in its frame, not in its core's engines (R335), and so are those of
a resumed one until there is room. -/
def euCount (s : State) (u : EUnit) : Nat :=
  ((opList s).filter (fun e => decide (e.2.eu = u) && !e.2.kept && !(e.2.parked && (match u with | .dns _ | .sps _ | .vec _ => true | _ => false)))).length
/-- The outstanding command with an id. -/
def getOp (s : State) (id : Nat) : Option Op := s.ops.get none id
/-- Change an outstanding command. -/
def updOp (s : State) (id : Nat) (f : Op → Op) : State :=
  match getOp s id with
  | some o => { s with ops := s.ops.put none id (some (f o)) }
  | none => s
/-- Remove an outstanding command. -/
def dropOp (s : State) (id : Nat) : State :=
  { s with ops := s.ops.put none id none, strms := s.strms.put none id none, walks := s.walks.put none id none,
           hworks := s.hworks.put none id none, vworks := s.vworks.put none id none, sworks := s.sworks.put none id none,
           gworks := s.gworks.put none id none, moves := s.moves.put none id none, dworks := s.dworks.put none id none }

/-- A slot by key. -/
def slot (s : State) (k : Nat) : Slot := s.slots.get {} k
/-- Change a slot. -/
def updSlot (s : State) (k : Nat) (f : Slot → Slot) : State := { s with slots := s.slots.upd {} k f }
/-- Key of slot n of Pavilion p. -/
def slotKey (p n : Nat) : Nat := p * 4096 + n

/-- A thread by key: module core · 16 + thread. -/
def thr (s : State) (k : Nat) : Thread := s.thrs.get {} k
/-- Change a thread. -/
def updThr (s : State) (k : Nat) (f : Thread → Thread) : State := { s with thrs := s.thrs.upd {} k f }
/-- Key of a thread. -/
def thrKey (t : Thr) : Nat := t.core.val * 16 + t.thr.val

/-- Key of the thread that issued an outstanding command; that of a PREEMPTED task has no hardware thread, and is named by its slot and
index. -/
def Op.key (o : Op) : Option Nat :=
  match o.iss with
  | .thread t => some (if o.parked then 8192 + 16 * o.slot.getD 0 + o.thrIdx else thrKey t)
  | .queue _ => none

/-- A register of a thread (R76). -/
def thrReg (s : State) (k r : Nat) : DWord := (thr s k).regs.get 0 r
/-- Write a register of a thread. -/
def setThrReg (s : State) (k r : Nat) (v : DWord) : State := updThr s k (fun t => { t with regs := t.regs.put 0 r v })

/-- A request in flight by tag. -/
def getReq (s : State) (id : Nat) : Option Req := s.reqs.get none id
/-- Issue a request; its tag is the counter's value. -/
def addReq (s : State) (r : Req) : State × Nat :=
  ({ s with reqs := s.reqs.put none s.nextReq (some r), nextReq := s.nextReq + 1 }, s.nextReq)
/-- Release a tag. -/
def dropReq (s : State) (id : Nat) : State := { s with reqs := s.reqs.put none id none }
/-- The requests in flight. -/
def reqList (s : State) : List (Nat × Req) := s.reqs.filterMap (fun e => e.2.map (fun r => (e.1, r)))

/-- The step numbers compare in serial order (R214): a is b or later. -/
def serialGe (a b : BitVec 32) : Bool := decide ((a - b).toNat < 2 ^ 31)

end Sys2Proof.Machine
end

