-- ==== Sys2Proof/Machine/Areas.lean ====
section
/-!
DEFINITION. The address ranges that belong to the module: dispatcher, run-ahead, merge, stage, journal and translation areas,
the spare range (R131, R218, R347, R353, R367, R371, R392, R581), and the staged ranges of R49 and R200.
-/
namespace Sys2Proof.Machine
open Sys2Proof

/-- A range of local addresses: start and length. -/
abbrev Range := Nat × Nat

/-- Do two ranges overlap? -/
def overlaps (x y : Range) : Bool := decide (x.1 < y.1 + y.2 ∧ y.1 < x.1 + x.2)
/-- Does the first range lie inside the second? -/
def inside (x y : Range) : Bool := decide (y.1 ≤ x.1 ∧ x.1 + x.2 ≤ y.1 + y.2)

/-- The 64-byte units of a range. -/
def unitsOf (a len : Nat) : List Nat :=
  if len = 0 then [] else (List.range ((len - 1 + a % 64) / 64 + 1)).map (fun i => 64 * (a / 64 + i))

/-- The first 64-byte unit of a range that memory does not serve: a group that resets, or what is fenced (R400, R589, R591). -/
def unserved (s : State) (a len : Nat) : Option Nat := (unitsOf a len).find? (fun u => memService s u != .inService)
/-- Does a range reach memory that resets? -/
def resets (s : State) (a len : Nat) : Bool := (unserved s a len).any (fun u => memService s u == .resetting)
/-- Does a range reach memory that is asleep (R617)? -/
def sleeps (s : State) (a len : Nat) : Bool := asleep s a || asleep s (a + (len - 1))

/-- The 44-bit address held in a LO and a HI register of a page. -/
def pairAddr (rd : Nat → Nat) (lo : Nat) : Nat := rd lo + rd (lo + 4) * 2 ^ 32
/-- An address held in the active copies of a LO and HI pair. -/
def actAddr (s : State) (page lo : Nat) (idx : Nat := 0) : Nat := actN s page lo idx + actN s page (lo + 4) idx * 2 ^ 32
/-- An address held in the shadow copies of a LO and HI pair. -/
def shAddr (s : State) (page lo : Nat) (idx : Nat := 0) : Nat := shN s page lo idx + shN s page (lo + 4) idx * 2 ^ 32

/-- Dispatcher area of a Pavilion (R131). -/
def dispArea (s : State) (p : Nat) : Range := (actAddr s (pg clsDSP p) 0x400, 2 ^ 28)
/-- Run-ahead area (R218). -/
def raArea (s : State) (p : Nat) : Range := (actAddr s (pg clsROW p) 0x404, 2 ^ 24)
/-- Merge area (R375). -/
def mergeArea (s : State) (p : Nat) : Range := (actAddr s (pg clsROW p) 0x800, 2 ^ 31)
/-- Near stage area (R353). -/
def nstageArea (s : State) (p : Nat) : Range := (actAddr s (pg clsROW p) 0x808, 2 ^ 30)
/-- Far stage area (R353). -/
def fstageArea (s : State) : Range := (actAddr s (pg clsROW 0) 0x840, 2 ^ 35)
/-- Journal area (R367, R375). -/
def journalArea (s : State) : Range := (actAddr s (pg clsROW 0) 0x848, actN s (pg clsROW 0) 0x850 * 2 ^ 34)
/-- Host translation table of a port (R574). -/
def httArea (s : State) (port : Nat) : Range := (actAddr s (pg clsHIF 0) (0x400 + 8 * port), 2 ^ 23)
/-- Spare range (R392). -/
def spareRange (s : State) : Range :=
  match s.part with | .qxm4T => (0x7C800000000, 2 ^ 37) | .qxm2T => (0x5D800000000, 2 ^ 36)

/-- A context frame (R131): slot n of Pavilion p. -/
def frameAddr (s : State) (p n : Nat) : Nat := (dispArea s p).1 + n * 0x8000

/-- The sixteen Pavilions. -/
def pavs : List Nat := List.range 16

/-- The areas that no block, ROW_MOVE destination or state span may overlap (R198, R371, R392). -/
def dispAreas (s : State) : List Range := pavs.map (dispArea s) ++ pavs.map (raArea s)
/-- The merge, stage and journal areas (R371). -/
def mergeAreas (s : State) : List Range :=
  pavs.map (mergeArea s) ++ pavs.map (nstageArea s) ++ [fstageArea s, journalArea s]
/-- Every area of R582 check 3. -/
def moduleAreas (s : State) : List Range :=
  dispAreas s ++ mergeAreas s ++ [httArea s 0, httArea s 1, spareRange s]

/-! ### Tables (R196 to R201, R227) -/

/-- A row-directory table as a ROW page's registers hold it. -/
structure Table where
  idFirst : Nat
  partSize : Nat
  valid : Bool
  frozen : Bool
  elems : Nat
  gCount : Nat
  shift : Nat
  bmap : Nat
deriving DecidableEq, Repr

/-- The table that values of 0x114 to 0x12C spell. -/
def tableOf (rd : Nat → Nat) : Table :=
  let c := rd 0x124
  { idFirst := pairAddr rd 0x114, partSize := pairAddr rd 0x11C, valid := bitOf c 0, frozen := bitOf c 1,
    elems := bitsOf c 2 12 + 1, gCount := bitsOf c 14 4 + 1, shift := bitsOf c 18 5, bmap := pairAddr rd 0x128 }
/-- Active copy of table t on ROW[p]. -/
def table (s : State) (p t : Nat) : Table := tableOf (fun o => actN s (pg clsROW p) o t)
/-- Shadow copy of table t on ROW[p]. -/
def tableSh (s : State) (p t : Nat) : Table := tableOf (fun o => shN s (pg clsROW p) o t)

/-- Bytes of a row of `e` elements in a width class (R201). -/
def classBytes (cls e : Nat) : Nat :=
  match cls with | 0 => 4 * e | 1 => 2 * e | 2 => 4 + e | _ => e / 32 + e / 2
/-- STRIDE(CLASS) (R201). -/
def classStride (cls e : Nat) : Nat := ceilDiv (classBytes cls e) 64 * 64

/-- Blocks of a partition (R197). -/
def Table.blocks (t : Table) : Nat := ceilDiv t.partSize (2 ^ t.shift)
/-- Local address of the block-map entry of block b in Pavilion p's copy (R197). -/
def Table.entryAddr (t : Table) (p b : Nat) : Nat := nearBase p + t.bmap + 8 * b
/-- A block-map entry. -/
def blockEntry (s : State) (t : Table) (p b : Nat) : Nat := rdN s (t.entryAddr p b) 8
/-- Local address of a block's first row. -/
def entryBase (e : Nat) : Nat := bitsOf e 0 38 * 64
/-- Width class of a block. -/
def entryClass (e : Nat) : Nat := bitsOf e 38 2
/-- Span of a block (R198). -/
def blockSpan (t : Table) (e : Nat) : Range := (entryBase e, 2 ^ t.shift * classStride (entryClass e) t.elems)
/-- Is a block inconsistent (R198, R201, R371, R392)? -/
def blockInconsistent (s : State) (t : Table) (e : Nat) : Bool :=
  let sp := blockSpan t e
  bitOf e 40 && (bitsOf e 42 22 != 0 || !((isNear sp.1 && isNear (sp.1 + sp.2 - 1)) || (isFar s sp.1 && isFar s (sp.1 + sp.2 - 1))) ||
    (dispAreas s ++ mergeAreas s ++ [spareRange s]).any (overlaps sp) || (entryClass e == 3 && t.elems % 32 != 0))

/-- Partition and index of an id, where the table holds it (R196). -/
def Table.index (t : Table) (id : Nat) : Option (Nat × Nat) :=
  if t.idFirst ≤ id ∧ id < t.idFirst + t.gCount * t.partSize then
    some ((id - t.idFirst) / t.partSize, (id - t.idFirst) % t.partSize)
  else none

/-- Pavilion that resolves a row for another module, and every update (R210, R350). -/
def resolver (s : State) (t id : Nat) : Nat :=
  let tb := table s 0 t
  match tb.index id with
  | some (_, x) => 4 * (x / 2 ^ tb.shift % 4)
  | none => 0

/-- Local address of a row, as Pavilion p's copies of the table and of the block map have it. -/
def mapRow (s : State) (p t id : Nat) : Option Nat :=
  let tb := table s p t
  match tb.valid, tb.index id with
  | true, some (_, x) =>
    let e := blockEntry s tb p (x / 2 ^ tb.shift)
    if bitOf e 40 then some (entryBase e + x % 2 ^ tb.shift * classStride (entryClass e) tb.elems) else none
  | _, _ => none

/-- The staged ranges of a table held through ROW[p]'s copy: its block maps and the rows of its blocks (R200). -/
def tableRanges (s : State) (p t : Nat) : List Range :=
  let tb := table s p t
  if tb.valid then
    (nearBase p + tb.bmap, 8 * tb.blocks) ::
      (List.range tb.blocks).filterMap (fun b => let e := blockEntry s tb p b; if bitOf e 40 then some (blockSpan tb e) else none)
  else []

/-- The tables whose entries differ from reset on a page, so that only those are looked at. -/
def tablesOf (s : State) (p : Nat) : List Nat :=
  (s.regs.active.filter (fun e => e.1 / 65536 = pg clsROW p * 4096 + 0x124)).map (fun e => e.1 % 65536)

/-! ### Dense regions (R365) -/

/-- A dense region as ROW[0]'s registers hold it. -/
structure Region where
  valid : Bool
  bf16 : Bool
  opt : Nat
  wbSr : Bool
  elems : Nat
  base : Nat
  grad : Nat
  state : Nat
deriving DecidableEq, Repr

/-- The region that values of 0x284 to 0x2A4 spell. -/
def regionOf (rd : Nat → Nat) : Region :=
  let c := rd 0x284
  { valid := bitOf c 0, bf16 := bitOf c 1, opt := bitsOf c 2 2, wbSr := bitOf c 4, elems := pairAddr rd 0x288,
    base := pairAddr rd 0x290, grad := pairAddr rd 0x298, state := pairAddr rd 0x2A0 }
/-- Active copy of region r. -/
def region (s : State) (r : Nat) : Region := regionOf (fun o => actN s (pg clsROW 0) o r)
/-- Span of a region's parameters. -/
def Region.span (r : Region) : Range := (r.base, r.elems * (if r.bf16 then 2 else 4))

/-- Place of the state of the row at index x of an optimizer `opt`, for rows of e elements (R360). -/
def optStateOff (opt e x : Nat) : Nat := match opt with | 1 => 4 * x | 2 => x * (ceilDiv (8 * e + 4) 64 * 64) | _ => 0
/-- Bytes of state of a row or region of e elements (R360). -/
def optStateLen (opt e : Nat) : Nat := match opt with | 1 => 4 | 2 => 8 * e + 4 | _ => 0

/-- What an apply needs beside the staged ranges (R369): the optimizer states of the tables and regions, the regions' gradient slots, and
the stage areas. -/
def applyRanges (s : State) : List Range :=
  pavs.flatMap (fun p => (tablesOf s p).filterMap (fun t =>
    let tb := table s p t
    if tb.valid then some (actAddr s (pg clsROW p) 0x224 t, optStateOff (actN s (pg clsROW p) 0x208 t % 4) tb.elems tb.partSize) else none)) ++
  (List.range 64).flatMap (fun r => let g := region s r; if g.valid then [(g.grad, 4 * g.elems), (g.state, optStateLen g.opt g.elems)] else []) ++
  pavs.map (nstageArea s) ++ [fstageArea s]

/-- The staged ranges of R49; the source of a moved block stays one until its ROW_MOVE completes (R223). -/
def stagedRanges (s : State) : List Range :=
  pavs.flatMap (fun p => (tablesOf s p).flatMap (tableRanges s p)) ++ s.moves.flatMap (fun e => (e.2.map (·.src)).getD []) ++
  (List.range 64).filterMap (fun r => let g := region s r; if g.valid then some g.span else none)

end Sys2Proof.Machine
end

