-- ==== Sys2Proof/Machine/Prom.lean ====
section
/-!
DEFINITION. The Promenade: its dies, bridges and ports (R13, R423), its fixed routes (R424), and what a transfer counts on the links that
it crosses (R425, R440, R441). Dies are numbered as SRC_DIE is (R506): Pavilions 0 to 15, Orangeries 16 to 19.
-/
namespace Sys2Proof.Machine
open Sys2Proof

/-- The Pavilions attached to an Orangery, ascending (R13). -/
def edgePavs (q : Nat) : List Nat :=
  match q with | 0 => [0, 1, 2, 3] | 1 => [3, 7, 11, 15] | 2 => [12, 13, 14, 15] | _ => [0, 4, 8, 12]

/-- The numbers from a to b, in either order, both ends included. -/
def between (a b : Nat) : List Nat :=
  if a ≤ b then (List.range (b - a + 1)).map (a + ·) else (List.range (a - b + 1)).map (a - ·)

/-- The Pavilions from p to p': along p's row, then along the column of p' (R424). -/
def pavRoute (p p' : Nat) : List Nat :=
  (between (p % 4) (p' % 4)).map (4 * (p / 4) + ·) ++ ((between (p / 4) (p' / 4)).drop 1).map (4 * · + p' % 4)

/-- The dies from a Pavilion to an Orangery: along the column to row 0 or 3, or along the row to column 3 or 0, then the port (R424). -/
def portRoute (p q : Nat) : List Nat :=
  pavRoute p (match q with | 0 => p % 4 | 1 => p / 4 * 4 + 3 | 2 => 12 + p % 4 | _ => p / 4 * 4) ++ [16 + q]

/-- The Pavilions between two Orangeries (R424). -/
def orangRoute (q q' : Nat) : List Nat :=
  match q, q' with
  | 0, 1 | 1, 0 => [3] | 1, 2 | 2, 1 => [15] | 2, 3 | 3, 2 => [12] | 3, 0 | 0, 3 => [0]
  | 0, 2 => [0, 4, 8, 12] | 2, 0 => [12, 8, 4, 0] | 1, 3 => [3, 2, 1, 0] | 3, 1 => [0, 1, 2, 3]
  | _, _ => []

/-- The dies of a route, both ends included (R424). -/
def dieRoute (x y : Nat) : List Nat :=
  if x = y then [x]
  else if x < 16 then (if y < 16 then pavRoute x y else portRoute x (y - 16))
  else if y < 16 then (portRoute y (x - 16)).reverse
  else x :: orangRoute (x - 16) (y - 16) ++ [y]

/-- The link between two neighbours on a route, and its direction (the numbering at R440). -/
def promLink (x y : Nat) : Nat × Nat :=
  let lo := min x y
  let hi := max x y
  if hi ≥ 16 then (24 + 4 * (hi - 16) + (edgePavs (hi - 16)).idxOf lo, b2n (decide (x > y)))
  else if hi = lo + 1 then (3 * (lo / 4) + lo % 4, b2n (decide (x > y)))
  else (12 + 4 * (lo / 4) + lo % 4, b2n (decide (x > y)))

/-- The links of a route, each with its direction. -/
def promLinks (x y : Nat) : List (Nat × Nat) :=
  let l := dieRoute x y
  (l.zip (l.drop 1)).map (fun e => promLink e.1 e.2)

/-- The die that holds a local address: the Pavilion of near tier and scratchpads, the Orangery of far tier and host ports. -/
def memDie (a : Nat) : Nat :=
  if isNear a then a / 2 ^ 36
  else if isSp a then (a - spBase) / 2 ^ 27
  else if isHost a then 16 + b2n (decide (0xA0000000000 ≤ a))
  else 16 + farOrang a

/-- Bytes of a class cross the Promenade from die x to die y: counted on every link of the route, and in the total (R440). -/
def carry (s : State) (x y cls n : Nat) : State :=
  (promLinks x y).foldl (fun s e => addCnt (addCnt s (pg clsPROM 0) 0x40 (e.1 + 64 * e.2 + 128 * cls) n) (pg clsPROM 0) 0x58 0 n) s

/-- An access of die x to memory of die y: its data cross, toward the memory where they are written, and the order and epoch check is made
at a target that is another die (R426, R440). -/
def carryAccess (s : State) (x y : Nat) (write : Bool) (cls n : Nat) : State :=
  if x = y then s else addCnt (if write then carry s x y cls n else carry s y x cls n) (pg clsPROM 0) 0x60 0 1

/-- A FENCED answer goes from die y to die x (R440). -/
def carryFenced (s : State) (x y : Nat) : State := if x = y then s else addCnt s (pg clsPROM 0) 0x64 0 1

/-- The first axis on which this module's coordinate differs from a module's (R515). -/
def nextAxis (s : State) (dst : Nat) : Option Nat := [0, 1, 2, 3].find? (fun a => ownCoord s a != idCoord s dst a)

/-- The address that a request reads or writes. -/
def reqAddr (r : Req) : Nat := if r.kind = .piece ∧ r.mode ≠ 0 then r.words.getD 0 0 else r.addr

end Sys2Proof.Machine
end

