-- ==== Sys2Proof/Machine/Net.lean ====
section
/-!
DEFINITION. Fabric messages and their routes: the header of R506, the streams of R507, routing by dimension order (R515, R516,
R520), and the hand-over of a message to the protocol engine that sends it (R517, R525).
-/
namespace Sys2Proof.Machine
open Sys2Proof

/-- Header word 0 or 1 of a message as a number. -/
def Msg.hd (m : Msg) (i : Nat) : Nat := (m.getD i 0).toNat
/-- Payload word i as a number. -/
def Msg.pl (m : Msg) (i : Nat) : Nat := (m.getD (2 + i) 0).toNat
def Msg.dst (m : Msg) : Nat := bitsOf (m.hd 0) 0 12
def Msg.src (m : Msg) : Nat := bitsOf (m.hd 0) 12 12
def Msg.cls (m : Msg) : Nat := bitsOf (m.hd 0) 24 2
def Msg.axis (m : Msg) : Nat := bitsOf (m.hd 0) 26 2
def Msg.dir (m : Msg) : Nat := bitsOf (m.hd 0) 28 1
def Msg.prio (m : Msg) : Nat := bitsOf (m.hd 0) 29 3
def Msg.mtype (m : Msg) : Nat := bitsOf (m.hd 0) 32 8
def Msg.len (m : Msg) : Nat := bitsOf (m.hd 0) 40 6
def Msg.status (m : Msg) : Nat := bitsOf (m.hd 0) 46 2
def Msg.die (m : Msg) : Nat := bitsOf (m.hd 1) 0 5
def Msg.stream (m : Msg) : Nat := bitsOf (m.hd 1) 5 12
def Msg.tag (m : Msg) : Nat := bitsOf (m.hd 1) 17 16
def Msg.tagEpoch (m : Msg) : BitVec 8 := BitVec.ofNat 8 (bitsOf (m.hd 1) 33 8)
def Msg.domEpoch (m : Msg) : BitVec 8 := BitVec.ofNat 8 (bitsOf (m.hd 1) 41 8)

/-- Fields of a message before its ring is chosen. -/
structure MsgInfo where
  dst : Nat
  cls : Nat
  prio : Nat := 0
  mtype : Nat
  status : Nat := 0
  die : Nat := 0
  stream : Nat := 0
  tag : Nat := 0
  tagEpoch : Nat := 0
  domEpoch : Nat := 0
deriving DecidableEq, Repr

/-- The words of a message (R506). -/
def mkMsg (s : State) (i : MsgInfo) (payload : List DWord) : Msg :=
  BitVec.ofNat 64 (i.dst % 4096 + ownId s % 4096 * 2 ^ 12 + i.cls % 4 * 2 ^ 24 + i.prio % 8 * 2 ^ 29 + i.mtype % 256 * 2 ^ 32 +
    payload.length % 64 * 2 ^ 40 + i.status % 4 * 2 ^ 46) ::
  BitVec.ofNat 64 (i.die % 32 + i.stream % 4096 * 2 ^ 5 + i.tag % 65536 * 2 ^ 17 + i.tagEpoch % 256 * 2 ^ 33 + i.domEpoch % 256 * 2 ^ 41) ::
  payload

/-- The stream tuple of a message as one number (R506). -/
def Msg.streamKey (m : Msg) : Nat := m.src + 4096 * (m.die + 32 * (m.stream + 4096 * (m.cls + 4 * m.dst)))

/-- Classes that a message type permits (R508). -/
def mtypeClasses (t : Nat) : List Nat :=
  match t with
  | 1 | 2 | 3 => [0, 2, 3]
  | 4 | 10 => [0]
  | 5 | 6 | 7 | 8 => [2, 3]
  | 9 => [1]
  | 0x40 => [0, 2, 3]
  | 0x41 => [0, 1, 2, 3]
  | _ => []

/-- Is SRC_STREAM one that SRC_DIE may send (R507)? -/
def streamOk (die st : Nat) : Bool :=
  let kind := st / 512
  let hi := st / 16 % 32
  let lo := st % 16
  if die ≥ 20 then false
  else if kind ≤ 5 && die ≥ 16 || kind == 7 && die < 16 then false
  else match kind with
    | 0 => true
    | 1 => decide (lo ≤ 3)
    | 2 => decide (lo ≤ 2)
    | 3 => hi == 0 && decide (lo ≤ 4)
    | 4 => hi == 0 && decide (lo ≤ 1)
    | 5 => hi == 0 && decide (lo ≤ 5)
    | 7 => hi == 0 && decide (lo ≤ 4)
    | _ => false

/-- Is it a message of R506 to R508? -/
def Msg.good (m : Msg) : Bool :=
  m.length == m.len + 2 && decide (m.len ≤ 32) && (mtypeClasses m.mtype).contains m.cls && bitsOf (m.hd 0) 48 16 == 0 &&
  bitsOf (m.hd 1) 49 15 == 0 && decide (m.die < 20) && (decide (m.mtype ≥ 0x40) || (m.status == 0 && m.domEpoch == 0)) &&
  streamOk m.die m.stream

/-- The active RING_DOWN of an axis (R520). -/
def ringDown (s : State) (a : Nat) : Nat := actN s (pg clsPE (2 * a)) 0x114
/-- A link. -/
def link (s : State) (l : Nat) : Link := s.links.get {} l
/-- Change a link. -/
def updLink (s : State) (l : Nat) (f : Link → Link) : State := { s with links := s.links.upd {} l f }
/-- The active links of an engine's bundle, ascending (R523, R524). -/
def activeLinks (s : State) (e : Nat) : List Nat := (List.range 8).map (8 * e + ·) |>.filter (fun l => (link s l).st == 2)

/-- Does a path of `n` hops from coordinate a cross a segment marked down (R520)? -/
def pathDown (down L a dir n : Nat) : Bool :=
  (List.range n).any (fun i => bitOf down (if dir = 0 then (a + i) % L else (a + L - 1 - i) % L))

/-- Direction on a ring (R515, R520), if any is allowed. -/
def ringDir (s : State) (axis a b : Nat) : Option Nat :=
  let L := axisLen s axis
  let plus := (b + L - a) % L
  let minus := (a + L - b) % L
  let want := if plus < minus ∨ (plus = minus ∧ a % 2 = 0) then 0 else 1
  let dist (d : Nat) : Nat := if d = 0 then plus else minus
  let down := ringDown s axis
  if !pathDown down L a want (dist want) then some want
  else if !pathDown down L a (1 - want) (dist (1 - want)) then some (1 - want)
  else none

/-- Does the hop from this module in a direction cross the dateline (R516)? -/
def crossesDateline (s : State) (axis dir : Nat) : Bool :=
  let L := axisLen s axis
  if dir = 0 then ownCoord s axis == L - 1 else ownCoord s axis == 0

/-- The message with its AXIS and DIR. -/
def Msg.onRing (m : Msg) (axis dir : Nat) : Msg :=
  match m with
  | w :: r => BitVec.ofNat 64 (w.toNat - bitsOf w.toNat 26 3 * 2 ^ 26 + axis * 2 ^ 26 + dir * 2 ^ 28) :: r
  | [] => []

/-- Hand a message to an engine's queue on a channel (R512, R516). -/
def enqueue (s : State) (axis dir : Nat) (m : Msg) (dateline : Bool) : State :=
  let e := 2 * axis + dir
  let s := if dateline then bump s (pg clsPE e) 0x64 else s
  { s with txq := s.txq.upd [] e (fun l => l ++ [{ msg := m.onRing axis dir, vc := 2 * m.cls + b2n dateline }]) }

/-- The message to another module. -/
def Msg.toModule (m : Msg) (dst : Nat) : Msg :=
  match m with
  | w :: r => BitVec.ofNat 64 (w.toNat - m.dst + dst % 4096) :: r
  | [] => []

/-- Send a message that starts here: its DST_MOD rewritten where REMAP says so (R555), routed, or `false` where no route exists
(R515, R525). It leaves die `die`, its SRC_DIE unless it is a reply, and crosses the Promenade to the Orangery of its axis (R13). -/
def sendMsg (s : State) (m : Msg) (die : Nat := m.die) : State × Bool :=
  let m := m.toModule (standIn s m.dst)
  match nextAxis s m.dst with
  | none => (s, false)
  | some a =>
    match ringDir s a (ownCoord s a) (idCoord s m.dst a) with
    | none => (bump s (pg clsPE (2 * a)) 0x7C, false)
    | some d =>
      if activeLinks s (2 * a + d) = [] then (bump s (pg clsPE (2 * a + d)) 0x7C, false)
      else (enqueue (carry s die (16 + a) m.cls (8 * m.length)) a d m (crossesDateline s a d), true)

/-- The i-th arrived message. -/
def arrival (s : State) (i : Nat) : Option Msg := (s.inbox[i]?).map (·.2.2)
/-- Credits that a message occupies (R512). -/
def Msg.credits (m : Msg) : Nat := ceilDiv (8 * m.length) 64
/-- A message that came from another module crosses the Promenade to the die that takes it (R440). -/
def landMsg (s : State) (m : Msg) (die : Nat) : State := if m.src = ownId s then s else carry s (16 + m.axis) die m.cls (8 * m.length)

/-- Take the i-th arrived message out of the receiver's buffer; its credits are freed (R512). -/
def takeArrival (s : State) (i : Nat) : State :=
  match s.inbox[i]? with
  | none => s
  | some (l, vc, m) =>
    let s := { s with inbox := s.inbox.eraseIdx i }
    if l < 64 then updLink s l (fun k => { k with freed := k.freed.upd 0 vc (fun n => (n + m.credits) % 65536) }) else s

/-- The message from another module. -/
def Msg.fromModule (m : Msg) (src : Nat) : Msg :=
  match m with
  | w :: r => BitVec.ofNat 64 (w.toNat - m.src * 2 ^ 12 + src % 4096 * 2 ^ 12) :: r
  | [] => []

/-- Answer a message: SRC and DST exchanged, class and stream of the request (R508, R587). An engine's answer to a request of this module
reaches its own inbox, behind no link. `die` answers: the Orangery that the message came to, unless a home does. -/
def reply (s : State) (m : Msg) (mtype status : Nat) (domEpoch : BitVec 8) (payload : List DWord) (die : Nat := 16 + m.axis) : State :=
  let a := (mkMsg s { dst := m.src, cls := m.cls, prio := m.prio, mtype, status, die := m.die, stream := m.stream, tag := m.tag,
                      tagEpoch := m.tagEpoch.toNat, domEpoch := domEpoch.toNat } payload).fromModule m.dst
  if m.src = ownId s then { s with inbox := s.inbox ++ [(64, 0, a)] } else (sendMsg s a die).1

/-- Local address and length of what a READ, WRITE or ATOMIC reaches. -/
def Msg.span (m : Msg) : Nat × Nat :=
  (bitsOf (m.pl 0) 0 44, if m.mtype = 3 then (if bitOf (m.pl 0) 47 then 8 else 4) else bitsOf (m.pl 0) 44 8 + 1)

/-- Is it a request, which expects a reply (R508)? -/
def Msg.isRequest (m : Msg) : Bool := [1, 2, 3, 5, 6, 7, 8, 0x0A].contains m.mtype
/-- Type of the reply to a request: data for a READ, a ROW_FETCH and an ATOMIC with RET. -/
def Msg.replyType (m : Msg) : Nat := if m.mtype = 1 ∨ m.mtype = 5 ∨ m.mtype = 3 ∧ bitOf (m.pl 0) 49 then 0x40 else 0x41
/-- A message that goes no further: a request is answered with the status, another is dropped (R523, R525). -/
def refuseMsg (s : State) (m : Msg) (status : Nat) (ep : BitVec 8) : State :=
  if m.isRequest then reply s m m.replyType status ep [] else s

/-- Words of a list of bytes, 8 to a word. -/
def wordsOf (l : List Byte) : Nat → List DWord
  | 0 => []
  | n + 1 => if l = [] then [] else BitVec.ofNat 64 ((l.take 8).foldr (fun b acc => b.toNat + 256 * acc) 0) :: wordsOf (l.drop 8) n

end Sys2Proof.Machine
end

