-- ==== Sys2Proof/Machine/Entries.lean ====
section
/-!
DEFINITION. The Orangeries' reorder tables: which request holds an entry of which table, and whether a requester finds one free (R17, R23,
R211, R387).
-/
namespace Sys2Proof.Machine
open Sys2Proof

/-- The four consumers that the bandwidth weights name (R23). -/
inductive Consumer where
  | sampler | gather | updates | collectives
deriving DecidableEq, Repr

/-- The active weight of a consumer (R538). -/
def Consumer.weight (s : State) : Consumer → Nat
  | .sampler => bitsOf (profileWord s) 2 4 | .gather => bitsOf (profileWord s) 6 4 | .updates => bitsOf (profileWord s) 10 4
  | .collectives => bitsOf (profileWord s) 14 4

/-- The consumer that a unit's own reads and writes are of, if it is one of the four. -/
def euConsumer : EUnit → Option Consumer
  | .smp _ => some .sampler | .row _ => some .gather | .merge _ => some .updates | .col _ => some .collectives | _ => none

/-- The consumer that a request is of. -/
def consumerOf (r : Req) : Option Consumer :=
  match r.kind with
  | .rowFetch | .rowCheck => some .gather
  | .rowUpdate | .journal => some .updates
  | .coll => some .collectives
  | .engine => r.eu.bind euConsumer
  | _ => none

/-- The consumer that an arrived request is of, by its type and its stream (R507, R508). -/
def Msg.consumer (m : Msg) : Option Consumer :=
  match m.mtype with
  | 5 | 6 => some .gather
  | 7 | 8 => some .updates
  | 9 => some .collectives
  | _ => if m.stream / 512 = 4 then some .sampler else none

/-- The Orangery that a request of this module passes through: that of its far address, or that of the axis on which it leaves the module. -/
def reqOrang (s : State) (r : Req) : Option Nat :=
  if isOwn s (reqAddr r) then (if isFar s (gLoc (reqAddr r)) then some (farOrang (gLoc (reqAddr r))) else none)
  else nextAxis s (standIn s (gMod (reqAddr r)))

/-- The local address that an arrived request is for: of its header, or of the row that it names. -/
def Msg.target (s : State) (m : Msg) : Option Nat :=
  match m.mtype with
  | 1 | 2 | 3 => some (bitsOf (m.pl 0) 0 44)
  | 5 | 6 | 7 => let t := bitsOf (m.pl 0) 40 8; let id := m.pl 0 % 2 ^ 40; mapRow s (resolver s t id) t id
  | _ => none

/-- The Orangeries that an arrived request passes through in this module: the one it came to, and that of its far address, or of the axis
on which it goes on (R211, R387). -/
def Msg.orangs (s : State) (m : Msg) : List Nat :=
  let next : Option Nat :=
    if m.dst = ownId s then (m.target s).bind (fun a => if isFar s a then some (farOrang a) else none) else nextAxis s m.dst
  m.axis :: (next.toList.filter (· != m.axis))

/-- The requests of other modules that are here: arrived, or held at their rows' homes. -/
def arrivedReqs (s : State) : List Msg :=
  (s.inbox.map (·.2.2)).filter (fun m => decide (1 ≤ m.mtype ∧ m.mtype ≤ 9)) ++ (s.heldRows.filter (fun x => x.1.isNone)).map (·.2)

/-- The entries held: Orangery, and the consumer that holds each. A request of this module holds its own from when it leaves its requester
until it is answered. -/
def entries (s : State) : List (Nat × Option Consumer) :=
  ((reqList s).filter (fun e => e.2.st == .sent)).filterMap (fun e => (reqOrang s e.2).map (fun q => (q, consumerOf e.2))) ++
  (arrivedReqs s).flatMap (fun m => (m.orangs s).map (fun q => (q, m.consumer)))

/-- Has a consumer a request that waits for an entry of Orangery q's table (R23)? -/
def entryWanted (s : State) (q : Nat) (k : Consumer) : Bool :=
  (reqList s).any (fun e => e.2.st == .held && consumerOf e.2 == some k && reqOrang s e.2 == some q) ||
  (k == .gather && s.gworks.any (fun e => (e.2.bind (·.want)) == some q))

/-- Is an entry of Orangery q's reorder table free for a requester (R23, R387): one of the 65,536, and for a consumer one within its share
by weight among the consumers that have requests waiting? -/
def entryFree (s : State) (q : Nat) (who : Option Consumer) : Bool :=
  let held := (entries s).filter (fun e => e.1 == q)
  decide (held.length < 65536) &&
  (match who with
   | none => true
   | some k =>
     let live := ([.sampler, .gather, .updates, .collectives] : List Consumer).filter (fun j => j == k || entryWanted s q j)
     decide ((held.filter (fun e => e.2 == some k)).length * (live.map (Consumer.weight s)).sum < 65536 * k.weight s))

/-- May a request leave its requester, as the reorder table stands? -/
def mayLeave (s : State) (r : Req) : Bool := match reqOrang s r with | some q => entryFree s q (consumerOf r) | none => true

/-- Must a unit's own access to this module's far tier, which is performed at once, wait for an entry (R387)? -/
def farWaits (s : State) (u : EUnit) (a : Nat) : Bool := isFar s a && !entryFree s (farOrang a) (euConsumer u)

end Sys2Proof.Machine
end

