-- ==== Sys2Proof/Machine/Roles.lean ====
section
/-!
DEFINITION. Manager roles and manager messages (R534 to R539): who is group manager, system manager and standby, the layout of a
message, and how one is sent.
-/
namespace Sys2Proof.Machine
open Sys2Proof

/-! ### Roles (R534, R535) -/

/-- Change the Gatehouse's state. -/
def updGate (s : State) (f : Gate → Gate) : State := { s with gate := f s.gate }

/-- The roles of the job, ascending: modules of the torus that are no spares and have not left without a replacement. -/
def members (s : State) : List Nat := (List.range (torusSize s)).filter (fun i => !s.gate.spares.contains i && !s.gate.gone.contains i)
/-- The members of a group. -/
def groupMembers (s : State) (g : Nat) : List Nat := (members s).filter (fun i => i / 64 == g)
/-- Group manager of group g: its lowest id in service. -/
def groupManager (s : State) (g : Nat) : Option Nat := (groupMembers s g).head?
/-- The system manager: the group manager of group 0, or the standby that took over. -/
def systemManager (s : State) : Nat := s.gate.sm.getD ((groupManager s 0).getD 0)
/-- The standby system manager: the group manager of group 1, or with one group the second id of group 0; after a takeover the next of
these that is not the system manager. -/
def standbyManager (s : State) : Option Nat :=
  ((groupManager s 1).toList ++ (groupMembers s 0).drop 1 ++ (groupMembers s 0).take 1 ++ ((groupMembers s 1).drop 1)).find?
    (fun i => i != systemManager s)
/-- The groups that have members. -/
def groups (s : State) : List Nat := ((members s).map (· / 64)).eraseDups
/-- Is this module the system manager? -/
def isSm (s : State) : Bool := systemManager s == roleId s
/-- Is it its group's manager? -/
def isGm (s : State) : Bool := groupManager s (roleId s / 64) == some (roleId s)
/-- Whom the module reports to: its group manager, or the system manager where its group has no members or it is the manager itself. -/
def manager (s : State) : Nat :=
  match groupManager s (roleId s / 64) with
  | some g => if g = roleId s then systemManager s else g
  | none => systemManager s
/-- The role that a module stands for. -/
def roleOf (s : State) (m : Nat) : Nat := ((s.gate.aliases.find? (fun a => a.2 == m)).map (·.1)).getD m

/-! ### Messages (R537) -/

/-- Word 4 to 15 of a message. -/
def MMsg.w (m : MMsg) (i : Nat) : Nat := m.words.getD (i - 4) 0
def MMsg.type (m : MMsg) : Nat := bitsOf (m.w 4) 0 8
def MMsg.phase (m : MMsg) : Bool := bitOf (m.w 4) 8
def MMsg.auto (m : MMsg) : Bool := bitOf (m.w 4) 9
def MMsg.module (m : MMsg) : Nat := bitsOf (m.w 4) 11 12
def MMsg.step (m : MMsg) : BitVec 32 := BitVec.ofNat 32 (m.w 5)
/-- The task to notify, with its bit (R552). -/
def MMsg.notify (m : MMsg) : Option (BitVec 42) :=
  if bitOf (m.w 4) 10 then some (BitVec.ofNat 42 (m.w 6 + m.w 7 * 2 ^ 32)) else none

/-- The twelve words of a message: type, step, then what its type adds. -/
def mgrWords (type : Nat) (step : BitVec 32) (rest : List Nat := []) (phase : Bool := false) (mod : Nat := 0) : List Nat :=
  [type + b2n phase * 2 ^ 8 + mod * 2 ^ 11, step.toNat, 0, 0] ++ (List.range 8).map (fun i => rest.getD i 0)

/-- Payload of an in-band message: words 4 to 15 two to a word, then the list. -/
def mgrPayload (words list : List Nat) : List DWord :=
  (List.range 6).map (fun i => BitVec.ofNat 64 (words.getD (2 * i) 0 + words.getD (2 * i + 1) 0 * 2 ^ 32)) ++ list.map (BitVec.ofNat 64)

/-- The message that a fabric message of type 0x0A carries. -/
def mgrOf (m : Msg) : MMsg :=
  { src := m.src, num := m.tag, words := (List.range 12).map (fun i => bitsOf (m.pl (i / 2)) (32 * (i % 2)) 32),
    list := (m.drop 8).map (·.toNat), die := m.die, tagEpoch := m.tagEpoch.toNat }

/-- Die of the active Gatehouse pair: Orangery 0, or 3 after a takeover (R600). -/
def gateDie (s : State) : Nat := if s.gate.standbyActive then 19 else 16

/-- Send a message again over management Ethernet (R536). -/
def overEthernet (s : State) (num : Nat) : State :=
  match s.gate.outq.find? (fun o => o.msg.num == num) with
  | some o =>
    let s := updGate s (fun g => { g with outq := g.outq.map (fun o => if o.msg.num = num then { o with ether := true } else o) })
    emit (bump s (pg clsGH 0) 0x44) (.ethernet (standIn s o.dst) num o.msg.words o.msg.list)
  | none => s

/-- The manager messages that have arrived for this module and wait, oldest first. -/
def arrivedMgr (l : List (Nat × Nat × Msg)) (own : Nat) : List MMsg :=
  l.filterMap (fun e => if e.2.2.dst = own ∧ e.2.2.mtype = 0x0A then some (mgrOf e.2.2) else none)

/-- Send a manager message to a role; its number (R536). One to the module itself is held here; one with no route goes over management
Ethernet. -/
def mgrSend (s : State) (dst : Nat) (words : List Nat) (list : List Nat := []) (req : Option Nat := none) : State × Nat :=
  let num := s.gate.nextNum % 65536
  let m : MMsg := { src := ownId s, num, words, list, req }
  let s := bump (updGate s (fun g => { g with nextNum := num + 1, outq := g.outq ++ [{ dst, msg := m }] })) (pg clsGH 0) 0x40
  if standIn s dst = ownId s then (updGate s (fun g => { g with inq := g.inq ++ [{ m with behind := (arrivedMgr s.inbox (ownId s)).map (fun x => (x.src, x.num)) }] }), num)
  else match sendMsg s (mkMsg s { dst, cls := 0, mtype := 0x0A, die := gateDie s, stream := 3587, tag := num } (mgrPayload words list)) with
    | (s, true) => (s, num)
    | (s, false) => (overEthernet s num, num)

end Sys2Proof.Machine
end

