-- ==== Sys2Proof/Machine/Retire.lean ====
section
/-!
DEFINITION. The retirement record, the capacity floor, and the retirement of near channels, far frames and far channels
(R396 to R399, R594 to R599).
-/
namespace Sys2Proof.Machine
open Sys2Proof

/-! ### CRC-32 (R504) -/

/-- One byte of the reflected CRC. -/
def crcByte (c b : Nat) : Nat := (List.range 8).foldl (fun c _ => if c % 2 = 1 then c / 2 ^^^ 0xEDB88320 else c / 2) (c ^^^ b)
/-- CRC-32 of IEEE 802.3. -/
def crc32 (l : List Byte) : Nat := l.foldl (fun c b => crcByte c b.toNat) 0xFFFFFFFF ^^^ 0xFFFFFFFF

/-! ### The record and the floor (R597, R599) -/

/-- The record in force: the test record in test mode (R601). -/
def records (s : State) : List RetEntry := if s.testMode then s.gate.testRecord else s.gate.record

/-- Fenced cores of a Pavilion; a fenced Pavilion counts as 32 (R592). -/
def coresFenced (s : State) (p : Nat) : Nat :=
  if domFenced s (dPav p) then 32 else ((List.range 32).filter (fun c => domFenced s (dCore (32 * p + c)))).length
/-- Set bits of a mask of n bits. -/
def bitCount (n v : Nat) : Nat := ((List.range n).filter (bitOf v)).length
/-- Retired near channels of a Pavilion, those on spares and those fenced. -/
def nearLost (s : State) (p : Nat) : Nat := bitCount 66 (s.nearRetired.get 0 p)
/-- Is the link of a fenced Orangery, or FENCED or RETIRED itself? -/
def linkLost (s : State) (l : Nat) : Bool := domFenced s (dOrang (l / 16)) || (link s l).st == 3 || (link s l).st == 4
/-- Retired links. -/
def linksLost (s : State) : Nat := ((List.range 64).filter (linkLost s)).length
/-- Does a Pavilion put the module below its floor? -/
def pavBelow (s : State) (p : Nat) : Bool := decide (coresFenced s p > 2 ∨ nearLost s p > 2)
/-- Is the module below its capacity floor (R599)? -/
def belowFloor (s : State) : Bool :=
  (List.range 16).any (pavBelow s) || decide (linksLost s > 4 ∨ s.gate.record.length ≥ 4096)

/-- Report LOST to the manager (R553), in a job of several modules. -/
def reportLost (s : State) (reason : Nat) : State :=
  if torusSize s > 1 then (mgrSend s (manager s) (mgrWords 0x0C 0 [reason] false (roleId s))).1 else s

/-- The unapplied step with a number. -/
def stepOf (s : State) (n : BitVec 32) : Option StepSt := s.steps.find? (fun x => x.num = n)
/-- Change an unapplied step. -/
def updStep (s : State) (n : BitVec 32) (f : StepSt → StepSt) : State :=
  { s with steps := s.steps.map (fun x => if x.num = n then f x else x) }
/-- Mark an unapplied step tainted and send TAINT to the manager (R57, type 0x09 of R539). -/
def taint (s : State) (n : BitVec 32) : State :=
  match stepOf s n with
  | some x => if x.tainted then s else (mgrSend (updStep s n (fun x => { x with tainted := true })) (systemManager s) (mgrWords 9 n)).1
  | none => s

/-- The rows of a module, or what their apply needs, that satisfy a predicate on their 64-byte units are lost with their memory: steps that
are not yet committed are tainted, and the loss is reported (R369, R397, R596). -/
def loseRows (s : State) (gone : Nat → Bool) : State :=
  if (stagedRanges s ++ applyRanges s).any (fun r => (unitsOf r.1 r.2).any gone) then
    reportLost ((s.steps.filter (fun x => x.phase != .applying)).foldl (fun s x => taint s x.num) s) 1
  else s

/-- Set REPLACE the first time that the module falls below its floor, with its host event (R599; DESIGN CHOICE, log entry 76: bit 1 of GH[0]). -/
def checkFloor (s : State) : State :=
  if belowFloor s && !s.gate.replace then reportLost (raiseEvt (updGate s (fun g => { g with replace := true })) (pg clsGH 0) 1) 2 else s

/-- Set DEGRADED (R599). -/
def degrade (s : State) : State := updGate s (fun g => { g with degraded := true })

/-- Write an entry (R597). A full record takes no more. -/
def addRecord (s : State) (res reason action spare : Nat) : State :=
  let (s, time) := takeFree s
  let e : RetEntry := { resource := res, time := time % 2 ^ 32, reason, action, spare }
  if (records s).length ≥ 4096 then checkFloor s
  else
    let s := bump s (pg clsGH 1) 0x48
    checkFloor (updGate s (fun g =>
      if s.testMode then { g with testRecord := g.testRecord ++ [e] } else { g with record := g.record ++ [e], recordSeq := g.recordSeq + 1 }))

/-- Bytes 0 to 11 of an entry. -/
def RetEntry.body (e : RetEntry) : List Byte :=
  let v := e.resource + e.time * 2 ^ 32 + e.reason * 2 ^ 64 + e.action * 2 ^ 72 + e.spare * 2 ^ 80
  (List.range 12).map (fun i => BitVec.ofNat 8 (v >>> (8 * i)))
/-- An entry as 128 bits, with its CHECK. -/
def RetEntry.bits (e : RetEntry) : Nat :=
  e.resource + e.time * 2 ^ 32 + e.reason * 2 ^ 64 + e.action * 2 ^ 72 + e.spare * 2 ^ 80 + crc32 e.body * 2 ^ 96

/-! ### Near channels (R397) -/

/-- Change a channel. -/
def updChan (s : State) (k : Nat) (f : Chan → Chan) : State := { s with chans := s.chans.upd {} k f }
/-- Does a copy run in Pavilion p? -/
def nearCopying (s : State) (p : Nat) : Bool := (List.range 64).any (fun c => (chan s (64 * p + c)).st == 1)
/-- The spare channels of a Pavilion that are free. -/
def sparesFree (s : State) (p : Nat) : List Nat :=
  [64, 65].filter (fun c => !bitOf (s.spares.get 0 p) (c - 64) && !bitOf (s.nearRetired.get 0 p) c)
/-- Mark a physical channel retired. -/
def markNear (s : State) (p phys : Nat) : State := { s with nearRetired := s.nearRetired.upd 0 p (fun m => m ||| 1 <<< phys) }

/-- Units of near channel key k. -/
def ofChannel (s : State) (k u : Nat) : Bool := isNear u && chanKey s u == k

/-- Controller c is steered to a spare at once, since its channel cannot be read: every atom of the spare is poisoned (R397). -/
def steerDead (s : State) (p c sp reason : Nat) : State :=
  let k := 64 * p + c
  let old := physOf s k
  let s := loseRows s (ofChannel s k)
  let s := { s with poison := s.poison.keep (fun a _ => !ofChannel s k (64 * a)), spares := s.spares.upd 0 p (fun m => m ||| 1 <<< (sp - 64)) }
  addRecord (updChan (markNear s p old) k (fun x => { x with st := 2, phys := some sp, dead := true })) (resource p 1 old) reason 1 sp

/-- Retire the channel of controller c: steered to a free spare, or fenced. Whether one classed permanent can still be read is free
(DESIGN CHOICE, log entry 85). -/
def retireNear (s : State) (p c reason : Nat) : State :=
  let k := 64 * p + c
  let res := resource p 1 (physOf s k)
  if (chan s k).st = 1 ∨ (chan s k).st = 3 then s
  else match sparesFree s p with
    | [] =>
      let s := updChan (markNear s p (physOf s k)) k (fun x => { x with st := 3 })
      addRecord (loseRows s (ofChannel s k)) res 4 2 0xFFFF
    | sp :: _ =>
      if nearCopying s p then updGate s (fun g => { g with due := g.due ++ [(res, reason)] })
      else
        let dead := takeFree s
        if (reason = 1 ∨ reason = 2) ∧ dead.2 % 2 = 1 then steerDead dead.1 p c sp reason
        else { updChan s k (fun x => { x with st := 1, copying := some (some sp), why := reason, copied := 0 }) with
                 spares := s.spares.upd 0 p (fun m => m ||| 1 <<< (sp - 64)) }

/-! ### Far frames and channels (R392, R398) -/

/-- Frames of a far channel, first spare frame, and spare frames. -/
def farFrames (s : State) : Nat × Nat × Nat := match s.part with | .qxm4T => (16384, 15488, 512) | .qxm2T => (8192, 7552, 256)
/-- Spare frames of a channel that are free; one retired whole has none (R398). -/
def framesFree (s : State) (k : Nat) : Nat := if (chan s k).st = 2 ∨ (chan s k).copying = some none then 0 else (farFrames s).2.2 - s.spares.get 0 k
/-- Frames remapped out of a far channel (R406). -/
def framesMoved (s : State) (k : Nat) : Nat :=
  if (chan s k).st = 2 then (farFrames s).1 - (chan s k).fenced.length else (chan s k).frames.length
/-- The frame of a far address (R392). -/
def frameOf (s : State) (a : Nat) : Nat := chanAddr s a / 2 ^ 20
/-- Units whose data lie in some frames of far channel key k. -/
def ofFrames (s : State) (k : Nat) (fs : List Nat) (u : Nat) : Bool :=
  isFar s u && (match dataFrame s u with | some x => x.1 == k && fs.contains x.2 | none => false)
/-- Spare frames free in an Orangery (R406). -/
def spareFree (s : State) (o : Nat) : Nat := (List.range 64).foldl (fun n c => n + framesFree s (4096 + 64 * o + c)) 0
/-- Does a copy run in Orangery o? -/
def farCopying (s : State) (o : Nat) : Bool := (List.range 64).any (fun c => (chan s (4096 + 64 * o + c)).copying.isSome)
/-- State of a channel that is not being copied. -/
def farSt (c : Chan) : Nat := if c.st = 2 then 2 else if c.fenced = [] then 0 else 3

/-- Take n spare frames from the other channels of an Orangery in ascending order: those still wanting at the end, and the runs taken. -/
def takeFrames (s : State) (own : Nat) : Nat → List Nat → State × Nat × List (Nat × Nat × Nat)
  | n, [] => (s, n, [])
  | n, k :: r =>
    if k = own then takeFrames s own n r
    else
      let m := min n (framesFree s k)
      let x := takeFrames { s with spares := s.spares.upd 0 k (· + m) } own (n - m) r
      (x.1, x.2.1, (k, (farFrames s).2.1 + s.spares.get 0 k, m) :: x.2.2)

/-- The frames of a far channel that are not fenced. -/
def liveFrames (s : State) (k : Nat) : List Nat := (List.range (farFrames s).1).filter (fun f => !(chan s k).fenced.contains f)

/-- A far channel is to be retired whole into the spare frames that were taken; those of its frames for which none was free, the highest, are
fenced (R398). -/
def fenceRest (k : Nat) (frames : List Nat) (x : State × Nat × List (Nat × Nat × Nat)) : State :=
  let lost := frames.drop (frames.length - x.2.1)
  let s := updChan x.1 k (fun c => { c with into := x.2.2, fenced := lost ++ c.fenced })
  if lost = [] then s else loseRows (updGate s (fun g => { g with spareExhausted := true })) (ofFrames x.1 k lost)

/-- A far channel is to be retired whole: each of its frames that is not fenced has a spare frame of the Orangery's other channels taken for
it (R397 step 1, R398). -/
def takeWhole (s : State) (k : Nat) : State :=
  fenceRest k (liveFrames s k) (takeFrames s k (liveFrames s k).length ((List.range 64).map (fun c => 4096 + (k - 4096) / 64 * 64 + c)))

/-- Retire a frame of far channel c of Orangery o, or the whole channel (`none`): its spare is taken, and the copy begins (R397, R398). -/
def retireFar (s : State) (o c : Nat) (frame : Option Nat) (reason : Nat) : State :=
  let k := 4096 + 64 * o + c
  let ch := chan s k
  let res := match frame with | some f => resource (16 + o) 3 (c * 16384 + f) | none => resource (16 + o) 2 c
  let begin' (s : State) : State := updChan s k (fun x => { x with st := 1, copying := some frame, why := reason })
  if ch.st == 2 || (match frame with | some f => ch.frames.contains f || ch.fenced.contains f || ch.copying == some (some f) | none => ch.copying == some none) then s
  else match frame with
    | some f =>
      if framesFree s k = 0 then
        let t := updGate (updChan s k (fun x => { x with fenced := f :: x.fenced, st := 3 })) (fun g => { g with spareExhausted := true })
        addRecord (loseRows t (ofFrames s k [f])) res 4 2 0xFFFF
      else if farCopying s o then updGate s (fun g => { g with due := g.due ++ [(res, reason)] })
      else begin' { s with spares := s.spares.upd 0 k (· + 1) }
    | none =>
      if farCopying s o then updGate s (fun g => { g with due := g.due ++ [(res, reason)] })
      else begin' (takeWhole s k)

/-- A far channel retired whole: its frames lie in their spares. -/
def remapWhole (s : State) (k : Nat) : State := updChan s k (fun x => { x with copying := none, st := 2, frames := [] })

end Sys2Proof.Machine
end

