-- ==== Sys2Proof/Machine/Tier.lean ====
section
/-!
DEFINITION. What an access does at a tier beside its bytes: the counters of R404 and R406, and the Orangeries' row caches (R388 to
R390), which hold no bytes of their own here, since a cache never differs observably from memory (R389).
-/
namespace Sys2Proof.Machine
open Sys2Proof

/-! ### Locations in the DRAMs (R379) -/

/-- A location within a channel; a tier without ranks has rank 0. -/
structure Dram where
  column : Nat
  bank : Nat
  rank : Nat
  row : Nat
deriving DecidableEq, Repr

/-- The location that a channel address of the near tier selects (R379). -/
def nearDram (ca : Nat) : Dram := { column := bitsOf ca 0 11, bank := bitsOf ca 11 5 ^^^ bitsOf ca 16 5, rank := 0, row := bitsOf ca 16 14 }
/-- The location that a channel address of the far tier selects, by part (R379). -/
def farDram (s : State) (ca : Nat) : Dram :=
  match s.part with
  | .qxm4T => { column := bitsOf ca 0 11, bank := bitsOf ca 11 4 ^^^ bitsOf ca 16 4, rank := bitsOf ca 15 1, row := bitsOf ca 16 18 }
  | .qxm2T => { column := bitsOf ca 0 11, bank := bitsOf ca 11 4 ^^^ bitsOf ca 15 4, rank := 0, row := bitsOf ca 15 18 }
/-- The location of a near or far address. -/
def dramAt (s : State) (a : Nat) : Dram := if isNear a then nearDram (chanAddr s a) else farDram s (chanAddr s a)

/-- The segment of retention of a far channel address: its top three row bits (R379). -/
def farSegment (s : State) (ca : Nat) : Nat := bitsOf (farDram s ca).row 15 3
/-- The segment of retention of a far address. -/
def segmentAt (s : State) (a : Nat) : Nat := bitsOf (dramAt s a).row 15 3
/-- Bytes of a segment of the far map, one contiguous range (R379). -/
def segBytes (s : State) : Nat := farSize s / 8

/-! ### The row cache (R388, R390) -/

/-- Key of the set of an Orangery offset (R388). -/
def setKey (o l : Nat) : Nat := o * 65536 + (bitsOf l 8 16 ^^^ bitsOf l 24 16)

/-- Does an active pin range of a mode hold the far address (R390)? -/
def pinRange (s : State) (o a mode : Nat) : Bool :=
  (List.range 16).any (fun k =>
    let b := actN s (pg clsFAR o) (0x130 + 8 * k)
    let c := actN s (pg clsFAR o) (0x134 + 8 * k)
    let f := (a - farBase) / 4096
    bitsOf c 24 2 == mode && decide (b ≤ f ∧ f ≤ b + bitsOf c 0 24))

/-- Change a set. -/
def updSet (s : State) (k : Nat) (f : List Line → List Line) : State := { s with rcache := s.rcache.upd [] k f }

/-- Set bits of a number. -/
def ones (n : Nat) : Nat := ((List.range 4).filter (bitOf n)).length

/-- Has a line dirty sectors of a group under reset, which are kept until RESET_DONE (R400)? -/
def dirtyHeld (s : State) (o : Nat) (x : Line) : Bool :=
  (List.range 4).any (fun i => bitOf x.dirty i && memService s (farAddr o (256 * x.tag + 64 * i)) == .resetting)

/-- Make room for a line: the least recently used line that may leave does, its dirty sectors written back (R388, R400). -/
def evict (s : State) (o k : Nat) : State :=
  let l := s.rcache.get [] k
  if l.length < 16 then s
  else match l.reverse.find? (fun x => !x.pinned && !dirtyHeld s o x) with
    | none => s
    | some x => bump (updSet s k (fun l => l.filter (fun y => y.tag != x.tag))) (pg clsFAR o) 0x70 (ones x.dirty)

/-- Put a line into its set, in place of what the set holds of it; where no line may leave a full set, none is allocated. -/
def putLine (s : State) (o k : Nat) (x : Line) : State :=
  let s := if (s.rcache.get [] k).any (fun y => y.tag == x.tag) then s else evict s o k
  let rest := (s.rcache.get [] k).filter (fun y => y.tag != x.tag)
  if rest.length ≥ 16 then s else updSet s k (fun _ => x :: rest)

/-- A sector's read: a hit, or a miss that may allocate (R388). -/
def cacheRead (s : State) (a cls : Nat) : State :=
  let o := farOrang a
  let ctl := actN s (pg clsFAR o) 0x110
  let l := farOffset a
  let k := setKey o l
  let tag := l / 256
  let sec := l / 64 % 4
  let set := s.rcache.get [] k
  let mine := set.find? (fun x => x.tag == tag)
  if !bitOf ctl 0 then bump s (pg clsFAR o) 0x60
  else match mine with
    | some x =>
      let s := updSet s k (fun l => { x with valid := x.valid ||| 1 <<< sec } :: l.filter (fun y => y.tag != tag))
      bump s (pg clsFAR o) (if bitOf x.valid sec then 0x58 else 0x60)
    | none =>
      let s := bump s (pg clsFAR o) 0x60
      if (cls == 2 || (cls == 3 && bitOf ctl 1)) && !pinRange s o a 2 then
        putLine s o k { tag, valid := 1 <<< sec }
      else s

/-- A sector's write: a hit is updated and marked dirty, a miss goes to DRAM (R388). -/
def cacheWrite (s : State) (a : Nat) : State :=
  let o := farOrang a
  let l := farOffset a
  let k := setKey o l
  let tag := l / 256
  let sec := l / 64 % 4
  match (s.rcache.get [] k).find? (fun x => x.tag == tag && bitOf x.valid sec) with
  | some x => updSet s k (fun l => { x with dirty := x.dirty ||| 1 <<< sec } :: l.filter (fun y => y.tag != tag))
  | none => s

/-! ### Counting accesses -/

/-- Count a memory access at its tier (R404, R406): atoms of the near tier, 64-byte units of the far tier, which its row cache sees. `cls` is
its traffic class. -/
def countTier (s : State) (a len : Nat) (write : Bool) (cls : Nat := 3) : State :=
  let n := (unitsOf a len).length
  if isNear a then
    let s := bump s (pg clsNEAR (a / 2 ^ 36)) (if write then 0x48 else 0x40) n
    let part := ((unitsOf a len).filter (fun u => !decide (a ≤ u ∧ u + 64 ≤ a + len))).length
    if write && part > 0 then bump s (pg clsNEAR (a / 2 ^ 36)) 0x70 part else s
  else if isFar s a then
    let s := bump s (pg clsFAR (farOrang a)) (if write then 0x48 else 0x40) n
    (unitsOf a len).foldl (fun s u => if write then cacheWrite s u else cacheRead s u cls) s
  else s

/-- Count a memory access of die `die`, on the Promenade (R440) and at its tier. -/
def countMem (s : State) (die a len : Nat) (write : Bool) (cls : Nat := 3) : State :=
  countTier (carryAccess s die (memDie a) write cls len) a len write cls

/-- Count an access that a scratchpad serves through its remote port, at most 64 bytes at once (R409, R426, R438). -/
def remoteIn (s : State) (a len : Nat) : State :=
  if isSp a then bump s (pg clsCORE ((a - spBase) / 2 ^ 27)) 0x74 (unitsOf a len).length else s

/-- Count an access of die `die` that its tier, or a scratchpad, answers FENCED (R400, R437); the answer crosses the Promenade (R440). -/
def noteFenced (s : State) (die a : Nat) : State :=
  let s := carryFenced s die (memDie a)
  if isNear a then bump s (pg clsNEAR (a / 2 ^ 36)) 0x78
  else if isFar s a then bump s (pg clsFAR (farOrang a)) 0x94
  else if isSp a then bump s (pg clsCORE ((a - spBase) / 2 ^ 27)) 0x7C
  else s

/-! ### Poisoned atoms (R394) -/

/-- Is the unit in a channel that could not be read when it was retired (R397)? -/
def deadAt (s : State) (u : Nat) : Bool := isNear u && (chan s (chanKey s u)).dead
/-- Is there such a channel? -/
def hasDead (s : State) : Bool := s.chans.any (fun e => e.2.dead)
/-- Is the atom of a unit poisoned: one that the table names, or, in a channel that could not be read, one that it does not name? -/
def poisoned (s : State) (u : Nat) : Bool := s.poison.get false (u / 64) != deadAt s u
/-- Poison an atom, or clear its poison. -/
def setPoison (s : State) (u : Nat) (v : Bool) : State := { s with poison := s.poison.put false (u / 64) (v != deadAt s u) }

/-- The poisoned atoms of a range, in ascending order. -/
def poisonIn (s : State) (a len : Nat) : List Nat :=
  if hasDead s then (unitsOf a len).filter (poisoned s)
  else (s.poison.filter (fun e => e.2 && decide (a / 64 ≤ e.1 ∧ (len > 0 ∧ e.1 ≤ (a + len - 1) / 64)))).map (fun e => 64 * e.1)

/-- The poisoned atoms that the range covers in part only. -/
def partPoison (s : State) (a len : Nat) : List Nat := (poisonIn s a len).filter (fun u => !decide (a ≤ u ∧ u + 64 ≤ a + len))

/-- Full writes clear the poison of the atoms they cover. -/
def clearPoison (s : State) (a len : Nat) : State :=
  if hasDead s then ((unitsOf a len).filter (fun u => decide (a ≤ u ∧ u + 64 ≤ a + len))).foldl (fun s u => setPoison s u false) s
  else { s with poison := s.poison.keep (fun k _ => !(decide (a ≤ 64 * k ∧ 64 * k + 64 ≤ a + len))) }

/-- A near channel that could not be read holds no poison once its spare is zeroed. -/
def cleanChans (s : State) : State := { s with chans := s.chans.mapAll {} (fun _ c => { c with dead := false }) }

/-- Latch the first error since the last clear (R404, R406): ERR_ADDR and ERR_INFO. -/
def latchErr (s : State) (n a : Nat) (scrub : Bool) (kind : Nat) : State :=
  if bitOf (s.latches.get {} n).info 0 then s
  else
    let e : ErrLatch := { addr := a / 64 * 64, info := 1 + (chanKey s a % 64) * 2 + b2n scrub * 2 ^ 7 + kind * 2 ^ 8 }
    { s with latches := s.latches.put {} n e }

/-- Retire the frame that holds a far atom (R394, R398). -/
def retireAt (s : State) (a reason : Nat) : State :=
  match (if isFar s a then dataFrame s a else none) with
  | some x => retireFar s (farOrang a) (x.1 % 64) (some x.2) reason
  | none => s

/-- Poison an atom (R394): a far atom beyond the 1,024 of its Orangery's table has its frame retired. -/
def poisonAtom (s : State) (a : Nat) : State :=
  let held := (s.poison.filter (fun e => isFar s (64 * e.1) && farOrang (64 * e.1) == farOrang a)).length
  let s1 := setPoison s a true
  if held ≥ 1024 then retireAt s1 a 1 else s1

/-- Count an uncorrectable error met for the first time and latch it (R394); `kind` is 2 for one lost in a copy or in a row cache. -/
def noteUe (s : State) (a : Nat) (scrub : Bool) (kind : Nat := 0) : State :=
  if isNear a then
    let n := pg clsNEAR (a / 2 ^ 36)
    latchErr (raiseErr (bump s n 0x64) n 4) n a scrub kind
  else if isFar s a then
    let n := pg clsFAR (farOrang a)
    latchErr (raiseErr (bump s n 0x78) n 4) n a scrub kind
  else raiseErr s (pg clsCORE ((a - spBase) / 2 ^ 27)) 4

/-- Count a corrected error (R393, R404, R406). -/
def noteCe (s : State) (a : Nat) : State :=
  let s := if isNear a || isFar s a then updChan s (chanKey s a) (fun c => { c with ce := min (c.ce + 1) (2 ^ 32 - 1) }) else s
  if isNear a then raiseErr (bump s (pg clsNEAR (a / 2 ^ 36)) 0x60) (pg clsNEAR (a / 2 ^ 36)) 3
  else if isFar s a then raiseErr (bump s (pg clsFAR (farOrang a)) 0x74) (pg clsFAR (farOrang a)) 3
  else raiseErr s (pg clsCORE ((a - spBase) / 2 ^ 27)) 3

/-! ### Injected errors (R602 to R604) -/

/-- Page and unit under which ERR_INJECT names an atom (R603). -/
def injectUnit (s : State) (a : Nat) : Nat × Nat :=
  if isNear a then (pg clsNEAR (a / 2 ^ 36), physOf s (chanKey s a))
  else if isFar s a then (pg clsFAR (farOrang a), channel s a + frameOf s a / ((farFrames s).1 / 4) * 64)
  else (pg clsCORE ((a - spBase) / 2 ^ 27), (a - spBase) / 2 ^ 22 % 32)

/-- KIND of the injection armed on a page for a unit; 0 for none. -/
def injKind (s : State) (n unit : Nat) : Nat :=
  let v := (page s n).inject.toNat
  if bitsOf v 4 8 = unit ∧ bitsOf v 12 8 > 0 then bitsOf v 0 4 else 0

/-- One injected occurrence has taken its path (R602, R604). -/
def injTaken (s : State) (n : Nat) : State :=
  raiseErr (updPage s n (fun p => { p with inject := if bitsOf p.inject.toNat 12 8 ≤ 1 then 0 else p.inject - 0x1000 })) n 6

/-- The row cache's line that holds the sector of a far unit. -/
def sectorLine (s : State) (u : Nat) : Option Line :=
  let l := farOffset u
  (s.rcache.get [] (setKey (farOrang u) l)).find? (fun x => x.tag == l / 256 && bitOf x.valid (l / 64 % 4))
/-- Drop the sector of a far unit from its row cache. -/
def dropSector (s : State) (u : Nat) : State :=
  let l := farOffset u
  let m := 15 - 1 <<< (l / 64 % 4)
  updSet s (setKey (farOrang u) l) (fun t => t.map (fun x => if x.tag = l / 256 then { x with valid := x.valid &&& m, dirty := x.dirty &&& m } else x))

/-- An uncorrectable error at a unit (R394): it poisons the atom; in a row cache, a clean sector is dropped and read again, and a dirty one
is lost (R388). Answers whether the access meets it. -/
def uncorrectable (s : State) (u : Nat) : State × Bool :=
  match (if isFar s u then sectorLine s u else none) with
  | some x =>
    if bitOf x.dirty (farOffset u / 64 % 4) then (noteUe (poisonAtom (dropSector s u) u) u false 2, true) else (dropSector s u, false)
  | none => (noteUe (poisonAtom s u) u false, true)

/-- The state that a strike leaves. -/
def struck (x : State × Bool) : State := x.1

/-- What an injection does to an access of a range: the state, and whether the access meets an uncorrectable atom. The copy of a retirement
reads the DRAMs, and its errors have KIND 2 (R397). -/
def strike (s : State) (a len : Nat) (copy : Bool := false) : State × Bool :=
  let hit (u : Nat) : Nat := let x := injectUnit s u; injKind s x.1 x.2
  match (unitsOf a len).find? (fun u => isMem s u && (hit u == 1 || hit u == 2 || (hit u == 6 && isFar s u))) with
  | none => (s, false)
  | some u =>
    let n := (injectUnit s u).1
    match hit u with
    | 1 => (injTaken (noteCe s u) n, false)
    | 2 => let x := if copy then (noteUe (poisonAtom s u) u false 2, true) else uncorrectable s u; (injTaken (if x.2 then bump x.1 (pg clsGH 1) 0x40 else x.1) n, x.2)
    | _ => (injTaken (retireAt s u 5) n, false)

/-- Count a poisoned atom that an access met, and latch it (R394, R404, R406). -/
def notePoison (s : State) (a : Nat) : State :=
  if isNear a then latchErr (bump s (pg clsNEAR (a / 2 ^ 36)) 0x68) (pg clsNEAR (a / 2 ^ 36)) a false 1
  else if isFar s a then latchErr (bump s (pg clsFAR (farOrang a)) 0x98) (pg clsFAR (farOrang a)) a false 1
  else s

/-- Does an access meet an uncorrectable or poisoned atom: any atom for a read, an atom covered in part for a write (R394)? -/
def meets (s : State) (a len : Nat) (write : Bool) : State × Bool :=
  let (s, bad) := strike s a len
  if bad then (s, true)
  else
    let l := if write then partPoison s a len else poisonIn s a len
    (l.foldl notePoison s, l != [])

/-- Do reads of several ranges, in order, meet such an atom? -/
def meetsAny : List (Nat × Nat) → State → State × Bool
  | [], s => (s, false)
  | r :: l, s =>
    let x := meets s r.1 r.2 false
    let y := meetsAny l x.1
    (y.1, x.2 || y.2)

end Sys2Proof.Machine
end

