-- ==== Sys2Proof/Machine/Flags.lean ====
section
/-!
DEFINITION. Events, completion records, interrupts, host translation and task faults: every flag computation and every
posting that the meanings share (R33 to R38, R56, R105 to R119, R571 to R574).
-/
namespace Sys2Proof.Machine
open Sys2Proof

/-! ### Host translation (R574) -/

/-- Base of port n's host translation table: the active HTTn. -/
def httBase (s : State) (port : Nat) : Nat :=
  actN s (pg clsHIF 0) (0x400 + 8 * port) + actN s (pg clsHIF 0) (0x404 + 8 * port) * 2 ^ 32

/-- Start of a port's half of the host window. -/
def hostBase (port : Nat) : Nat := if port = 0 then 0x80000000000 else 0xA0000000000
/-- Index of the table entry of a host-window address. -/
def hostIndex (a : Nat) : Nat := (a - hostBase (hostPort a)) >>> 21

/-- Is the requester of an entry enabled? The PF always is; VF n only under SR-IOV. -/
def funcEnabled (s : State) (f : Nat) : Bool := f == 0 || (s.pcie.vfEnable && decide (f ≤ s.pcie.numVfs))

/-- Entries that a port caches. -/
def xlateHeld (s : State) (port : Nat) : List Nat := (s.xlate.filter (fun x => x.1 / 2 ^ 20 == port)).map (·.1)

/-- Make room for an entry of a port's cache. DESIGN CHOICE (log entry 91): which of 4,096 gives way is a free value. -/
def xlateRoom (s : State) (port : Nat) : State :=
  let l := xlateHeld s port
  if l.length < 4096 then s
  else
    let (s, v) := takeFree s
    { s with xlate := s.xlate.put none (l.getD (v % l.length) 0) none }

/-- The entry used for an address, and the state after its lookup: cached, or read from the table and cached. -/
def xlateEntry (s : State) (a : Nat) : State × Nat :=
  let port := hostPort a
  let k := port * 2 ^ 20 + hostIndex a
  match s.xlate.get none k with
  | some e => (s, e)
  | none =>
    let at' := httBase s port + 8 * hostIndex a
    let e := rdN s at' 8
    let s := xlateRoom (countMem (bump s (pg clsHIF 0) 0x6C) (16 + port) at' 8 false) port
    ({ s with xlate := s.xlate.put none k (some e) }, e)

/-- Translate a host-window address: the fault code, or the port and bus address. -/
def hostXlate (s : State) (a : Nat) (write : Bool) : State × Except Nat (Nat × Nat) :=
  let (s, e) := xlateEntry s a
  let bad (c : Nat) : State × Except Nat (Nat × Nat) := (bump s (pg clsHIF 0) 0x70, .error c)
  if !bitOf e 0 || bitsOf e 6 15 != 0 || !funcEnabled s (bitsOf e 2 3) then bad fAddrUnmapped
  else if write && !bitOf e 1 then bad fNotPermitted
  else (s, .ok (hostPort a, (e >>> 21) * 2 ^ 21 + a % 2 ^ 21))

/-- Translate a range of the host window, one lookup for each entry that it reaches: each part's port, bus address and length. -/
def hostParts (s : State) (a : Nat) (write : Bool) : Nat → Nat → State × Except Nat (List (Nat × Nat × Nat))
  | 0, _ => (s, .ok [])
  | n + 1, len =>
    if len = 0 then (s, .ok [])
    else
      let k := min len (2 ^ 21 - a % 2 ^ 21)
      match hostXlate s a write with
      | (s, .error c) => (s, .error c)
      | (s, .ok (p, b)) =>
        match hostParts s (a + k) write n (len - k) with
        | (s, .ok l) => (s, .ok ((p, b, k) :: l))
        | r => r

/-- Read bytes of the host window. -/
def rdHost (s : State) (a n : Nat) : State × Except Nat (List Byte) :=
  match hostParts s a false (n / 2 ^ 21 + 2) n with
  | (s, .error c) => (s, .error c)
  | (s, .ok l) => (s, .ok (l.flatMap (fun e => (List.range e.2.2).map (fun i => rdHostB s e.1 (e.2.1 + i)))))

/-- Write bytes from a bus address on. -/
def wrBus (s : State) (port bus : Nat) : List Byte → State
  | [] => s
  | v :: r => wrBus (wrHostB s port bus v) port (bus + 1) r

/-- Write bytes to parts of host memory. -/
def wrParts (s : State) : List (Nat × Nat × Nat) → List Byte → State
  | [], _ => s
  | (p, b, k) :: r, l => wrParts (wrBus s p b (l.take k)) r (l.drop k)

/-- Write bytes of the host window, once every part has translated. -/
def wrHost (s : State) (a : Nat) (l : List Byte) : State × Except Nat Unit :=
  match hostParts s a true (l.length / 2 ^ 21 + 2) l.length with
  | (s, .error c) => (s, .error c)
  | (s, .ok ps) => (wrParts s ps l, .ok ())

/-! ### Completion records (R571, R572) -/

/-- The active attribute registers of queue q. -/
def qReg (s : State) (q off : Nat) : Nat := actN s (pg clsHIF 0) off q
/-- The active attribute registers of completion queue c. -/
def cqReg (s : State) (c off : Nat) : Nat := actN s (pg clsHIF 0) off c
/-- Is queue q enabled? -/
def qEnabled (s : State) (q : Nat) : Bool := bitOf (qReg s q 0x10C) 0
/-- Entries of queue q's ring. -/
def qEntries (s : State) (q : Nat) : Nat := 2 ^ bitsOf (qReg s q 0x10C) 2 5
/-- Owner of queue q: 0 PF, 1–7 VF. -/
def qOwner (s : State) (q : Nat) : Nat := bitsOf (qReg s q 0x10C) 7 3
/-- Completion queue of queue q. -/
def qCq (s : State) (q : Nat) : Nat := bitsOf (qReg s q 0x10C) 14 8
/-- PRIO_MAX of a queue; 7 for the Gatehouse's (R42). -/
def qPrioMax (s : State) : QRef → Nat
  | .host q => bitsOf (qReg s q.val 0x10C) 11 3
  | .gate => 7
/-- Local base of queue q's ring. -/
def qBase (s : State) (q : Nat) : Nat := qReg s q 0x110 + qReg s q 0x114 * 2 ^ 32
/-- Local base of completion queue c's ring. -/
def cqBase (s : State) (c : Nat) : Nat := cqReg s c 0x15C + cqReg s c 0x160 * 2 ^ 32
/-- Is completion queue c enabled? -/
def cqEnabled (s : State) (c : Nat) : Bool := bitOf (cqReg s c 0x158) 0
/-- Records that completion queue c's ring holds. -/
def cqEntries (s : State) (c : Nat) : Nat := 2 ^ bitsOf (cqReg s c 0x158) 2 5

/-- Fields of a record before it is placed (R571). -/
structure RecInfo where
  queue : Nat
  code : Nat := 0
  pos : Nat := 0
  handle : Nat := 0
  index : Nat := 0
  opcode : Nat := 0
  clamped : Bool := false
  runtime : Bool := false
  detail : Nat := 0
  addr : Nat := 0
deriving DecidableEq, Repr

/-- The record of R571, PHASE aside. -/
def mkRec (s : State) (r : RecInfo) : CRec :=
  BitVec.ofNat 256
    ((s.sqs.get {} r.queue).head.toNat + r.queue * 2 ^ 16 + r.code * 2 ^ 32 + r.pos * 2 ^ 48 + r.handle * 2 ^ 64 + r.index * 2 ^ 100 +
     r.opcode * 2 ^ 128 + b2n r.clamped * 2 ^ 136 + b2n r.runtime * 2 ^ 137 + r.detail * 2 ^ 160 + r.addr * 2 ^ 192)

/-- The bytes of a number, little-endian. -/
def bytesOf (v : Nat) : Nat → List Byte
  | 0 => []
  | n + 1 => BitVec.ofNat 8 v :: bytesOf (v / 256) n

/-- Is the completion queue's ring full (R572)? -/
def cqFull (s : State) (c : Nat) : Bool := decide ((s.cqs.get {} c).posted.length ≥ cqEntries s c)

/-- Try to write one record at the tail; false when it stays held (R572). After a write that fails translation the ring is `blocked`. -/
def writeRec (s : State) (c : Nat) (r : CRec) : State × Bool :=
  let q := s.cqs.get {} c
  if !cqEnabled s c || cqFull s c || q.blocked then (s, false)
  else
    let w := r.toNat + b2n q.phase * 2 ^ 31
    let a := cqBase s c + 32 * q.tail.toNat
    let put (s : State) : State :=
      let last := q.tail.toNat + 1 = cqEntries s c
      let q' := { q with tail := if last then 0 else q.tail + 1, phase := if last then !q.phase else q.phase,
                         posted := q.posted ++ [BitVec.ofNat 256 w], unsignalled := q.unsignalled + 1, timer := true }
      bump { s with cqs := s.cqs.put {} c q' } (pg clsHIF 0) 0x48
    if bitOf (cqReg s c 0x158) 1 then
      if asleep s a || memService s a != .inService then (s, false)
      else (put (clearPoison (wrBytes (countMem s (16 + bitsOf (cqReg s c 0x158) 18 1) a 32 true) a (bytesOf w 32)) a 32), true)
    else if asleep s a then (s, false)
    else match wrHost s a (bytesOf w 32) with
      | (s, .ok _) => (bump (put s) (pg clsHIF 0) 0x58 32, true)
      | (s, .error _) => (raiseEvt { s with cqs := s.cqs.put {} c { q with blocked := true } } (pg clsHIF 0) 3, false)

/-- Interrupt once COUNT records are unsignalled (R573). -/
def cqSignal (s : State) (c : Nat) (force : Bool) : State :=
  let q := s.cqs.get {} c
  if q.unsignalled > 0 ∧ (force ∨ q.unsignalled ≥ bitsOf (cqReg s c 0x164) 0 8) then
    let s := { s with cqs := s.cqs.put {} c { q with unsignalled := 0, timer := false } }
    interrupt s (bitsOf (cqReg s c 0x158) 15 3) (bitsOf (cqReg s c 0x158) 7 8) (bitsOf (cqReg s c 0x158) 18 1)
  else s

/-- Post a record, or hold it behind those already held; the first that meets a full ring begins a wait that CQ_FULL counts (R572). -/
def postRec (s : State) (c : Nat) (r : CRec) : State :=
  let hold (s : State) := { s with cqs := s.cqs.upd {} c (fun q => { q with held := q.held ++ [r] }) }
  if cqEnabled s c && cqFull s c then hold (bump (raiseEvt s (pg clsHIF 0) 4) (pg clsHIF 0) 0x74)
  else if (s.cqs.get {} c).held ≠ [] then hold s
  else match writeRec s c r with
    | (s, true) => cqSignal s c false
    | (s, false) => hold s

/-- Move a flow's oldest position over positions already released, cancelled or faulted (R116). -/
def flowAdvance (f : OFlow) : Nat → OFlow
  | 0 => f
  | n + 1 => if f.skips.contains f.oldest then flowAdvance { f with oldest := f.oldest + 1, skips := f.skips.filter (· != f.oldest) } n else f

/-- Count a position as released (R115, R116); the flow ends when every accepted item has gone (R113). -/
def flowRelease (s : State) (id pos : Nat) : State :=
  match s.oflows.get none id with
  | none => s
  | some f =>
    let f := flowAdvance { f with skips := pos :: f.skips } 257
    { s with oflows := s.oflows.put none id (if f.oldest = f.next then none else some f) }

/-- A slot becomes FREE: generation kept, latch empty, the 20 µs hold begins (R32, R105). -/
def freeSlot (s : State) (key : Nat) : State :=
  updSlot { s with saves := s.saves.put none key none } key (fun t => { gen := t.gen, cooling := true })

/-- A DONE task's record is posted: its position in an ordered flow is released with it, and its slot is freed (R105, R115, R572). -/
def leaveDone (s : State) (key : Nat) : State :=
  freeSlot (if (slot s key).flowKind = 1 then flowRelease s (slot s key).flowId (slot s key).pos else s) key

/-- Slot key of a handle. -/
def hSlot (h : Nat) : Nat := slotKey (bitsOf h 12 4) (bitsOf h 0 12)
/-- Module of a handle. -/
def hMod (h : Nat) : Nat := bitsOf h 16 12
/-- A handle as it is sent: its module rewritten where REMAP says so (R555). -/
def standHandle (s : State) (h : Nat) : Nat := h - hMod h * 2 ^ 16 + standIn s (hMod h) % 4096 * 2 ^ 16
/-- Generation of a handle. -/
def hGen (h : Nat) : BitVec 8 := BitVec.ofNat 8 (bitsOf h 28 8)

/-- A DONE task whose record has now been written leaves its slot (R105, R572). -/
def recordOut (s : State) (r : CRec) : State :=
  let h := bitsOf r.toNat 64 36
  let t := slot s (hSlot h)
  if bitsOf r.toNat 128 8 = 0xA0 ∧ bitsOf r.toNat 32 16 = 0 ∧ t.st = .done ∧ t.gen = hGen h then leaveDone s (hSlot h) else s

/-- Write held records while there is room (R572). -/
def releaseHeld (s : State) (c : Nat) : Nat → State
  | 0 => s
  | n + 1 =>
    match (s.cqs.get {} c).held with
    | [] => s
    | r :: rest =>
      match writeRec s c r with
      | (s, true) =>
        releaseHeld (recordOut (cqSignal { s with cqs := s.cqs.upd {} c (fun q => { q with held := rest }) } c false) r) c n
      | (s, false) => s

/-- Post the record of a queue-level command or task; the Gatehouse's records appear in no completion queue (R42). -/
def postFor (s : State) (q : QRef) (r : RecInfo) : State :=
  match q with
  | .gate => s
  | .host n => postRec s (qCq s n.val) (mkRec s { r with queue := n.val })

/-! ### Flags (R33 to R35, R107) -/

/-- Handle bits of R30. -/
def handle (s : State) (key gen : Nat) : Nat := key % 4096 + (key / 4096) * 2 ^ 12 + ownId s * 2 ^ 16 + gen * 2 ^ 28

/-- DSP page of a slot key's dispatcher. -/
def dspPage (key : Nat) : Nat := pg clsDSP (key / 4096)

/-- Apply a flag set at the dispatcher (R35, R105, R107). -/
def applySet (s : State) (key : Nat) (gen : BitVec 8) (bits : DWord) : State :=
  let t := slot s key
  if t.st = .free then
    -- a signal to a FREE slot of a Pavilion under reset is lost (R631)
    if gen = t.gen + 1 ∧ domResetting s (dPav (key / 4096)) then s
    else if gen = t.gen + 1 then updSlot s key (fun t => { t with flags := t.flags ||| bits }) else bump s (dspPage key) 0x80
  else if gen = t.gen then
    let fl := t.flags ||| bits
    updSlot s key (fun t => { t with flags := fl, st := if t.st = .waiting ∧ fl &&& t.mask = t.mask then .ready else t.st })
  else bump s (dspPage key) 0x80

/-- Send a flag set toward a handle's dispatcher, this module's or another's (R38, R91). -/
def sendSet (s : State) (h : Nat) (bits : DWord) (afterOps afterReqs : List Nat) (op : Option Nat) (die prio : Nat := 0) : State :=
  { s with sets := s.sets ++ [{ target := BitVec.ofNat 36 h, bits, afterOps, afterReqs, op, die, prio }] }

/-- The set of one completion target (R66, R89), from die `die`. -/
def sendTarget (s : State) (t : BitVec 42) (die prio : Nat) : State :=
  sendSet s (t.toNat % 2 ^ 36) (1#64 <<< (bitsOf t.toNat 36 6)) [] [] none die prio

/-! ### Flows (R113 to R119) -/

/-- Key of an atomic flow of a Pavilion. -/
def aflowKey (pav id : Nat) : Nat := pav * 4096 + id

/-- Effective priority of a task: raised by the tasks that wait behind the holder of its atomic flow (R118). -/
def effPrio (s : State) (key : Nat) : Nat :=
  let t := slot s key
  if t.flowKind = 2 then
    let f := s.aflows.get {} (aflowKey (key / 4096) t.flowId)
    if f.holder = some key then f.queue.foldl (fun m k => max m (slot s k).prio) t.prio else t.prio
  else t.prio

/-- Take a slot out of its atomic flow's order and service (R117, R119). -/
def aflowLeave (s : State) (key : Nat) (t : Slot) : State :=
  if t.flowKind = 2 then
    { s with aflows := s.aflows.upd {} (aflowKey (key / 4096) t.flowId) (fun f =>
        { holder := if f.holder = some key then none else f.holder, queue := f.queue.filter (· != key) }) }
  else s

/-- Leave the flows, as a task does when cancelled or faulted (R116, R119). -/
def leaveFlows (s : State) (key : Nat) (t : Slot) : State :=
  let s := aflowLeave s key t
  if t.flowKind = 1 then flowRelease s t.flowId t.pos else s

/-! ### Ending tasks -/

/-- Remove a task's threads from its core. -/
def dropThreads (s : State) (key : Nat) : State :=
  { s with thrs := s.thrs.keep (fun _ t => decide (t.slot ≠ some key)) }

/-- Is the command one that the fault of a task leaves? -/
def keepsOp (s : State) (key id : Nat) : Bool := match getOp s id with | some o => decide (o.slot ≠ some key) | none => false

/-! ### Requests of engines to other modules (R189, R387, R414, R447) -/

/-- Kind and position in SRC_STREAM of an engine's access (R507). -/
def euStream : EUnit → Nat
  | .thread c => 16 * (c % 32) | .stm c => 512 + 16 * (c % 32)
  | .dns c => 1024 + 16 * (c % 32) | .sps c => 1025 + 16 * (c % 32) | .vec c => 1026 + 16 * (c % 32)
  | .row _ => 1536 | .merge _ => 1538 | .smp _ => 2048 | .hdg _ => 2561 | .rng _ => 2562 | .sel _ => 2563 | .num _ => 2564
  | .dsp _ => 2560 | .col _ => 3585 | .mgr => 3587

/-- The stream of a request (R507): a piece and a list or gate read go by their command's service position, a sampler's read by its engine, a
row engine's by its command. -/
def reqStream (s : State) (r : Req) : Nat :=
  let u := r.eu.getD .mgr
  match u with
  | .stm _ => euStream u + (((r.op.bind (s.strms.get none ·)).map (·.place)).getD 0) % 4
  | .smp _ => euStream u + r.mode % 2
  | .row _ => (match (r.op.bind (getOp s)).map (·.opcode) with | some 0x74 => 1539 | some 0x75 => 1540 | _ => euStream u)
  | _ => euStream u

/-- The die of a unit: its Pavilion, or an Orangery. -/
def euDie (u : EUnit) : Nat := (euPav u).getD (match u with | .col a => 16 + a | _ => 16)

/-- Address word of a READ or WRITE message (R508). -/
def addrWord (a len : Nat) : DWord := BitVec.ofNat 64 (a % 2 ^ 44 + (len - 1) % 256 * 2 ^ 44)

/-- The message of an engine's request: a READ, or a WRITE of the bytes it holds. -/
def engineMsg (s : State) (tag : Nat) (r : Req) : Msg :=
  let u := r.eu.getD .mgr
  mkMsg s { dst := gMod r.addr, cls := r.cls, prio := (r.slot.map (effPrio s)).getD 0, mtype := 1 + r.aop, die := euDie u,
            stream := reqStream s r, tag := tag % 65536, tagEpoch := r.tagEpoch.toNat }
    (addrWord (gLoc r.addr) r.len :: r.words.map (BitVec.ofNat 64))

/-- Message of a thread's access to another module (R507, R508). -/
def threadMsg (s : State) (tag : Nat) (r : Req) : Msg :=
  let t := r.thr.getD 0
  let core := r.core.getD (t / 16)
  let i : MsgInfo := { dst := gMod r.addr, cls := r.cls, prio := (r.slot.map (effPrio s)).getD 0, mtype := 1, die := core / 32,
                       stream := 16 * (core % 32) + t % 16, tag := tag % 65536, tagEpoch := r.tagEpoch.toNat }
  match r.kind with
  | .load => mkMsg s i [addrWord (gLoc r.addr) r.len]
  | .store => mkMsg s { i with mtype := 2 } [addrWord (gLoc r.addr) r.len, BitVec.ofNat 64 (r.data.toNat % 2 ^ (8 * r.len) * 2 ^ (8 * (r.addr % 8)))]
  | _ => mkMsg s { i with mtype := 3 } [BitVec.ofNat 64 (gLoc r.addr + r.aop % 32 * 2 ^ 44 + b2n r.reg.isSome * 2 ^ 49), r.data, r.cmp]

/-- The message of a request that had to wait: of a thread, or of an engine. -/
def heldMsg (s : State) (tag : Nat) (r : Req) : Msg :=
  match r.kind with | .load | .store | .atomic => threadMsg s tag r | _ => engineMsg s tag r

/-- Does a SIGNAL of the same thread, issued before and not yet sent, go to the request's destination in its class (R64, R432)? -/
def signalAhead (s : State) (r : Req) : Bool :=
  r.cls == 0 && r.thr.isSome && s.sets.any (fun f =>
    let h := f.target.toNat
    (match f.op, r.op with
     | some i, some j => decide (i < j) && ((getOp s i).bind (·.key)) == r.thr
     | _, _ => false) &&
    (if standIn s (hMod h) = ownId s then isOwn s r.addr && memDie (gLoc r.addr) == hSlot h / 4096 else standIn s (hMod h) == standIn s (gMod r.addr)))

/-- Requests of engines in flight, of the units that satisfy p. -/
def engineSent (s : State) (p : EUnit → Bool) (reads : Bool) : Nat :=
  ((reqList s).filter (fun e => e.2.kind == .engine && e.2.st == .sent && !(reads && e.2.aop == 1) &&
    (match e.2.eu with | some u => p u | none => false))).length

/-- Entries of the gather request table that a Pavilion's row engine holds (R211). -/
def rowFetches (s : State) (p : Nat) : Nat := ((reqList s).filter (fun e => e.2.kind == .rowFetch && e.2.eu == some (.row p))).length

/-- Entries held in a Pavilion's gather request table: gather fetches and sampler reads (R189, R211). -/
def gatherTags (s : State) (p : Nat) : Nat := engineSent s (fun u => u == .smp p) true + rowFetches s p

/-- Reads in flight of the sampler engine that issued the request, which its mode names (R189). -/
def smpSent (s : State) (r : Req) : Nat :=
  ((reqList s).filter (fun e => e.2.kind == .engine && e.2.aop == 0 && e.2.st == .sent && (match e.2.eu with | some (.smp _) => e.2.mode == r.mode | _ => false))).length

/-- Operand reads from outside the scratchpad that the engines of a core have in flight, reads of its stream unit for block lists, gates and
sources, and its bulk tags held in all (R447). A request that has completed FENCED has released its tag (R446, R462). -/
def operandTags (s : State) (c : Nat) : Nat := engineSent s (fun u => u == .dns c || u == .sps c || u == .vec c) true
def listTags (s : State) (c : Nat) : Nat := engineSent s (fun u => u == .stm c) false
def bulkTags (s : State) (c : Nat) : Nat :=
  operandTags s c + listTags s c +
  ((reqList s).filter (fun e => e.2.kind == .piece && e.2.words.getD 3 0 == 0 && e.2.eu == some (.stm c) && e.2.holdsTag)).length

/-- Bulk tags that a stream command holds, which TAG_CFG.CMD_MAX bounds; light tags of a core's streams (R447). A piece's words are its
destination, position, number and path, then its data. -/
def cmdTags (s : State) (id : Nat) : Nat :=
  ((reqList s).filter (fun e => e.2.op == some id && e.2.holdsTag &&
    (e.2.kind == .piece && e.2.words.getD 3 0 == 0 || e.2.kind == .engine))).length
def lightTags (s : State) (c : Nat) : Nat :=
  ((reqList s).filter (fun e => e.2.kind == .piece && e.2.words.getD 3 0 == 1 && e.2.eu == some (.stm c) && e.2.holdsTag)).length
/-- May a stream command of core c take another bulk tag? -/
def bulkFree (s : State) (c id : Nat) : Bool :=
  decide (bulkTags s c < 1472 ∧ cmdTags s id < bitsOf (actN s (pg clsSTM (c / 32)) 0x400) 11 11)

/-- May an engine's request leave, as the tags and the reorder tables stand? -/
def mayEngine (s : State) (r : Req) : Bool :=
  let core (c : Nat) : Bool := r.aop == 1 || (decide (operandTags s c < bitsOf (actN s (pg clsSTM (c / 32)) 0x400) 0 11) && decide (bulkTags s c < 1472))
  mayLeave s r && !signalAhead s r &&
  (match r.eu with
   | some (.smp p) => decide (gatherTags s p < 16384) && decide (smpSent s r < actN s (pg clsSMP p) 0x400)
   | some (.dns c) | some (.sps c) | some (.vec c) => core c
   | some (.stm c) => bulkFree s c (r.op.getD 0)
   | _ => true)

/-- Does a request that waits go out in pieces of its own (R350, R367, R544) or to a row's home (R215)? -/
def Req.later' (r : Req) : Bool := match r.kind with | .rowCheck | .rowUpdate | .journal | .coll => true | _ => false

/-- A request of an engine or a thread that had to wait leaves, if it may now; one for which no route exists is answered so. -/
def sendHeld (s : State) (e : Nat × Req) : State :=
  if e.2.st ≠ .held ∨ e.2.later' ∨ !mayEngine s { e.2 with st := .sent } then s
  else
    let sent (st : ReqSt) (s : State) : State := { s with reqs := s.reqs.put none e.1 (some { e.2 with st }) }
    match sendMsg s (heldMsg s e.1 e.2) with
    | (s, true) => sent .sent s
    | (s, false) => sent (.answered .unreachable 0) s

/-- The requests that wait leave in order, as far as tags and entries are free. -/
def pumpHeld (s : State) : State := (reqList s).foldl sendHeld s

/-- The slots that a task's HDG_LOAD commands were to fill are not LOADED when the task faults (R311). -/
def spoilSlots (s : State) (key : Nat) : State :=
  (opList s).foldl (fun s e =>
    if e.2.slot == some key && e.2.opcode == 0x98 then
      { s with hslots := s.hslots.upd {} (16 * (key / 4096) + bitsOf e.2.cmd.toNat 128 4) (fun h => { h with loaded := false }) }
    else s) s

/-- Stop a task's commands and discard its replies; plain stores already issued complete (R72). -/
def dropWork (s : State) (key : Nat) : State :=
  let mine (r : Req) : Bool := decide (r.slot = some key)
  pumpHeld <|
  { s with ops := s.ops.keep (fun _ o => match o with | some o => decide (o.slot ≠ some key) | none => false),
           strms := s.strms.keep (fun i _ => keepsOp s key i), walks := s.walks.keep (fun i _ => keepsOp s key i),
           hworks := s.hworks.keep (fun i _ => keepsOp s key i), vworks := s.vworks.keep (fun i _ => keepsOp s key i),
           sworks := s.sworks.keep (fun i _ => keepsOp s key i), gworks := s.gworks.keep (fun i _ => keepsOp s key i),
           moves := s.moves.keep (fun i _ => keepsOp s key i), dworks := s.dworks.keep (fun i _ => keepsOp s key i),
           hslots := s.hslots.mapAll {} (fun _ h => match h.loading with | some i => if keepsOp s key i then h else { h with loading := none } | none => h),
           hubs := s.hubs.keep (fun _ h => match h with | some h => keepsOp s key h.op | none => false),
           reqs := (s.reqs.keep (fun _ r => match r with
             | some r => !mine r || (r.kind == .store && r.mode == 0) | none => false)).map (fun e =>
               (e.1, e.2.map (fun r => if mine r then { r with thr := none, slot := none, op := none } else r))),
           tagWait := s.tagWait.mapAll [] (fun _ l => l.filter (fun i => match getReq s i with | some r => !mine r | none => true)),
           sets := s.sets.filter (fun f => match f.op with
             | some i => (match getOp s i with | some o => decide (o.slot ≠ some key) | none => true)
             | none => true) }

/-- A written range of host memory is kept as this, plus port · 2^64 + bus address (R56). -/
def hostMark : Nat := 2 ^ 100

/-- The memory a faulted task wrote holds undefined contents (R56): fresh free bytes, in this module or in host memory. -/
def scramble (s : State) (a : Nat) : Nat → State
  | 0 => s
  | n + 1 =>
    let (s, v) := takeFree s
    scramble (if hostMark ≤ a then wrHostB s ((a - hostMark) / 2 ^ 64) ((a - hostMark) % 2 ^ 64) (BitVec.ofNat 8 v)
      else if isMem s a then wrB s a (BitVec.ofNat 8 v) else s) (a + 1) n

/-- Scramble every range of a list. -/
def scrambleAll (s : State) (l : List (Nat × Nat)) : State := l.foldl (fun s r => scramble s r.1 r.2) s

/-- The memory that a task wrote, and the outputs of its outstanding commands (R56, R72). -/
def taskOuts (s : State) (key : Nat) : List (Nat × Nat) :=
  (slot s key).wrote ++ ((opList s).filter (fun e => e.2.slot == some key)).flatMap (fun e => e.2.outs)

/-- A tile of undefined contents. -/
def freeTile (v : Nat → Nat) : Tile :=
  { int := bitOf (v 0) 0, vals := (List.range 1024).foldl (fun m i => Tab.put 0 m i (v (4 + i))) [], chain := v 1 % 2 ^ 32, accLong := bitOf (v 0) 1,
    sat := bitOf (v 0) 2, satCount := v 2 % 2 ^ 16 }

/-- A bank of undefined contents: only whether it is loaded can still be read. -/
def freeBank (v : Nat) : Option Bank := if bitOf v 0 then some { cmd := BitVec.ofNat 512 v, desc := BitVec.ofNat 256 v, src := [], bits := [], scales := [] } else none

/-- A dense or sparse command that faults leaves the tiles of its core undefined (R267, R311), a dense one the banks too. A DNS_LOAD_W leaves its bank empty
(R251), a DNS_TILE_RESTORE its tile as it was (R258), and the checks of a command's words have no effect (R71). -/
def spoilTiles (s : State) (core opcode code : Nat) : State :=
  if !(decide (0x21 ≤ opcode ∧ opcode ≤ 0x25 ∨ 0x40 ≤ opcode ∧ opcode ≤ 0x43)) || [fIllegalOpcode, fReservedField, fNotPermitted].contains code then s
  else
    let v (i : Nat) : Nat := (Config.freeValue (s.fresh + i)).toNat
    let d : Dense := s.dense.get {} core
    -- a sparse command leaves the banks as they are
    let bank (b : Option Bank) (i : Nat) : Option Bank := if opcode ≥ 0x40 then b else freeBank (v i)
    { s with fresh := s.fresh + 2058
             dense := s.dense.put {} core { a := freeTile v, b := freeTile (fun i => v (1028 + i)), bank0 := bank d.bank0 2056, bank1 := bank d.bank1 2057 } }

/-- A task takes a fault (R56, R72, R105): its threads and commands stop, its record is posted, its slot is FAULTED, its
place in its flow passes on, the memory it wrote becomes undefined, and the steps it has contributed to are tainted (R57). -/
def faultTask (s : State) (key : Nat) (opcode : Nat) (f : FaultInfo) : State :=
  let t := slot s key
  let s := scrambleAll s (taskOuts s key)
  let s := if t.st = .running then spoilTiles s (32 * (key / 4096) + t.core) opcode f.code else s
  let s := dropWork (dropThreads (spoilSlots s key) key) key
  let s := leaveFlows s key t
  let s := { s with saves := s.saves.put none key none, heads := s.heads.mapAll none (fun _ h => if h.map (·.1) = some key then none else h) }
  let s := t.contributed.foldl taint s
  let s := postFor s (if t.orphan then .gate else t.queue)
    { queue := 0
      code := f.code
      pos := f.pos
      handle := handle s key t.gen.toNat
      index := t.index
      opcode := opcode
      clamped := t.clamped
      runtime := decide (t.st = .running ∨ t.st = .preempted)
      detail := f.detail
      addr := f.addr }
  let s := updSlot s key (fun t => { t with st := .faulted, code := f.code, core := 0, victim := false, saved := false, wrote := [], contributed := [] })
  -- a task whose queue's function was reset is freed when it leaves FAULTED (R568)
  if t.orphan then freeSlot s key else s

end Sys2Proof.Machine
end

