-- ==== Sys2Proof/Machine/Operands.lean ====
section
/-!
DEFINITION. The operand forms that commands share: the checks of words 0 to 15 (R62 to R74), windows and addresses
(R43 to R48, R87, R88), tensor descriptors (R98), block lists (R100 to R102), and the issue of a command by a thread.
-/
namespace Sys2Proof.Machine
open Sys2Proof

/-- Bits [lo + n - 1 : lo] of word `word` of a command; n may run into the next word. -/
def cf (w word lo n : Nat) : Nat := bitsOf w (32 * word + lo) n

/-- The lowest of two optional positions. -/
def lowest (a b : Option Nat) : Option Nat :=
  match a, b with
  | some x, some y => some (if x ≤ y then x else y)
  | some x, none => some x
  | none, y => y

/-- The lowest position whose condition for an offence holds. -/
def firstBad (l : List (Nat × Bool)) : Option Nat :=
  l.foldl (fun acc e => if e.2 then lowest acc (some e.1) else acc) none

/-- Index of the lowest set bit. -/
def lowBit (w : Nat) : Option Nat := if w = 0 then none else some (Nat.log2 (w ^^^ (w - 1)))
/-- A reserved range that is not zero offends at its lowest set bit (R74): bits [lo + n - 1 : lo] of `v`, whose bit 0 has position `p`. -/
def rsvIn (v p lo n : Nat) : Nat × Bool := (p + lo + (lowBit (bitsOf v lo n)).getD 0, bitsOf v lo n != 0)

/-- What an opcode's operand words allow (R71 check 4): the fields as (word, low bit, width), and the offending conditions
with their positions (R74). -/
structure CmdSpec where
  fields : List (Nat × Nat × Nat)
  bad : Nat → List (Nat × Bool)

/-- The bits that the fields cover. -/
def fieldMask (l : List (Nat × Nat × Nat)) : Nat := l.foldl (fun m f => m ||| ((2 ^ f.2.2 - 1) <<< (32 * f.1 + f.2.1))) 0

/-- Position of field bit `lo` of word `word`. -/
def at_ (word lo : Nat) : Nat := 32 * word + lo

/-- CLASS permitted for an opcode (R63): 0 control, 1 collective, 2 gather/scatter, 3 bulk. -/
def classOk (op cls : Nat) : Bool :=
  if op = 0 ∨ op = 0xA0 ∨ op = 0xA1 ∨ op = 0xA2 ∨ (0xA4 ≤ op ∧ op ≤ 0xA7) then cls == 0
  else if op = 0xA3 ∨ op = 6 ∨ op = 7 then cls != 1
  else if 0x80 ≤ op ∧ op ≤ 0x8F then cls == 1
  else decide (cls ≥ 2)

/-- Opcodes on which ACC is relevant (R68). -/
def accOp (op : Nat) : Bool := op == 0x21 || op == 0x23 || op == 0x24 || decide (0x40 ≤ op ∧ op ≤ 0x43)

/-- The lowest offending bit of word 0 (R62, R63); `queue` for a queue-level command. -/
def word0Bad (w op : Nat) (queue : Bool) : Option Nat :=
  firstBad
    [(8, !classOk op (bitsOf w 8 2)),
     (10, if op = 0xA0 then bitsOf w 10 2 == 3 else bitsOf w 10 2 != 0),
     (12, op != 0xA0 && bitsOf w 12 3 != 0),
     (15, !accOp op && bitOf w 15),
     (16, !(decide (1 ≤ op ∧ op ≤ 7) || op == 0xA3) && bitOf w 16),
     (17, (queue || op == 0 || op == 0xA2 || op == 0xA6) && bitOf w 17),
     (18, (op == 0 || op == 0xA6) && bitOf w 18),
     (19, bitOf w 19),
     (20, (queue && bitsOf w 20 4 != 0) || (1 ≤ bitsOf w 20 4 && bitsOf w 20 4 ≤ 3) || bitsOf w 20 4 == 15),
     (24, bitsOf w 20 4 == 0 && bitsOf w 24 6 != 0),
     (30, bitOf w 30), (31, bitOf w 31)]

/-- The lowest offending bit of words 1 to 15 (R65, R66, R71 check 4). DESIGN CHOICE (log entry 80): where CPL_EN is 0, each of words 2
and 3 that is not 0 offends as one field, at its bit 0. -/
def wordsBad (w op : Nat) (sp : CmdSpec) : Option Nat :=
  let fk := bitsOf w 10 2
  let cpl := bitOf w 18
  let head := firstBad
    [(32, (op != 0xA0 || fk == 0) && cf w 1 0 16 != 0),
     (if op = 0xA0 ∧ fk = 2 then rsvIn w 0 44 4 else (44, false)),
     (64, !cpl && cf w 2 0 32 != 0), (96, !cpl && cf w 3 0 32 != 0),
     (100, cpl && cf w 3 4 6 ≥ 62)]
  let resv := (w >>> 48) % 2 ^ 16
  let resvHi := if resv = 0 then none else (lowBit resv).map (· + 48)
  let r3 := if cpl ∧ cf w 3 10 22 ≠ 0 then (lowBit (cf w 3 10 22)).map (· + 106) else none
  let body := w >>> 128
  let masked := body - (body &&& (fieldMask sp.fields >>> 128))
  let resvBody := (lowBit masked).map (· + 128)
  lowest (lowest head resvHi) (lowest r3 (lowest resvBody (firstBad (sp.bad w))))

/-! ### Windows (R43, R44, R87, R88) -/

/-- Base of a near, far or host window. -/
def wBase (w : Nat) : Nat := bitsOf w 0 32 * 4096
/-- Exclusive bound of a near, far or host window. -/
def wBound (w : Nat) : Nat := bitsOf w 32 32 * 4096
/-- First module id. -/
def wFirst (w : Nat) : Nat := bitsOf w 64 12
/-- Last module id. -/
def wLast (w : Nat) : Nat := bitsOf w 76 12
/-- Permission bit: 0 R, 1 W, 2 A. -/
def wPerm (w p : Nat) : Bool := bitOf w (88 + p)
/-- Is the window present (R87, R88)? -/
def wPresent (w : Nat) : Bool := bitsOf w 88 3 != 0
/-- START of a scratchpad window. -/
def wStart (w : Nat) : Nat := bitsOf w 0 25
/-- LENGTH of a scratchpad window. -/
def wLen (w : Nat) : Nat := bitsOf w 32 26
/-- PIN of a scratchpad window. -/
def wPin (w : Nat) : Bool := bitOf w 91
/-- PIN_CORE of a scratchpad window. -/
def wPinCore (w : Nat) : Nat := bitsOf w 96 9
/-- MODULE of a pinned scratchpad window. -/
def wModule (w : Nat) : Nat := bitsOf w 64 12

/-- The absolute scratchpad range of a window for a running core: start and length in bytes. -/
def spRange (w core : Nat) : Nat × Nat :=
  (if wPin w then spBase + 64 * wStart w else spOf core + 64 * wStart w, 64 * wLen w)

/-- The kind of a local address: 0 scratchpad region, 1 near, 2 far, 3 host, 4 none. -/
def addrKind (a : Nat) : Nat :=
  if a < 2 ^ 40 then 1 else if farBase ≤ a ∧ a < 0x80000000000 then 2 else if isHost a then 3
  else if spBase ≤ a ∧ a < regSpace then 0 else 4

/-- Does a task's window of the address's kind admit the access (R43, R44, R47)? `perm`: 0 R, 1 W, 2 A. -/
def winOk (s : State) (t : Slot) (core g len perm : Nat) : Bool :=
  let a := gLoc g
  let inR (w : Nat) : Bool :=
    wPerm w perm && decide (wFirst w ≤ gMod g ∧ gMod g ≤ wLast w ∧ wBase w ≤ a ∧ a + len ≤ wBound w)
  match addrKind a with
  | 1 => inR t.wNear.toNat
  | 2 => inR t.wFar.toNat
  | 3 => inR t.wHost.toNat
  | 0 =>
    let w := t.wSp.toNat
    let r := spRange w core
    wPerm w perm && (gMod g == (if wPin w then wModule w else ownId s)) && decide (r.1 ≤ a ∧ a + len ≤ r.1 + r.2)
  | _ => false

/-- What a running command knows of itself. -/
structure Ctx where
  /-- Thread key, module core and slot key. -/
  thr : Nat
  core : Nat
  key : Nat
  /-- The command word after substitution. -/
  w : Nat
  /-- Id it takes as an outstanding command, and the unit that serves it. -/
  op : Nat
  eu : EUnit
deriving DecidableEq, Repr

/-- The die of the engine: the Orangery of a collective engine, else the issuing core's Pavilion. -/
def Ctx.die (c : Ctx) : Nat := match c.eu with | .col a => 16 + a | _ => c.core / 32
/-- Pavilion of the issuing core. -/
def Ctx.pav (c : Ctx) : Nat := c.core / 32
/-- A field of the command. -/
def Ctx.f (c : Ctx) (word lo n : Nat) : Nat := cf c.w word lo n
/-- A one-bit field. -/
def Ctx.b (c : Ctx) (word lo : Nat) : Bool := bitOf c.w (32 * word + lo)
/-- ACC of word 0. -/
def Ctx.acc (c : Ctx) : Bool := bitOf c.w 15

/-- Marks a command that cannot be performed yet: a home it reads is resetting (R58, R590), a condition is not met. It is no
fault code of R103, and never reaches a record. -/
def holdCode : Nat := 0x10000

/-- Marks an engine's command whose read completed FENCED: it is read again after RESET_DONE (R58, R590, R593). -/
def fencedCode : Nat := 0x10001

/-- Marks a command that needs bytes of another module's memory: they are read, and it goes on with them. -/
def awaitCode : Nat := 0x10002

/-- The command waits to issue. -/
def hold {α : Type} : Cm α := throw { code := holdCode }
/-- Wait to issue while a condition holds. -/
def holdIf (c : Bool) : Cm Unit := if c then hold else pure ()
/-- End with RESERVED_FIELD at a position, if there is one. -/
def fieldIf : Option Nat → Cm Unit
  | some p => throw { code := fReservedField, pos := p }
  | none => pure ()
/-- Count events. -/
def count (page off : Nat) (n : Nat := 1) : Cm Unit := modify (fun s => bump s page off n)
/-- Count an occurrence where a condition holds. -/
def countIf (b : Bool) (page off : Nat) (n : Nat := 1) : Cm Unit := if b then count page off n else pure ()

/-- Check a direct access of a task (R3, R27, R47): window, torus, populated memory. -/
def access (c : Ctx) (g len perm : Nat) : Cm Unit := do
  let s ← get
  if !winOk s (slot s c.key) c.core g len perm then failAt fWindowViolation g
  else if !inTorus s (gMod g) then failAt fAddrUnmapped g
  else if !popRange s (gLoc g) len then failAt fAddrUnmapped g
  else pure ()

/-- Read own populated memory at a local address, for die `die`: the home must serve it (R394, R589 to R591), and what reaches memory that is asleep
waits (R617). -/
def readLocal (die a len : Nat) (cls : Nat := 3) : Cm (List Byte) := do
  let s ← get
  holdIf (sleeps s a len)
  match unserved s a len with
  | some u => throw (if memService s u = .resetting then { code := fencedCode, addr := u, detail := memResource s u }
      else { code := fUncorrectable, detail := memResource s u })
  | none =>
    let (s, bad) := meets s a len false
    set s
    faultIf bad { code := fUncorrectable, detail := memResource s a }
    modify (fun s => countMem s die a len false cls)
    pure (rdBytes s a len)

/-- A request of an engine to another module's memory: a write of what `payload` holds, or a read. A sampler's engine is named by `eng`. -/
def engineReq (c : Ctx) (g len : Nat) (write : Bool) (payload : List DWord) (eng : Nat) : Req :=
  { kind := .engine, home := dRemote (gMod g), slot := some c.key, op := some c.op, eu := some c.eu, addr := g, len,
    cls := bitsOf c.w 8 2, aop := b2n write, words := payload.map (·.toNat), mode := eng }

/-- An engine's request leaves at once where a tag and an entry of the reorder table are free, and else waits behind its command's earlier
ones (R189, R387, R447); `false` where no route exists. -/
def sendEngine (s : State) (r : Req) : State × Bool :=
  if !mayEngine s r || (reqList s).any (fun e => e.2.op == r.op && e.2.st == .held) then ((addReq s { r with st := .held }).1, true)
  else
    let (s, tag) := addReq s r
    match sendMsg s (engineMsg s tag r) with
    | (s, true) => (s, true)
    | (s, false) => ({ s with reqs := s.reqs.put none tag (some { r with st := .answered .unreachable 0 }) }, false)

/-- Writes of bytes of another module, in pieces of at most 128 bytes that cross no 128-byte boundary. -/
def remoteWrite (c : Ctx) (g : Nat) (l : List Byte) : Nat → Nat → Cm Unit
  | 0, _ => pure ()
  | n + 1, len =>
    if len = 0 then pure ()
    else do
      let k := min len (128 - g % 128)
      let s ← get
      let (s', ok) := sendEngine s (engineReq c g k true (wordsOf (List.replicate (g % 8) 0 ++ l.take k) 17) 0)
      set s'
      faultIf (!ok) { code := fUnreachable, detail := resource 20 14 (gMod g) }
      remoteWrite c (g + k) (l.drop k) n (len - k)

/-- Reads of a range of another module, in such pieces. -/
def sendReads (s : State) (c : Ctx) (g eng : Nat) : Nat → Nat → State
  | 0, _ => s
  | n + 1, len =>
    if len = 0 then s
    else
      let k := min len (128 - g % 128)
      sendReads (sendEngine s (engineReq c g k false [] eng)).1 c (g + k) eng n (len - k)

/-- Id under which the banks of core k that are filled again read: no command's (R263). -/
def refillId (k : Nat) : Nat := 2 ^ 40 + k

/-- What work has asked for of other modules: a command, or the first bank that a core is to fill again. -/
def wanted (s : State) (id : Nat) : Wanted :=
  if 2 ^ 40 ≤ id then (((s.dense.get {} (id - 2 ^ 40)).refills.head?).map (·.far)).getD {} else ((getOp s id).getD {}).far
/-- Change it. -/
def updWanted (s : State) (id : Nat) (f : Wanted → Wanted) : State :=
  if 2 ^ 40 ≤ id then
    { s with dense := s.dense.upd {} (id - 2 ^ 40) (fun d => { d with refills := match d.refills with
      | r :: l => { r with far := f r.far } :: l
      | [] => [] }) }
  else updOp s id (fun o => { o with far := f o.far })

/-- A command asks for bytes of another module, and waits for them. -/
def askFar (s : State) (c : Ctx) (g len eng : Nat) : State :=
  -- a sampler's read stands in the table of the Pavilion whose engine makes it (R189)
  let c := match c.eu with | .smp _ => { c with eu := .smp (eng / 2) } | _ => c
  sendReads (updWanted s c.op (fun w => { w with st := 1 })) c g eng (len / 128 + 2) len

/-- A byte of another module that has been read for a command. -/
def farByte (l : List (Nat × List Byte)) (a : Nat) : Option Byte := l.findSome? (fun e => if e.1 ≤ a then e.2[a - e.1]? else none)

/-- Read bytes of another module's memory: those that have arrived for the command; else they are asked for (DESIGN CHOICE, log entry 18:
the command then goes on, or begins anew, with them). -/
def readFar (c : Ctx) (g len : Nat) : Cm (List Byte) := do
  let s ← get
  let w := wanted s c.op
  match (List.range len).mapM (fun i => farByte w.got (g + i)) with
  | some l => pure l
  | none =>
    match w.bad.find? (fun e => decide (e.1 < g + len ∧ g < e.1 + e.2.1)) with
    | some e => throw { code := e.2.2.1, addr := e.2.2.2.1, detail := e.2.2.2.2 }
    | none => throw { code := awaitCode, addr := g, detail := len }

/-- Does a command's access reach a scratchpad by its core's own ports, or by the landing port of a gather's rows (R409)? -/
def Ctx.ownPort (c : Ctx) (a : Nat) (write : Bool) : Bool :=
  match c.eu with
  | .thread _ | .stm _ | .dns _ | .sps _ | .vec _ => (a - spBase) / 2 ^ 22 == c.core
  | .row _ => write
  | _ => false

/-- Does an engine's read of this module's memory take a tag of its core's stream unit: outside the core's scratchpad (R414), or a stream's own
read of a list, a gate or a source (R447)? And one of the far tier an entry of a reorder table (R387). The read is performed at once, so that
it only waits while no tag or entry is free. -/
def operandWaits (s : State) (c : Ctx) (a : Nat) : Bool :=
  farWaits s c.eu a ||
  match c.eu with
  | .dns k | .sps k | .vec k =>
    !(isSp a && (a - spBase) / 2 ^ 22 == k) &&
      (decide (operandTags s k ≥ bitsOf (actN s (pg clsSTM (k / 32)) 0x400) 0 11) || decide (bulkTags s k ≥ 1472))
  | .stm k => !bulkFree s k c.op
  | _ => false

/-- Read bytes at a global address without a window check: own memory, the host window, or another module. -/
def readRaw (c : Ctx) (g len : Nat) : Cm (List Byte) := do
  let s ← get
  faultIf (!inTorus s (gMod g)) { code := fAddrUnmapped, addr := g }
  holdIf (isOwn s g && operandWaits s c (gLoc g))
  if !isOwn s g then readFar c g len
  else if isHost (gLoc g) then do
    holdIf (sleeps s (gLoc g) len)
    match rdHost s (gLoc g) len with
    | (s, .ok l) => do
      set (carryAccess (bump s (pg clsHIF 0) 0x50 len) c.die (memDie (gLoc g)) false (bitsOf c.w 8 2) len)
      pure l
    | (s, .error code) => do
      set s
      failAt code g
  else if !popRange s (gLoc g) len then failAt fAddrUnmapped g
  else do
    let l ← readLocal c.die (gLoc g) len (bitsOf c.w 8 2)
    modify (fun s => if c.ownPort (gLoc g) false then s else remoteIn s (gLoc g) len)
    pure l

/-- Read bytes that a task names directly (R47). -/
def readT (c : Ctx) (g len : Nat) : Cm (List Byte) := do
  access c g len 0
  readRaw c g len

/-- The little-endian number of a list of bytes. -/
def leNat (l : List Byte) : Nat := l.foldr (fun b acc => b.toNat + 256 * acc) 0

/-- Read a little-endian number that a task names directly. -/
def readNat (c : Ctx) (g len : Nat) : Cm Nat := do
  let l ← readT c g len
  pure (leNat l)

/-- Write bytes of own memory, for die `die`: a write clears the poison of the atoms that it covers, and is uncorrectable at one that it covers in
part (R394). -/
def writeLocal (die a : Nat) (l : List Byte) (cls : Nat := 3) : Cm Unit := do
  let s ← get
  holdIf (sleeps s a l.length)
  match unserved s a l.length with
  | some u =>
    if memService s u = .resetting then do
      modify (fun s => noteFenced s die u)
      failWith fWriteFenced
    else throw { code := fUncorrectable, detail := memResource s u }
  | none =>
    let (s, bad) := meets s a l.length true
    set s
    faultIf bad { code := fUncorrectable, detail := memResource s a }
    modify (fun s => clearPoison (wrBytes (countMem s die a l.length true cls) a l) a l.length)

/-- Write bytes at a global address without a window check. -/
def writeRaw (c : Ctx) (g : Nat) (l : List Byte) : Cm Unit := do
  let s ← get
  faultIf (!inTorus s (gMod g)) { code := fAddrUnmapped, addr := g }
  holdIf (isOwn s g && farWaits s c.eu (gLoc g))
  if !isOwn s g then remoteWrite c g l (l.length / 128 + 2) l.length
  else if isHost (gLoc g) then do
    holdIf (sleeps s (gLoc g) l.length)
    match wrHost s (gLoc g) l with
    | (s, .ok _) => set (carryAccess (bump s (pg clsHIF 0) 0x58 l.length) c.die (memDie (gLoc g)) true (bitsOf c.w 8 2) l.length)
    | (s, .error code) => do
      set s
      failAt code g
  else if !popRange s (gLoc g) l.length then failAt fAddrUnmapped g
  else do
    writeLocal c.die (gLoc g) l (bitsOf c.w 8 2)
    modify (fun s => if c.ownPort (gLoc g) true then s else remoteIn s (gLoc g) l.length)

/-- Bus ranges behind a range of the host window, 2 MiB page by page: port · 2^64 + bus address above `hostMark`, and length. -/
def hostSpans (s : State) (a : Nat) : Nat → Nat → List (Nat × Nat)
  | 0, _ => []
  | n + 1, len =>
    if len = 0 then []
    else
      let k := min len (2 ^ 21 - a % 2 ^ 21)
      (match (hostXlate s a true).2 with | .ok (p, b) => [(hostMark + p * 2 ^ 64 + b, k)] | .error _ => []) ++ hostSpans s (a + k) n (len - k)

/-- The part of a range that lies in this module's memory or in host memory. -/
def ownSpans (s : State) (g len : Nat) : List (Nat × Nat) :=
  if !isOwn s g then [] else if isHost (gLoc g) then hostSpans s (gLoc g) (len / 2 ^ 21 + 2) len else [(gLoc g, len)]

/-- A task remembers a range that it writes, in this module's memory or in host memory, for R56. -/
def noteWrote (s : State) (key g len : Nat) : State := updSlot s key (fun t => { t with wrote := ownSpans s g len ++ t.wrote })

/-- Write bytes that a task names directly (R47). -/
def writeT (c : Ctx) (g : Nat) (l : List Byte) : Cm Unit := do
  access c g l.length 1
  writeRaw c g l
  modify (fun s => noteWrote s c.key g l.length)

/-- Write a little-endian number that a task names directly. -/
def writeNat (c : Ctx) (g len v : Nat) : Cm Unit := writeT c g (bytesOf v len)

/-! ### Tensor descriptors (R98, R99) -/

/-- A tensor descriptor. -/
structure TDesc where
  base : Nat
  format : Nat
  layout : Nat
  rows : Nat
  cols : Nat
  stride : Nat
  numSlot : Nat
  numEn : Bool
deriving DecidableEq, Repr

/-- Bytes of one dense row of a format (R237, R201). -/
def rowBytes (format cols : Nat) : Nat :=
  (if codeIsMx format then cols / 32 else if format = 0x0F then 4 else 0) + (codeBits format * cols + 7) / 8

/-- The fields of a descriptor's 32 bytes. -/
def tdescOf (v : Nat) : TDesc :=
  { base := bitsOf v 0 56, format := bitsOf v 64 8, layout := bitsOf v 72 8, rows := bitsOf v 96 24 + 1, cols := bitsOf v 128 24 + 1,
    stride := bitsOf v 160 32, numSlot := bitsOf v 192 12, numEn := bitOf v 207 }

/-- The lowest offending bit of a descriptor, counted from its first byte (R98, R99, R237). `fmts` are the codes and `lays` the
layouts that the command accepts. -/
def tdescBad (v : Nat) (fmts lays : List Nat) : Option Nat :=
  let d := tdescOf v
  firstBad
    [rsvIn v 0 56 8, (64, !(codeDefined d.format && fmts.contains d.format)), (72, !(decide (d.layout ≤ 3) && lays.contains d.layout)),
     rsvIn v 0 80 16, rsvIn v 0 120 8, (128, codeIsMx d.format && d.layout == 0 && d.cols % 32 != 0), rsvIn v 0 152 8,
     (160, if d.layout = 0 then decide (d.stride < rowBytes d.format d.cols) else d.stride != 0),
     rsvIn v 0 204 3, rsvIn v 0 208 48]

/-- Read and check a tensor descriptor's 32 bytes (R98, R685). -/
def readDescN (c : Ctx) (g : Nat) (fmts lays : List Nat) : Cm Nat := do
  faultIf (g % 32 ≠ 0) { code := fMisaligned, addr := g }
  let v ← readNat c g 32
  match tdescBad v fmts lays with
  | some p => throw { code := fReservedField, pos := p }
  | none => pure v

/-- Read and check a tensor descriptor. -/
def readDesc (c : Ctx) (g : Nat) (fmts lays : List Nat) : Cm TDesc := do
  let v ← readDescN c g fmts lays
  pure (tdescOf v)

/-- Global address of row r of a dense tensor. -/
def TDesc.row (d : TDesc) (r : Nat) : Nat := d.base + r * d.stride

/-! ### Issue by a thread (R71, R75 to R79, R411) -/

/-- Is the block of a unit taking new work (R647, R589, R591)? -/
def euServes (s : State) (u : EUnit) : Bool :=
  let n := euPage u
  (page s n).enable && !(page s n).stopped && (dom s (dPage n)).service != .resetting &&
  !(match euPav u with | some p => pavAsleep s p | none => s.power.mode != 0)

/-- Has the thread ended, by END or by reaching PROG_LEN (R75)? -/
def thrEnded (th : Thread) (sl : Slot) : Bool := th.ended || decide (sl.len ≤ th.next)

/-- May the thread issue its next command (R411), the unit aside? -/
def canRun (s : State) (t : Thr) : Bool :=
  let k := thrKey t
  let th := thr s k
  let pav := t.core.val / 32
  match th.slot with
  | none => false
  | some key =>
    let sl := slot s key
    sl.st == .running && !thrEnded th sl && th.waits.isNone && !sl.victim &&
    (dom s (dCore t.core.val)).service == .inService && (dom s (dPav pav)).service == .inService &&
    !(s.dutyHeld.get false pav) && !pavAsleep s pav && (page s (pg clsCORE pav)).enable

/-- May it issue to the unit: room in its queue, and the block takes new work? -/
def canIssue (s : State) (t : Thr) (u : EUnit) : Bool :=
  canRun s t && decide (euCount s u < euDepth u) && euServes s u

/-- Does an outstanding command of the thread write register r (R77, R444)? -/
def regBusy (s : State) (k r : Nat) : Bool :=
  (opList s).any (fun e => !e.2.parked && (match e.2.iss with | .thread t => thrKey t == k | .queue _ => false) &&
    (match e.2.dst with | some d => d.1 == r | none => false))

/-- The command word after register substitution (R77). -/
def substitute (s : State) (k w : Nat) : Nat :=
  let sw := bitsOf w 20 4
  if sw = 0 then w
  else
    let v := (thrReg s k (bitsOf w 24 6)).toNat
    w - bitsOf w (32 * sw) 64 * 2 ^ (32 * sw) + v * 2 ^ (32 * sw)

/-- Check the module of a completion target or handle (R48, R66, R686): the fault code, if any. -/
def targetBad (s : State) (t : Slot) (m : Nat) : Option Nat :=
  let w := t.wNear.toNat
  if m ≠ ownId s ∧ !(wPresent w && decide (wFirst w ≤ m ∧ m ≤ wLast w)) then some fWindowViolation
  else if !inTorus s m then some fAddrUnmapped
  else none

/-- The completion target of words 2 and 3 (R66). -/
def cplTarget (w : Nat) : Option (BitVec 42) :=
  if bitOf w 18 then some (BitVec.ofNat 42 (cf w 2 0 32 + cf w 3 0 4 * 2 ^ 32 + cf w 3 4 6 * 2 ^ 36)) else none

/-- How a command stands when its effect has been made. -/
inductive Stand where
  /-- Completed at issue (NOP, END). -/
  | now
  /-- Outstanding until COMMAND_COMPLETION (R79); `waits` replies, pieces or sets are still to come. -/
  | later (waits : Nat)
  /-- Posted: its thread goes on, its completion bit is still to come (STM_STOREREG, R80). -/
  | posted (waits : Nat)
  /-- Outstanding, and a read of its issue completed FENCED at an address: it is made again (R593). -/
  | fenced (a : Nat)
  /-- Outstanding, and it has asked for bytes of another module: global address, length, and the engine of a sampler that asks. -/
  | await (g len eng : Nat)
deriving DecidableEq, Repr

/-- A range that a command may touch (R422): global address, length, is a write. -/
abbrev Touch := Nat × Nat × Bool

/-- What an opcode is: its operand checks, its unit, the engine it needs (R78: 1 dense, 2 sparse, 3 both), the ranges it may
touch, and its effect. -/
structure CmdDef where
  opc : Nat
  spec : CmdSpec
  eu : Nat → EUnit
  needs : Nat := 0
  touch : Ctx → Cm (List Touch) := fun _ => pure []
  run : Ctx → Cm Stand

/-- The issuing thread of a key. -/
def keyThr (k : Nat) : Thr := ⟨Fin.ofNat 512 (k / 16), Fin.ofNat 16 k⟩

/-- Is the outstanding command of the thread with this key? -/
def Op.ofThr (o : Op) (k : Nat) : Bool := o.key == some k

/-- The part of a range in a core's own scratchpad, as first and last granule. -/
def ownGranules (s : State) (core : Nat) (t : Touch) : Option (Nat × Nat) :=
  let lo := max (gLoc t.1) (spOf core)
  let hi := min (gLoc t.1 + t.2.1) (spOf core + 2 ^ 22)
  if isOwn s t.1 && decide (lo < hi) then some ((lo - spOf core) / 64, (hi - 1 - spOf core) / 64) else none

/-- The span of the reads or writes of a command in its core's scratchpad (R422). -/
def spanOf (s : State) (core : Nat) (l : List Touch) (wr : Bool) : List (Nat × Nat × Bool) :=
  match (l.filter (fun t => t.2.2 == wr)).filterMap (ownGranules s core) with
  | [] => []
  | g :: r => [((g :: r).foldl (fun m x => min m x.1) g.1, (g :: r).foldl (fun m x => max m x.2) g.2, wr)]

/-- A span the command shares with an entry, one of the two being a write (R422). -/
def spansClash (a b : List (Nat × Nat × Bool)) : Bool :=
  a.any (fun x => b.any (fun y => (x.2.2 || y.2.2) && decide (x.1 ≤ y.2.1 ∧ y.1 ≤ x.2.1)))

/-- The task's scratchpad window as a touched range: what a range known only from later data contributes (R422). -/
def winTouch (wr : Bool) (c : Ctx) : Cm (List Touch) := do
  let s ← get
  let r := spRange (slot s c.key).wSp.toNat c.core
  pure [(gAddr s r.1, r.2, wr)]

/-- Place of a thread among its task's threads: the n-th of the core's threads that the task holds. -/
def thrIndex (s : State) (k key : Nat) : Nat :=
  ((s.thrs.filter (fun e => decide (e.2.slot = some key ∧ e.1 < k)))).length

/-- Record the command as outstanding, and move the thread on (R79). -/
def retire (s : State) (c : Ctx) (opc : Nat) (u : EUnit) (spans : List (Nat × Nat × Bool)) (f : Stand) : State :=
  let s := bump s (pg clsCORE c.pav) 0x40
  let adv (s : State) := updThr s c.thr (fun t => { t with next := t.next + 1 })
  let async := bitOf c.w 17
  let rec' (n : Nat) (blocks posted : Bool) : State :=
    let o : Op := (getOp s c.op).getD {}
    let o := { o with opcode := opc, iss := .thread (keyThr c.thr), slot := some c.key, gen := (slot s c.key).gen, eu := u,
                      cmd := BitVec.ofNat 512 c.w, async := async, cpl := cplTarget c.w, spans, posted
                      thrIdx := thrIndex s c.thr c.key, cmdIdx := (thr s c.thr).next
                      far := {}
                      waits := o.waits + n + ((reqList s).filter (fun e => e.2.kind == .engine && e.2.aop == 1 && e.2.op == some c.op)).length }
    -- a posted store that has been performed, with no completion target, leaves nothing outstanding (R79)
    let s := { s with ops := s.ops.put none c.op (if posted && o.waits == 0 && o.cpl.isNone then none else some o), nextOp := s.nextOp + 1 }
    adv (if blocks then updThr s c.thr (fun t => { t with waits := some c.op }) else s)
  match f with
  | .now => adv s
  | .later n => rec' n (!async) false
  | .posted n => rec' n false true
  | .fenced _ => rec' 1 (!async) false
  | .await _ _ _ => rec' 0 (!async) false

/-- Address of the thread's next command (R75). -/
def fetchAddr (sl : Slot) (th : Thread) (t : Nat) : Nat := sl.prog + 64 * (t * sl.stride + th.next)

/-- A program fetch that fails: a host translation that fails, or an uncorrectable atom (R83, R394). -/
def fetchFault (s : State) (a : Nat) : State × Option FaultInfo :=
  if isHost a then
    match rdHost s a 64 with
    | (s, .ok _) => (s, none)
    | (s, .error _) => (s, some { code := fAddrUnmapped, addr := gAddr s a })
  else match meets s a 64 false with
    | (s, true) => (s, some { code := fUncorrectable, detail := memResource s a })
    | (s, false) => (s, none)

/-- Does the thread's scoreboard hold the command (R422)? -/
def sbHolds (s : State) (c : Ctx) (sl : Slot) (spans : List (Nat × Nat × Bool)) : Bool :=
  sl.syncMode && spans != [] &&
  ((opList s).any (fun e => e.2.ofThr c.thr && spansClash spans e.2.spans) ||
   (bitOf c.w 17 && decide (64 ≤ ((opList s).filter (fun e => e.2.spans != [] && (match e.2.iss with
     | .thread t => t.core.val == c.core | .queue _ => false))).length)))

/-- The spans that a command reads and writes (R420). -/
def cmdSpans (s : State) (d : CmdDef) (c : Ctx) : List (Nat × Nat × Bool) :=
  let touched := match d.touch c s with | .ok l _ => l | .error _ _ => []
  spanOf s c.core touched false ++ spanOf s c.core touched true

/-- An outstanding command keeps the ranges of its outputs that its windows grant. `s` is the state in which it was issued. -/
def noteOuts (s s' : State) (d : CmdDef) (c : Ctx) : State :=
  let outs := match d.touch c s with
    | .ok l _ => (l.filter (fun r => r.2.2 && winOk s (slot s c.key) c.core r.1 r.2.1 1)).flatMap (fun r => ownSpans s r.1 r.2.1)
    | .error _ _ => []
  updOp s' c.op (fun o => { o with outs := o.outs ++ outs })

/-- A command of which a read at its issue completed FENCED is outstanding, to make the read again; where RETRY_MAX is 0 it faults (R593).
`s` is the state to go on from, `s'` that in which it would fault. -/
def fencedIssue (s s' : State) (d : CmdDef) (c : Ctx) (held : List (Nat × Nat × Bool)) (a : Nat) : State :=
  if retryMax s = 0 then
    faultTask (dropOp (noteFenced s' c.die a) c.op) c.key d.opc { code := fRetryExhausted, detail := memResource s a }
  else
    updOp (retire (noteFenced s c.die a) c d.opc c.eu held (.later 1)) c.op (fun o => { o with tries := 1, fencedAt := a, unrun := true })

/-- The issue of a command that keeps what it did before a read that completes FENCED, or that asks for another module's bytes. -/
def catchFenced (m : Cm Stand) : Cm Stand := fun s =>
  match m s with
  | .error f s' => if f.code = fencedCode then .ok (.fenced f.addr) s else if f.code = awaitCode then .ok (.await f.addr f.detail f.pos) s else .error f s'
  | .ok f s' => .ok f s'

/-- A command that asks for another module's bytes has made no effect yet. -/
def catchAwait (m : Cm Stand) : Cm Stand := fun s =>
  match m s with
  | .error f s' => if f.code = awaitCode then .ok (.await f.addr f.detail f.pos) s else .error f s'
  | .ok f s' => .ok f s'

/-- A command of which a read at its issue goes to another module is outstanding, to go on with what it reads. -/
def awaitIssue (s : State) (d : CmdDef) (c : Ctx) (held : List (Nat × Nat × Bool)) (g len eng : Nat) : State :=
  askFar (updOp (retire s c d.opc c.eu held (.await g len eng)) c.op (fun o => { o with unrun := true })) c g len eng

/-- What the effect of an issued command ends in: retired, waiting, outstanding to read again, or faulted. `s` is the state in which it
was issued. -/
def concludeCmd (s : State) (d : CmdDef) (c : Ctx) (held : List (Nat × Nat × Bool)) : EStateM.Result FaultInfo State Stand → State
  | .ok f s' =>
    if (slot s' c.key).st ≠ .running then s'
    else match f with
      | .fenced a => fencedIssue s' s' d c held a
      | .await g len eng => noteOuts s (awaitIssue s' d c held g len eng) d c
      | .later n => noteOuts s (retire s' c d.opc c.eu held (.later n)) d c
      | f => retire s' c d.opc c.eu held f
  | .error f s' =>
    if f.code = holdCode then s
    else if f.code = fencedCode then fencedIssue s s' d c held f.addr
    else faultTask (dropOp s' c.op) c.key d.opc f

/-- The checks of R71 on a command's words after the substitution of registers: its fields, its completion target, its engine. -/
def wordFault (s : State) (d : CmdDef) (c : Ctx) : Option FaultInfo :=
  let sl := slot s c.key
  match wordsBad c.w d.opc d.spec with
  | some p => some { code := fReservedField, pos := p }
  | none =>
    match (cplTarget c.w).bind (fun x => targetBad s sl (hMod (x.toNat % 2 ^ 36))) with
    | some code => some { code }
    | none => if (d.needs % 2 = 1 ∧ !sl.engDns) ∨ (d.needs ≥ 2 ∧ !sl.engSps) then some { code := fNotPermitted } else none

/-- A command whose registers are substituted: its checks, the thread's scoreboard, its effect. -/
def runCmd (s : State) (d : CmdDef) (c : Ctx) : State :=
  match wordFault s d c with
  | some f => faultTask s c.key d.opc f
  | none =>
    let sl := slot s c.key
    let spans := cmdSpans s d c
    if sbHolds s c sl spans then s
    else concludeCmd s d c (if sl.syncMode && bitOf c.w 17 then spans else []) (catchAwait (d.run c) s)

/-- A fetched command: the fetch's own fault, word 0, a register that is busy (R71). `s1` is the state that its fetch left. -/
def startCmd (s s1 : State) (d : CmdDef) (c : Ctx) : Option FaultInfo → State
  | some f => faultTask s1 c.key d.opc f
  | none =>
    match word0Bad c.w d.opc false with
    | some p => faultTask s c.key d.opc { code := fReservedField, pos := p }
    | none =>
      if bitsOf c.w 20 4 ≠ 0 ∧ regBusy s c.thr (bitsOf c.w 24 6) then s
      else runCmd s d { c with w := substitute s c.thr c.w }

/-- The context of a command that a thread issues, its registers not yet substituted. -/
def issueCtx (t : Thr) (b : Body) (d : CmdDef) (s : State) : Ctx :=
  { thr := thrKey t, core := t.core.val, key := ((thr s (thrKey t)).slot).getD 0, w := (cmdOf d.opc b).toNat, op := s.nextOp, eu := d.eu t.core.val }

/-- Issue a command by a thread: the checks of R71 in order, then its effect. A fault fences the task (R72); a command that must
wait leaves the state as it was; a command whose read completed FENCED is outstanding and reads again (R593). -/
def issueCmd (t : Thr) (b : Body) (d : CmdDef) (s : State) : State :=
  if !canIssue s t (d.eu t.core.val) then s
  else
    let c := issueCtx t b d s
    let r := fetchFault s (fetchAddr (slot s c.key) (thr s c.thr) (thrIndex s c.thr c.key))
    startCmd s r.1 d c r.2

end Sys2Proof.Machine
end

