-- ==== Sys2Proof/Machine/Engine.lean ====
section
/-!
DEFINITION. What engines share: an outstanding command served after its issue (R128, R135, R463), grants, the counters of its
completion, and the reports to the numerics monitors (R330, R331).
-/
namespace Sys2Proof.Machine
open Sys2Proof

/-- What an outstanding command knows of itself. -/
def opCtx (id : Nat) (o : Op) : Ctx :=
  let k := match o.iss with | .thread t => thrKey t | .queue _ => 0
  { thr := k, core := k / 16, key := o.slot.getD 0, w := o.cmd.toNat, op := id, eu := o.eu }

/-- A command faults after its issue: its task faults, or, while it is PREEMPTED, as soon as it resumes (R463). -/
def engineFault (s : State) (key opcode : Nat) (f : FaultInfo) (id : Option Nat := none) : State :=
  if (slot s key).st = .preempted then
    -- a stream command records its fault in the frame (R463)
    let s := match id.bind (getOp s) with
      | some o => (match o.eu with
        | .stm _ =>
          let a := frameAddr s (key / 4096) (key % 4096) + 0x6680 + 32 * o.rec'
          wrN (wrB s (a + 1) (rdB s (a + 1) ||| 4)) (a + 4) 2 f.code
        | _ => s)
      | none => s
    -- the command is at its end, and holds no place in its engine
    let s := match id with | some i => dropOp s i | none => s
    updSlot s key (fun t => { t with heldFault := t.heldFault.orElse (fun _ => some (opcode, f.code, f.pos, f.addr, f.detail)) })
  else faultTask s key opcode f

/-- Writes of a command to other modules' memory that are not answered. -/
def remoteOf (s : State) (id : Nat) : Nat := ((reqList s).filter (fun e => e.2.kind == .engine && e.2.aop == 1 && e.2.op == some id)).length

/-- A command waits for the requests that it has sent between two states. -/
def addWaits (s s' : State) (id : Nat) : State := updOp s' id (fun o => { o with waits := o.waits + (remoteOf s' id - remoteOf s id) })

/-- A read of an outstanding command completes FENCED at an address: it is made again, up to RETRY_MAX times (R593). `s` is the state to go
on from, `s'` the one that the command's work until then has left, which stands where it faults. -/
def fencedOp (s s' : State) (id : Nat) (o : Op) (a : Nat) : State :=
  if o.tries ≥ retryMax s then engineFault (noteFenced s' (opCtx id o).die a) (o.slot.getD 0) o.opcode { code := fRetryExhausted, detail := memResource s a } (some id)
  else updOp (noteFenced s (opCtx id o).die a) id (fun o => { o with tries := o.tries + 1, due := false, fencedAt := a })

/-- A command in service asks for bytes of another module. -/
def awaitOp (s : State) (id : Nat) (o : Op) (f : FaultInfo) : State := askFar s (opCtx id o) f.addr f.detail f.pos

/-- Serve an outstanding command: it waits, asks for another module's bytes, reads again after a FENCED completion (R593), faults, or goes
on. -/
def serveOp (s : State) (id : Nat) (act : Ctx → Op → Cm Unit) : State :=
  match getOp s id with
  | none => s
  | some o =>
    if (o.tries > 0 && !o.due) || o.far.st != 0 then s
    else match act (opCtx id o) o s with
    | .ok _ s' => updOp (addWaits s s' id) id (fun o => { o with tries := 0, due := false, far := {} })
    | .error f s' =>
      if f.code = holdCode then s
      else if f.code = awaitCode then awaitOp s id o f
      else if f.code = fencedCode then fencedOp s s' id o f.addr
      else engineFault s' (o.slot.getD 0) o.opcode f (some id)

/-- The commands of a unit, in service or queued. -/
def unitOps (s : State) (u : EUnit) : List (Nat × Op) := (opList s).filter (fun e => decide (e.2.eu = u))

/-- Of some commands, the one of the highest effective priority, the oldest among equals (R135). -/
def pickOp (s : State) (l : List (Nat × Op)) : Option (Nat × Op) :=
  l.foldl (fun b e => match b with
    | none => some e
    | some x => if effPrio s (e.2.slot.getD 0) > effPrio s (x.2.slot.getD 0) then some e else b) none

/-- Change this command's own entry, which `retire` keeps. -/
def ownOp (c : Ctx) (f : Op → Op) : Cm Unit :=
  modify (fun s => { s with ops := s.ops.put none c.op (some (f ((getOp s c.op).getD {}))) })

/-- Count at completion. -/
def onDone (c : Ctx) (page off : Nat) (n : Nat := 1) : Cm Unit := ownOp c (fun o => { o with onDone := (page, off, n) :: o.onDone })

/-- Do a computation for each element of a list. -/
def each {α : Type} (f : α → Cm Unit) : List α → Cm Unit
  | [] => pure ()
  | x :: r => do f x; each f r

/-- The values of a computation over a list. -/
def collect {α β : Type} (f : α → Cm β) : List α → Cm (List β)
  | [] => pure []
  | x :: r => do
    let y ← f x
    let l ← collect f r
    pure (y :: l)

/-- An element as a monitor sees it: its bits, its cast's flags, and the value given to the cast. -/
structure Cast where
  bits : Nat
  ovf : Bool
  unf : Bool
  val : Val
deriving DecidableEq, Repr

/-- A cast with what the monitor counts (R330): an infinite or NaN result counts as an overflow. -/
def castRep (code : Nat) (sat : Bool) (sr : Option Nat) (v : Val) : Cast :=
  let r := castTo code sat sr v
  { bits := r.1, ovf := r.2.ovf || !(elemVal code r.1).isFin, unf := r.2.unf, val := v }

/-- The summary of one group (R331). -/
def summary (slot fmt : Nat) (l : List Cast) : Summary :=
  let top : Option Int :=
    if l.any (fun e => !e.val.isFin) then some 128
    else
      let m := l.foldl (fun a e => if a.lt e.val.abs then e.val.abs else a) Val.zero
      if m.isZero then none else some m.floorLog2
  { slot, fmt, seen := l.length, ovf := (l.filter (·.ovf)).length, unf := (l.filter (·.unf)).length, top }

/-- Pieces of n elements, the last one shorter. -/
def chunks {α : Type} (n : Nat) : Nat → List α → List (List α)
  | 0, _ => []
  | k + 1, l => if l.isEmpty then [] else l.take n :: chunks n k (l.drop n)

/-- The summary of two parts of one group. -/
def Summary.join (a b : Summary) : Summary :=
  { a with seen := a.seen + b.seen, ovf := a.ovf + b.ovf, unf := a.unf + b.unf,
           top := match a.top, b.top with | some x, some y => some (max x y) | none, t => t | t, none => t }

/-- Report the elements of one output row to the descriptor's slot, in groups of 32 (R330, R331). -/
def report (d : TDesc) (l : List Cast) : Cm Unit :=
  if d.numEn then
    modify (fun s => { s with sums := s.sums ++ (chunks 32 (l.length / 32 + 1) l).map (summary d.numSlot d.format) })
  else pure ()

end Sys2Proof.Machine
end

