-- ==== Sys2Proof/Machine/Access.lean ====
section
/-!
DEFINITION. Register loads, stores and atomics of threads (R93, R412, R413, R415 to R419, R428, R443, R444), and the accesses
performed at their homes for this module's threads and for messages of other modules (R427, R430, R508).
-/
namespace Sys2Proof.Machine
open Sys2Proof

/-! ### At the home -/

/-- Domain that serves a local address (R589). -/
def homeDom (s : State) (a : Nat) : Nat :=
  if isNear a then dPav (a / 2 ^ 36)
  else if isSp a then dCore ((a - spBase) / 2 ^ 22)
  else if isHost a then dPage (pg clsHIF 0)
  else dGroup (farOrang a) (dataChan s a / 16)

/-- Two's complement value of n bits. -/
def signedOf (n v : Nat) : Int := if v ≥ 2 ^ (n - 1) then (v : Int) - 2 ^ n else v

/-- The new value of an atomic's location (R93): `aop` is word 6's OP, SIZE and SIGNED. -/
def atomicNew (aop old operand compare : Nat) : Nat :=
  let n := if bitOf aop 3 then 64 else 32
  let lt (x y : Nat) : Bool := if bitOf aop 4 then decide (signedOf n x < signedOf n y) else decide (x < y)
  match aop % 8 with
  | 0 => (old + operand) % 2 ^ n
  | 1 => if lt operand old then operand else old
  | 2 => if lt old operand then operand else old
  | 3 => operand
  | _ => if old = compare then operand else old

/-- Perform a plain access of die `die` at its home in this module: read value, status (R383, R394, R430, R589, R591). -/
def performPlain (s : State) (die : Nat) (kind : ReqKind) (a len aop : Nat) (data cmp : DWord) (cls : Nat := 3) : State × Status × DWord :=
  match memService s a with
  | .resetting => (noteFenced s die a, .fenced, 0)
  | .fenced => (s, .uncorrectable, 0)
  | .inService =>
    let (s, bad) := meets s a len (decide (kind = .store))
    if bad then (s, .uncorrectable, 0)
    else
      let s := if kind = .atomic ∧ isFar s a then countTier s a len false cls else s
      let s := countMem s die a len (kind != .load) cls
      match kind with
      | .load => (s, .ok, BitVec.ofNat 64 (rdN s a len))
      | .store => (clearPoison (wrN s a len data.toNat) a len, .ok, 0)
      | _ =>
        let old := rdN s a len
        let s := if isSp a then bump s (pg clsCORE ((a - spBase) / 2 ^ 22 / 32)) 0x78
          else if isNear a then bump s (pg clsNEAR (a / 2 ^ 36)) 0x58 else s
        (wrN s a len (atomicNew aop old data.toNat cmp.toNat), .ok, BitVec.ofNat 64 old)

/-- Must the access wait for its granule's tag (R415)? -/
def tagBlocks (s : State) (r : Req) : Bool :=
  let full := tagFull s (gLoc r.addr)
  match r.mode with
  | 1 | 2 => !full
  | 3 => full
  | _ => false

/-- The die that a thread's request came from: the Pavilion of its task. -/
def reqDie (r : Req) : Nat := match r.slot with | some k => k / 4096 | none => memDie (gLoc r.addr)

/-- Perform an access of a request at its home: host memory by the bus address it was translated to (R575), the tag as its mode
sets it (R415). -/
def performReq (s : State) (r : Req) : State × Status × DWord :=
  let a := gLoc r.addr
  match r.words with
  | [port, bus] =>
    if r.kind = .load then
      (carryAccess (bump s (pg clsHIF 0) 0x50 r.len) (reqDie r) (memDie a) false r.cls r.len, .ok,
        BitVec.ofNat 64 ((List.range r.len).foldr (fun i acc => (rdHostB s port (bus + i)).toNat + 256 * acc) 0))
    else
      (carryAccess (bump ((List.range r.len).foldl (fun s i => wrHostB s port (bus + i) (BitVec.ofNat 8 (r.data.toNat >>> (8 * i)))) s)
        (pg clsHIF 0) 0x58 r.len) (reqDie r) (memDie a) true r.cls r.len, .ok, 0)
  | _ =>
    let (s, st, v) := performPlain s (reqDie r) (if r.kind = .header then .load else r.kind) a r.len r.aop r.data r.cmp r.cls
    let s := if st = .ok && !r.local' then remoteIn s a r.len else s
    (if st = .ok then (match r.mode with | 2 => setTag s a false | 3 => setTag s a true | _ => s) else s, st, v)

/-- Change a request. -/
def updReq (s : State) (id : Nat) (f : Req → Req) : State :=
  match getReq s id with
  | some r => { s with reqs := s.reqs.put none id (some (f r)) }
  | none => s

/-- The value as it enters its register (R443, R93). -/
def extend (r : Req) (v : DWord) : DWord :=
  if r.sext ∧ r.len < 8 ∧ v.toNat ≥ 2 ^ (8 * r.len - 1) then BitVec.ofNat 64 (v.toNat + 2 ^ 64 - 2 ^ (8 * r.len)) else v

/-- A request of a command is answered: one wait less. A posted store with no completion target leaves nothing behind (R80). -/
def opAnswered (s : State) (id : Nat) : State :=
  match getOp s id with
  | some o =>
    if o.posted ∧ o.cpl = none ∧ o.waits ≤ 1 then dropOp s id else updOp s id (fun o => { o with waits := o.waits - 1 })
  | none => s

/-- The value of a thread's access enters its register; a PREEMPTED task's waits in the saved context. -/
def landReg (s : State) (o g : Nat) (v : DWord) : State :=
  let s := updOp s o (fun x => { x with dst := some (g, v) })
  match getOp s o with
  | some x => (match x.iss with | .thread t => if x.parked then s else setThrReg s (thrKey t) g v | .queue _ => s)
  | none => s

/-- The value lands, and the request's entry is released (R413). -/
def landReq (s : State) (id : Nat) (r : Req) (v : DWord) : State :=
  let s := dropReq s id
  match r.op with
  | some o => opAnswered (match r.reg with | some g => landReg s o g (extend r v) | none => s) o
  | none => s

/-- Resource that a request stands on (R584). -/
def reqResource (s : State) (r : Req) : Nat :=
  if isOwn s r.addr then memResource s (gLoc r.addr) else resource 20 14 (gMod r.addr)

/-- Opcode of a request's command, for its record (R571). -/
def reqOpcode (s : State) (r : Req) : Nat :=
  match r.op.bind (getOp s) with
  | some o => o.opcode
  | none => match r.kind with | .load => 6 | .store => 7 | _ => 0xA3

/-- The last of the reads of other modules that a command waits for has ended: it is to go on. -/
def farLanded (s : State) (id : Nat) : State :=
  if (reqList s).any (fun e => e.2.kind == .engine && e.2.aop == 0 && e.2.op == some id) then s else updWanted s id (fun w => { w with st := 2 })
/-- Bytes of another module land for the command that asked for them. -/
def farData (s : State) (id : Nat) (r : Req) (l : List Byte) : State :=
  match r.op with
  | some o => farLanded (updWanted (dropReq s id) o (fun w => { w with got := (r.addr, l) :: w.got })) o
  | none => dropReq s id
/-- A read of another module has failed: the command that asked for it learns so when it uses the bytes. -/
def farFault (s : State) (id : Nat) (r : Req) (f : FaultInfo) : State :=
  match r.op with
  | some o => farLanded (updWanted (dropReq s id) o (fun w => { w with bad := (r.addr, r.len, f.code, f.addr, f.detail) :: w.bad })) o
  | none => dropReq s id

/-- A request faults its task; without one (a store already issued by a task that has gone) its entry is released. -/
def faultReq (s : State) (id : Nat) (r : Req) (f : FaultInfo) : State :=
  if r.kind = .engine ∧ r.aop = 0 then farFault s id r f else
  match r.slot with
  | some k =>
    match r.kind with
    | .load | .store | .atomic => faultTask (dropReq s id) k (reqOpcode s r) f
    | _ => engineFault (dropReq s id) k (reqOpcode s r) f r.op
  | none =>
    -- a SIGNAL, CANCEL or PRIO_SET of a queue ends in its fault record (R73)
    match r.op.bind (getOp s) with
    | some o => (match o.iss with
      | .queue q => postFor (match r.op with | some i => dropOp (dropReq s id) i | none => s) q
          { queue := 0, code := f.code, index := o.cursor, opcode := o.opcode, detail := f.detail, addr := f.addr }
      | .thread _ => dropReq s id)
    | none => dropReq s id

/-- The SIGNAL message of a request (R506 to R508): of a thread's command, of the host interface's for a queue, or a dispatcher's own. -/
def signalMsg (s : State) (id : Nat) (r : Req) : Msg :=
  let (die, stream) := match (r.op.bind (getOp s)).map (·.iss) with
    | some (.thread t) => (t.core.val / 32, 16 * (t.core.val % 32) + t.thr.val)
    | some (.queue _) => (16, 3588)
    | none => let d := r.words.getD 2 0; (d, if d < 16 then 2560 else 3588)
  let prio := match r.slot with | some k => effPrio s k | none => r.words.getD 3 0
  mkMsg s { dst := gMod r.addr, cls := 0, prio, mtype := 4, die, stream, tag := id % 65536, tagEpoch := r.tagEpoch.toNat }
    [BitVec.ofNat 64 (standHandle s (r.words.getD 0 0)), BitVec.ofNat 64 (r.words.getD 1 0)]

/-- A request completes FENCED (R58, R587, R590, R593): a plain or KEEP load is retried, up to RETRY_MAX times; a store, an
atomic, a CONSUME or a FILL faults its task. A SIGNAL is sent again, like a read, and so is a fragment of a collective, as often as it takes. -/
def fenceReq (s : State) (id : Nat) (r : Req) : State :=
  if r.kind = .coll then updReq s id (fun r => { r with st := .fenced false, tagEpoch := r.tagEpoch + 1 })
  else if r.kind = .load ∧ r.mode ≤ 1 ∨ r.kind = .engine ∧ r.aop = 0 ∨ r.kind = .piece ∧ r.mode = 0 ∨ r.kind = .carried ∨ r.kind = .signal ∨ r.kind = .rowFetch ∨ r.kind = .rowCheck then
    if r.tries ≥ retryMax s then faultReq s id r { code := fRetryExhausted, detail := reqResource s r }
    else updReq s id (fun r => { r with st := .fenced false, tries := r.tries + 1, tagEpoch := r.tagEpoch + 1 })
  else faultReq s id r { code := fWriteFenced, addr := r.addr }

/-- A request's answer reaches its requester. -/
def answerReq (s : State) (id : Nat) (r : Req) (st : Status) (v : DWord) : State :=
  match st with
  | .ok => landReq s id r v
  | .fenced => fenceReq s id r
  | .uncorrectable => faultReq s id r { code := fUncorrectable, detail := reqResource s r }
  | .unreachable => faultReq s id r { code := fUnreachable, detail := reqResource s r }

/-- The home has performed a request: a local one is answered at once, another keeps its answer until the reply lands. -/
def performed (s : State) (id : Nat) (r : Req) (st : Status) (v : DWord) : State :=
  if r.kind = .header then
    -- a header read brings the whole header, and a status of it faults the command at once (R323, R336)
    (if st = .ok then updReq s id (fun r => { r with st := .answered st v, words := r.words.take 1 ++ [rdN s (gLoc r.addr) 64] })
     else answerReq s id r st v)
  else if r.local' then answerReq s id r st v else updReq s id (fun r => { r with st := .answered st v })

/-- Granule number of a scratchpad address. -/
def granule (a : Nat) : Nat := (a - spBase) / 64

/-- Is this waiting request served by the tag's value (R418)? -/
def servedBy (s : State) (full : Bool) (id : Nat) : Bool :=
  match getReq s id with
  | some r => if full then r.mode != 3 else r.mode == 3
  | none => true

/-- Serve the waiters of a granule in order while its tag lets one of them on (R418). -/
def serveWaiters (s : State) (g : Nat) : Nat → State
  | 0 => s
  | n + 1 =>
    let l := s.tagWait.get [] g
    match l.find? (servedBy s (s.tags.get false g)) with
    | none => s
    | some id =>
      let s := { s with tagWait := s.tagWait.put [] g (l.erase id) }
      match getReq s id with
      | none => serveWaiters s g n
      | some r =>
        let (s, st, v) := performReq s r
        serveWaiters (performed s id r st v) g n

/-- Entries in a core's tag-wait list. -/
def tagWaiting (s : State) (core : Nat) : Nat :=
  (s.tagWait.filter (fun e => e.1 / 65536 = core)).foldl (fun n e => n + e.2.length) 0

/-- A request arrives at its home: performed, put into the tag-wait list, or refused with TAG_BUSY (R418, R419). -/
def arriveReq (s : State) (id : Nat) (r : Req) : State :=
  let a := gLoc r.addr
  if r.mode ≠ 0 ∧ isSp a ∧ memService s a = .inService ∧ (tagBlocks s r ∨ s.tagWait.get [] (granule a) ≠ [] ∧
      (s.tagWait.get [] (granule a)).any (fun i => servedBy s (tagFull s a) i)) then
    let core := granule a / 65536
    if tagWaiting s core ≥ 256 then updReq (bump s (pg clsCORE (core / 32)) 0x70) id (fun r => { r with st := .busy })
    else { updReq s id (fun r => { r with st := .tagWait }) with tagWait := s.tagWait.upd [] (granule a) (· ++ [id]) }
  else
    let (s, st, v) := performReq s r
    let s := performed s id r st v
    if r.mode ≥ 2 ∧ st = .ok then serveWaiters s (granule a) 512 else s

/-- Do two local addresses lie in one core's scratchpad, whose remote port serves its arrivals first in, first out (R433)? -/
def sameScratch (a b : Nat) : Bool := isSp a && isSp b && (a - spBase) / 2 ^ 22 == (b - spBase) / 2 ^ 22

/-- Two ranges of one module of which accesses of one thread and class keep their order (R433). -/
def orderedSpans (x y : Nat × Nat) : Bool :=
  decide (x.1 < y.1 + y.2 ∧ y.1 < x.1 + x.2) || sameScratch x.1 y.1 ||
  (decide (farBase ≤ x.1 ∧ x.1 < 0x80000000000 ∧ farBase ≤ y.1 ∧ y.1 < 0x80000000000) && farOrang x.1 == farOrang y.1)

/-- Cases in which two accesses of one thread keep their order (R433): in any class those that its own thread port takes. -/
def keepsOrder (x y : Req) : Bool :=
  (x.local' && y.local') ||
  (gMod x.addr == gMod y.addr && x.cls == y.cls && orderedSpans (gLoc x.addr, x.len) (gLoc y.addr, y.len))

/-- Has a request not yet been performed? -/
def Req.unperformed (r : Req) : Bool := match r.st with | .answered _ _ => false | _ => true

/-- Does an earlier access of the same thread have to be performed, or an earlier SIGNAL to arrive, first (R64, R433)? -/
def threadAhead (s : State) (id : Nat) (r : Req) : Bool :=
  signalAhead s r ||
  (reqList s).any (fun e => decide (e.1 < id) && r.thr.isSome && e.2.thr == r.thr && e.2.unperformed && keepsOrder e.2 r)

/-- Has an earlier access from the request's die, in its class, reached the same core's remote port on another die, where nothing but the port
holds it (R425, R433)? -/
def portAhead (s : State) (id : Nat) (r : Req) : Bool :=
  !r.local' && isSp (gLoc (reqAddr r)) && memDie (gLoc (reqAddr r)) != reqDie r &&
  (reqList s).any (fun e => decide (e.1 < id) && !e.2.local' && e.2.st == .sent && e.2.cls == r.cls && isOwn s (reqAddr e.2) &&
    sameScratch (gLoc (reqAddr e.2)) (gLoc (reqAddr r)) && reqDie e.2 == reqDie r && !threadAhead s e.1 e.2)

/-- Does the order of accesses hold a request back? -/
def heldBack (s : State) (id : Nat) (r : Req) : Bool := threadAhead s id r || portAhead s id r

/-- A request of this module is performed at its home (READ, WRITE and FABRIC_ATOMIC of one's own). -/
def homeOwn (s : State) (id : Nat) (kind : ReqKind) : State :=
  match getReq s id with
  | some r =>
    if (r.kind = kind ∨ r.kind = .header ∧ kind = .load) ∧ r.st = .sent ∧ isOwn s r.addr ∧ !heldBack s id r ∧ !asleep s (gLoc r.addr) then arriveReq s id r else s
  | none => s

/-- A request is sent to its home in this module; what the thread port takes arrives at once, in issue order (R412, R433). -/
def sendOwn (s : State) (id : Nat) (r : Req) : State :=
  let s := updReq s id (fun r => { r with st := .sent })
  if r.local' ∧ !heldBack s id r then arriveReq s id { r with st := .sent } else s

/-- Status code of R506. -/
def statusCode : Status → Nat
  | .ok => 0 | .fenced => 1 | .uncorrectable => 2 | .unreachable => 3

/-- Count what a scratchpad serves to anything but the units of its core. -/
def remoteTo (s : State) (core a len : Nat) : State := if isSp a && (a - spBase) / 2 ^ 22 == core then s else remoteIn s a len

/-- Read bytes for die `die`, for another module the Orangery that its request came to (R427); `core` is the core whose unit reads, below 512. -/
def serveRead (s : State) (die a len : Nat) (cls : Nat := 3) (core : Nat := 512) : State × Status × List Byte :=
  if isHost a then
    match rdHost s a len with
    | (s, .ok l) => (carryAccess (bump s (pg clsHIF 0) 0x50 len) die (memDie a) false cls len, .ok, l)
    | (s, .error _) => (s, .uncorrectable, [])
  else if !popRange s a len then (s, .uncorrectable, [])
  else match unserved s a len with
    | some u => if memService s u = .resetting then (noteFenced s die u, .fenced, []) else (s, .uncorrectable, [])
    | none =>
      let (s, bad) := meets s a len false
      if bad then (s, .uncorrectable, []) else (remoteTo (countMem s die a len false cls) core a len, .ok, rdBytes s a len)

/-- Write bytes for die `die` (R427). -/
def serveWrite (s : State) (die a : Nat) (l : List Byte) (cls : Nat := 3) (core : Nat := 512) : State × Status :=
  if isHost a then
    match wrHost s a l with
    | (s, .ok _) => (carryAccess (bump s (pg clsHIF 0) 0x58 l.length) die (memDie a) true cls l.length, .ok)
    | (s, .error _) => (s, .uncorrectable)
  else if !popRange s a l.length then (s, .uncorrectable)
  else match unserved s a l.length with
    | some u => if memService s u = .resetting then (noteFenced s die u, .fenced) else (s, .uncorrectable)
    | none =>
      let (s, bad) := meets s a l.length true
      if bad then (s, .uncorrectable)
      else (clearPoison (wrBytes (remoteTo (countMem s die a l.length true cls) core a l.length) a l) a l.length, .ok)

/-- Bytes of a message's payload from word i on. -/
def Msg.bytesFrom (m : Msg) (i : Nat) : List Byte := ((m.drop (2 + i)).map (fun w => bytesOf w.toNat 8)).flatten

/-- Perform an arrived READ, WRITE or ATOMIC and answer it (R508). -/
def serveMsg (s : State) (m : Msg) : State :=
  let a := bitsOf (m.pl 0) 0 44
  let ep := (dom s (homeDom s a)).epoch
  match m.mtype with
  | 1 =>
    let (s, st, l) := serveRead s (16 + m.axis) a (bitsOf (m.pl 0) 44 8 + 1) m.cls
    reply s m 0x40 (statusCode st) ep (wordsOf l 33) (memDie a)
  | 2 =>
    let (s, st) := serveWrite s (16 + m.axis) a (((m.bytesFrom 1).drop (a % 8)).take (bitsOf (m.pl 0) 44 8 + 1)) m.cls
    reply s m 0x41 (statusCode st) ep [] (memDie a)
  | _ =>
    let aop := bitsOf (m.pl 0) 44 5
    let len := if bitOf aop 3 then 8 else 4
    let (s, st, v) := if popRange s a len && !isHost a then performPlain s (16 + m.axis) .atomic a len aop (m.getD 3 0) (m.getD 4 0) m.cls else (s, .uncorrectable, 0)
    let s := if st = .ok then remoteIn s a len else s
    reply s m (if bitOf (m.pl 0) 49 then 0x40 else 0x41) (statusCode st) ep (if bitOf (m.pl 0) 49 then [v] else []) (memDie a)

/-- Is an arrived message of a type for this module? -/
def forMe (s : State) (m : Msg) (mtype : Nat) : Bool := m.dst == ownId s && m.mtype == mtype

/-- An arrived request is handled, or answered UNREACHABLE by a module that only forwards (R553). -/
def onArrival (s : State) (i : Nat) (m : Msg) (act : State) : State :=
  if s.gate.forwardOnly then refuseMsg (takeArrival s i) m 3 0 else act

/-- Must one arrived message be performed before another that came after it: accesses of one thread in the cases of R433, its SIGNALs in order with
its accesses (R64), and what comes to one core's remote port by one ring in one class (R425)? -/
def goesFirst (x y : Msg) : Bool :=
  let access (m : Msg) : Bool := 1 ≤ m.mtype && m.mtype ≤ 3
  let thread := x.streamKey == y.streamKey && decide (x.stream < 512)
  if x.mtype = 4 then thread && (access y || y.mtype == 4)
  else if y.mtype = 4 then thread && access x
  else access x && access y &&
    ((thread && orderedSpans x.span y.span) || (x.axis == y.axis && x.cls == y.cls && sameScratch x.span.1 y.span.1))

/-- Is it the i-th arrived message's turn (R427, R433, R519)? -/
def inTurn (s : State) (i : Nat) : Bool :=
  match arrival s i with
  | some m => !(s.inbox.take i).any (fun e => e.2.2.dst == ownId s && goesFirst e.2.2 m)
  | none => false

/-- An arrived message of a type is performed here, when this module is its destination and its turn has come; memory that is asleep has to wake
first (R617). -/
def homeArrived (s : State) (i mtype : Nat) : State :=
  match arrival s i with
  | some m => if forMe s m mtype ∧ inTurn s i ∧ !asleep s (bitsOf (m.pl 0) 0 44) then onArrival s i m (serveMsg (takeArrival s i) m) else s
  | none => s

/-- FABRIC_ATOMIC (R428). -/
def execFabricAtomic (r : HomeReq) (s : State) : Host.Outcome State Fault Refusal :=
  .next (match r with | .own id => homeOwn s id .atomic | .arrived i => homeArrived s i 3)
/-- FABRIC_SIGNAL (R508): the bits reach the target dispatcher, and the sender is told so, which R79 and R586 have it wait for. -/
def execFabricSignal (i : Nat) (s : State) : Host.Outcome State Fault Refusal :=
  .next (match arrival s i with
    | some m =>
      if forMe s m 4 ∧ inTurn s i then
        (if s.gate.forwardOnly then reply (takeArrival s i) m 0x41 3 0 []
         else reply (applySet (landMsg (takeArrival s i) m (hSlot (m.pl 0) / 4096)) (hSlot (m.pl 0)) (hGen (m.pl 0)) (m.getD 3 0)) m 0x41 0 0 [])
      else s
    | none => s)

/-- TAG_BUSY_RETRY (R419): the refused request is sent again. -/
def execTagBusyRetry (id : Nat) (s : State) : Host.Outcome State Fault Refusal :=
  .next (match getReq s id with
    | some r => if r.st = .busy then sendOwn s id r else s
    | none => s)

/-! ### By a thread -/

/-- Miss registers that a thread holds (R413). -/
def missThr (s : State) (k : Nat) : Nat := ((reqList s).filter (fun e => e.2.thr == some k && !e.2.local')).length
/-- Miss registers that a core holds: also those of the stores of a task that has been saved or has faulted. -/
def missCore (s : State) (core : Nat) : Nat := ((reqList s).filter (fun e => e.2.core == some core)).length
/-- Stores and atomics of the thread that are not yet visible (R92, R413, R435). -/
def openWrites (s : State) (k : Nat) : List Nat :=
  ((reqList s).filter (fun e => e.2.thr == some k && e.2.kind != .load)).map (·.1)

/-- Start an access: in the own core's scratchpad at once, in issue order; elsewhere with a miss register (R412, R413, R433). -/
def startAccess (c : Ctx) (r : Req) : Cm Unit := do
  let s ← get
  let a := gLoc r.addr
  holdIf (c.b 0 16 && openWrites s c.thr != [])
  if isOwn s r.addr && isSp a && (a - spBase) / 2 ^ 22 == c.core then
    let (s, id) := addReq s { r with local' := true, home := dCore c.core }
    set (sendOwn s id { r with local' := true, home := dCore c.core })
  else
    holdIf (decide (missThr s c.thr ≥ bitsOf (actN s (pg clsCORE c.pav) 0x400) 0 10 ∨ missCore s c.core ≥ 512) || !mayLeave s r)
    count (pg clsCORE c.pav) 0x50
    let s ← get
    let r := { r with core := some c.core }
    if !isOwn s r.addr then
      let (s, id) := addReq s { r with home := dRemote (gMod r.addr) }
      if signalAhead s r then set (updReq s id (fun r => { r with st := .held }))
      else match sendMsg s (threadMsg s id r) with
      | (s, true) => set s
      | (s, false) => do
        set s
        throw { code := fUnreachable, detail := resource 20 14 (gMod r.addr) }
    else if isHost a then
      match hostXlate s a (r.kind != .load) with
      | (s, .ok (port, bus)) => set (addReq s { r with home := homeDom s a, words := [port, bus] }).1
      | (s, .error code) => do
        set s
        failAt code r.addr
    else set (addReq s { r with home := homeDom s a }).1

/-- Operand words of STM_LOADREG and STM_STOREREG (R443). -/
def regSpec (store : Bool) : CmdSpec :=
  { fields := [(4, 0, 56), (6, 0, 11)],
    bad := fun w => [(at_ 6 8, if store then cf w 6 8 2 == 1 || cf w 6 8 2 == 2 else cf w 6 8 2 == 3), (at_ 6 10, store && cf w 6 10 1 != 0)] }

/-- Address checks of a register access (R3, R27, R47, R415 to R417, R421, R443). -/
def regChecks (c : Ctx) (g len mode : Nat) (store : Bool) : Cm Unit := do
  let s ← get
  failIf (mode != 0 && (slot s c.key).syncMode) fNotPermitted
  faultIf (g % len ≠ 0) { code := fMisaligned, addr := g }
  failIf (mode != 0 && !(addrKind (gLoc g) == 0)) fNotPermitted
  access c g len (if store then 1 else 0)
  if mode = 2 then access c g len 1

/-- Range of a register access (R422). -/
def regTouch (store : Bool) (c : Ctx) : Cm (List Touch) := pure [(c.f 4 0 56, 2 ^ c.f 6 0 2, store)]

/-- STM_LOADREG's effect (R443). -/
def loadRegRun (c : Ctx) : Cm Stand := do
  let s ← get
  let reg := c.f 6 2 6
  let len := 2 ^ c.f 6 0 2
  let mode := c.f 6 8 2
  holdIf (regBusy s c.thr reg)
  regChecks c (c.f 4 0 56) len mode false
  modify (fun s => { s with ops := s.ops.put none c.op (some { dst := some (reg, 0), waits := 1 }) })
  startAccess c { kind := .load, thr := some c.thr, slot := some c.key, op := some c.op, addr := c.f 4 0 56, len, cls := c.f 0 8 2, mode,
                  reg := some reg, sext := c.b 6 10 }
  pure (.later 0)

/-- STM_STOREREG's effect (R443). -/
def storeRegRun (c : Ctx) : Cm Stand := do
  let s ← get
  let reg := c.f 6 2 6
  let len := 2 ^ c.f 6 0 2
  let mode := c.f 6 8 2
  holdIf (regBusy s c.thr reg)
  regChecks c (c.f 4 0 56) len mode true
  modify (fun s => { s with ops := s.ops.put none c.op (some { waits := 1 }) })
  modify (fun s => noteWrote s c.key (c.f 4 0 56) len)
  startAccess c { kind := .store, thr := some c.thr, slot := some c.key, op := some c.op, addr := c.f 4 0 56, len, cls := c.f 0 8 2, mode,
                  data := thrReg s c.thr reg }
  pure (if c.b 0 16 then .later 0 else .posted 0)

/-- Operand words of ATOMIC (R93). -/
def atomicSpec : CmdSpec :=
  { fields := [(4, 0, 56), (6, 0, 12), (8, 0, 64), (10, 0, 64)],
    bad := fun w =>
      let op := cf w 6 0 3
      [(at_ 6 0, decide (op ≥ 5)), (at_ 6 4, cf w 6 4 1 != 0 && op != 1 && op != 2), (at_ 6 5, cf w 6 11 1 == 0 && cf w 6 5 6 != 0),
       (at_ 9 0, cf w 6 3 1 == 0 && cf w 9 0 32 != 0), (at_ 10 0, op != 4 && cf w 10 0 64 != 0),
       (at_ 11 0, op == 4 && cf w 6 3 1 == 0 && cf w 11 0 32 != 0)] }

/-- ATOMIC's effect (R93). DESIGN CHOICE (log entry 80): a misaligned address is found before the host window and the window check. -/
def atomicRun (c : Ctx) : Cm Stand := do
  let s ← get
  let reg := c.f 6 5 6
  let ret := c.b 6 11
  let len := if c.b 6 3 then 8 else 4
  let g := c.f 4 0 56
  holdIf (ret && regBusy s c.thr reg)
  faultIf (g % len ≠ 0) { code := fMisaligned, addr := g }
  failIf (addrKind (gLoc g) == 3) fNotPermitted
  access c g len 2
  modify (fun s => { s with ops := s.ops.put none c.op (some { dst := if ret then some (reg, 0) else none, waits := 1 }) })
  modify (fun s => noteWrote s c.key g len)
  startAccess c { kind := .atomic, thr := some c.thr, slot := some c.key, op := some c.op, addr := g, len, cls := c.f 0 8 2,
                  reg := if ret then some reg else none, aop := c.f 6 0 5, data := BitVec.ofNat 64 (c.f 8 0 64), cmp := BitVec.ofNat 64 (c.f 10 0 64) }
  pure (.later 0)

def loadRegDef : CmdDef := { opc := 6, spec := regSpec false, eu := .thread, touch := regTouch false, run := loadRegRun }
def storeRegDef : CmdDef := { opc := 7, spec := regSpec true, eu := .thread, touch := regTouch true, run := storeRegRun }
def atomicDef : CmdDef :=
  { opc := 0xA3, spec := atomicSpec, eu := .thread, run := atomicRun,
    touch := fun c => let n := if c.b 6 3 then 8 else 4; pure [(c.f 4 0 56, n, false), (c.f 4 0 56, n, true)] }

/-- STM_LOADREG (R443). -/
def execStmLoadreg (t : Thr) (b : Body) (s : State) : Host.Outcome State Fault Refusal := .next (issueCmd t b loadRegDef s)
/-- STM_STOREREG (R443). -/
def execStmStorereg (t : Thr) (b : Body) (s : State) : Host.Outcome State Fault Refusal := .next (issueCmd t b storeRegDef s)
/-- ATOMIC (R93). -/
def execAtomic (t : Thr) (b : Body) (s : State) : Host.Outcome State Fault Refusal := .next (issueCmd t b atomicDef s)

end Sys2Proof.Machine
end

