-- ==== Sys2Proof/Machine/Elem.lean ====
section
/-!
DEFINITION. The elementary functions of R163, R317, R318, R320, R474 and R490. Each is computed as an exact value to far more
bits than FP32 holds (DEDUCED: enough that rounding it once is correct rounding), and a function that the spec only bounds in ulps
answers that rounded value moved by a free number of ulps within the bound.
-/
namespace Sys2Proof.Machine
open Sys2Proof

/-- Fraction bits of the fixed-point numbers used here. -/
def fxBits : Nat := 512
/-- One in fixed point. -/
def fxOne : Int := 2 ^ fxBits
/-- A finite value in fixed point, truncated toward zero where it has finer bits. -/
def toFx : Val → Int
  | .fin n m e =>
    let k : Int := e + fxBits
    let x : Nat := if 0 ≤ k then m <<< k.toNat else m >>> (-k).toNat
    if n then -(x : Int) else x
  | _ => 0
/-- A fixed-point number as a value. -/
def ofFx (x : Int) : Val := .fin (decide (x < 0)) x.natAbs (-(fxBits : Int))
/-- The fixed-point product. -/
def fxMul (a b : Int) : Int := (a * b) / fxOne
/-- The fixed-point quotient. -/
def fxDiv (a b : Int) : Int := (a * fxOne) / b

/-- z + z^3/3 + z^5/5 + …, or with alternating signs (z2 negative): the terms from index k on, p being z^(2k+1). -/
def atanSeries : Nat → Nat → Int → Int → Int
  | 0, _, _, _ => 0
  | n + 1, k, p, z2 => if p = 0 then 0 else p / (2 * k + 1) + atanSeries n (k + 1) (fxMul p z2) z2

/-- The inverse hyperbolic tangent, for |z| ≤ 1/2. -/
def fxAtanh (z : Int) : Int := atanSeries 600 0 z (fxMul z z)
/-- The inverse tangent, for |z| ≤ 1/2. -/
def fxAtan (z : Int) : Int := atanSeries 600 0 z (-(fxMul z z))
/-- ln 2. -/
def fxLn2 : Int := 2 * fxAtanh (fxOne / 3)
/-- π, by Machin's formula. -/
def fxPi : Int := 16 * fxAtan (fxOne / 5) - 4 * fxAtan (fxOne / 239)

/-- t + t·x/(k+1) + t·x²/((k+1)(k+2)) + …. -/
def expSeries : Nat → Nat → Int → Int → Int
  | 0, _, _, _ => 0
  | n + 1, k, t, x => if t = 0 then 0 else t + expSeries n (k + 1) (fxMul t x / (k + 1)) x

/-- Like `expSeries`, two factors a term and alternating signs: the cosine from (0, 1), the sine from (1, x). -/
def trigSeries : Nat → Nat → Int → Int → Int
  | 0, _, _, _ => 0
  | n + 1, k, t, x2 => if t = 0 then 0 else t + trigSeries n (k + 2) (-(fxMul t x2 / ((k + 1) * (k + 2)))) x2

/-- The natural logarithm. -/
def Val.ln : Val → Val
  | .nan _ => .nan false
  | .inf n => if n then .nan false else .inf false
  | .fin n m e =>
    if m = 0 then .inf true
    else if n then .nan false
    else
      -- y in [3/4, 3/2), so that values near one keep their digits
      let l := Nat.log2 m
      let (y, k) : Int × Int :=
        let y : Int := toFx (.fin false m (-(l : Int)))
        if 2 * y ≥ 3 * fxOne then (y / 2, e + l + 1) else (y, e + l)
      ofFx (k * fxLn2 + 2 * fxAtanh (fxDiv (y - fxOne) (y + fxOne)))

/-- The logarithm to base 2. -/
def Val.lg (v : Val) : Val :=
  match v.ln with
  | .fin n m e => (Val.fin n m e).div (ofFx fxLn2)
  | w => w

/-- The exponential. -/
def Val.exp (v : Val) : Val :=
  match v with
  | .nan _ => .nan false
  | .inf n => if n then Val.zero else .inf false
  | .fin n m e =>
    if m = 0 then Val.one
    else if (Val.fin false 256 0).lt v.abs then (if n then .fin false 1 (-400) else .fin false 1 400)
    else
      let x := toFx (.fin n m e)
      let k : Int := x / fxLn2
      let r := x - k * fxLn2
      .fin false (expSeries 200 0 fxOne r).natAbs (k - fxBits)

/-- cos(2πx) for x in [0, 1). -/
def Val.cosTurn (v : Val) : Val :=
  let t := 4 * toFx v
  let q := (t / fxOne) % 4
  let a := fxMul (t % fxOne) (fxPi / 2)
  let c := trigSeries 200 0 fxOne (fxMul a a)
  let s := trigSeries 200 1 a (fxMul a a)
  ofFx (if q = 0 then c else if q = 1 then -s else if q = 2 then -c else s)

/-- 1 / (1 + e^−x). -/
def Val.sigmoid (v : Val) : Val := Val.one.div (Val.one.add v.neg.exp)

/-- The hyperbolic tangent. -/
def Val.tanh (v : Val) : Val :=
  match v with
  | .nan _ => .nan false
  | .inf n => .fin n 1 0
  | .fin n m e =>
    if m = 0 then v
    else if (Val.fin false 1 (-8)).lt v.abs then
      let t := ((Val.fin false m (e + 1)).neg).exp
      let r := (Val.one.sub t).div (Val.one.add t)
      if n then r.neg else r
    else
      -- (e^2x − 1) / (e^2x + 1), the numerator by its own series; below the grid x itself is the value
      let x := 2 * toFx (.fin false m e)
      if x < 2 ^ 300 then v
      else
        let em := expSeries 200 1 x x
        let r := (ofFx em).div (ofFx (em + 2 * fxOne))
        if n then r.neg else r

/-- √(2/π). -/
def fxSqrt2OverPi : Int := isqrt (2 * fxDiv fxOne fxPi * fxOne).natAbs

/-- 0.5x(1 + tanh(√(2/π)(x + 0.044715x³))), as x · sigmoid of twice the argument (R317). -/
def Val.geluTanh (v : Val) : Val :=
  let cube := (v.mul v).mul v
  let u := (v.add ((cube.mul (Val.fin false 44715 0)).div (Val.fin false 1000000 0))).mul (ofFx fxSqrt2OverPi)
  match v with
  | .fin n m e => if m = 0 then .fin n 0 0 else (Val.fin n m e).mul (u.mul (.fin false 2 0)).sigmoid
  | .inf n => if n then .nan false else .inf false
  | .nan _ => .nan false

/-- x · sigmoid(x) (R317). -/
def Val.silu (v : Val) : Val := v.mul v.sigmoid

/-- The reciprocal square root. -/
def Val.rsqrt (v : Val) : Val := Val.one.div v.sqrt

/-- The FP32 result of a function that the spec bounds by `bound` ulps: a free one of the numbers that lie within `bound` ulps of the exact
value, and the infinity that a value beyond the format overflows to. -/
def near (f : Config.Approx) (bound : Nat) (a b : Nat) (v : Val) : Nat :=
  let r := to32 v
  match v with
  | .fin _ m _ =>
    if m = 0 ∨ (Val.fin false 1 128).le v.abs then r
    else
      -- the rounded magnitude stands below the value, above it, or on it
      let w := if r % 2 ^ 31 = 0x7F800000 then Val.fin false 1 128 else of32 (r % 2 ^ 31)
      let lo := if w.lt v.abs then bound - 1 else bound
      let hi := if v.abs.lt w then bound - 1 else bound
      let mag := r % 2 ^ 31 + (Config.approx f (BitVec.ofNat 32 a) (BitVec.ofNat 32 b)).toNat % (lo + hi + 1) - lo
      r - r % 2 ^ 31 + (if mag > 0x7F800000 then 0x7F800000 else mag)
  | _ => r

/-- lg of R163. -/
def lg32 (a : Nat) : Nat := near .lg 1 a 0 (of32 a).lg
/-- ln of R474. -/
def ln32 (a : Nat) : Nat := near .ln 2 a 0 (of32 a).ln
/-- cos(2πx) of R474. -/
def cosTurn32 (a : Nat) : Nat := near .cosTurn 2 a 0 (of32 a).cosTurn
/-- EXP of R317. -/
def exp32 (a : Nat) : Nat := near .exp 2 a 0 (of32 a).exp
/-- The reciprocal square root of R320. -/
def rsqrt32 (a : Nat) : Nat := near .rsqrt 1 a 0 (of32 a).rsqrt
/-- exp correctly rounded (R490). -/
def expRne (a : Nat) : Nat := to32 (of32 a).exp

end Sys2Proof.Machine
end

