-- ==== Sys2Proof/Machine/Keyed.lean ====
section
/-!
DEFINITION. The keyed generator (R468 to R470), the helpers of R163 over its words, and the random bits of stochastic rounding (R247).
-/
namespace Sys2Proof.Machine
open Sys2Proof

/-- One round of R469 on the counter words. -/
def philoxRound (k0 k1 : Nat) (c : Nat × Nat × Nat × Nat) : Nat × Nat × Nat × Nat :=
  let p0 := 0xD2511F53 * c.1
  let p1 := 0xCD9E8D57 * c.2.2.1
  ((p1 >>> 32) ^^^ c.2.1 ^^^ k0, p1 % 2 ^ 32, (p0 >>> 32) ^^^ c.2.2.2 ^^^ k1, p0 % 2 ^ 32)

/-- The rounds that are left, the key advanced before each but the first (R469). -/
def philoxRounds : Nat → Nat → Nat → Nat × Nat × Nat × Nat → Nat × Nat × Nat × Nat
  | 0, _, _, c => c
  | n + 1, k0, k1, c => philoxRounds n ((k0 + 0x9E3779B9) % 2 ^ 32) ((k1 + 0xBB67AE85) % 2 ^ 32) (philoxRound k0 k1 c)

/-- gen(seed, stream, i, d): the four words w[0] to w[3] (R468). -/
def gen (seed stream i d : Nat) : List Nat :=
  let c := philoxRounds 10 (seed % 2 ^ 32) (seed / 2 ^ 32 % 2 ^ 32) (d % 2 ^ 32, i % 2 ^ 32, i / 2 ^ 32 % 2 ^ 32, stream % 2 ^ 32)
  [c.1, c.2.1, c.2.2.1, c.2.2.2]

/-- Word k of the call. -/
def genW (seed stream i d k : Nat) : Nat := (gen seed stream i d).getD (k % 4) 0

/-- r64 of R163. -/
def r64 (w : List Nat) : Nat := w.getD 1 0 * 2 ^ 32 + w.getD 0 0
/-- below of R163. -/
def below (r m : Nat) : Nat := r * m / 2 ^ 64
/-- frac of R163 as FP32 bits: the exact value (2k + 1) · 2^−24 for k the top 23 bits. -/
def frac (x : Nat) : Nat :=
  let m := 2 * (x / 2 ^ 9) + 1
  let l := Nat.log2 m
  (l + 103) * 2 ^ 23 + (m * 2 ^ (23 - l) - 2 ^ 23)

/-- The 24 random bits of R246 for the element with logical index e (R247). -/
def srBits (seed stream e : Nat) : Nat := genW seed stream (e / 4) 0 e / 2 ^ 8

end Sys2Proof.Machine
end

