-- ==== Sys2Proof/Machine/Encode.lean ====
section
/-!
DEFINITION. The encodings of rows that casts, stores and writebacks share: dense rows (R237, R244 to R248), rows with one FP8 scale
(R201, R361) and BM64 records (R271, R289).
-/
namespace Sys2Proof.Machine
open Sys2Proof

/-- Elements of w bits packed from bit 0 up, as 4-, 6- and 8-bit and wider elements all are (R237). -/
def packElems (w : Nat) (l : List Nat) : List Byte :=
  bytesOf (l.foldr (fun e acc => e % 2 ^ w + acc * 2 ^ w) 0) ((w * l.length + 7) / 8)

/-- The largest magnitude of a list of finite values. -/
def maxAbs (vs : List Val) : Val := vs.foldl (fun a v => if a.lt v.abs then v.abs else a) Val.zero

/-- The MX blocks of a row: scale bytes, and the elements as a monitor sees them (R248, R330, R331). -/
def mxBlock (code : Nat) (sr : Nat → Option Nat) (vs : List Val) : Nat × List Cast :=
  let r := mxEncode code sr vs
  let x : Int := (r.1 : Int) - 127
  (r.1, (r.2.zip vs).map (fun p =>
    if r.1 = 0xFF then { bits := p.1.1, ovf := true, unf := false, val := .nan false }
    else { bits := p.1.1, ovf := p.1.2.ovf, unf := p.1.2.unf, val := p.2.shift (-x) }))

/-- The scale and elements of the FP8 row rule (R361): scale bits and casts. -/
def fp8Row (sr : Nat → Option Nat) (vs : List Val) : Nat × List Cast :=
  if vs.any (fun v => !v.isFin) then (0x7FC00000, vs.map (fun _ => { bits := 0, ovf := true, unf := false, val := .nan false }))
  else
    let m := maxAbs vs
    let k0 : Int := m.floorLog2 - 8
    let k1 : Int := if m.le (.fin false 448 k0) then k0 else k0 + 1
    let k : Int := if m.isZero then 0 else if k1 < -149 then -149 else if k1 > 127 then 127 else k1
    (to32 (.fin false 1 k), vs.zipIdx.map (fun p => castRep 0x04 true (sr p.2) (p.1.shift (-k))))

/-- A dense row in a format: its bytes and its casts (R237, R201). `sr j` gives the random bits of column j. -/
def encodeRow (code : Nat) (sat : Bool) (sr : Nat → Option Nat) (vs : List Val) : List Byte × List Cast :=
  if codeIsMx code then
    let blocks := (chunks 32 (vs.length / 32 + 1) vs).zipIdx.map (fun p => mxBlock code (fun j => sr (32 * p.2 + j)) p.1)
    let casts := (blocks.map (·.2)).flatten
    (blocks.map (fun b => BitVec.ofNat 8 b.1) ++ packElems (codeBits code) (casts.map (·.bits)), casts)
  else if code = 0x0F then
    let r := fp8Row sr vs
    (bytesOf r.1 4 ++ packElems 8 (r.2.map (·.bits)), r.2)
  else
    let casts := vs.zipIdx.map (fun p => castRep code sat (sr p.2) p.1)
    (packElems (codeBits code) (casts.map (·.bits)), casts)

/-- The random bits of an output element, or none under RNE (R247). -/
def srOf (on : Bool) (seed stream e : Nat) : Option Nat := if on then some (srBits seed stream e) else none

/-- Is a cast value one that BM64 leaves out (R289)? -/
def absent (code bits : Nat) : Bool := if codeIsInt code then bits == 0 else bits % 2 ^ (codeBits code - 1) == 0

/-- Groups of four values a block of m stored values takes (R271). -/
def bmGroups (m : Nat) : Nat := ceilDiv m 4

/-- Header lines of a row record: five blocks to a line (R271). `idx` is the value index of the first block of the line. -/
def bmHeaders : Nat → Nat → List (List Bool) → List Byte
  | 0, _, _ => []
  | n + 1, idx, blocks =>
    let five := blocks.take 5
    let counts := five.map (fun b => (b.filter id).length)
    let starts := (List.range 5).map (fun i => idx + ((counts.take i).map bmGroups).sum)
    let bitmaps := (List.range 5).map (fun i => ((five.getD i []).zipIdx.foldl (fun a p => a + b2n p.1 * 2 ^ p.2) 0))
    (bitmaps.map (fun b => bytesOf b 8)).flatten ++
      ((List.range 5).map (fun i => bytesOf (if i < five.length then starts.getD i 0 else 0) 4)).flatten ++ bytesOf 0 4 ++
      bmHeaders n (idx + (counts.map bmGroups).sum) (blocks.drop 5)

/-- The record of a row and its count of stored values (R271, R289): header lines, then the value area, padded to 64 bytes. -/
def bmRecord (code : Nat) (bits : List Nat) : List Byte × Nat :=
  let blocks := chunks 64 (bits.length / 64 + 1) bits
  let present := blocks.map (fun b => b.map (fun e => !absent code e))
  let values := blocks.map (fun b =>
    let v := b.filter (fun e => !absent code e)
    packElems (codeBits code) (v ++ List.replicate (4 * bmGroups v.length - v.length) 0))
  let rec' := bmHeaders (ceilDiv blocks.length 5) 0 present ++ values.flatten
  (rec' ++ List.replicate (ceilDiv rec'.length 64 * 64 - rec'.length) 0, (bits.filter (fun e => !absent code e)).length)

/-- Bytes that a dense tensor spans. -/
def TDesc.span (d : TDesc) : Nat := (d.rows - 1) * d.stride + rowBytes d.format d.cols

/-- Bytes before the elements of a dense row: its scales (R237, R201). -/
def TDesc.head (d : TDesc) : Nat := if codeIsMx d.format then d.cols / 32 else if d.format = 0x0F then 4 else 0

/-- Element bits of columns c0 to c0 + n − 1 of a row, reading only the bytes that hold them. -/
def rowBits (c : Ctx) (d : TDesc) (r c0 n : Nat) : Cm (List Nat) := do
  let w := codeBits d.format
  let b0 := w * c0 / 8
  let l ← readT c (d.row r + d.head + b0) ((w * (c0 + n) + 7) / 8 - b0)
  let v := leNat l
  pure ((List.range n).map (fun j => bitsOf v (w * (c0 + j) - 8 * b0) w))

/-- The scales that columns c0 to c0 + n − 1 need: the FP32 row scale, or the block scales from block c0 / 32 on. -/
def rowScales (c : Ctx) (d : TDesc) (r c0 n : Nat) : Cm (List Nat) := do
  if codeIsMx d.format then
    let l ← readT c (d.row r + c0 / 32) ((c0 + n - 1) / 32 - c0 / 32 + 1)
    pure (l.map (·.toNat))
  else if d.format = 0x0F then
    let v ← readNat c (d.row r) 4
    pure [v]
  else pure []

/-- Rows of the tensor that a descriptor names, so far as the descriptor can be read, and the descriptor itself (R422). -/
def rowsTouch (c : Ctx) (g r0 n : Nat) (wr : Bool) : Cm (List Touch) := do
  let v ← readNat c g 32
  let d := tdescOf v
  pure [(g, 32, false), (d.row r0, (n - 1) * d.stride + rowBytes d.format d.cols, wr)]

/-- The values of element bits under their scales (R235, R236, R202). -/
def scaleElems (code c0 : Nat) (scales bits : List Nat) : List Val :=
  bits.zipIdx.map (fun p =>
    let e := elemVal code p.1
    if codeIsMx code then mxScaled (scales.getD ((c0 + p.2) / 32 - c0 / 32) 0) e
    else if code = 0x0F then of32 (to32 (e.mul (of32 (scales.getD 0 0))))
    else e)

/-- The values of columns c0 to c0 + n − 1 of a row. -/
def rowPart (c : Ctx) (d : TDesc) (r c0 n : Nat) : Cm (List Val) := do
  let sc ← rowScales c d r c0 n
  let l ← rowBits c d r c0 n
  pure (scaleElems d.format c0 sc l)

/-- The values of one row of a dense tensor. -/
def rowOf (c : Ctx) (d : TDesc) (r : Nat) : Cm (List Val) := rowPart c d r 0 d.cols

/-- Write one row of a dense tensor, and report it (R330). -/
def putRow (c : Ctx) (d : TDesc) (r : Nat) (sat : Bool) (sr : Nat → Option Nat) (vs : List Val) : Cm Unit := do
  let (bytes, casts) := encodeRow d.format sat sr vs
  writeT c (d.row r) bytes
  report d casts

/-- Write the first columns of a row, keeping what lies beyond them, and report them (R237, R330). -/
def putPart (c : Ctx) (d : TDesc) (r : Nat) (sat : Bool) (sr : Nat → Option Nat) (vs : List Val) : Cm Unit := do
  let (bytes, casts) := encodeRow d.format sat sr vs
  let n := if codeIsMx d.format then vs.length / 32 else 0
  let body := bytes.drop n
  let g := d.row r + d.head
  if n > 0 then writeT c (d.row r) (bytes.take n)
  if codeBits d.format = 4 ∧ vs.length % 2 = 1 then do
    access c (g + vs.length / 2) 1 1
    let old ← readRaw c (g + vs.length / 2) 1
    writeT c g (body.dropLast ++ [BitVec.ofNat 8 ((body.getLastD 0).toNat % 16 + leNat old / 16 * 16)])
  else writeT c g body
  report d casts

end Sys2Proof.Machine
end

