-- ==== Sys2Proof/Machine/Stream.lean ====
section
/-!
DEFINITION. The stream unit's block-list commands (R445 to R463): block lists (R100 to R102), pieces and their two paths, marks and
gates, fills, and encode on store (R458 to R460).
-/
namespace Sys2Proof.Machine
open Sys2Proof

/-- A stream command. -/
def strm (s : State) (id : Nat) : Option Strm := s.strms.get none id
/-- Change a stream command. -/
def updStrm (s : State) (id : Nat) (f : Strm → Strm) : State :=
  match strm s id with
  | some x => { s with strms := s.strms.put none id (some (f x)) }
  | none => s

/-- The stream commands of a core's unit. -/
def coreStrms (s : State) (core : Nat) : List (Nat × Op) := unitOps s (.stm core)

/-- Requests of a command's pieces that are in flight. -/
def piecesOf (s : State) (id : Nat) : List (Nat × Req) := (reqList s).filter (fun e => e.2.kind == .piece && e.2.op == some id)

/-! ### Block lists (R100 to R102) -/

/-- The lowest offending bit of an entry (R100). -/
def entryBad (e : Nat) (markOk : Bool) : Option Nat :=
  let chain := bitOf e 73
  firstBad
    [rsvIn e 0 44 4, (48, chain && (bitsOf e 48 24 == 0 || decide (bitsOf e 48 24 > 65536))), (72, bitOf e 72 && chain),
     (74, bitOf e 74 && (chain || !markOk)), (76, chain && bitOf e 76), rsvIn e 0 77 3,
     (80, !bitOf e 75 && bitsOf e 80 12 != 0), rsvIn e 0 92 4, rsvIn e 0 96 32]

/-- Reach the side's next entry that moves bytes or is a mark, or the end of its lists (R100 to R102). `perm` is the permission
that its ranges need. DESIGN CHOICE (log entry 80): a chained list whose LEN entries are read without LAST or CHAIN meets the limit too. -/
def reach (c : Ctx) (perm : Nat) (markOk : Bool) : Nat → Side → Cm Side
  | 0, d => pure d
  | n + 1, d =>
    if !d.list || d.left > 0 || d.mark || d.last then pure d
    else do
      if d.idx ≥ d.cap ∨ d.read ≥ 2 ^ 24 then failWith fBlocklistLimit
      faultIf (d.next % 16 ≠ 0) { code := fMisaligned, addr := d.next }
      let e ← readNat c d.next 16
      match entryBad e markOk with
      | some p => throw { code := fReservedField, pos := p }
      | none =>
        let s ← get
        let g := bitsOf e 0 44 + (if bitOf e 75 then bitsOf e 80 12 else ownId s) * 2 ^ 44
        if bitOf e 73 then
          reach c perm markOk n { d with next := g, idx := 0, cap := bitsOf e 48 24, read := d.read + 1 }
        else
          let len := bitsOf e 48 24
          if len > 0 then access c g len perm
          reach c perm markOk n
            { d with next := d.next + 16, idx := d.idx + 1, read := d.read + 1, cur := g, left := len, mark := bitOf e 74, noLight := bitOf e 76,
                     last := bitOf e 72 }

/-- A side moves on by n bytes. -/
def Side.adv (d : Side) (n : Nat) : Side := { d with cur := d.cur + n, left := d.left - n }

/-! ### Issue (R445, R455) -/

/-- Commands of the task that the unit holds (R445). -/
def taskOps (s : State) (u : EUnit) (key : Nat) : Nat := ((unitOps s u).filter (fun e => e.2.slot == some key)).length

/-- A stream command is accepted: it waits to be started. -/
def strmAccept (c : Ctx) (x : Strm) : Cm Stand := do
  let s ← get
  holdIf (decide (taskOps s (.stm c.core) c.key ≥ 8) || c.b 0 16 && openWrites s c.thr != [])
  modify (fun s => { s with strms := s.strms.put none c.op (some x) })
  ownOp c (fun o => { o with inService := false })
  onDone c (pg clsSTM c.pav) 0x80
  pure (.later 1)

/-- Operand words of STM_COPY, STM_LOAD and STM_STORE (R455). -/
def listSpec : CmdSpec :=
  { fields := [(4, 0, 56), (6, 0, 56), (8, 0, 56), (10, 0, 64)],
    bad := fun w => [(at_ 10 0, cf w 8 0 56 == 0 && cf w 10 0 64 != 0)] }

/-- STM_COPY, STM_LOAD and STM_STORE: which sides are lists. -/
def listRun (srcList dstList : Bool) (c : Ctx) : Cm Stand := do
  let side (list : Bool) (g : Nat) : Side := if list then { list, next := g } else { list, cur := g }
  faultIf (srcList ∧ c.f 4 0 56 % 16 ≠ 0) { code := fMisaligned, addr := c.f 4 0 56 }
  faultIf (dstList ∧ c.f 6 0 56 % 16 ≠ 0) { code := fMisaligned, addr := c.f 6 0 56 }
  faultIf (c.f 8 0 56 % 8 ≠ 0) { code := fMisaligned, addr := c.f 8 0 56 }
  strmAccept c { src := side srcList (c.f 4 0 56), dst := side dstList (c.f 6 0 56) }

/-- Operand words of STM_FILL (R457). -/
def sfillSpec : CmdSpec :=
  { fields := [(4, 0, 3), (5, 0, 56), (7, 0, 40), (9, 0, 64)],
    bad := fun w =>
      [(at_ 4 0, cf w 4 0 2 == 3), (at_ 4 2, cf w 4 2 1 == 1 && cf w 4 0 2 == 0), (at_ 7 0, cf w 7 0 40 == 0),
       (at_ 9 0, cf w 4 2 1 == 1 && cf w 9 0 64 != 0)] }

/-- STM_FILL (R457). DESIGN CHOICE (log entry 90): the tags of another module's scratchpad are set outside the machine. -/
def sfillRun (c : Ctx) : Cm Stand := do
  let g := c.f 5 0 56
  let len := c.f 7 0 40
  let a := gLoc g
  if c.f 4 0 2 ≠ 0 then
    failIf (!(isSp a && isSp (a + len - 1) && (a - spBase) / 2 ^ 22 == (a + len - 1 - spBase) / 2 ^ 22)) fNotPermitted
    faultIf (g % 64 ≠ 0 ∨ len % 64 ≠ 0) { code := fMisaligned, addr := g }
  access c g len 1
  strmAccept c { src := { list := false }, dst := { list := false, cur := g, left := len } }

/-- Reads and writes anywhere in the task's scratchpad window. -/
def touchAll (c : Ctx) : Cm (List Touch) := do
  let r ← winTouch false c
  let w ← winTouch true c
  pure (r ++ w)

/-- The unit of a core. -/
def stmUnit (core : Nat) : EUnit := .stm core

def copyDef : CmdDef := { opc := 1, spec := listSpec, eu := stmUnit, run := listRun true true, touch := touchAll }
def loadDef : CmdDef := { opc := 2, spec := listSpec, eu := stmUnit, run := listRun true false, touch := touchAll }
def storeDef : CmdDef := { opc := 3, spec := listSpec, eu := stmUnit, run := listRun false true, touch := touchAll }
def sfillDef : CmdDef :=
  { opc := 5, spec := sfillSpec, eu := stmUnit, run := sfillRun, touch := fun c => pure [(c.f 5 0 56, c.f 7 0 40, true)] }

/-- STM_COPY (R455, R456). -/
def execStmCopy (t : Thr) (b : Body) (s : State) : Host.Outcome State Fault Refusal := .next (issueCmd t b copyDef s)
/-- STM_LOAD (R455, R456). -/
def execStmLoad (t : Thr) (b : Body) (s : State) : Host.Outcome State Fault Refusal := .next (issueCmd t b loadDef s)
/-- STM_STORE (R455, R456). -/
def execStmStore (t : Thr) (b : Body) (s : State) : Host.Outcome State Fault Refusal := .next (issueCmd t b storeDef s)
/-- STM_FILL (R457). -/
def execStmFill (t : Thr) (b : Body) (s : State) : Host.Outcome State Fault Refusal := .next (issueCmd t b sfillDef s)

/-! ### Landing -/

/-- Set every tag of a range, and serve the waiters it releases (R418, R457). -/
def setTags (s : State) (a : Nat) (full : Bool) : Nat → State
  | 0 => s
  | n + 1 => setTags (serveWaiters (setTag s a full) (granule a) 512) (a + 64) full n

/-- Once nothing is in flight, a command whose requests are all issued ends, and one that met a faulty entry faults (R453). -/
def strmSettle (s : State) (id : Nat) : State :=
  match getOp s id, strm s id with
  | some o, some x =>
    if piecesOf s id ≠ [] ∨ o.far.st = 1 then s
    else match x.bad with
      | some (code, pos, addr, detail) => engineFault s (o.slot.getD 0) o.opcode { code, pos, addr, detail } (some id)
      | none =>
        if x.issued ∧ !x.finished then
          let c := opCtx id o
          let s := if o.opcode = 5 ∧ c.f 4 0 2 ≠ 0 ∧ isOwn s (c.f 5 0 56) = true then setTags s (gLoc (c.f 5 0 56)) (c.f 4 0 2 == 2) (c.f 7 0 40 / 64) else s
          updStrm (updOp s id (fun o => { o with waits := o.waits - 1 })) id (fun x => { x with finished := true })
        else s
  | _, _ => s

/-- Where a range overlaps another piece's destination since the last mark, its bytes are undefined (R454): free values. -/
def blur (s : State) (g : Nat) (l : List Byte) (others : List (Nat × Nat)) : State × List Byte :=
  l.zipIdx.foldl (fun acc b =>
    if others.any (fun r => decide (r.1 ≤ g + b.2 ∧ g + b.2 < r.1 + r.2)) then
      let (s, v) := takeFree acc.1
      (s, acc.2 ++ [BitVec.ofNat 8 v])
    else (acc.1, acc.2 ++ [b.1])) (s, [])

/-- Destinations of the command's other pieces since the last mark; `earlier` for the pieces before this one only. -/
def otherSpans (s : State) (r : Req) (earlier : Bool) : List (Nat × Nat) :=
  match r.op.bind (strm s) with
  | some x => (x.spans.filter (fun p => if earlier then decide (p.1 < r.words.getD 2 0) else p.1 != r.words.getD 2 0)).map (fun p => (p.2.2.1, p.2.2.2))
  | none => []

/-- STM page of a request's core. -/
def stmPage (s : State) (r : Req) : Nat :=
  match r.op.bind (getOp s) with
  | some o => euPage o.eu
  | none => pg clsSTM 0

/-- The message of a piece's request: a READ, or a WRITE of the bytes that it holds. -/
def pieceMsg (s : State) (id : Nat) (r : Req) : Msg :=
  let g := reqAddr r
  mkMsg s { dst := gMod g, cls := r.cls, prio := (r.slot.map (effPrio s)).getD 0, mtype := 1 + b2n (r.mode != 0), die := euDie (r.eu.getD .mgr),
            stream := reqStream s r, tag := id % 65536, tagEpoch := r.tagEpoch.toNat }
    (addrWord (gLoc g) r.len ::
      (if r.mode = 0 then [] else wordsOf (List.replicate (g % 8) 0 ++ (r.words.drop 4).map (BitVec.ofNat 8)) 17))

/-- The bytes of a piece's request have been read: they are held until they are written, and leave at once for another module's
memory. -/
def pieceData (s : State) (id : Nat) (r : Req) (l : List Byte) : State :=
  let s := bump s (stmPage s r) 0x40 l.length
  let s := if isHost (gLoc r.addr) then bump s (stmPage s r) 0x78 l.length else s
  let (s, l) := blur s r.addr l (otherSpans s r true)
  let r' := { r with st := .sent, mode := 1, words := r.words.take 4 ++ l.map (·.toNat) }
  let s := { s with reqs := s.reqs.put none id (some r') }
  let dst := r.words.getD 0 0
  if isOwn s dst then s
  else
    match sendMsg s (pieceMsg s id r') with
    | (s, true) => s
    | (s, false) => faultReq s id r' { code := fUnreachable, detail := resource 20 14 (gMod dst) }

/-- A piece's request is complete. -/
def pieceDone (s : State) (id : Nat) (r : Req) : State :=
  let s := bump s (stmPage s r) 0x48 r.len
  let s := if isHost (gLoc (r.words.getD 0 0)) then bump s (stmPage s r) 0x78 r.len else s
  let s := dropReq s id
  match r.op with
  | some o => strmSettle s o
  | none => s

/-- The core whose stream unit makes a request; 512 for none. -/
def stmCore (s : State) (r : Req) : Nat :=
  match (r.op.bind (getOp s)).map (·.eu) with | some (EUnit.stm c) => c | _ => 512

/-- The code with which a host address of this module fails to translate (R461, R574). -/
def hostCode (s : State) (g len : Nat) (write : Bool) : Option Nat :=
  if isHost (gLoc g) then (match (hostParts s (gLoc g) write (len / 2 ^ 21 + 2) len).2 with | .error code => some code | .ok _ => none) else none

/-- A piece's read is performed at its home in this module. -/
def pieceRead (s : State) (id : Nat) (r : Req) : State :=
  if asleep s (gLoc r.addr) then s else
  let (s', st, l) := serveRead s (reqDie r) (gLoc r.addr) r.len r.cls (stmCore s r)
  match hostCode s r.addr r.len false with
  | some code => faultReq s' id r { code, addr := r.addr }
  | none => if st = .ok then pieceData s' id r l else answerReq s' id r st 0

/-- A piece's write is performed at its home in this module. -/
def pieceWrite (s : State) (id : Nat) (r : Req) : State :=
  let dst := r.words.getD 0 0
  if asleep s (gLoc dst) then s else
  let (s, l) := blur s dst ((r.words.drop 4).map (BitVec.ofNat 8)) (otherSpans s r false)
  let code := hostCode s dst l.length true
  let (s, st) := serveWrite s (reqDie r) (gLoc dst) l r.cls (stmCore s r)
  match st with
  | .ok =>
    let s := match r.slot with
      | some k => noteWrote s k dst l.length
      | none => s
    pieceDone s id r
  | .fenced => faultReq s id r { code := fWriteFenced, addr := dst }
  | _ => faultReq s id r (match code with
    | some code => { code, addr := dst }
    | none => { code := fUncorrectable, detail := memResource s (gLoc dst) })

/-! ### Pieces (R446 to R454) -/

/-- Length of the next request: at most 256 bytes, crossing no 256-byte boundary of either address; what a message to another
module's memory carries is at most 128 bytes (R446, R506). -/
def reqLen (s : State) (src dst left : Nat) : Nat :=
  min left (min (256 - src % 256) (if isOwn s dst then 256 - dst % 256 else 128 - dst % 128))

/-- Requests of a piece. -/
def reqCount (s : State) : Nat → Nat → Nat → Nat → Nat
  | 0, _, _, _ => 0
  | n + 1, src, dst, left => if left = 0 then 0 else let k := reqLen s src dst left; 1 + reqCount s n (src + k) (dst + k) (left - k)

/-- Read the mark's gate (R452). -/
def readGate (c : Ctx) (x : Strm) : Cm Strm := do
  if x.gateOk then pure x
  else if c.f 8 0 56 = 0 then pure { x with gateOk := true }
  else do
    let v ← readNat c (c.f 8 0 56) 8
    pure { x with gateOk := decide (v ≥ c.f 10 0 64 + x.marks + 1) }

/-- Keep a stream command's state. -/
def putStrm (c : Ctx) (x : Strm) : Cm Unit := modify (fun s => { s with strms := s.strms.put none c.op (some x) })

/-- A request of a piece, from its next byte on: a read, or with `data` a write of what is known already. It holds an entry of a reorder table
like any other. -/
def pieceReq (s : State) (c : Ctx) (p : Piece) (data : Option (List Byte)) : Req :=
  let n := reqLen s (if data.isSome then p.dst else p.src) p.dst p.left
  let own := isOwn s (if data.isSome then p.dst else p.src)
  { kind := .piece, home := if own then homeDom s (gLoc p.src) else dRemote (gMod (if data.isSome then p.dst else p.src)), slot := some c.key,
    op := some c.op, eu := some c.eu, addr := p.src, len := n, cls := c.f 0 8 2, mode := b2n data.isSome,
    words := [p.dst, p.pos, p.num, b2n p.light] ++ ((data.getD []).take n).map (·.toNat) }

/-- What is left of a piece after a request of n bytes. -/
def Piece.adv (p : Piece) (n : Nat) : Piece := { p with src := p.src + n, dst := p.dst + n, pos := p.pos + n, left := p.left - n }

/-- Issue one request of a piece: to its home in this module, or by a message. -/
def issueReq (c : Ctx) (p : Piece) (data : Option (List Byte)) : Cm Piece := do
  let s ← get
  let r := pieceReq s c p data
  let (s, id) := addReq s r
  if isOwn s (reqAddr r) then do
    set s
    pure (p.adv r.len)
  else match sendMsg s (pieceMsg s id r) with
    | (s, true) => do
      set s
      pure (p.adv r.len)
    | (s, false) => do
      set (dropReq s id)
      throw { code := fUnreachable, detail := resource 20 14 (gMod (reqAddr r)) }

/-- Issue every request of a light piece at once: its tags have been found free (R448). -/
def issueAll (c : Ctx) : Nat → Piece → Cm Unit
  | 0, _ => pure ()
  | n + 1, p => if p.left = 0 then pure () else do
    let p ← issueReq c p none
    issueAll c n p

/-- First byte of a command's transfer that is not yet written at its destination (R451). -/
def firstOpen (s : State) (id : Nat) (x : Strm) : Nat :=
  x.queue.foldl (fun m p => min m p.pos) ((piecesOf s id).foldl (fun m e => min m (e.2.words.getD 1 0)) x.pos)

/-- May the next bulk request, or a light piece as a whole, take its tags and an entry of the reorder table, and does the run-ahead limit allow it
(R387, R447, R448, R451)? DESIGN CHOICE (log entry 90): the limit is held against each request of a bulk piece. -/
def mayIssue (s : State) (c : Ctx) (x : Strm) (p : Piece) : Bool :=
  (if p.light then decide (reqCount s 64 p.src p.dst p.left + lightTags s c.core ≤ 64) else bulkFree s c.core c.op) &&
  mayLeave s (pieceReq s c p none) &&
  decide (p.pos + (if p.light then p.left else min p.left 256) - firstOpen s c.op x ≤ x.runahead * 2 ^ 20)

/-- Issue what may go of the pieces reached: every light piece, which waits for no bulk request, and one request of the first bulk piece (R448). -/
def issueNext (c : Ctx) (x : Strm) : Cm Unit := do
  let s ← get
  match x.queue.find? (fun p => p.light && mayIssue s c x p) with
  | some p => do
    putStrm c { x with queue := x.queue.filter (fun q => q.num != p.num) }
    issueAll c 64 p
  | none =>
    match x.queue.find? (fun p => !p.light) with
    | some p =>
      if mayIssue s c x p then do
        let p' ← issueReq c p none
        putStrm c { x with queue := if p'.left = 0 then x.queue.filter (fun q => q.num != p.num) else x.queue.map (fun q => if q.num = p.num then p' else q) }
    | none => pure ()

/-- Reach the next piece of a list command: `false` while a mark is not met, or when the command has come to its end (R446, R452,
R456). -/
def nextPiece (c : Ctx) (x : Strm) : Cm (Strm × Bool) := do
  -- the limit on the entries of a command counts those of both its lists
  let src ← reach c 0 true (2 ^ 24 + 1) { x.src with read := max x.src.read x.dst.read }
  let dst ← reach c 1 (!x.src.list) (2 ^ 24 + 1) { x.dst with read := src.read }
  let x := { x with src, dst }
  let marked := x.src.mark || x.dst.mark
  if marked then do
    let x ← readGate c x
    let s ← get
    if x.gateOk ∧ piecesOf s c.op = [] ∧ x.queue = [] then
      pure ({ x with src := { x.src with mark := false }, dst := { x.dst with mark := false }, marks := x.marks + 1, gateOk := false, spans := [] }, true)
    else pure (x, false)
  else
    -- with two lists, both must end together
    let srcEnd := x.src.list && x.src.last && x.src.left == 0
    let dstEnd := x.dst.list && x.dst.last && x.dst.left == 0
    if srcEnd && dstEnd || (srcEnd && !x.dst.list) || (dstEnd && !x.src.list) then pure ({ x with issued := x.queue == [] }, false)
    else if srcEnd || dstEnd then failWith 0x0100
    else do
      let len := if x.src.list && x.dst.list then min x.src.left x.dst.left else if x.src.list then x.src.left else x.dst.left
      if !x.src.list then access c x.src.cur len 0
      if !x.dst.list then access c x.dst.cur len 1
      let s ← get
      let fits := decide (len ≤ x.light) && !x.src.noLight && !x.dst.noLight
      let held := (x.queue.filter (·.light)).foldl (fun n p => n + reqCount s 64 p.src p.dst p.left) 0
      let free := decide (reqCount s 64 x.src.cur x.dst.cur len + held + lightTags s c.core ≤ 64)
      countIf (fits && !free) (pg clsSTM c.pav) 0x64
      let light := fits && free
      count (pg clsSTM c.pav) (if light then 0x60 else 0x50)
      let p : Piece := { num := x.piece + 1, pos := x.pos, src := x.src.cur, dst := x.dst.cur, left := len, light }
      pure ({ x with piece := x.piece + 1, pos := x.pos + len, queue := x.queue ++ [p], src := x.src.adv len, dst := x.dst.adv len,
                     spans := (x.piece + 1, x.src.cur, x.dst.cur, len) :: x.spans }, true)

/-- Go on with the lists of a command: reach the next piece, past marks that are met. A piece beyond the run-ahead limit is not reached yet (R451). -/
def pumpList (c : Ctx) : Nat → Strm → Cm Unit
  | 0, x => putStrm c x
  | n + 1, x => do
    let s ← get
    if x.pos - firstOpen s c.op x > x.runahead * 2 ^ 20 then putStrm c x
    else do
      let (x', more) ← nextPiece c x
      if more && x'.piece == x.piece then pumpList c n x' else putStrm c x'

/-- The pattern's bytes from an address on (R457). -/
def patternAt (pattern g : Nat) (n : Nat) : List Byte := (List.range n).map (fun i => BitVec.ofNat 8 (pattern >>> (8 * ((g + i) % 8))))

/-- Go on with a fill (R457): it reads nothing, so that no run-ahead bounds it. -/
def pumpFill (c : Ctx) (x : Strm) : Cm Unit := do
  let s ← get
  if c.b 4 2 ∨ x.dst.left = 0 then putStrm c { x with issued := true }
  else
    let p : Piece := { num := 1, pos := x.pos, src := 0, dst := x.dst.cur, left := x.dst.left, light := false }
    let data := some (patternAt (c.f 9 0 64) x.dst.cur 256)
    if bulkFree s c.core c.op && mayLeave s (pieceReq s c p data) then do
      let p' ← issueReq c p data
      putStrm c { x with pos := p'.pos, piece := 1, dst := { x.dst with cur := p'.dst, left := p'.left }, issued := p'.left == 0 }

/-- The queued command that starts next (R445). -/
def nextStart (s : State) (core : Nat) : Option Nat :=
  (pickOp s ((coreStrms s core).filter (fun e => match strm s e.1 with | some x => !x.started | none => false))).map (·.1)

/-- Start a command when a service position is free and it is next (R445, R465). -/
def strmStart (s : State) (id core : Nat) : State :=
  let busy := ((coreStrms s core).filterMap (fun e => strm s e.1)).filter (fun x => x.started && !x.finished)
  match strm s id, (List.range 4).find? (fun i => !busy.any (fun x => x.place == i)) with
  | some x, some place =>
    if x.started ∨ nextStart s core ≠ some id then s
    else
      let p := pg clsSTM (core / 32)
      updOp (updStrm s id (fun x => { x with started := true, place, light := bitsOf (actN s p 0x10C) 0 11, runahead := bitsOf (actN s p 0x110) 0 7 })) id
        (fun o => { o with inService := true })
  | _, _ => s

/-- The fault of an entry, or of a request that finds no route: it is kept until the requests in flight have completed (R453). -/
def strmBad (s : State) (id : Nat) (f : FaultInfo) : State :=
  strmSettle (updStrm s id (fun x => { x with bad := some (f.code, f.pos, f.addr, f.detail) })) id

/-- Serve a stream command, and keep an entry's fault until its earlier requests have completed (R453). -/
def strmServe (s : State) (id : Nat) (act : Ctx → Strm → Cm Unit) : State :=
  match getOp s id, strm s id with
  | some o, some x =>
    match act (opCtx id o) x s with
    | .ok _ s' => strmSettle (updOp (addWaits s s' id) id (fun o => { o with tries := 0, due := false, far := {} })) id
    | .error f s' =>
      if f.code = holdCode then s
      else if f.code = awaitCode then updStrm (awaitOp s id o f) id (fun x => { x with stalled := true })
      else if f.code = fencedCode then updStrm (fencedOp s s' id o f.addr) id (fun x => { x with stalled := true })
      else strmBad s' id f
  | _, _ => s

/-- Issue what may go of a stream command's pieces, also while it waits for a list or a gate. -/
def strmIssue (s : State) (id : Nat) : State :=
  match getOp s id, strm s id with
  | some o, some x =>
    if !x.started || x.bad.isSome || !euServes s o.eu then s
    else match issueNext (opCtx id o) x s with
      | .ok _ s' => s'
      | .error f s' => strmBad s' id f
  | _, _ => s

/-- May the command be served now? -/
def strmReady (s : State) (id : Nat) : Bool :=
  match getOp s id, strm s id with
  | some o, some x => x.started && !x.issued && !x.stalled && x.bad.isNone && euServes s o.eu
  | _, _ => false

/-! ### Encode on store (R458 to R460) -/

/-- Codes that an ENC allows (R459). -/
def encCodes (enc : Nat) : List Nat :=
  match enc with
  | 0 => [1, 2, 3, 4, 5, 0x0B]
  | 1 => [6, 7, 8, 9, 0x0A]
  | 2 => [0x0F]
  | _ => [2, 3, 4, 5, 0x0B]

/-- Operand words of STM_STORE_ENC (R458). -/
def encSpec : CmdSpec :=
  { fields := [(4, 0, 12), (5, 0, 56), (7, 0, 56), (9, 0, 64), (11, 0, 32), (12, 0, 32), (13, 0, 56)],
    bad := fun w =>
      let enc := cf w 4 0 2
      let sr := bitOf w (at_ 4 2)
      [(at_ 4 2, sr && cf w 4 4 8 == 0x0B), (at_ 4 4, !(encCodes enc).contains (cf w 4 4 8)),
       (at_ 9 0, !sr && cf w 9 0 64 != 0), (at_ 11 0, !sr && cf w 11 0 32 != 0),
       (at_ 12 0, if enc = 3 then cf w 12 0 32 == 0 else cf w 12 0 32 != 0), (at_ 13 0, enc != 3 && cf w 13 0 56 != 0)] }

/-- Read a descriptor; one that breaks a condition of R458, its FORMAT among them, or a layout rule of R98 or R237 faults with STM_SHAPE
(R458). -/
def encDesc (c : Ctx) (g : Nat) (fmts lays : List Nat) : Cm TDesc := do
  faultIf (g % 32 ≠ 0) { code := fMisaligned, addr := g }
  let v ← readNat c g 32
  if (tdescBad v fmts lays).isSome then failWith 0x0101
  pure (tdescOf v)

/-- STM_STORE_ENC is accepted. -/
def encRun (c : Ctx) : Cm Stand := do
  faultIf (c.f 5 0 56 % 32 ≠ 0) { code := fMisaligned, addr := c.f 5 0 56 }
  faultIf (c.f 7 0 56 % 32 ≠ 0) { code := fMisaligned, addr := c.f 7 0 56 }
  faultIf (c.f 13 0 56 % 8 ≠ 0) { code := fMisaligned, addr := c.f 13 0 56 }
  strmAccept c { src := { list := false }, dst := { list := false } }

/-- Count what an encode moves of one row (R461, R464): the bytes read at one address and written at another, and the elements. -/
def encCount (c : Ctx) (src rd dst wr elems : Nat) : Cm Unit := do
  count (pg clsSTM c.pav) 0x40 rd
  count (pg clsSTM c.pav) 0x48 wr
  count (pg clsSTM c.pav) 0x78 ((if isHost (gLoc src) then rd else 0) + (if isHost (gLoc dst) then wr else 0))
  count (pg clsSTM c.pav) 0x74 elems

/-- Rows of a BM64 destination from row r on, `at'` being the offset of the next record (R460): the offset after the last. -/
def bmRows (c : Ctx) (sd dd : TDesc) (sr : Nat → Nat → Option Nat) : Nat → Nat → Nat → Cm Nat
  | 0, _, at' => pure at'
  | n + 1, r, at' => do
    let vs ← rowOf c sd r
    let (_, casts) := encodeRow dd.format (c.b 4 3) (sr r) vs
    let (bytes, stored) := bmRecord dd.format (casts.map (·.bits))
    encCount c (sd.row r) (rowBytes sd.format sd.cols) dd.base 0 dd.cols
    failIf (decide (at' + bytes.length > 64 * c.f 12 0 32)) 0x0102
    writeT c (dd.base + at') bytes
    writeNat c (dd.base + 8 * r) 8 (at' / 64 + stored * 2 ^ 40)
    report dd casts
    encCount c (sd.row r) 0 dd.base (bytes.length + 8) 0
    bmRows c sd dd sr n (r + 1) (at' + bytes.length)

/-- The last of an encode: USED, once every record is visible (R460). -/
def encUsed (c : Ctx) (x : Strm) (n : Nat) : Cm Unit := do
  let s ← get
  holdIf ((reqList s).any (fun e => e.2.kind == .engine && e.2.op == some c.op))
  writeNat c (c.f 13 0 56) 8 n
  encCount c 0 0 (c.f 13 0 56) 8 0
  putStrm c { x with issued := true }

/-- The whole of an STM_STORE_ENC but its USED (R458 to R460). -/
def encServe (c : Ctx) (x : Strm) : Cm Unit := do
  let fmt := c.f 4 4 8
  let enc := c.f 4 0 2
  let sd ← encDesc c (c.f 5 0 56) (if fmt = 0x0B then [1, 2, 3, 0x0D, 0x0E] else [1, 2, 3, 0x0E]) [0]
  let dd ← encDesc c (c.f 7 0 56) [fmt] [if enc = 3 then 1 else 0]
  failIf (sd.rows != dd.rows || sd.cols != dd.cols) 0x0101
  let sr (r j : Nat) : Option Nat := srOf (c.b 4 2) (c.f 9 0 64) (c.f 11 0 32) (r * dd.cols + j)
  if enc = 3 then
    let stop ← bmRows c sd dd sr dd.rows 0 (64 * ceilDiv (8 * dd.rows) 64)
    putStrm c { x with issued := c.f 13 0 56 == 0, used := some stop }
  else do
    each (fun r => do
      let vs ← rowOf c sd r
      putRow c dd r (c.b 4 3) (sr r) vs
      encCount c (sd.row r) (rowBytes sd.format sd.cols) (dd.row r) (rowBytes dd.format dd.cols) dd.cols) (List.range dd.rows)
    putStrm c { x with issued := true }

/-- What an encode does next. -/
def pumpEnc (c : Ctx) (x : Strm) : Cm Unit := match x.used with | some n => encUsed c x n | none => encServe c x

/-- The range of the tensor that a descriptor names, so far as the descriptor can be read. -/
def descTouch (c : Ctx) (g : Nat) (wr : Bool) : Cm (List Touch) := do
  let v ← readNat c g 32
  let d := tdescOf v
  pure [(g, 32, false), (d.base, d.span, wr)]

/-- Ranges of STM_STORE_ENC: the tensors it names, and with BM64 its capacity (R422). -/
def encTouch (c : Ctx) : Cm (List Touch) := do
  let r ← descTouch c (c.f 5 0 56) false
  let v ← readNat c (c.f 7 0 56) 32
  let d := tdescOf v
  let w : Touch := if c.f 4 0 2 = 3 then (d.base, 64 * c.f 12 0 32, true) else (d.base, d.span, true)
  pure (r ++ [(c.f 7 0 56, 32, false), w] ++ (if c.f 13 0 56 = 0 then [] else [(c.f 13 0 56, 8, true)]))

def encDef : CmdDef := { opc := 4, spec := encSpec, eu := stmUnit, run := encRun, touch := encTouch }
/-- STM_STORE_ENC (R458). -/
def execStmStoreEnc (t : Thr) (b : Body) (s : State) : Host.Outcome State Fault Refusal := .next (issueCmd t b encDef s)

/-- The step of a stream command of an opcode: 256 bytes of a fill, a whole encode, or the next piece of its lists. -/
def streamStep (opcode : Nat) (c : Ctx) (x : Strm) : Cm Unit :=
  if opcode = 5 then pumpFill c x else if opcode = 4 then pumpEnc c x else pumpList c (2 ^ 24 + 1) x

/-- A stream reads its gate and keeps what it read (R452). -/
def gateStep (c : Ctx) (x : Strm) : Cm Unit := do
  let x ← readGate c x
  putStrm c x

/-- The stream stands at a mark whose gate has not let it through (R452). -/
def gateWaits (s : State) (id : Nat) : Bool :=
  match strm s id with
  | some x => (x.src.mark || x.dst.mark) && !x.gateOk
  | none => false

/-- STM_PIECE_ISSUE (R445 to R454): a stream command starts, or goes on: one bulk request or one light piece issues, and the next piece of its
lists is reached; 256 bytes of a fill; a whole encode. -/
def execStmPieceIssue (id : Nat) (s : State) : Host.Outcome State Fault Refusal :=
  .next (match getOp s id with
    | some o =>
      let s := strmIssue (strmStart s id (opCtx id o).core) id
      if strmReady s id then strmServe s id (streamStep o.opcode) else s
    | none => s)

/-- GATE_POLL (R452): a stream at a mark reads its gate again. -/
def execGatePoll (id : Nat) (s : State) : Host.Outcome State Fault Refusal :=
  .next (if strmReady s id && gateWaits s id then strmServe s id gateStep else s)

end Sys2Proof.Machine
end

