-- ==== Sys2Proof/Machine/Rows.lean ====
section
/-!
DEFINITION. The row engine's gathers, moves and popularity reports (R196 to R224), and the homes that answer its fetches and STRICT
checks (R210, R214 to R220).
-/
namespace Sys2Proof.Machine
open Sys2Proof

/-! ### The row directory (R196 to R198) -/

/-- Home module of a partition (R196). -/
def homeModule (s : State) (g : Nat) : Nat := coordId s (roleCoord s 0) (roleCoord s 1) (roleCoord s 2) g

/-- Is a commit of the page pending that changes the table's directory entry (R228)? -/
def tblPending (s : State) (p t : Nat) : Bool :=
  (page s (pg clsROW p)).commitPending &&
  [0x114, 0x118, 0x11C, 0x120, 0x124, 0x128, 0x12C].any (fun o => getSh s (pg clsROW p) o t != getAct s (pg clsROW p) o t)

/-- Key of a block of a table. -/
def blockKey (t b : Nat) : Nat := t * 2 ^ 34 + b

/-- Cache a block-map entry that was read (R198). Which entry leaves a full cache is free. -/
def cacheEntry (s : State) (p k e : Nat) : State :=
  let l := s.bcache.get [] p
  let s := bump s (pg clsROW p) 0x68
  let (s, v) := takeFree s
  let l := if l.length < 4096 then l else l.eraseIdx (v % 4096)
  { s with bcache := s.bcache.put [] p ((k, e) :: l) }

/-- The block-map entry of a block, once its atom has been read: `fenced` where that is uncorrectable. -/
def readBlock (p t b a : Nat) (x : State × Bool) : State × Service × Nat :=
  if x.2 then (x.1, .fenced, 0)
  else
    let e := blockEntry x.1 (table x.1 p t) p b
    (cacheEntry (countMem x.1 p a 8 false 2) p (blockKey t b) e, .inService, e)

/-- The block-map entry of a block, which stands at `a`, is read. -/
def fetchBlock (s : State) (p t b a : Nat) : State × Service × Nat :=
  match memService s a with
  | .inService => readBlock p t b a (meets s a 8 false)
  | v => (s, v, 0)

/-- The block-map entry of a block in Pavilion p's copy: cached, or read and cached (R198). A read that memory does not serve ends as
its service says, `fenced` where it meets an uncorrectable atom (R213, R394). -/
def lookupBlock (s : State) (p t b : Nat) : State × Service × Nat :=
  match (s.bcache.get [] p).find? (fun e => e.1 == blockKey t b) with
  | some e => (s, .inService, e.2)
  | none => fetchBlock s p t b ((table s p t).entryAddr p b)

/-- Drop the cached entries of some blocks in every Pavilion (R223). -/
def dropBlocks (s : State) (f : Nat → Bool) : State := { s with bcache := s.bcache.mapAll [] (fun _ l => l.filter (fun e => !f e.1)) }

/-- A row as a home finds it. -/
structure RowAt where
  block : Nat
  cls : Nat
  addr : Nat
  elems : Nat
  access : Bool
deriving DecidableEq, Repr

/-- How the lookup of a row at its home ends. -/
inductive Found where
  | row (r : RowAt)
  /-- Its block is not VALID, or inconsistent (R206). -/
  | missing
  /-- The resolving Pavilion's copy of the table does not hold the id: where copies differ, the row is free (R199). -/
  | unlisted
  /-- Its block-map entry lies in memory that is under reset: the address. -/
  | resetting (a : Nat)
  /-- Its block-map entry cannot be read. -/
  | bad
deriving DecidableEq, Repr

/-- The row, where it was found. -/
def Found.row? : Found → Option RowAt
  | .row r => some r
  | .missing | .unlisted | .resetting _ | .bad => none

/-- Resolve a row of this module through Pavilion p's copies of the table and of the block map (R197 to R199, R206). -/
def resolveRow (s : State) (p t id : Nat) : State × Found :=
  let tb := table s p t
  match tb.valid, tb.index id with
  | true, some (_, x) =>
    let b := x / 2 ^ tb.shift
    match lookupBlock s p t b with
    | (s, .resetting, _) => (s, .resetting (tb.entryAddr p b))
    | (s, .fenced, _) => (s, .bad)
    | (s, .inService, e) =>
      if !bitOf e 40 || blockInconsistent s tb e then (s, .missing)
      else (s, .row { block := b, cls := entryClass e, addr := entryBase e + x % 2 ^ tb.shift * classStride (entryClass e) tb.elems,
                      elems := tb.elems, access := bitOf e 41 })
  | _, _ => (s, .unlisted)

/-- Home unit of an address (R353): Pavilion, or 16 + Orangery. -/
def unitOf (a : Nat) : Nat := if isNear a then a / 2 ^ 36 else 16 + farOrang a
/-- A home unit. -/
def homeUnit (s : State) (u : Nat) : Home := s.homes.get {} u
/-- Change a home unit. -/
def updHome (s : State) (u : Nat) (f : Home → Home) : State := { s with homes := s.homes.upd {} u f }
/-- Count at a home unit (R688): at the ROW page of its Pavilion, or the FAR page of its Orangery. -/
def bumpUnit (s : State) (u near far : Nat) (n : Nat := 1) : State :=
  if u < 16 then bump s (pg clsROW u) near n else bump s (pg clsFAR (u - 16)) far n

/-- Service of a span: what its 64-byte units join to (R589, R591). -/
def spanService (s : State) (a len : Nat) : Service :=
  (unitsOf a len).foldl (fun x u => match x, memService s u with
    | .fenced, _ => .fenced | _, .fenced => .fenced | .resetting, _ => .resetting | _, y => y) .inService

/-! ### Decoding (R201 to R203) -/

/-- Format code of a width class. -/
def classCode (cls : Nat) : Nat := match cls with | 0 => 0x01 | 1 => 0x02 | 2 => 0x0F | _ => 0x0A

/-- The canonical FP32 NaN. -/
def nan32 : Nat := 0x7FC00000

/-- Elements scaled in FP32 with the overflows among them. -/
def scaleRow (scale : Val) (es : List Val) : List Nat × Nat :=
  let l := es.map (fun e => (e, to32 (e.mul scale)))
  (l.map (·.2), (l.filter (fun p => p.1.isFin && (of32 p.2).isInf)).length)

/-- A stored row's elements as FP32 bits, and what DECODE_OVF counts of it (R202). -/
def decodeRow (cls e raw : Nat) : List Nat × Nat :=
  match cls with
  | 0 => ((List.range e).map (fun i => bitsOf raw (32 * i) 32), 0)
  | 1 => ((List.range e).map (fun i => bitsOf raw (16 * i) 16 * 65536), 0)
  | 2 =>
    let sc := of32 (bitsOf raw 0 32)
    if !sc.isFin || sc.isZero || sc.sign then (List.replicate e nan32, 1)
    else scaleRow sc ((List.range e).map (fun i => elemVal 0x04 (bitsOf raw (32 + 8 * i) 8)))
  | _ =>
    let parts := (List.range (e / 32)).map (fun k =>
      let x := bitsOf raw (8 * k) 8
      if x = 0xFF then (List.replicate 32 nan32, 1)
      else scaleRow (.fin false 1 ((x : Int) - 127))
        ((List.range 32).map (fun i => elemVal 0x0A (bitsOf raw (8 * (e / 32) + 4 * (32 * k + i)) 4))))
    ((parts.map (·.1)).flatten, parts.foldl (fun n q => n + q.2) 0)

/-- The bytes of an output row (R203). -/
def outBytes (fmt : Nat) (vals : List Nat) : List Byte :=
  if fmt = 1 then (vals.map (fun v => bytesOf (to32 (of32 v)) 4)).flatten
  else (vals.map (fun v => bytesOf (castTo 0x02 false none (of32 v)).1 2)).flatten

/-! ### At the home (R210, R214 to R216, R219, R220) -/

/-- What a home answers. -/
inductive HomeAns where
  | held
  | fenced
  | bad
  /-- First word of the answer, the row's bytes as a number, their count. -/
  | row (w0 raw len : Nat)
deriving DecidableEq, Repr

/-- Count a far row read by a gather at its Orangery (R219). -/
def countPop (s : State) (o k : Nat) : State :=
  let l := s.pops.get [] o
  let cap (n : Nat) : Nat := if n < 2 ^ 32 then n else 2 ^ 32 - 1
  let l :=
    if l.any (fun e => e.1 == k) then l.map (fun e => if e.1 = k then (k, cap (e.2 + 1)) else e)
    else if l.length < 65536 then l ++ [(k, 1)]
    else
      let least := l.foldl (fun (m : Nat × Nat) e => if e.2 < m.2 ∨ (e.2 = m.2 ∧ e.1 < m.1) then e else m) (l.headD (0, 0))
      l.filter (fun e => e.1 != least.1) ++ [(k, cap (least.2 + 1))]
  { s with pops := s.pops.put [] o l }

/-- Set ACCESS in Pavilion p's copy and its cache (R220). A write that memory does not serve ends as its service says, `fenced` where it
covers a poisoned atom in part (R394). -/
def setAccess (s : State) (p t : Nat) (r : RowAt) : State × Service :=
  if r.access then (s, .inService)
  else
    let a := (table s p t).entryAddr p r.block
    if memService s a ≠ .inService then (s, memService s a)
    else
      let (s, bad) := meets s a 8 true
      if bad then (s, .fenced)
      else
        let s := wrN (countMem s p a 8 true 2) a 8 (rdN s a 8 ||| 2 ^ 41)
        ({ s with bcache := s.bcache.upd [] p (fun l => l.map (fun e => if e.1 = blockKey t r.block then (e.1, e.2 ||| 2 ^ 41) else e)) }, .inService)

/-- Read a resolved row, which crosses the Promenade to die `die`. -/
def readRow (s : State) (die p t : Nat) (r : RowAt) (cls w0 : Nat) : State × HomeAns :=
  let n := classBytes r.cls r.elems
  if asleep s r.addr then (s, .held)
  else match spanService s r.addr n with
  | .resetting => (noteFenced s die r.addr, .fenced)
  | .fenced => (s, .bad)
  | .inService =>
    let (s, bad) := meets s r.addr n false
    if bad then (s, .bad)
    else
      match setAccess (countMem s die r.addr n false cls) p t r with
      | (s, .inService) => (s, .row (w0 + r.cls + (homeUnit s (unitOf r.addr)).applied.toNat * 2 ^ 32) (rdN s r.addr n) n)
      | (s, .resetting) => (noteFenced s die ((table s p t).entryAddr p r.block), .fenced)
      | (s, .fenced) => (s, .bad)

/-- Free 64-bit words as one number. -/
def freeRaw (s : State) : Nat → State × Nat
  | 0 => (s, 0)
  | n + 1 =>
    let (s, v) := takeFree s
    let (s, r) := freeRaw s n
    (s, v + r * 2 ^ 64)

/-- The row that an id reads as where the resolving Pavilion's table does not hold it (R199): 4,096 free FP32 elements. -/
def freeRow (s : State) (w0 : Nat) : State × HomeAns :=
  let (s, raw) := freeRaw s 2048
  (s, .row w0 raw 16384)

/-- Serve a fetch through Pavilion p: `bound` with the step s − 1 that it carries (R214). Bit 8 of the answer's first word is AHEAD,
bit 9 missing. -/
def fetchHome (s : State) (die p t id cls : Nat) (bound : Bool) (s1 : BitVec 32) : State × HomeAns :=
  if pavAsleep s p then (s, .held)
  else if domResetting s (dPav p) then (carryFenced s die p, .fenced)
  else if domFenced s (dPav p) then (s, .bad) else
  let (s, r) := resolveRow s p t id
  let ah := (homeUnit s ((r.row?.map (fun r => unitOf r.addr)).getD p)).applied
  if bound && !serialGe ah (s1 - 1) then (s, .held)
  else match r with
    | .missing => (s, .row (512 + ah.toNat * 2 ^ 32) 0 0)
    | .unlisted => freeRow s (ah.toNat * 2 ^ 32)
    | .resetting a => (noteFenced s die a, .fenced)
    | .bad => (s, .bad)
    | .row r =>
      match readRow s die p t r cls (if bound && ah == s1 - 1 then 256 else 0) with
      | (s, .row w raw n) => (if isNear r.addr then s else countPop s (farOrang r.addr) (blockKey t r.block), .row w raw n)
      | x => x

/-- Answer a STRICT check through Pavilion p from the committed update set of step s − 1 (R215, R216). Bit 11 is CHANGED. -/
def checkHome (s : State) (die p t id cls : Nat) (s1 : BitVec 32) : State × HomeAns :=
  if pavAsleep s p then (s, .held)
  else if domResetting s (dPav p) then (carryFenced s die p, .fenced)
  else if domFenced s (dPav p) then (s, .bad) else
  let (s, r) := resolveRow s p t id
  let u := (r.row?.map (fun r => unitOf r.addr)).getD p
  let h := homeUnit s u
  if !serialGe h.applied s1 then (s, .held)
  else
    let late := h.setStep != s1 || h.work.isSome
    let inSet := h.set.contains (t, id) || (match r.row? with | some r => s.moved.contains (s1, t, r.block) | none => false)
    if !late && !inSet then (s, .row (h.applied.toNat * 2 ^ 32) 0 0)
    else
      let s := if late then bumpUnit s u 0x7C 0xA8 else s
      match r with
      | .missing => (s, .row (2048 + 512 + h.applied.toNat * 2 ^ 32) 0 0)
      | .unlisted => freeRow s (2048 + h.applied.toNat * 2 ^ 32)
      | .resetting a => (noteFenced s die a, .fenced)
      | .bad => (s, .bad)
      | .row r => readRow s die p t r cls 2048

/-- Send a row, or the one word of another answer, in pieces of at most 31 words; bit 12 of the first word marks the last piece. -/
def replyRow (s : State) (m : Msg) (ep : BitVec 8) (w0 : Nat) : Nat → List DWord → State
  | 0, _ => s
  | n + 1, l =>
    let last := l.length ≤ 31
    let s := reply s m 0x40 0 ep (BitVec.ofNat 64 (w0 + (if last then 4096 else 0)) :: l.take 31)
    if last then s else replyRow s m ep w0 n (l.drop 31)

/-- Serve a request at its home: `own`, by its tag, or a message. `none` where it is held. -/
def serveRow (s : State) (x : Option Nat × Msg) : Option State :=
  match x with
  | (some tag, _) =>
    match getReq s tag with
    | none => some s
    | some r =>
      let key := r.words.getD 0 0
      let s1 := BitVec.ofNat 32 (r.words.getD 2 0)
      let p := match r.op.bind (getOp s) with | some o => (match o.eu with | .row p => p | _ => 0) | none => 0
      let (s, a) := if r.kind = .rowFetch then fetchHome s p p r.aop (key % 2 ^ 40) r.cls (r.words.getD 1 0 == 1) s1
        else checkHome s p p r.aop (key % 2 ^ 40) r.cls s1
      match a with
      | .held => none
      | .fenced => some (updReq s tag (fun r => { r with st := .answered .fenced 0 }))
      | .bad => some (updReq s tag (fun r => { r with st := .answered .uncorrectable 0 }))
      | .row w raw _ => some (updReq s tag (fun r => { r with st := .answered .ok (BitVec.ofNat 64 w), words := r.words.take 3 ++ [w, raw] }))
  | (none, m) =>
    let t := bitsOf (m.pl 0) 40 8
    let id := m.pl 0 % 2 ^ 40
    let s1 := BitVec.ofNat 32 (m.pl 1)
    let p := resolver s t id
    let (s, a) := if m.mtype = 5 then fetchHome s (16 + m.axis) p t id m.cls (bitOf (m.pl 0) 48) s1 else checkHome s (16 + m.axis) p t id m.cls s1
    let ep := (dom s (dPav p)).epoch
    match a with
    | .held => none
    | .fenced => some (reply s m 0x40 1 ep [])
    | .bad => some (reply s m 0x40 2 ep [])
    | .row w raw n => some (replyRow s m ep w (n / 248 + 2) (wordsOf (bytesOf raw n) (n / 8 + 1)))

/-- Serve what the homes hold, as far as their steps now allow (R214, R215). -/
def releaseRows (s : State) : State :=
  s.heldRows.foldl (fun s x => match serveRow s x with
    | some s' => s'
    | none => { s with heldRows := s.heldRows ++ [x] }) { s with heldRows := [] }

/-- A row request at its home is served, or held until its service allows. -/
def takeRow (s : State) (x : Option Nat × Msg) : State :=
  match serveRow s x with
  | some s => s
  | none => { s with heldRows := s.heldRows ++ [x] }

/-- A row request reaches its home (R210). -/
def homeRow (s : State) (r : HomeReq) (kind : ReqKind) (mtype : Nat) : State :=
  match r with
  | .own tag =>
    match getReq s tag with
    | some q =>
      if q.kind = kind ∧ q.st = .sent ∧ isOwn s q.addr ∧ !s.heldRows.any (fun x => x.1 == some tag) then takeRow s (some tag, []) else s
    | none => s
  | .arrived i =>
    match arrival s i with
    | some m =>
      if forMe s m mtype then
        onArrival s i m <|
        let p := resolver s (bitsOf (m.pl 0) 40 8) (m.pl 0 % 2 ^ 40)
        let s := landMsg (takeArrival s i) m p
        let s := if mtype = 5 then bump s (pg clsROW p) 0x6C else s
        takeRow s (none, m)
      else s
    | none => s

/-- ROW_FETCH (R210, R214). -/
def execRowFetch (r : HomeReq) (s : State) : Host.Outcome State Fault Refusal := .next (homeRow s r .rowFetch 5)
/-- ROW_CHECK (R215, R216). -/
def execRowCheck (r : HomeReq) (s : State) : Host.Outcome State Fault Refusal := .next (homeRow s r .rowCheck 6)

/-! ### Gathers (R204 to R218) -/

def rowTableInvalid : Nat := 0x0130
def rowIdRange : Nat := 0x0131
def rowStepOrder : Nat := 0x0132
def rowMoveInvalid : Nat := 0x0133
def rowBagInvalid : Nat := 0x0134
def rowMoveAborted : Nat := 0x0135

/-- A gather's work. -/
def gwork (s : State) (id : Nat) : GWork := (s.gworks.get none id).getD {}
/-- Change a gather's work. -/
def updG (s : State) (id : Nat) (f : GWork → GWork) : State := { s with gworks := s.gworks.put none id (some (f (gwork s id))) }

/-- Does the command pool? -/
def Ctx.pooled (c : Ctx) : Bool := bitsOf c.w 0 8 == 0x71
/-- The step a gather is bound to, of a table that is not FROZEN (R214). -/
def gatherStep (s : State) (c : Ctx) : Option (BitVec 32) :=
  if c.f 11 0 32 = 0 ∨ (table s c.pav (c.f 4 0 8)).frozen then none else some (BitVec.ofNat 32 (c.f 11 0 32))

/-- Operand words of ROW_GATHER and ROW_GATHER_POOL (R204). -/
def gatherSpec (pool : Bool) : CmdSpec :=
  { fields := [(4, 0, 10), (4, 12, 8), (4, 20, 3), (5, 0, 25), (6, 0, 56), (8, 0, 56), (10, 0, 24), (11, 0, 32), (12, 0, 56), (14, 0, 56)],
    bad := fun w =>
      [(at_ 4 8, if pool then cf w 4 8 2 != 0 else cf w 4 8 2 == 3), (at_ 4 12, cf w 4 12 8 != 1 && cf w 4 12 8 != 2),
       (at_ 4 20, if pool then decide (cf w 4 20 2 ≥ 2) else cf w 4 20 2 != 0), (at_ 4 22, !pool && cf w 4 22 1 != 0),
       (at_ 5 0, cf w 5 0 25 == 0 || decide (cf w 5 0 25 > 2 ^ 24)), (at_ 10 0, cf w 10 0 24 % 4 != 0),
       (at_ 12 0, !pool && cf w 4 8 2 != 2 && cf w 12 0 56 != 0), (at_ 14 0, !(pool && cf w 4 22 1 == 1) && cf w 14 0 56 != 0)] }

/-- Is a range of own scratchpads or near tier (R204, R344)? -/
def ownSpNear (s : State) (g : Nat) : Bool := isOwn s g && (isNear (gLoc g) || addrKind (gLoc g) == 0)

/-- Bytes of an output element. -/
def outSize (c : Ctx) : Nat := if c.f 4 12 8 = 1 then 4 else 2

/-- The checks of a gather's addresses (R204, R685). -/
def gatherAddrs (c : Ctx) : Cm Unit := do
  let s ← get
  let list := c.f 6 0 56
  faultIf (list % (if c.f 4 8 2 = 2 then 4 else 8) ≠ 0) { code := fMisaligned, addr := list }
  faultIf (c.f 8 0 56 % 4 ≠ 0) { code := fMisaligned, addr := c.f 8 0 56 }
  faultIf (c.f 12 0 56 % (if c.pooled then 4 else 8) ≠ 0) { code := fMisaligned, addr := c.f 12 0 56 }
  faultIf (c.f 14 0 56 % 4 ≠ 0) { code := fMisaligned, addr := c.f 14 0 56 }
  faultIf (!ownSpNear s (c.f 8 0 56)) { code := fNotPermitted, addr := c.f 8 0 56 }

/-- At its issue a gather is bound to a step that is still to come (R214). -/
def gatherOrder (c : Ctx) : Cm Unit := do
  let s ← get
  match gatherStep s c with
  | some st => failIf (serialGe s.applied st) rowStepOrder
  | none => pure ()

/-- The checks against the table (R204, R205); at its issue, the step's too. -/
def gatherTable (c : Ctx) (first : Bool) : Cm Unit := do
  let s ← get
  let tb := table s c.pav (c.f 4 0 8)
  failIf (!tb.valid) rowTableInvalid
  if first then gatherOrder c
  faultIf (c.f 10 0 24 < tb.elems * outSize c) { code := fReservedField, pos := at_ 10 0 }
  each (fun i => access c (c.f 8 0 56 + i * c.f 10 0 24) (tb.elems * outSize c) 1) (List.range (c.f 5 0 25))

/-- Must a gather wait for its step (R214)? -/
def gatherWaits (s : State) (c : Ctx) : Bool := match gatherStep s c with | some st => !serialGe s.applied (st - 2) | none => false

/-- The id that list position i names (R205). `form` is LIST; a bad plain id faults. -/
def listId (c : Ctx) (form list aux i : Nat) : Cm Nat := do
  match form with
  | 0 => do
    let v ← readNat c (list + 8 * i) 8
    failIf (v ≥ 2 ^ 40) rowIdRange
    pure v
  | 1 => do
    let v ← readNat c (list + 8 * i) 8
    pure (v % 2 ^ 40)
  | _ => do
    let n ← readNat c (list + 4 * i) 4
    let v ← readNat c (aux + 8 * n) 8
    pure (v % 2 ^ 40)

/-- COUNT + 1 bag offsets, which must not decrease (R208). -/
def bagOffsets (c : Ctx) : Cm (List Nat) := do
  let l ← collect (fun b => readNat c (c.f 12 0 56 + 4 * b) 4) (List.range (c.f 5 0 25 + 1))
  failIf ((l.zip (l.drop 1)).any (fun p => p.2 < p.1)) rowBagInvalid
  pure l

/-- Key of the row that a position names, in its window. -/
def GWork.key (w : GWork) (i : Nat) : Nat := i / 2 ^ w.dlog * 2 ^ 40 + w.ids.getD (i - w.first) 0
/-- The list positions. -/
def GWork.positions (w : GWork) : List Nat := (List.range w.ids.length).map (w.first + ·)
/-- A row of a gather. -/
def GWork.row (w : GWork) (k : Nat) : GRow := (w.rows.get none k).getD {}
/-- Change a row. -/
def updRow (s : State) (id k : Nat) (f : GRow → GRow) : State := updG s id (fun w => { w with rows := w.rows.put none k (some (f (w.row k))) })

/-- Write output row i. -/
def putOut (c : Ctx) (i : Nat) (vals : List Nat) : Cm Unit := do
  writeT c (c.f 8 0 56 + i * c.f 10 0 24) (outBytes (c.f 4 12 8) vals)
  count (pg clsROW c.pav) 0x40

/-- A row's elements, zeros where it is missing (R206). -/
def rowVals (s : State) (c : Ctx) (r : GRow) : List Nat := r.vals.getD (List.replicate (table s c.pav (c.f 4 0 8)).elems 0)

/-- Land a row at every position that names it in its window (R207). -/
def landAt (c : Ctx) (k : Nat) : Cm Unit := do
  let s ← get
  let w := gwork s c.op
  if c.pooled then pure ()
  else each (fun i => putOut c i (rowVals s c (w.row k))) (w.positions.filter (fun i => w.key i == k))

/-- A row turns out to be missing: a fault, or zeros (R206). -/
def missRow (c : Ctx) (k : Nat) : Cm Unit := do
  let s ← get
  failIf (!bitOf (actN s (pg clsROW c.pav) 0x108) 0) rowIdRange
  count (pg clsROW c.pav) 0x80
  modify (fun s => updRow s c.op k (fun r => { r with st := 2, vals := none }))
  landAt c k

/-- Rows of the gathers of Pavilion p's row engine that satisfy f. -/
def rowsWith (s : State) (p : Nat) (f : GWork → GRow → Bool) : Nat :=
  (s.gworks.map (fun e => match e.2 with
    | some w => if w.pav = p then (w.rows.filter (fun x => f w (x.2.getD {}))).length else 0
    | none => 0)).sum
/-- Run-ahead records held: AHEAD rows of STRICT gathers, until their checks are answered (R215, R229). -/
def raHeld (s : State) (p : Nat) : Nat := rowsWith s p (fun _ r => r.st == 3 || r.st == 4)
/-- Is the run-ahead area full, with the records that fetches in flight may still need (R218)? -/
def raFull (s : State) (p : Nat) : Bool := decide (1048576 ≤ rowsWith s p (fun _ r => r.st == 3 || r.st == 4 || (r.early && r.st == 1)))

/-- Local address that a row of this module lies at, as the issuing Pavilion's copies have it now: 0 where it is not found. -/
def rowAddr (s : State) (p t id : Nat) : Nat := ((resolveRow s p t id).2.row?.map (·.addr)).getD 0

/-- A row request to its home: a fetch, or a check. A row of this module has its address, by which it passes through an Orangery. -/
def rowReq (s : State) (c : Ctx) (k m : Nat) (check : Bool) (s1 : Option (BitVec 32)) : Req :=
  let own := standIn s m = ownId s
  { kind := if check then .rowCheck else .rowFetch, home := if own then dPav c.pav else dRemote m, slot := some c.key, op := some c.op,
    eu := some (.row c.pav), addr := m * 2 ^ 44 + (if own then rowAddr s c.pav (c.f 4 0 8) (k % 2 ^ 40) else 0), cls := c.f 0 8 2, aop := c.f 4 0 8,
    words := [k, b2n s1.isSome, (s1.getD 0).toNat] }

/-- May one more fetch leave: is an entry of the gather request table, which the samplers share, one within TAG_LIMIT, and one of the
reorder table of the Orangery that it passes through, free (R211, R229, R387)? A check holds no entry of the gather request table. -/
def mayFetchRow (s : State) (p : Nat) (r : Req) : Bool :=
  decide (gatherTags s p < 16384) && decide (rowFetches s p < bitsOf (actN s (pg clsROW p) 0x400) 0 15) && mayLeave s r

/-- Send a row request to its home: a fetch or a check. A check waits for an entry of a reorder table (R387). -/
def sendRow (c : Ctx) (k m : Nat) (check : Bool) (s1 : Option (BitVec 32)) : Cm Unit := do
  let s ← get
  let q := rowReq s c k m check s1
  let wait := check && !mayLeave s q
  let (s, tag) := addReq s (if wait then { q with st := .held } else q)
  if wait ∨ standIn s m = ownId s then set s
  else
    let p := [BitVec.ofNat 64 (k % 2 ^ 40 + c.f 4 0 8 * 2 ^ 40 + b2n s1.isSome * 2 ^ 48), BitVec.ofNat 64 (s1.getD 0).toNat]
    let i : MsgInfo := { dst := m, cls := c.f 0 8 2, prio := effPrio s c.key, mtype := if check then 6 else 5, die := c.pav, stream := 1536 + b2n check,
                         tag := tag % 65536 }
    match sendMsg (if check then s else bump s (pg clsROW c.pav) 0x58) (mkMsg s i p) with
    | (s, true) => set s
    | (s, false) => do
      set s
      throw { code := fUnreachable, detail := resource 20 14 m }

/-- Fetch one row, as far as the request table and the run-ahead area allow (R211, R218): may fetching go on? -/
def fetchRow (c : Ctx) (k : Nat) : Cm Bool := do
  let s ← get
  let w := gwork s c.op
  let tb := table s c.pav (c.f 4 0 8)
  let st := gatherStep s c
  let early := w.strict && (match st with | some x => !serialGe s.applied (x - 1) | none => false)
  match tb.index (k % 2 ^ 40) with
  | none => do
    missRow c k
    pure true
  | some (g, _) =>
    let q := rowReq s c k (homeModule s g) false (st.map (· - 1))
    let want := if mayLeave s q then none else reqOrang s q
    modify (fun s => updG s c.op (fun w => { w with want }))
    if !mayFetchRow s c.pav q then pure false
    else if early && (w.stalled || raFull s c.pav) then
      if w.stalled then pure false
      else do
        modify (fun s => updG s c.op (fun w => { w with stalled := true }))
        count (pg clsROW c.pav) 0x8C
        pure false
    else do
      modify (fun s => updRow s c.op k (fun x => { x with st := 1, early }))
      sendRow c k (homeModule s g) false (st.map (· - 1))
      pure true

/-- Fetch the rows that are still to be fetched. -/
def fetchRows (c : Ctx) : List Nat → Cm Unit
  | [] => pure ()
  | k :: r => do
    let on ← fetchRow c k
    if on then fetchRows c r else pure ()

/-- Send the checks of the AHEAD rows once A_m has reached s − 1 (R215). -/
def sendChecks (c : Ctx) : Cm Unit := do
  let s ← get
  match gatherStep s c with
  | some st =>
    if serialGe s.applied (st - 1) then
      each (fun (e : Nat × Option GRow) => do
        if (e.2.getD {}).st = 3 then
          modify (fun s => updRow s c.op e.1 (fun x => { x with st := 4 }))
          match (table s c.pav (c.f 4 0 8)).index (e.1 % 2 ^ 40) with
          | some (g, _) => sendRow c e.1 (homeModule s g) true (some (st - 1))
          | none => pure ()
        else pure ()) (gwork s c.op).rows
    else pure ()
  | none => pure ()

/-- The value of bag b (R208). -/
def bagValue (s : State) (c : Ctx) (w : GWork) (b : Nat) : List Nat :=
  let lo := w.offs.getD b 0
  let n := w.offs.getD (b + 1) 0 - lo
  let e := (table s c.pav (c.f 4 0 8)).elems
  let acc := (List.range n).foldl (fun acc j =>
    let v := rowVals s c (w.row (w.key (lo + j)))
    let v := if c.b 4 22 then v.map (mul32 (w.wgts.getD (lo + j - w.first) 0)) else v
    (acc.zip v).map (fun p => add32 p.1 p.2)) (List.replicate e 0)
  if c.f 4 20 2 = 1 ∧ n > 0 then acc.map (fun a => divBy a n) else acc

/-- Form the bags that are due (R208). -/
def formBags (c : Ctx) : Cm Unit := do
  let s ← get
  let w := gwork s c.op
  each (fun b => do
    countIf (w.offs.getD b 0 = w.offs.getD (b + 1) 0) (pg clsROW c.pav) 0x88
    putOut c b (bagValue s c w b)) w.bags
  modify (fun s => updG s c.op (fun w => { w with bags := [] }))

/-- Bags with a row that a check has changed (R215). -/
def changedBags (w : GWork) : List Nat :=
  (List.range (w.offs.length - 1)).filter (fun b =>
    (List.range (w.offs.getD (b + 1) 0 - w.offs.getD b 0)).any (fun j => (w.row (w.key (w.offs.getD b 0 + j))).changed))

/-- Form the changed bags again from scratch: every member is fetched again (R215). -/
def redoBags (c : Ctx) : Cm Unit := do
  let s ← get
  let w := gwork s c.op
  let bags := changedBags w
  let keys := bags.flatMap (fun b => (List.range (w.offs.getD (b + 1) 0 - w.offs.getD b 0)).map (fun j => w.key (w.offs.getD b 0 + j)))
  modify (fun s => updG s c.op (fun w => { w with bags, rows := w.rows.map (fun e => if keys.contains e.1 then (e.1, some {}) else e) }))

/-- Are all rows of the gather landed; or landed and waiting for nothing more? -/
def GWork.all (w : GWork) (p : GRow → Bool) : Bool := w.rows.all (fun e => p (e.2.getD {}))

/-- Take a gather as far as it goes: fetches, checks, bags. Answers whether it is finished. -/
def gatherGo (c : Ctx) : Nat → Cm Bool
  | 0 => pure false
  | n + 1 => do
    let s ← get
    fetchRows c (((gwork s c.op).rows.filter (fun e => (e.2.getD {}).st == 0)).map (·.1))
    sendChecks c
    let s ← get
    let w := gwork s c.op
    if c.pooled ∧ w.bags ≠ [] ∧ w.all (fun r => decide (r.st ≥ 2)) then formBags c
    let s ← get
    let w := gwork s c.op
    if !w.all (fun r => r.st == 2) then pure false
    else if changedBags w = [] then pure true
    else do
      redoBags c
      gatherGo c n

/-- Start a gather: its list is read, its distinct rows are fetched (R205 to R209). -/
def gatherStart (c : Ctx) : Cm Bool := do
  let offs ← if c.pooled then bagOffsets c else pure [0, c.f 5 0 25]
  let first := offs.headD 0
  let n := offs.getLastD 0 - first
  let ids ← collect (fun i => listId c (c.f 4 8 2) (c.f 6 0 56) (c.f 12 0 56) (first + i)) (List.range n)
  let wgts ← if c.b 4 22 then collect (fun i => readNat c (c.f 14 0 56 + 4 * (first + i)) 4) (List.range n) else pure []
  let s ← get
  let w := gwork s c.op
  let w := { w with pav := c.pav, dlog := bitsOf (actN s (pg clsROW c.pav) 0x108) 1 5, first, ids, offs, wgts, bags := if c.pooled then List.range (offs.length - 1) else [] }
  let rows : Tab (Option GRow) := w.positions.foldl (fun t i => Tab.put none t (w.key i) (some {})) []
  modify (fun s => updG s c.op (fun _ => { w with rows }))
  count (pg clsROW c.pav) 0x50 (n - rows.length)
  gatherGo c 3

/-- The end of a step of work that a gather goes through after its issue. -/
def gatherEnd (c : Ctx) (done : Bool) : Cm Unit :=
  if done then modify (fun s => updOp s c.op (fun o => { o with waits := o.waits - 1 })) else pure ()

/-- Rows landed while the command goes on; the answer's words are R214's and R215's. -/
def landRow (c : Ctx) (k : Nat) (check : Bool) (w0 raw : Nat) : Cm Unit := do
  let s ← get
  let tb := table s c.pav (c.f 4 0 8)
  let w := gwork s c.op
  if check ∧ !bitOf w0 11 then modify (fun s => updRow s c.op k (fun r => { r with st := 2 }))
  else do
    countIf (check) (pg clsROW c.pav) 0x74
    match gatherStep s c with
    | some st => if !check && serialGe (BitVec.ofNat 32 (w0 / 2 ^ 32)) st then count (pg clsROW c.pav) 0x94
    | none => pure ()
    if bitOf w0 9 then missRow c k
    else do
      let (vals, ovf) := decodeRow (w0 % 4) tb.elems raw
      count (pg clsROW c.pav) 0x84 ovf
      countIf (!check) (pg clsROW c.pav) 0x48
      countIf (bitOf w0 8) (pg clsROW c.pav) 0x70
      countIf (bitOf w0 8 && !w.strict) (pg clsROW c.pav) 0x78
      modify (fun s => updRow s c.op k (fun r => { r with st := if bitOf w0 8 && w.strict then 3 else 2, vals := some vals, changed := check && c.pooled }))
      landAt c k
  let done ← gatherGo c 3
  gatherEnd c done

/-- A row request is answered: it lands, is retried, or faults its task (R213, R215). -/
def rowAnswer (s : State) (tag : Nat) (r : Req) (st : Status) (w0 raw : Nat) : State :=
  match st, r.op with
  | .ok, some id =>
    -- a row that its command cannot take yet stays here, and lands at a later REPLY_DATA
    let s := updReq s tag (fun r => { r with st := .answered .ok 0, words := r.words.take 3 ++ [w0, raw] })
    serveOp s id (fun c _ => do
      modify (fun s => dropReq s tag)
      landRow c (r.words.getD 0 0) (r.kind == .rowCheck) w0 raw)
  | _, _ => answerReq s tag r st 0

/-- A piece of a remote answer: its words are gathered until the last has come. -/
def rowPiece (s : State) (tag : Nat) (r : Req) (m : Msg) : State :=
  let n := r.words.getD 5 0
  let raw := r.words.getD 4 0 + leNat (m.bytesFrom 1) * 2 ^ (64 * n)
  let w0 := m.pl 0
  if m.status ≠ 0 then rowAnswer s tag r (if m.status = 1 then .fenced else if m.status = 2 then .uncorrectable else .unreachable) 0 0
  else if bitOf w0 12 then rowAnswer s tag r .ok w0 raw
  else updReq s tag (fun r => { r with words := r.words.take 3 ++ [w0, raw, n + (m.length - 3)] })

/-! ### ROW_POP_READ (R221) -/

/-- Operand words of ROW_POP_READ (R221). -/
def popSpec : CmdSpec :=
  { fields := [(4, 0, 11), (5, 0, 32), (6, 0, 56), (8, 0, 19)],
    bad := fun w =>
      let src := cf w 4 0 1
      [(at_ 4 2, src == 1 && cf w 4 2 1 != 0), (at_ 4 3, src == 0 && cf w 4 2 1 == 1 && cf w 4 3 8 != 0),
       (at_ 5 0, src == 1 && cf w 5 0 32 != 0), (at_ 8 0, cf w 8 0 19 == 0 || decide (cf w 8 0 19 > 262144))] }

/-- A merge sort step by key: insert in ascending order. -/
def insertKey (e : Nat × Nat) : List (Nat × Nat) → List (Nat × Nat)
  | [] => [e]
  | x :: r => if e.1 < x.1 then e :: x :: r else if e.1 = x.1 then (x.1, x.2 + e.2) :: r else x :: insertKey e r

/-- The matches of SRC 0: counts summed over the Orangeries. -/
def popSums (s : State) (all : Bool) (t least : Nat) : List (Nat × Nat) :=
  let l := ((List.range 4).flatMap (fun o => s.pops.get [] o)).foldl (fun acc e => insertKey e acc) []
  l.filter (fun e => decide (least ≤ e.2) && (all || e.1 / 2 ^ 34 == t))

/-- Read the entry of block b of a table in the command's Pavilion's copy. -/
def mapEntry (c : Ctx) (tb : Table) (b : Nat) : Cm Nat := do
  let l ← readLocal c.die (tb.entryAddr c.pav b) 8 (bitsOf c.w 8 2)
  pure (leNat l)

/-- The cold blocks of SRC 1: VALID, near and not read through the Pavilion's copy. -/
def coldBlocks (c : Ctx) (t : Nat) : Cm (List (Nat × Nat)) := do
  let s ← get
  let tb := table s c.pav t
  if roleCoord s 3 < tb.gCount then do
    let l ← collect (fun b => do
      let e ← mapEntry c tb b
      pure (if bitOf e 40 && isNear (entryBase e) && !bitOf e 41 then [(blockKey t b, 0)] else [])) (List.range tb.blocks)
    pure l.flatten
  else pure []

/-- Clear ACCESS in every entry of a table in the Pavilion's copy that has it, and in its cache. -/
def clearAccess (c : Ctx) (t : Nat) : Cm Unit := do
  let s ← get
  let tb := table s c.pav t
  let off (e : Nat) : Nat := if bitOf e 41 then e - 2 ^ 41 else e
  each (fun b => do
    let e ← mapEntry c tb b
    if bitOf e 41 then writeLocal c.die (tb.entryAddr c.pav b) (bytesOf (off e) 8) (bitsOf c.w 8 2) else pure ()) (List.range tb.blocks)
  modify (fun s => { s with bcache := s.bcache.upd [] c.pav (fun l => l.map (fun e => if e.1 / 2 ^ 34 = t then (e.1, off e.2) else e)) })

/-- Halve every count, and free the entries that reach 0. -/
def decay (s : State) : State :=
  { s with pops := s.pops.mapAll [] (fun _ l => (l.map (fun e => (e.1, e.2 / 2))).filter (fun e => e.2 != 0)) }

/-- ROW_POP_READ, once no commit of its table is pending (R221, R228). -/
def popStart (c : Ctx) : Cm Bool := do
  let s ← get
  let out := c.f 6 0 56
  let t := c.f 4 3 8
  failIf (!c.b 4 2 && !(table s c.pav t).valid) rowTableInvalid
  let l ← (if c.b 4 0 then coldBlocks c t else pure (popSums s (c.b 4 2) t (c.f 5 0 32)))
  let w := l.take (c.f 8 0 19)
  access c out (16 * (w.length + 1)) 1
  writeT c out (bytesOf (w.length + l.length * 2 ^ 32) 16)
  each (fun (e : (Nat × Nat) × Nat) => writeT c (out + 16 * (e.2 + 1)) (bytesOf (e.1.1 % 2 ^ 34 + e.1.1 / 2 ^ 34 * 2 ^ 40 + e.1.2 % 2 ^ 32 * 2 ^ 64) 16)) w.zipIdx
  if c.b 4 1 then (if c.b 4 0 then clearAccess c t else modify decay)
  pure true

/-! ### ROW_MOVE (R222) -/

/-- Operand words of ROW_MOVE (R222). -/
def moveSpec : CmdSpec :=
  { fields := [(4, 0, 10), (5, 0, 34), (7, 0, 17), (8, 0, 44), (10, 0, 32)],
    bad := fun w => [(at_ 7 0, cf w 7 0 17 == 0 || decide (cf w 7 0 17 > 65536)), (at_ 10 0, cf w 10 0 32 == 0)] }

/-- The pending moves: from their issue until they complete, queued ones among them (R222). -/
def pendingMoves (s : State) : List (Nat × Op) := (opList s).filter (fun e => e.2.opcode == 0x74 && (s.moves.get none e.1).isSome)

/-- The checks of ROW_MOVE (R222). -/
def moveTable (c : Ctx) : Cm Unit := do
  let s ← get
  let t := c.f 4 0 8
  let tb := table s c.pav t
  let (first, n) := (c.f 5 0 34, c.f 7 0 17)
  let dest : Range := (c.f 8 0 44, n * 2 ^ tb.shift * classStride (c.f 4 8 2) tb.elems)
  failIf (!tb.valid) rowTableInvalid
  failIf (serialGe s.applied (BitVec.ofNat 32 (c.f 10 0 32))) rowStepOrder
  let near := isNear dest.1 && isNear (dest.1 + dest.2 - 1)
  let far := isFar s dest.1 && isFar s (dest.1 + dest.2 - 1)
  let clash := (pendingMoves s).any (fun e =>
    let w := e.2.cmd.toNat
    cf w 4 0 8 == t && decide (cf w 5 0 34 < first + n ∧ first < cf w 5 0 34 + cf w 7 0 17))
  failIf (decide (roleCoord s 3 ≥ tb.gCount) || decide (first + n > tb.blocks) || !(near || far) ||
    (stagedRanges s ++ dispAreas s ++ mergeAreas s ++ [spareRange s]).any (overlaps dest) || clash) rowMoveInvalid
  access c (gAddr s dest.1) dest.2 1

/-! ### The queue of the row engine (R222, R226, R228) -/

/-- The table a command names, where it names one. -/
def rowTable (w : Nat) : Option Nat :=
  if bitsOf w 0 8 = 0x75 then (if cf w 4 2 1 = 1 then none else some (cf w 4 3 8)) else some (cf w 4 0 8)

/-- The gather, move and popularity commands that Pavilion p's row engine queues or serves, in issue order (R226). -/
def rowOps (s : State) (p : Nat) : List (Nat × Op) :=
  (unitOps s (.row p)).filter (fun e => e.2.opcode == 0x70 || e.2.opcode == 0x71 || e.2.opcode == 0x74 || e.2.opcode == 0x75)

/-- Does a command wait under R214, so that those behind it may pass? -/
def stepWaits (s : State) (c : Ctx) : Bool := bitsOf c.w 0 8 ≤ 0x71 && gatherWaits s c

/-- Must a command wait in its queue: for a commit of its table (R228), for its step (R214), for a place among the pending moves (R222), or
for its turn, four being served at once in issue order (R226)? -/
def rowWaits (s : State) (c : Ctx) : Bool :=
  (match rowTable c.w with | some t => tblPending s c.pav t | none => false) || stepWaits s c ||
  (bitsOf c.w 0 8 == 0x74 && (s.moves.get none c.op).isNone) ||
  decide (4 ≤ ((rowOps s c.pav).filter (fun e => e.2.inService && e.1 != c.op)).length) ||
  (rowOps s c.pav).any (fun e => decide (e.1 < c.op) && !e.2.inService && !stepWaits s (opCtx e.1 e.2))

/-- Tables named by the gather, move and popularity commands in service on a Pavilion's row engine: what a COMMIT waits for (R228). -/
def rowNamed (s : State) (p : Nat) : List Nat := ((rowOps s p).filter (fun e => e.2.inService)).filterMap (fun e => rowTable e.2.cmd.toNat)

end Sys2Proof.Machine
end

