-- ==== Sys2Proof/Machine/Vector.lean ====
section
/-!
DEFINITION. The vector engine (R312 to R327): maps, softmax, norms, casts, reductions and partial sums. A command does its work
at the operations that VEC_OPERATION takes, one row or column each; a partial is added at PARTIAL_ARRIVAL.
-/
namespace Sys2Proof.Machine
open Sys2Proof

def vecShape : Nat := 0x0160
def vecPartialInvalid : Nat := 0x0161

/-- The work of a vector command. -/
def vworkOf (s : State) (id : Nat) : Option VWork := s.vworks.get none id
/-- Record the work of a command. -/
def putVwork (id : Nat) (w : Option VWork) : Cm Unit := modify (fun s => { s with vworks := s.vworks.put none id w })

def vRows (c : Ctx) : Nat := c.f 5 0 25
def vCols (c : Ctx) : Nat := c.f 6 0 25
def vecPage (c : Ctx) : Nat := pg clsVEC c.pav

/-- Element formats that a vector input may have. -/
def vecCodes : List Nat := [1, 2, 3, 4, 5, 6, 7, 8, 9, 0x0A, 0x0B, 0x0C, 0x0D, 0x0E]

/-- Operand words of R314. `used` says which of YDESC, AUX and SCALAR the command's CTL uses. -/
def vecSpec (ctl : List (Nat × Nat)) (bad : Nat → List (Nat × Bool)) (used : Nat → Bool × Bool × Bool) : CmdSpec :=
  { fields := ctl.map (fun f => (4, f.1, f.2)) ++ [(5, 0, 25), (6, 0, 25), (7, 0, 56), (9, 0, 56), (11, 0, 56), (13, 0, 56), (15, 0, 32)],
    bad := fun w =>
      let u := used w
      bad w ++
      [(at_ 5 0, cf w 5 0 25 == 0 || decide (cf w 5 0 25 > 2 ^ 24)), (at_ 6 0, cf w 6 0 25 == 0 || decide (cf w 6 0 25 > 2 ^ 24)),
       (at_ 9 0, !u.1 && cf w 9 0 56 != 0), (at_ 13 0, !u.2.1 && cf w 13 0 56 != 0), (at_ 15 0, !u.2.2 && cf w 15 0 32 != 0)] }

/-- A descriptor and its words, at least as large as a window (R314). -/
def vecDesc (c : Ctx) (g : Nat) (fmts : List Nat) (rows cols : Nat) : Cm (BitVec 256) := do
  let d ← readDesc c g fmts [0]
  faultIf (codeIsMx d.format ∧ cols % 32 ≠ 0) { code := fReservedField, pos := at_ 6 0 }
  faultIf (d.rows < rows ∨ d.cols < cols) { code := vecShape }
  let v ← readNat c g 32
  pure (BitVec.ofNat 256 v)

/-- At most four commands of one task (R313); then the command is queued with its work. -/
def vecAccept (c : Ctx) (w : VWork) : Cm Stand := do
  let s ← get
  holdIf (decide (((unitOps s c.eu).filter (fun e => e.2.slot == some c.key)).length ≥ 4))
  putVwork c.op (some w)
  onDone c (vecPage c) 0x40
  pure (.later 1)

/-- An input value as the engine holds it (R316): full width for casts, sums and reductions, else FP32. A NaN keeps its sign. -/
def held (full : Bool) (fmt : Nat) (v : Val) : Val := if v.isNaN || (full && fmt == 0x0E) then v else of32 (to32 v)

/-- The values of a row of the window. -/
def vecRow (c : Ctx) (d : TDesc) (r : Nat) (full : Bool) : Cm (List Val) := do
  let l ← rowPart c d r 0 (vCols c)
  pure (l.map (held full d.format))

/-- Write the elements of one output row, and count them. -/
def vecOut (c : Ctx) (d : TDesc) (r : Nat) (sat : Bool) (l : List Val) : Cm Unit := do
  putPart c d r sat (fun _ => none) l
  count (vecPage c) 0x48 l.length

/-- FP32 bits of a row. -/
def bits32 (l : List Val) : List Nat := l.map to32

/-- The larger of two FP32 numbers; a NaN operand gives NaN. The sign of the larger of two zeros of different sign is a free function of
the operands. -/
def max32 (a b : Nat) : Nat :=
  if (of32 a).isNaN || (of32 b).isNaN then 0x7FC00000
  else if (of32 a).isZero && (of32 b).isZero && a != b then b2n (Config.maxZero a b) * 2 ^ 31
  else if (of32 a).lt (of32 b) then b else a

/-! ### VEC_MAP (R317) -/

/-- FUNC takes y; takes AUX; takes SCALAR. -/
def mapUses (f : Nat) : Bool × Bool × Bool := (f == 1 || f == 2 || f == 3 || f == 4 || f == 16, f == 14 || f == 15, f == 4 || f == 5)

def mapSpec : CmdSpec :=
  vecSpec [(0, 17)] (fun w => [(at_ 4 0, decide (cf w 4 0 8 > 16)), (at_ 4 8, decide (cf w 4 8 8 < 1 ∨ cf w 4 8 8 > 5))])
    (fun w => mapUses (cf w 4 0 8))

/-- x > 0 ? x : +0.0 -/
def relu32 (x : Nat) : Nat := if Val.zero.lt (of32 x) then x else 0

/-- f(x, y) for one element, in FP32 (R317); a is the row's entry of AUX. -/
def mapFn (f s a x y : Nat) : Nat :=
  let v := of32 x
  match f with
  | 0 => x
  | 1 => add32 x y
  | 2 => sub32 x y
  | 3 => mul32 x y
  | 4 => fma32 x s y
  | 5 => mul32 x s
  | 6 => relu32 x
  | 7 => if (of32 (relu32 x)).lt (Val.ofInt 6) then relu32 x else to32 (Val.ofInt 6)
  | 8 => mul32 (relu32 x) (relu32 x)
  | 9 => near .gelu 2 x 0 v.geluTanh
  | 10 => near .silu 2 x 0 v.silu
  | 11 => near .sigmoid 2 x 0 v.sigmoid
  | 12 => near .tanh 2 x 0 v.tanh
  | 13 => exp32 x
  | 14 => mul32 x a
  | 15 => div32 x a
  | _ => max32 x y

/-- VEC_MAP is checked and queued. -/
def mapRun (c : Ctx) : Cm Stand := do
  let u := mapUses (c.f 4 0 8)
  faultIf (u.2.1 ∧ c.f 13 0 56 % 4 ≠ 0) { code := fMisaligned, addr := c.f 13 0 56 }
  let x ← vecDesc c (c.f 7 0 56) vecCodes (vRows c) (vCols c)
  let y ← (if u.1 then vecDesc c (c.f 9 0 56) vecCodes (vRows c) (vCols c) else pure 0)
  let o ← vecDesc c (c.f 11 0 56) [c.f 4 8 8] (vRows c) (vCols c)
  vecAccept c { x, y, o }

/-- One row of VEC_MAP. -/
def mapStep (c : Ctx) (w : VWork) : Cm Unit := do
  let u := mapUses (c.f 4 0 8)
  let xs ← vecRow c (tdescOf w.x.toNat) w.next false
  let ys ← (if u.1 then vecRow c (tdescOf w.y.toNat) w.next false else pure (xs.map (fun _ => Val.zero)))
  let a ← (if u.2.1 then readNat c (c.f 13 0 56 + 4 * w.next) 4 else pure 0)
  vecOut c (tdescOf w.o.toNat) w.next (c.b 4 16) ((xs.zip ys).map (fun p =>
    -- COPY keeps the sign of a NaN, which a cast to FP8 shows (R244)
    if c.f 4 0 8 = 0 ∧ p.1.isNaN then p.1 else of32 (mapFn (c.f 4 0 8) (c.f 15 0 32) a (to32 p.1) (to32 p.2))))

/-! ### VEC_SOFTMAX (R318) -/

def softmaxSpec : CmdSpec :=
  vecSpec [(0, 10)] (fun w => [(at_ 4 1, cf w 4 0 1 == 0 && cf w 4 1 1 == 0), (at_ 4 2, cf w 4 2 8 != 1 && cf w 4 2 8 != 2),
      (at_ 15 0, !(decide (0 < cf w 15 0 32 ∧ cf w 15 0 32 < 0x7F800000)))])
    (fun w => (cf w 4 0 1 == 1, true, true))

/-- VEC_SOFTMAX is checked and queued. -/
def softmaxRun (c : Ctx) : Cm Stand := do
  faultIf (c.f 13 0 56 % 4 ≠ 0) { code := fMisaligned, addr := c.f 13 0 56 }
  access c (c.f 13 0 56) (8 * vRows c) 0
  access c (c.f 13 0 56) (8 * vRows c) 1
  let x ← vecDesc c (c.f 7 0 56) vecCodes (vRows c) (vCols c)
  let y ← (if c.b 4 0 then vecDesc c (c.f 9 0 56) [1] (vRows c) 1 else pure 0)
  let o ← vecDesc c (c.f 11 0 56) [c.f 4 2 8] (vRows c) (vCols c)
  vecAccept c { x, y, o }

/-- FP32 bits of −∞. -/
def negInf : Nat := 0xFF800000
/-- e^(a − b), a − b rounded to FP32. -/
def expDiff (a b : Nat) : Nat := exp32 (sub32 a b)
/-- A factor, which is at most 1 (R318). -/
def atMostOne (x : Nat) : Nat := if Val.one.lt (of32 x) then 0x3F800000 else x

/-- One row of VEC_SOFTMAX. -/
def softmaxStep (c : Ctx) (w : VWork) : Cm Unit := do
  let aux := c.f 13 0 56
  let i := w.next
  let xs ← vecRow c (tdescOf w.x.toNat) i false
  let sx := xs.map (fun v => mul32 (c.f 15 0 32) (to32 v))
  let m ← (if c.b 4 1 then pure negInf else readNat c (aux + 4 * i) 4)
  let l ← (if c.b 4 1 then pure 0 else readNat c (aux + 4 * vRows c + 4 * i) 4)
  let mn := max32 m (sx.foldl max32 negInf)
  let cf' := if mn = negInf then 0x3F800000 else atMostOne (expDiff m mn)
  let p := sx.map (fun x => if mn = negInf then 0 else expDiff x mn)
  let sum := p.foldl (fun a x => addFa40 a (toFa40 (of32 x))) 0
  let lc := toFa40 ((of32 l).mul (of32 cf'))
  let l' := to32 (ofFa40 (addFa40 lc sum))
  writeNat c (aux + 4 * i) 4 mn
  writeNat c (aux + 4 * vRows c + 4 * i) 4 l'
  countIf (sx.all (· == negInf)) (vecPage c) 0x6C
  if c.b 4 0 then
    vecOut c (tdescOf w.o.toNat) i false (p.map of32)
    vecOut c (tdescOf w.y.toNat) i false [of32 cf']
  else vecOut c (tdescOf w.o.toNat) i false (p.map (fun x => if Val.zero.lt (of32 l') then of32 (div32 x l') else Val.zero))

/-! ### Fixed-order sums, norms and reductions (R319, R320, R325) -/

/-- One level of the fixed tree (R325). -/
def treeLevel {α : Type} (f : α → α → α) : List α → List α
  | x :: y :: r => f x y :: treeLevel f r
  | l => l

/-- The root of the fixed tree (R325); the first argument bounds the levels. -/
def treeRoot {α : Type} (f : α → α → α) : Nat → List α → List α
  | 0, l => l
  | n + 1, l => if l.length ≤ 1 then l else treeRoot f n (treeLevel f l)

/-- The sum of a row in the order of R319: 64 lanes in ascending columns, then the tree. -/
def laneSum (l : List Val) : Nat :=
  let lanes := (List.range 64).map (fun k => ((l.zipIdx.filter (fun p => p.2 % 64 == k)).map (·.1)).foldl (fun a v => addFa40 a (toFa40 v)) 0)
  (treeRoot addFa40 7 lanes).headD 0

/-- The square of an element, rounded once as it enters the sum. -/
def sq (v : Val) : Val := ofFa40 (toFa40 (v.mul v))

def normSpec : CmdSpec :=
  vecSpec [(0, 11)] (fun w =>
      let k := cf w 4 0 3
      let f := cf w 4 3 8
      [(at_ 4 0, decide (k ≥ 4)), (at_ 4 3, !(f == 1 || f == 2 || f == 3 || f == 0x0E && decide (k ≤ 1))),
       (at_ 15 0, decide (2 ≤ k ∧ cf w 15 0 32 ≥ 0x7F800000 ∧ cf w 15 0 32 ≠ 0x80000000))])
    (fun w => (false, decide (2 ≤ cf w 4 0 3), decide (2 ≤ cf w 4 0 3)))

/-- VEC_NORM is checked and queued. -/
def normRun (c : Ctx) : Cm Stand := do
  faultIf (c.f 13 0 56 % 4 ≠ 0) { code := fMisaligned, addr := c.f 13 0 56 }
  let x ← vecDesc c (c.f 7 0 56) vecCodes (vRows c) (vCols c)
  let o ← vecDesc c (c.f 11 0 56) [c.f 4 3 8] (vRows c) (if c.f 4 0 3 ≤ 1 then 1 else vCols c)
  vecAccept c { x, o }

/-- FP32 entries of a vector that a command names. -/
def fp32Vec (c : Ctx) (g n : Nat) : Cm (List Nat) := do
  let l ← readT c g (4 * n)
  pure ((chunks 4 n l).map leNat)

/-- One row of VEC_NORM. -/
def normStep (c : Ctx) (w : VWork) : Cm Unit := do
  let n := vCols c
  let kind := c.f 4 0 3
  let xs ← vecRow c (tdescOf w.x.toNat) w.next false
  let out (l : List Val) : Cm Unit := vecOut c (tdescOf w.o.toNat) w.next false l
  let n32 := to32 (Val.ofInt n)
  let mean (l : List Val) : Nat := div32 (to32 (ofFa40 (laneSum l))) n32
  if kind = 0 then out [of32 (sqrt32 (to32 (ofFa40 (laneSum (xs.map sq)))))]
  else if kind = 1 then out [ofFa40 (laneSum (xs.map sq))]
  else
    let aux := c.f 13 0 56
    let g ← (if aux = 0 then pure (List.replicate n 0x3F800000) else fp32Vec c aux n)
    let b ← (if aux = 0 ∨ kind = 2 then pure (List.replicate n 0) else fp32Vec c (aux + 4 * n) n)
    let x32 := bits32 xs
    let mu := if kind = 3 then mean xs else 0
    let d := if kind = 3 then x32.map (fun x => sub32 x mu) else x32
    let r := rsqrt32 (add32 (mean (d.map (fun x => sq (of32 x)))) (c.f 15 0 32))
    out ((d.zip (g.zip b)).map (fun p =>
      let y := mul32 (mul32 p.1 r) p.2.1
      of32 (if kind = 3 then add32 y p.2.2 else y)))

def reduceSpec : CmdSpec :=
  vecSpec [(0, 12)] (fun w =>
      let op := cf w 4 0 3
      let f := cf w 4 4 8
      [(at_ 4 0, decide (op ≥ 5)), (at_ 4 4, if op = 4 then f != 0x0D else f != 1 && f != 0x0E)])
    (fun _ => (false, false, false))

/-- VEC_REDUCE is checked and queued. -/
def reduceRun (c : Ctx) : Cm Stand := do
  let x ← vecDesc c (c.f 7 0 56) vecCodes (vRows c) (vCols c)
  let o ← vecDesc c (c.f 11 0 56) [c.f 4 4 8] (if c.b 4 3 then 1 else vRows c) (if c.b 4 3 then vCols c else 1)
  vecAccept c { x, o }

/-- The largest (or least) of a list; a NaN if any input is NaN (R319). Among equal values, zeros of either sign included, the first. -/
def extreme (least : Bool) (l : List Val) : Val :=
  if l.any (·.isNaN) then .nan false
  else l.foldl (fun a v => if (if least then v.lt a else a.lt v) then v else a) (l.headD Val.zero)

/-- The index of the first NaN, or the lowest index of the largest value (R319). -/
def argMax (l : List Val) : Nat :=
  if l.any (·.isNaN) then firstAt (·.isNaN) l else firstAt (fun v => !v.lt (extreme false l) && !(extreme false l).lt v) l
where
  firstAt (p : Val → Bool) : List Val → Nat
    | [] => 0
    | x :: r => if p x then 0 else firstAt p r + 1

/-- The reduction of a list: rows by lanes and tree, columns in ascending order (R319). -/
def reduceList (op : Nat) (axis : Bool) (l : List Val) : Val :=
  let sum (l : List Val) : Val := ofFa40 (if axis then l.foldl (fun a v => addFa40 a (toFa40 v)) 0 else laneSum l)
  match op with
  | 0 => sum l
  | 1 => sum (l.map sq)
  | 2 => extreme false l
  | 3 => extreme true l
  | _ => Val.ofInt (argMax l)

/-- One row, or one column, of VEC_REDUCE; the work to go on with. The elements of an output row are reported in groups of 32 as they are
written (R330, R331). -/
def reduceStep (c : Ctx) (w : VWork) : Cm VWork := do
  let d := tdescOf w.x.toNat
  let o := tdescOf w.o.toNat
  if c.b 4 3 then do
    let l ← collect (fun r => do
      let v ← rowPart c d r w.next 1
      pure (held true d.format (v.getD 0 Val.zero))) (List.range (vRows c))
    let x := castRep o.format false none (reduceList (c.f 4 0 3) true l)
    let b := codeBits o.format / 8
    writeNat c (o.row 0 + b * w.next) b x.bits
    let one := summary o.numSlot o.format [x]
    let g := (w.group.map (·.join one)).getD one
    let ends := decide (w.next % 32 = 31 ∨ w.next + 1 = vCols c)
    if ends && o.numEn then modify (fun s => { s with sums := s.sums ++ [g] })
    count (vecPage c) 0x48
    pure { w with group := if ends then none else some g }
  else do
    let l ← vecRow c d w.next true
    vecOut c o w.next false [reduceList (c.f 4 0 3) false l]
    pure w

/-! ### VEC_CAST (R321) -/

def castSpec : CmdSpec :=
  vecSpec [(0, 10)] (fun w => [(at_ 4 0, !vecCodes.contains (cf w 4 0 8)), (at_ 4 8, cf w 4 8 1 == 1 && decide (cf w 4 0 8 ≥ 0x0B))])
    (fun w => (false, cf w 4 8 1 == 1, false))

/-- VEC_CAST is checked and queued. -/
def vcastRun (c : Ctx) : Cm Stand := do
  let x ← vecDesc c (c.f 7 0 56) vecCodes (vRows c) (vCols c)
  let o ← vecDesc c (c.f 11 0 56) [c.f 4 0 8] (vRows c) (vCols c)
  let key ← (if c.b 4 8 then readNat c (c.f 13 0 56) 16 else pure 0)
  match firstBad [zeroBits' key 96 32] with
  | some p => throw { code := fReservedField, pos := p }
  | none => vecAccept c { x, o, key := BitVec.ofNat 128 key }
where
  zeroBits' (v lo n : Nat) : Nat × Bool := (lo + (lowBit (bitsOf v lo n)).getD 0, bitsOf v lo n != 0)

/-- One row of VEC_CAST. -/
def vcastStep (c : Ctx) (w : VWork) : Cm Unit := do
  let l ← vecRow c (tdescOf w.x.toNat) w.next true
  let sr (j : Nat) : Option Nat := srOf (c.b 4 8) (w.key.toNat % 2 ^ 64) (bitsOf w.key.toNat 64 32) (w.next * vCols c + j)
  putPart c (tdescOf w.o.toNat) w.next (c.b 4 9) sr l
  count (vecPage c) 0x48 l.length
  countIf (c.b 4 8) (vecPage c) 0x70 l.length

/-! ### VEC_PARTIAL_ADD (R322 to R327) -/

def padFmt (c : Ctx) : Nat := c.f 4 2 8
def padInt (c : Ctx) : Bool := padFmt c == 0x0D
def padCount (c : Ctx) : Nat := c.f 4 16 11
def padElems (c : Ctx) : Nat := vRows c * vCols c

def padSpec : CmdSpec :=
  vecSpec [(0, 11), (16, 11)] (fun w =>
      let f := cf w 4 2 8
      let full := f == 0x0E || f == 0x0D
      [(at_ 4 1, cf w 4 1 1 == 1 && !full), (at_ 4 2, !(full || f == 1 || f == 2 || f == 3)),
       (at_ 4 16, cf w 4 16 11 == 0 || decide (cf w 4 16 11 > 1024))])
    (fun _ => (false, true, false))

/-- Must the module's state make every VEC_PARTIAL_ADD use the tree (R326)? -/
def treeForced (s : State) : Bool := deterministic s || s.testMode || s.replay

/-- VEC_PARTIAL_ADD: its list, its records and its target are checked, and its order chosen. -/
def padRun (c : Ctx) : Cm Stand := do
  let s ← get
  let list := c.f 7 0 56
  let aux := c.f 13 0 56
  failIf (decide (padElems c > 262144)) vecPartialInvalid
  faultIf (list % 8 ≠ 0) { code := fMisaligned, addr := list }
  faultIf (aux % 4 ≠ 0) { code := fMisaligned, addr := aux }
  let o ← vecDesc c (c.f 11 0 56) [padFmt c] (vRows c) (vCols c)
  let l ← readT c list (8 * padCount c)
  let recs := (chunks 8 (padCount c) l).map leNat
  match recs.find? (fun r => r / 2 ^ 56 != 0) with
  | some r => throw { code := fReservedField, pos := 56, addr := r % 2 ^ 56 }
  | none => pure ()
  each (fun r => do
    faultIf (r % 64 ≠ 0) { code := fMisaligned, addr := r }
    failIf (!(isOwn s r && isSp (gLoc r))) vecPartialInvalid
    access c r (64 + 8 * padElems c) 0
    access c r (64 + 8 * padElems c) 1) recs
  if aux ≠ 0 then
    access c aux 16 1
    if c.b 4 1 then access c aux 16 0
  let tree := c.b 4 0 || treeForced s
  count (vecPage c) (if tree then 0x64 else 0x60)
  vecAccept c { o, tree, recs }

/-- The sum of two lists of containers, and the clamps of integers (R239, R243). -/
def padAdd (int : Bool) (a b : List Nat) : List Nat × Nat :=
  let l := (a.zip b).map (fun p =>
    if int then let r := addSat32 (ofI64 p.1) (ofI64 p.2); (toI64 r.1, b2n r.2) else (addFa40 p.1 p.2, 0))
  (l.map (·.1), (l.map (·.2)).sum)

/-- The target's containers and status, with TARGET_IN (R324, R327). -/
def padTarget (c : Ctx) (w : VWork) : Cm VWork := do
  if !c.b 4 1 ∨ w.arrived ≠ [] then pure w
  else do
    let d := tdescOf w.o.toNat
    let rows ← collect (fun r => rowBits c d r 0 (vCols c)) (List.range (vRows c))
    let acc := rows.flatten.map (fun x => if padInt c then toI64 (signExt 32 x) else x)
    let st ← (if c.f 13 0 56 = 0 then pure 0 else readNat c (c.f 13 0 56) 16)
    pure { w with acc := some acc, sat := bitOf st 1, accLong := bitOf st 2, satCount := bitsOf st 16 16, chain := bitsOf st 32 32 }

/-- The lowest offence of a partial's header (R322, R323). -/
def headerBad (c : Ctx) (i h : Nat) : Bool :=
  bitOf h 0 != padInt c || bitsOf h 3 13 != 0 || bitsOf h 64 32 != padElems c || bitsOf h 96 32 != i || bitsOf h 128 384 != 0

/-- Add containers to the sum so far. -/
def padInto (c : Ctx) (w : VWork) (l : List Nat) : Cm VWork := do
  match w.acc with
  | none => pure { w with acc := some l }
  | some a => do
    let (r, k) := padAdd (padInt c) a l
    count (vecPage c) 0x50 l.length
    pure { w with acc := some r, satCount := w.satCount + k, sat := w.sat || decide (k > 0) }

/-- Node j of a level of n nodes of the fixed tree is available: it waits for its sibling, or the two are added, in place in the record of
the left child's first leaf, and their parent is available; the root is answered once it is (R325). -/
def padClimb (c : Ctx) : Nat → Nat → Nat → Nat → List Nat → VWork → Cm (VWork × Option (List Nat))
  | 0, _, _, _, _, w => pure (w, none)
  | fuel + 1, level, n, j, v, w =>
    if n ≤ 1 then pure (w, some v)
    else if j % 2 = 0 ∧ j + 1 = n then padClimb c fuel (level + 1) ((n + 1) / 2) (j / 2) v w
    else
      let left := j / 2 * 2
      match w.parts.get none (2048 * level + (if j = left then j + 1 else left)) with
      | none => pure ({ w with parts := w.parts.put none (2048 * level + j) (some v) }, none)
      | some u => do
        let (r, k) := padAdd (padInt c) (if j = left then v else u) (if j = left then u else v)
        count (vecPage c) 0x50 v.length
        writeT c (w.recs.getD (left * 2 ^ level) 0 + 64) ((r.map (fun x => bytesOf x 8)).flatten)
        padClimb c fuel (level + 1) ((n + 1) / 2) (j / 2) r { w with satCount := w.satCount + k, sat := w.sat || decide (k > 0) }

/-- The end of a VEC_PARTIAL_ADD: the target, its status, and the records, whose contents become undefined (R327). -/
def padEnd (c : Ctx) (w : VWork) : Cm Unit := do
  let d := tdescOf w.o.toNat
  let acc := w.acc.getD []
  each (fun r =>
    let row := (acc.drop (r * vCols c)).take (vCols c)
    vecOut c d r (c.b 4 10) (row.map (fun x => if padInt c then Val.ofInt (ofI64 x) else ofFa40 x))) (List.range (vRows c))
  let chain := min (w.chain + padCount c) (2 ^ 32 - 1)
  if c.f 13 0 56 ≠ 0 then
    writeNat c (c.f 13 0 56) 16 (b2n (padInt c) + b2n w.sat * 2 + b2n (w.accLong || decide (chain > 65536)) * 4 +
      min w.satCount 65535 * 2 ^ 16 + chain * 2 ^ 32)
  modify (fun s => scrambleAll s (w.recs.map (fun r => (gLoc r, 64 + 8 * padElems c))))
  putVwork c.op none
  modify (fun s => updOp s c.op (fun o => { o with waits := o.waits - 1 }))

/-- Partial i has arrived with its header `h`: it is checked, and added, or becomes a leaf of the tree (R323 to R327). -/
def padArrive (c : Ctx) (w : VWork) (i h : Nat) : Cm Unit := do
  let r := w.recs.getD i 0
  let w ← padTarget c w
  faultIf (headerBad c i h) { code := vecPartialInvalid, addr := r }
  let l ← readT c (r + 64) (8 * padElems c)
  let l := (chunks 8 (padElems c) l).map leNat
  let w := { w with arrived := i :: w.arrived, sat := w.sat || bitOf h 1, accLong := w.accLong || bitOf h 2,
                    satCount := w.satCount + bitsOf h 16 16, chain := w.chain + bitsOf h 32 32 }
  let last := w.arrived.length = padCount c
  if w.tree then
    match ← padClimb c 11 0 (padCount c) i l w with
    | (w, some root) => do
      let w ← padInto c w root
      padEnd c w
    | (w, none) => putVwork c.op (some w)
  else do
    let w ← padInto c w l
    if last then padEnd c w else putVwork c.op (some w)

/-! ### Operations (R313) -/

/-- Does the task of a command run, with no pre-emption signalled (R128)? -/
def taskRuns (s : State) (o : Op) : Bool :=
  let t := slot s (o.slot.getD 0)
  t.st == .running && !t.victim

/-- The oldest vector command of each resident task that has work left, where it may be served: one whose descriptors are still to be read lets no
younger one pass (R29). -/
def vecHeads (s : State) (core : Nat) : List (Nat × Op) :=
  let l := (unitOps s (.vec core)).filter (fun e => (vworkOf s e.1).isSome || e.2.unrun)
  l.filter (fun e => (vworkOf s e.1).isSome && taskRuns s e.2 && !e.2.kept && (e.2.tries == 0 || e.2.due) &&
    !l.any (fun x => decide (x.1 < e.1) && x.2.slot == e.2.slot))

/-- The header read of a partial of a command that is in flight, or has brought its header (R323). -/
def headerOf (s : State) (id i : Nat) : Option (Nat × Req) :=
  (reqList s).find? (fun e => e.2.kind == .header && e.2.op == some id && e.2.words.getD 0 0 == i)

/-- Issue the header read of partial i: it arrives at the granule's tag, unless the memory is asleep (R418, R617). -/
def readHeader (s : State) (id : Nat) (o : Op) (w : VWork) (i : Nat) : State :=
  let g := w.recs.getD i 0
  let r : Req := { kind := .header, home := dCore ((gLoc g - spBase) / 2 ^ 22), slot := o.slot, op := some id, eu := some o.eu,
                   local' := decide (.vec ((gLoc g - spBase) / 2 ^ 22) = o.eu), addr := g, len := 64, mode := 2, words := [i] }
  if (getOp s id).isNone || w.arrived.contains i || (headerOf s id i).isSome then s
  else
    let (s, tag) := addReq s r
    if asleep s (gLoc g) then s else arriveReq s tag r

/-- A vector engine takes the commands that it had no room for, and its PARTIAL_ADDs in service read the headers of their partials (R313, R323). -/
def vecPump (s : State) (core : Nat) : State :=
  let late := (unitOps s (.vec core)).filter (fun e => e.2.kept && taskRuns s e.2)
  let s := (late.take (8 - euCount s (.vec core))).foldl (fun s e => updOp s e.1 (fun o => { o with kept := false })) s
  if !euServes s (.vec core) then s
  else ((vecHeads s core).filter (fun e => e.2.opcode == 0x54)).foldl (fun s e =>
    let w := (vworkOf s e.1).getD {}
    (List.range w.recs.length).foldl (fun s i => readHeader s e.1 e.2 w i) s) s

/-- Rows or columns that a command works through. -/
def vecSteps (c : Ctx) (opcode : Nat) : Nat := if opcode = 0x55 ∧ c.b 4 3 then vCols c else vRows c

/-- One operation of a vector command: the next step of its work, and, with the last one, its end (R313). -/
def vecStep (work : Option VWork) (id : Nat) (c : Ctx) (o : Op) : Cm Unit := do
  match work with
  | none => pure ()
  | some w =>
    modify (fun s => updOp s id (fun o => { o with tries := 0, due := false }))
    let w ← (match o.opcode with
      | 0x50 => do mapStep c w; pure w
      | 0x51 => do softmaxStep c w; pure w
      | 0x52 => do normStep c w; pure w
      | 0x53 => do vcastStep c w; pure w
      | _ => reduceStep c w)
    if w.next + 1 = vecSteps c o.opcode then
      putVwork id none
      modify (fun s => updOp s id (fun o => { o with waits := o.waits - 1 }))
    else putVwork id (some { w with next := w.next + 1 })

/-- The vector command that a core's engine serves next: a PARTIAL_ADD waits for its partials instead (R313). -/
def vecNext (s : State) (core : Nat) : Option (Nat × Op) := pickOp s ((vecHeads s core).filter (fun e => e.2.opcode != 0x54))

/-- VEC_OPERATION (R313). -/
def execVecOperation (core : Fin 512) (s : State) : Host.Outcome State Fault Refusal :=
  .next (if !euServes s (.vec core) then s else
    match vecNext s core with
    | none => s
    | some (id, _) => vecPump (serveOp s id (vecStep (vworkOf s id) id)) core)

/-- Partial i of a PARTIAL_ADD has arrived: its header read, a request with tag `tag`, has brought `h`. -/
def padStep (w : VWork) (id i tag h : Nat) (c : Ctx) (_o : Op) : Cm Unit := do
  modify (fun s => dropReq (updOp s id (fun o => { o with tries := 0, due := false })) tag)
  padArrive c w i h

/-- The header of partial i that its read has brought, with the request's tag: the granule was full (R323, R324). -/
def headerHere (s : State) (id i : Nat) : Option (Nat × Nat) :=
  match headerOf s id i with
  | some (tag, r) => (match r.st with | .answered _ _ => some (tag, r.words.getD 1 0) | _ => none)
  | none => none

/-- PARTIAL_ARRIVAL (R323, R324): the header read of partial i returns, its granule having been full. -/
def execPartialArrival (id i : Nat) (s : State) : Host.Outcome State Fault Refusal :=
  .next (match getOp s id, vworkOf s id, headerHere s id i with
    | some o, some w, some (tag, h) => vecPump (serveOp s id (padStep w id i tag h)) (opCtx id o).core
    | _, _, _ => s)

/-! ### Commands -/

def vecUnit (core : Nat) : EUnit := .vec core

/-- Ranges of a vector command (R422). -/
def vecTouch (y aux : Ctx → Bool) (c : Ctx) : Cm (List Touch) := do
  let x ← rowsTouch c (c.f 7 0 56) 0 (vRows c) false
  let yl ← (if y c then rowsTouch c (c.f 9 0 56) 0 (vRows c) false else pure [])
  let o ← rowsTouch c (c.f 11 0 56) 0 (vRows c) true
  let a ← (if aux c then winTouch false c else pure [])
  pure (a ++ x ++ yl ++ o)

def mapDef : CmdDef :=
  { opc := 0x50, spec := mapSpec, eu := vecUnit, run := mapRun,
    touch := fun c => do
    let l ← vecTouch (fun c => (mapUses (c.f 4 0 8)).1) (fun _ => false) c
    pure (l ++ (if (mapUses (c.f 4 0 8)).2.1 then [(c.f 13 0 56, 4 * vRows c, false)] else [])) }
def softmaxDef : CmdDef :=
  { opc := 0x51, spec := softmaxSpec, eu := vecUnit, run := softmaxRun,
    touch := fun c => do
    let l ← vecTouch (fun _ => false) (fun _ => false) c
    let y ← (if c.b 4 0 then rowsTouch c (c.f 9 0 56) 0 (vRows c) true else pure [])
    pure (l ++ y ++ [(c.f 13 0 56, 8 * vRows c, false), (c.f 13 0 56, 8 * vRows c, true)]) }
def normDef : CmdDef :=
  { opc := 0x52, spec := normSpec, eu := vecUnit, run := normRun,
    touch := fun c => do
    let l ← vecTouch (fun _ => false) (fun _ => false) c
    pure (l ++ (if c.f 13 0 56 = 0 then [] else [(c.f 13 0 56, 8 * vCols c, false)])) }
def vcastDef : CmdDef :=
  { opc := 0x53, spec := castSpec, eu := vecUnit, run := vcastRun,
    touch := fun c => do
    let l ← vecTouch (fun _ => false) (fun _ => false) c
    pure (l ++ (if c.b 4 8 then [(c.f 13 0 56, 16, false)] else [])) }
/-- Ranges of a VEC_PARTIAL_ADD: the records that its list names may lie anywhere in the task's window, to be read and written. -/
def padTouch (c : Ctx) : Cm (List Touch) := do
  let o ← rowsTouch c (c.f 11 0 56) 0 (vRows c) true
  let rd ← winTouch false c
  let wr ← winTouch true c
  pure ((c.f 7 0 56, 8 * padCount c, false) :: rd ++ wr ++ o ++
    (if c.f 13 0 56 = 0 then [] else [(c.f 13 0 56, 16, false), (c.f 13 0 56, 16, true)]))
def padDef : CmdDef := { opc := 0x54, spec := padSpec, eu := vecUnit, run := padRun, touch := padTouch }
def reduceDef : CmdDef :=
  { opc := 0x55, spec := reduceSpec, eu := vecUnit, run := reduceRun,
    touch := vecTouch (fun _ => false) (fun _ => false) }

/-- VEC_MAP (R317). -/
def execVecMap (t : Thr) (b : Body) (s : State) : Host.Outcome State Fault Refusal := .next (issueCmd t b mapDef s)
/-- VEC_SOFTMAX (R318). -/
def execVecSoftmax (t : Thr) (b : Body) (s : State) : Host.Outcome State Fault Refusal := .next (issueCmd t b softmaxDef s)
/-- VEC_NORM (R320). -/
def execVecNorm (t : Thr) (b : Body) (s : State) : Host.Outcome State Fault Refusal := .next (issueCmd t b normDef s)
/-- VEC_CAST (R321). -/
def execVecCast (t : Thr) (b : Body) (s : State) : Host.Outcome State Fault Refusal := .next (issueCmd t b vcastDef s)
/-- VEC_PARTIAL_ADD (R326). -/
def execVecPartialAdd (t : Thr) (b : Body) (s : State) : Host.Outcome State Fault Refusal :=
  .next (if canIssue s t (.vec t.core.val) then vecPump (issueCmd t b padDef s) t.core else s)
/-- VEC_REDUCE (R319). -/
def execVecReduce (t : Thr) (b : Body) (s : State) : Host.Outcome State Fault Refusal := .next (issueCmd t b reduceDef s)

end Sys2Proof.Machine
end

