-- ==== Sys2Proof/Machine/Homes.lean ====
section
/-!
DEFINITION. Home units and the mirror: the journal (R367, R368, R370), the staging of merged updates (R353 to R356), and the seal of
a step at its homes (R357).
-/
namespace Sys2Proof.Machine
open Sys2Proof

/-! ### The journal (R367, R368, R370) -/

/-- The module's buddy, if it has one (R367). -/
def buddy (s : State) : Option Nat :=
  let (d, m, p, g) := (roleCoord s 0, roleCoord s 1, roleCoord s 2, roleCoord s 3)
  if axisLen s 3 ≥ 2 then some (coordId s d m p ((g + 1) % axisLen s 3))
  else if axisLen s 0 ≥ 2 then some (coordId s ((d + 1) % axisLen s 0) m p g)
  else none

/-- A journal record's bytes: its header, with 40 bytes of its type's own, and its payload, rounded up to 64 bytes (R368). -/
def journalRec (kind : Nat) (step : BitVec 32) (seq own : Nat) (payload : List Byte) : List Byte :=
  bytesOf (kind + step.toNat * 2 ^ 32) 8 ++ bytesOf payload.length 8 ++ bytesOf seq 8 ++ bytesOf own 40 ++ payload ++
  List.replicate (ceilDiv payload.length 64 * 64 - payload.length) 0

/-- Send the words of a record in messages of at most 31 words, each behind a word whose bit 0 marks the last one, and bit 1 a record
that is sent again for a rebuild (R554). -/
def sendPieces (s : State) (i : MsgInfo) (again : Bool) : Nat → List DWord → State × Bool
  | 0, _ => (s, true)
  | n + 1, l =>
    let last := l.length ≤ 31
    match sendMsg s (mkMsg s i (BitVec.ofNat 64 (b2n last + 2 * b2n again) :: l.take 31)) with
    | (s, true) => if last then (s, true) else sendPieces s i again n (l.drop 31)
    | r => r

/-- Send a journal request's record to the module it is for: the buddy, or, in a rebuild, the replacement (R507, R367, R554). -/
def journalOut (s : State) (u tag : Nat) (rec' : List Byte) : State :=
  match getReq s tag with
  | none => s
  | some r =>
    if isOwn s r.addr then s
    else
      let i : MsgInfo := { dst := gMod r.addr, cls := 2, mtype := 8, die := u, stream := if u < 16 then 2565 else 3584, tag := tag % 65536,
                           tagEpoch := r.tagEpoch.toNat }
      (sendPieces s i (r.words.drop 4 == [6]) (rec'.length / 248 + 1) (wordsOf rec' (rec'.length / 8 + 1))).1

/-- Journal a record from a home unit (R368). `cont` says what its confirmation is for: 0 an update (its sender), 1 a dense region of a command (id), 2 a move, 3 a COMMIT record, 4 moved values of a unit, 5 an ABORT record. -/
def journal (s : State) (u kind : Nat) (step : BitVec 32) (own : Nat) (payload : List Byte) (cont : List Nat) : State :=
  let r := journalRec kind step s.jseq own payload
  let m := (buddy s).getD (ownId s)
  let q : Req := { kind := .journal, home := if standIn s m = ownId s then dGroup 3 0 else dRemote m, addr := m * 2 ^ 44, cls := 2, aop := kind,
                   words := [u, step.toNat, r.length, leNat r] ++ cont }
  let s := { s with jseq := s.jseq + 1 }
  -- one that finds no entry of a reorder table free waits (R387)
  if !mayLeave s q then (addReq s { q with st := .held }).1
  else
    let (s, tag) := addReq s q
    journalOut s u tag r

/-- Bytes of the journal ring from its oldest record to its tail: the room that freed records between live ones do not give (R370). -/
def journalUsed (s : State) (size : Nat) : Nat :=
  match s.journal with
  | [] => 0
  | r :: _ => if s.jtail = r.off then size else (s.jtail + size - r.off) % size

/-- Write the bytes of a ring from an offset on. -/
def ringWrite (s : State) (base size off : Nat) : List Byte → State
  | [] => s
  | b :: r => ringWrite (wrB s (base + off % size) b) base size (off + 1) r

/-- The ranges of memory that n bytes of a ring from an offset on take. -/
def ringSpans (base size off n : Nat) : List (Nat × Nat) :=
  let o := off % size
  if o + n ≤ size then [(base + o, n)] else [(base + o, size - o), (base, o + n - size)]

/-- Write a record into the journal area; `none` where it lacks room (R367, R370). -/
def journalWrite (s : State) (src : Nat) (rec' : List Byte) : Option State :=
  let (base, size) := journalArea s
  let n := leNat rec'
  if journalUsed s size + rec'.length > size then none
  else
    let spans := ringSpans base size s.jtail rec'.length
    let s := spans.foldl (fun s r => clearPoison (countMem s 19 r.1 r.2 true 2) r.1 r.2) (ringWrite s base size s.jtail rec')
    some { s with journal := s.journal ++ [{ src, kind := n % 256, step := BitVec.ofNat 32 (bitsOf n 32 32), off := s.jtail, len := rec'.length }]
                  jtail := (s.jtail + rec'.length) % size }

/-- Free the records of a module's steps up to c (R370). -/
def journalFree (s : State) (src : Nat) (c : BitVec 32) : State :=
  { s with journal := s.journal.filter (fun r => !(r.src == src && serialGe c r.step)), jckpt := c }

/-- Is the journal area's memory served? -/
def journalService (s : State) : Service := memService s (journalArea s).1

/-! ### Staging (R353 to R356) -/

/-- Stage area of a home unit (R353). -/
def stageArea (s : State) (u : Nat) : Range :=
  if u < 16 then nstageArea s u else let a := fstageArea s; (a.1 + (u - 16) * 2 ^ 33, 2 ^ 33)

/-- Bytes of a stage record (R354). -/
def stageLen (e : Nat) : Nat := 64 + ceilDiv (4 * e) 64 * 64

/-- The bank of a step: base and size (R353). -/
def bankOf (s : State) (u : Nat) (step : BitVec 32) : Range :=
  let a := stageArea s u
  (a.1 + step.toNat % 4 * (a.2 / 4), a.2 / 4)

/-- Bytes that a unit's bank holds. -/
def bankUsed (h : Home) (step : BitVec 32) : Nat := ((h.recs.filter (fun r => r.step == step)).map (fun r => stageLen r.g.length)).foldl (· + ·) 0

/-- Steps whose banks are in use: the committed update set's and those of the records (R353). -/
def banksUsed (h : Home) : List (BitVec 32) := (h.setStep :: h.recs.map (·.step)).eraseDups

/-- The first 24 bytes of a stage record's header (R354). -/
def stageHead (r : StageRec) : Nat :=
  r.id % 2 ^ 40 + r.tbl * 2 ^ 40 + r.step.toNat * 2 ^ 64 + r.key * 2 ^ 96 + (r.src % 4096 + r.pav * 4096) * 2 ^ 128 + min r.count (2 ^ 32 - 1) * 2 ^ 160

/-- The bytes of FP32 elements. -/
def rowBytes32 (l : List Nat) : List Byte := (l.map (fun v => bytesOf v 4)).flatten

/-- What a home answers to an update: acknowledged once it is mirrored (0), bank full (1), to be held by its sender (2). -/
inductive StageAns where
  | wait | code (c : Nat) | fenced | bad | later
deriving DecidableEq, Repr

/-- Home unit of an update: of its row, or the near home of the resolving Pavilion where it finds no row (R350). -/
def updateUnit (s : State) (t id : Nat) : State × Nat × Found :=
  let p := resolver s t id
  let r := resolveRow s p t id
  (r.1, (r.2.row?.map (fun r => unitOf r.addr)).getD p, r.2)

/-- The die that an update comes from: its merge unit's Pavilion, or the Orangery that its message came to. -/
def sender (cont : List Nat) (r : StageRec) : Nat := match cont with | [1, w0, _] => 16 + bitsOf w0 26 2 | _ => r.pav

/-- Stage an update at its home (R353 to R356); `cont` names its sender. An update of a step that is not open here is not taken. -/
def stageUpdate (s : State) (r : StageRec) (cont : List Nat) : State × StageAns :=
  match stepOf s r.step with
  | some st =>
    if st.phase ≠ .opened then (s, .later)
    else
      let (s, u, found) := updateUnit s r.tbl r.id
      if pavAsleep s (resolver s r.tbl r.id) || asleep s (bankOf s u r.step).1 then (s, .later)
      else match found with
      | .resetting a => (noteFenced s (sender cont r) a, .fenced)
      | .bad => (s, .bad)
      | .row _ | .missing | .unlisted =>
      let h := homeUnit s u
      let bank := bankOf s u r.step
      let len := stageLen r.g.length
      if !(banksUsed h).contains r.step && decide ((banksUsed h).length ≥ 3) then (s, .code 2)
      else if bankUsed h r.step + len > bank.2 then (taint (updStep s r.step (fun x => { x with overflow := true })) r.step, .code 1)
      else
        let a := bank.1 + bankUsed h r.step
        match spanService s a len with
        | .resetting => (noteFenced s (sender cont r) a, .fenced)
        | .fenced => (s, .bad)
        | .inService =>
          let bytes := bytesOf (stageHead r) 64 ++ rowBytes32 r.g ++ List.replicate (len - 64 - 4 * r.g.length) 0
          let s := clearPoison (wrBytes (countMem s u a len true 2) a bytes) a len
          let s := bumpUnit (updHome s u (fun h => { h with recs := h.recs ++ [{ r with addr := a }] })) u 0xC0 0x9C
          (journal s u 1 r.step (stageHead r) (rowBytes32 r.g) (0 :: cont), .wait)
  | none => (s, .later)

/-- The record of an update, from its header and its row as numbers. -/
def recOf (head raw e : Nat) : StageRec :=
  { step := BitVec.ofNat 32 (bitsOf head 64 32), tbl := bitsOf head 40 8, id := bitsOf head 0 40, key := bitsOf head 96 32, src := bitsOf head 128 12,
    pav := bitsOf head 140 4, count := bitsOf head 160 32, g := (List.range e).map (fun i => bitsOf raw (32 * i) 32), addr := 0 }

/-- Pieces of a message of several pieces that is arriving; the whole, once its last piece has come. -/
def joinParts (s : State) (m : Msg) : State × Option (List DWord) :=
  let k := m.src * 65536 + m.tag
  let l := s.parts.get [] k ++ m.drop 3
  if bitOf (m.pl 0) 0 then ({ s with parts := s.parts.put [] k [] }, some l) else ({ s with parts := s.parts.put [] k l }, none)

/-- An update's sender learns its fate: the sender is one's own request, or the message (its two header words). -/
def answerUpdate (s : State) (cont : List Nat) (code : Nat) : State :=
  match cont with
  | [0, tag] => updReq s tag (fun r => { r with st := .answered .ok (BitVec.ofNat 64 code) })
  | [_, w0, w1] => reply s [BitVec.ofNat 64 w0, BitVec.ofNat 64 w1] 0x41 0 0 [BitVec.ofNat 64 code]
  | _ => s

/-- An update reaches its home and is answered, unless its mirror is still to be awaited (R353 to R356). `old` is the state in which it
has not arrived. -/
def homeUpdate (old s : State) (r : StageRec) (cont : List Nat) : State :=
  match stageUpdate s r cont with
  | (_, .later) => old
  | (s, .wait) => s
  | (s, .code c) => answerUpdate s cont c
  | (s, a) =>
    let st : Status := if a = .fenced then .fenced else .uncorrectable
    match cont with
    | [0, tag] => updReq s tag (fun r => { r with st := .answered st 0 })
    | [_, w0, w1] => reply s [BitVec.ofNat 64 w0, BitVec.ofNat 64 w1] 0x41 (statusCode st) 0 []
    | _ => s

/-- A message of a row update of another module: with its last part, the whole record goes to its home. -/
def updateArrived (s : State) (i : Nat) (m : Msg) : State :=
  -- every piece goes to the Pavilion that resolves the row, which the first piece names
  let head := ((s.parts.get [] (m.src * 65536 + m.tag) ++ m.drop 3).headD 0).toNat
  match joinParts (landMsg (takeArrival s i) m (resolver s (bitsOf head 40 8) (head % 2 ^ 40))) m with
  | (s', none) => s'
  | (s', some l) =>
    let n := leNat ((l.map (fun w => bytesOf w.toNat 8)).flatten)
    homeUpdate s s' (recOf n (n / 2 ^ 256) (n / 2 ^ 192 % 2 ^ 64)) [1, m.hd 0, m.hd 1]

/-- ROW_UPDATE (R350, R353 to R356): an update of this module's merge units, whose words are header, row and elements, or one of
another module. One's own is taken once. -/
def execRowUpdate (r : HomeReq) (s : State) : Host.Outcome State Fault Refusal :=
  .next (match r with
    | .own tag =>
      match getReq s tag with
      | some q =>
        if q.kind = .rowUpdate ∧ q.st = .sent ∧ isOwn s q.addr then
          let s' := updReq s tag (fun q => { q with st := .tagWait })
          homeUpdate s s' (recOf (q.words.getD 0 0) (q.words.getD 1 0) (q.words.getD 2 0)) [0, tag]
        else s
      | none => s
    | .arrived i =>
      match arrival s i with
      | some m =>
        if forMe s m 7 then
          onArrival s i m (updateArrived s i m)
        else s
      | none => s)

/-! ### Confirmations (R351, R356) -/

/-- A journal request is confirmed; what it was for goes on. -/
def journalDone (s : State) (tag : Nat) : State :=
  match getReq s tag with
  | none => s
  | some r =>
    let s := dropReq s tag
    match r.words.drop 4 with
    | 0 :: cont => answerUpdate s cont 0
    | [1, id] => opAnswered s id
    | [3] => updStep s (BitVec.ofNat 32 (r.words.getD 1 0)) (fun x => { x with confirmed := true })
    | _ => s

/-- A record waits for room in the journal area: counted at its home unit (R370, R688). -/
def journalWaits (s : State) (r : Req) : State := bumpUnit s (r.words.getD 0 0) 0xE4 0xB4

/-- A record of this module is written where it has no buddy, or sent again to a buddy that lacked room (R367, R370). -/
def journalOwn (s : State) (tag : Nat) : State :=
  match getReq s tag with
  | some q =>
    if q.kind = .journal ∧ (q.st = .sent ∨ q.st = .busy) then
      let bytes := bytesOf (q.words.getD 3 0) (q.words.getD 2 0)
      if isOwn s q.addr then
        if journalService s = .inService then
          match journalWrite s (roleId s) bytes with
          | some s => updReq s tag (fun q => { q with st := .answered .ok 0 })
          | none => journalWaits s q
        else s
      else if q.st = .busy ∧ mayLeave s q then journalOut (updReq s tag (fun q => { q with st := .sent })) (q.words.getD 0 0) tag bytes
      else s
    else s
  | none => s

/-! ### The seal (R357) -/

/-- Ascending (table, id), then FLUSH_KEY, source module and Pavilion. -/
def recLe (a b : StageRec) : Bool :=
  let k (r : StageRec) : Nat := (((r.tbl * 2 ^ 40 + r.id) * 2 ^ 32 + r.key) * 4096 + r.src) * 16 + r.pav
  decide (k a ≤ k b)

/-- Element-wise FP32 sums. -/
def addRows (a b : List Nat) : List Nat := (a.zip b).map (fun p => add32 p.1 p.2)

/-- Fold sorted records into one per row. -/
def combineFrom : Option StageRec → List StageRec → List StageRec
  | none, [] => []
  | some a, [] => [a]
  | none, r :: l => combineFrom (some r) l
  | some a, r :: l =>
    if a.tbl = r.tbl ∧ a.id = r.id then combineFrom (some { a with g := addRows a.g r.g, count := a.count + r.count }) l
    else a :: combineFrom (some r) l

/-- Is an update's row missing at its home (R346)? One whose block-map entry cannot be read is kept. -/
def updMissing (s : State) (r : StageRec) : State × Bool :=
  let (s, _, found) := updateUnit s r.tbl r.id
  (s, found == .missing || found == .unlisted)

/-- Drop the records of missing rows, and count them. -/
def dropMissing (s : State) (u : Nat) : List StageRec → State × List StageRec
  | [] => (s, [])
  | r :: l =>
    match updMissing s r with
    | (s, true) => dropMissing (bumpUnit s u 0xD8 0xA0) u l
    | (s, false) => let (s, k) := dropMissing s u l; (s, r :: k)

/-- A unit's sums of squares by table, in ascending id (R357 steps 4 and 5). -/
def unitSums (l : List StageRec) : List (Nat × Nat) :=
  ((l.map (·.tbl)).eraseDups).map (fun t =>
    (t, (l.filter (fun r => r.tbl == t)).foldl (fun a r => addFa40 a (laneSum (r.g.map (fun v => sq (of32 v))))) 0))

/-- Seal a step at one home unit: the records become one per row, sorted; answers its sums, rows and missing rows. -/
def sealUnit (s : State) (u : Nat) (step : BitVec 32) : State × List (Nat × Nat) × Nat × Nat :=
  let h := homeUnit s u
  let l := combineFrom none ((h.recs.filter (fun r => r.step == step)).mergeSort recLe)
  let (s, k) := dropMissing s u l
  let s := updHome s u (fun h => { h with recs := h.recs.filter (fun r => r.step != step) ++ k })
  (s, unitSums k, k.length, l.length - k.length)

/-- Seal a step at the twenty home units, and add their sums by the fixed tree of R325 (R357). -/
def sealHomes (s : State) (step : BitVec 32) : State :=
  let (s, parts) := (List.range 20).foldl (fun (x : State × List (List (Nat × Nat) × Nat × Nat)) u =>
    let (s, r) := sealUnit x.1 u step
    (s, x.2 ++ [r])) (s, [])
  let tables := ((parts.flatMap (fun p => p.1.map (·.1))).eraseDups).mergeSort (fun a b => decide (a ≤ b))
  let sums := tables.map (fun t =>
    (t, (treeRoot addFa40 6 (parts.map (fun p => ((p.1.find? (fun e => e.1 == t)).map (·.2)).getD 0))).headD 0))
  updStep s step (fun x => { x with sums, rows := parts.foldl (fun n p => n + p.2.1) 0, missing := parts.foldl (fun n p => n + p.2.2) 0 })

end Sys2Proof.Machine
end

