-- ==== Sys2Proof/Machine/Merge.lean ====
section
/-!
DEFINITION. The row engine's commands as they issue (R204, R221, R222, R344, R349), the merge windows (R343, R347, R348, R350), and
what becomes of updates on their way to their homes (R351, R353, R355, R641).
-/
namespace Sys2Proof.Machine
open Sys2Proof

/-! ### Gathers, popularity reports and moves -/

/-- Perform a command of the gather half of the row engine: whether it is finished at once. A move waits for its step's commit. -/
def rowStart (c : Ctx) : Cm Bool :=
  match bitsOf c.w 0 8 with
  | 0x75 => popStart c
  | 0x74 => pure false
  | _ => gatherStart c

/-- A move is checked, and becomes one of the 64 pending ones, if there is a place (R222). -/
def pendMove (c : Ctx) : Cm Unit := do
  moveTable c
  modify (fun s =>
    if (pendingMoves s).length ≥ 64 then s
    else
      let s := { s with moves := s.moves.put none c.op (some { left := c.f 7 0 17 }) }
      journal s c.pav 3 (BitVec.ofNat 32 (c.f 10 0 32)) 0 (bytesOf (bitsOf c.w 128 224) 28) [2])

/-- The checks of a command against its table, once no commit of that is pending; `first` at its issue. -/
def rowCheckTable (c : Ctx) (first : Bool) : Cm Unit := do
  let s ← get
  match bitsOf c.w 0 8 with
  | 0x70 | 0x71 => gatherTable c first
  | 0x74 => if (s.moves.get none c.op).isNone then pendMove c else pure ()
  | _ => pure ()

/-- Is a commit pending that changes the entry of the table that a command names (R228)? -/
def rowPends (s : State) (c : Ctx) : Bool := match rowTable c.w with | some t => tblPending s c.pav t | none => false

/-- What a command's issue settles, whatever becomes of its reads: the gather mode, and that its step is still to come (R214). -/
def rowIssue (c : Ctx) : Cm Unit := do
  let s ← get
  let first := (s.gworks.get none c.op).isNone
  if bitsOf c.w 0 8 ≤ 0x71 ∧ first then
    modify (fun s => updG s c.op (fun w => { w with pav := c.pav, strict := !bitOf (profileWord s) 1 && decide (c.f 11 0 32 ≠ 0) }))
    if rowPends s c then gatherOrder c
  if !rowPends s c then rowCheckTable c first

/-- A gather, move or popularity command issues: it is checked, and started unless it must wait (R214, R222, R226, R228). -/
def rowRun (addrs : Ctx → Cm Unit) (c : Ctx) : Cm Stand := do
  addrs c
  rowIssue c
  catchFenced (do
    let s ← get
    if rowWaits s c then do
      ownOp c (fun o => { o with inService := false })
      pure (.later 1)
    else do
      let done ← rowStart c
      pure (.later (b2n (!done))))

/-- Start a command that has waited, once nothing holds it. -/
def rowResume (s : State) (id : Nat) : State :=
  match getOp s id with
  | some o =>
    if rowPends s (opCtx id o) then s
    else serveOp s id (fun c _ => do
      rowCheckTable c false
      let s ← get
      if rowWaits s c then pure ()
      else
        let done ← rowStart c
        modify (fun s => updOp s id (fun o => { o with inService := true }))
        gatherEnd c done)
  | none => s

/-- Take the commands of a row engine as far as they go: waiting ones are started, gathers in service go on (R214, R215, R218, R228). -/
def rowPump (s : State) (p : Nat) : State :=
  (unitOps s (.row p)).foldl (fun s e =>
    match getOp s e.1 with
    | some o =>
      if !o.inService then rowResume s e.1
      else if (s.gworks.get none e.1).isSome ∧ (gwork s e.1).ids ≠ [] ∧ o.waits > 0 then
        serveOp s e.1 (fun c _ => do
          let done ← gatherGo c 3
          gatherEnd c done)
      else s
    | none => s) s

/-- A row request is answered, and what waited for its entry goes on (R211). -/
def rowAnswered (s : State) (tag : Nat) (r : Req) (st : Status) (w0 raw : Nat) : State :=
  let p := match r.op.bind (getOp s) with | some o => (match o.eu with | .row p => some p | _ => none) | none => none
  let s := rowAnswer s tag r st w0 raw
  match p with | some p => rowPump s p | none => s

/-- Alignment of ROW_POP_READ's OUT. -/
def popAddrs (c : Ctx) : Cm Unit := if c.f 6 0 56 % 16 ≠ 0 then failAt fMisaligned (c.f 6 0 56) else pure ()
/-- Alignment of ROW_MOVE's DEST. -/
def moveAddrs (c : Ctx) : Cm Unit := if c.f 8 0 44 % 64 ≠ 0 then failAt fMisaligned (c.f 8 0 44) else pure ()

def rowUnit (core : Nat) : EUnit := .row (core / 32)
/-- The merge half of the row engine, whose commands take no place among the gather half's sixteen (R226). -/
def mergeUnit (core : Nat) : EUnit := .merge (core / 32)

/-- Ranges of a gather (R422): its list, and its output rows. -/
def gatherTouch (c : Ctx) : Cm (List Touch) := do
  let w ← winTouch false c
  pure (w ++ [(c.f 8 0 56, (c.f 5 0 25 - 1) * c.f 10 0 24 + 4096 * 4, true)])

def gatherDef (pool : Bool) : CmdDef :=
  { opc := if pool then 0x71 else 0x70, spec := gatherSpec pool, eu := rowUnit, run := rowRun gatherAddrs, touch := gatherTouch }
def popDef : CmdDef :=
  { opc := 0x75, spec := popSpec, eu := rowUnit, run := rowRun popAddrs, touch := fun c => pure [(c.f 6 0 56, 16 * (c.f 8 0 19 + 1), true)] }
def moveDef : CmdDef := { opc := 0x74, spec := moveSpec, eu := rowUnit, run := rowRun moveAddrs }

/-- ROW_GATHER (R204 to R207, R214). -/
def execRowGather (t : Thr) (b : Body) (s : State) : Host.Outcome State Fault Refusal := .next (issueCmd t b (gatherDef false) s)
/-- ROW_GATHER_POOL (R204, R208, R214). -/
def execRowGatherPool (t : Thr) (b : Body) (s : State) : Host.Outcome State Fault Refusal := .next (issueCmd t b (gatherDef true) s)
/-- ROW_POP_READ (R221). -/
def execRowPopRead (t : Thr) (b : Body) (s : State) : Host.Outcome State Fault Refusal := .next (issueCmd t b popDef s)
/-- ROW_MOVE (R222). -/
def execRowMove (t : Thr) (b : Body) (s : State) : Host.Outcome State Fault Refusal := .next (issueCmd t b moveDef s)

/-! ### Merge windows (R343, R347) -/

def mergeFull : Nat := 0x0136
def mergeOriginReused : Nat := 0x0137
def mergeKeyReused : Nat := 0x0138
def stepAborted : Nat := 0x0139
def stageOverflow : Nat := 0x013A
def prmInvalid : Nat := 0x013B

/-- Key of a window at the merge unit of Pavilion p. -/
def winKey (p t : Nat) (step : BitVec 32) : Nat := p * 512 + t * 2 + step.toNat % 2
/-- Key of what a module keeps once for a window: its origins and flush keys. -/
def tblKey (t : Nat) (step : BitVec 32) : Nat := t * 2 + step.toNat % 2

/-- Log use of a merge unit: key entries, and bytes of the row log (R347). -/
def logUsed (s : State) (p : Nat) : Nat × Nat :=
  (s.mwins.filter (fun e => e.1 / 512 = p)).foldl (fun n e => (n.1 + e.2.length, n.2 + (e.2.map (fun x => ceilDiv (4 * x.g.length) 64 * 64)).foldl (· + ·) 0)) (0, 0)

/-- A merge unit accepts a contribution (R347). -/
def contribute (c : Ctx) (t x : Nat) (step : BitVec 32) (k : Contrib) : Cm Unit := do
  let s ← get
  let p := x % 16
  if p ≠ c.pav then
    holdIf (pavAsleep s p)
    let service := if domFenced s (dPav p) then .fenced else if domResetting s (dPav p) || domResetting s (dPage (pg clsROW p)) then .resetting else Service.inService
    faultIf (service = .fenced) { code := fUncorrectable, detail := resource p 9 0 }
    if service = .resetting then
      modify (fun s => taint s step)
      failWith fWriteFenced
  let l := s.mwins.get [] (winKey p t step)
  let used := logUsed s p
  if decide (used.1 ≥ 2 ^ 24) || decide (used.2 + ceilDiv (4 * k.g.length) 64 * 64 > 1792 * 2 ^ 20) ||
      (!l.any (fun e => e.id == k.id) && decide ((l.map (·.id)).eraseDups.length ≥ 1048576)) then
    modify (fun s => bump (taint s step) (pg clsROW p) 0xDC)
    failWith mergeFull
  modify (fun s => updSlot { s with mwins := s.mwins.put [] (winKey p t step) (k :: l) } c.key (fun t => { t with contributed := if t.contributed.contains step then t.contributed else step :: t.contributed }))
  count (pg clsROW p) 0xA0
  ownOp c (fun o => { o with grants := (List.range 16).map (fun q => o.grants.getD q 0 + b2n (q == p)) })

/-! ### ROW_SCATTER (R344 to R348) -/

/-- Operand words of ROW_SCATTER (R344). -/
def scatterSpec : CmdSpec :=
  { fields := [(4, 0, 14), (4, 16, 16), (5, 0, 25), (6, 0, 56), (8, 0, 56), (10, 0, 24), (11, 0, 32), (12, 0, 56), (14, 0, 56)],
    bad := fun w =>
      let pool := cf w 4 11 2
      [(at_ 4 8, cf w 4 8 2 == 3 || (pool != 0 && cf w 4 8 2 != 0)), (at_ 4 11, pool == 3), (at_ 4 13, pool == 0 && cf w 4 13 1 != 0),
       (at_ 5 0, cf w 5 0 25 == 0 || decide (cf w 5 0 25 > 2 ^ 24)), (at_ 10 0, cf w 10 0 24 % 4 != 0), (at_ 11 0, cf w 11 0 32 == 0),
       (at_ 12 0, pool == 0 && cf w 4 8 2 != 2 && cf w 12 0 56 != 0), (at_ 14 0, cf w 4 13 1 == 0 && cf w 14 0 56 != 0)] }

/-- A gradient row as FP32 bits (R345). -/
def gradRow (c : Ctx) (e i : Nat) : Cm (List Nat) := do
  let n := if c.b 4 10 then 2 else 4
  let v ← readNat c (c.f 8 0 56 + i * c.f 10 0 24) (n * e)
  pure ((List.range e).map (fun j => if n = 2 then bitsOf v (16 * j) 16 * 65536 else bitsOf v (32 * j) 32))

/-- Is a step open and unsealed at the module? -/
def stepOpen (s : State) (step : BitVec 32) : Bool := match stepOf s step with | some x => x.phase == .opened | none => false

/-- The contribution of list position i from gradient row j, in a bag of n positions (R345, R346). -/
def scatterOne (c : Ctx) (tb : Table) (step : BitVec 32) (i j n : Nat) : Cm Unit := do
  let s ← get
  let id ← listId c (c.f 4 8 2) (c.f 6 0 56) (c.f 12 0 56) i
  match tb.index id with
  | none =>
    if bitOf (actN s (pg clsROW c.pav) 0x108) 0 then count (pg clsROW c.pav) 0xD4 else failWith rowIdRange
  | some (_, x) => do
    let g ← gradRow c tb.elems j
    let g ← if c.b 4 13 then do
        let w ← readNat c (c.f 14 0 56 + 4 * i) 4
        pure (g.map (mul32 w))
      else pure g
    let g := if c.f 4 11 2 = 2 then g.map (fun v => divBy v n) else g
    contribute c (c.f 4 0 8) x step { id, origin := c.f 4 16 16, pos := i, g }

/-- A fault after the first contribution of a scatter taints its step (R376). -/
def taintLate (c : Ctx) (step : BitVec 32) (work : Cm Unit) : Cm Unit := fun s =>
  match work s with
  | .ok a s' => .ok a s'
  | .error f s' =>
    .error f (if 0 < ((getOp s' c.op).map (fun o => o.grants.foldl (· + ·) 0)).getD 0 ∧ f.code < holdCode then taint s' step else s')

/-- The contributions of a scatter, one a row or one a row of each bag (R339). -/
def scatterAll (c : Ctx) (tb : Table) (step : BitVec 32) : Cm Unit := do
  if c.f 4 11 2 = 0 then each (fun i => scatterOne c tb step i i 1) (List.range (c.f 5 0 25))
  else do
    let offs ← bagOffsets c
    each (fun b => each (fun k => scatterOne c tb step (offs.getD b 0 + k) b (offs.getD (b + 1) 0 - offs.getD b 0))
      (List.range (offs.getD (b + 1) 0 - offs.getD b 0))) (List.range (c.f 5 0 25))

/-- A command asks its merge units for grants, and has one at once where none is in service (R135, R348); the units that it waits for. -/
def takeGrants (c : Ctx) : Cm Nat := do
  let s ← get
  let g := ((getOp s c.op).map (·.grants)).getD []
  let units := pavs.filter (fun p => decide (0 < g.getD p 0))
  ownOp c (fun o => { o with holds := units.filter (fun p => !(opList s).any (fun e => e.1 != c.op && e.2.holds.contains p)) })
  pure units.length

/-- With no grant of merge unit p in service the next one is given: by priority, and then age (R135, R348). -/
def mergeTurn (s : State) (p : Nat) : State :=
  if (opList s).any (fun e => e.2.holds.contains p) then s
  else match pickOp s ((opList s).filter (fun e => decide (0 < e.2.grants.getD p 0))) with
    | some (id, _) => updOp s id (fun o => { o with holds := p :: o.holds })
    | none => s

/-- The merge units work off what fits the grants that a command holds, and give the next ones. -/
def mergeFinish (s : State) (id : Nat) : State :=
  let s := pavs.foldl mergeTurn s
  match getOp s id with
  | some o =>
    let done := o.holds.filter (fun p => decide (o.grants.getD p 0 ≤ actN s (pg clsROW p) 0x810))
    let s := updOp s id (fun o =>
      { o with holds := o.holds.filter (fun p => !done.contains p), grants := o.grants.zipIdx.map (fun e => if done.contains e.2 then 0 else e.1)
               waits := o.waits - done.length })
    done.foldl mergeTurn s
  | none => s

/-- ROW_SCATTER's effect (R344 to R348). -/
def scatterRun (c : Ctx) : Cm Stand := do
  let s ← get
  let t := c.f 4 0 8
  let step := BitVec.ofNat 32 (c.f 11 0 32)
  faultIf (c.f 6 0 56 % (if c.f 4 8 2 = 2 then 4 else 8) ≠ 0) { code := fMisaligned, addr := c.f 6 0 56 }
  faultIf (c.f 8 0 56 % 4 ≠ 0) { code := fMisaligned, addr := c.f 8 0 56 }
  faultIf (c.f 12 0 56 % (if c.f 4 11 2 ≠ 0 then 4 else 8) ≠ 0) { code := fMisaligned, addr := c.f 12 0 56 }
  faultIf (c.f 14 0 56 % 4 ≠ 0) { code := fMisaligned, addr := c.f 14 0 56 }
  faultIf (!ownSpNear s (c.f 8 0 56)) { code := fNotPermitted, addr := c.f 8 0 56 }
  let tb := table s c.pav t
  failIf (!tb.valid || tb.frozen) rowTableInvalid
  faultIf (c.f 10 0 24 < tb.elems * (if c.b 4 10 then 2 else 4)) { code := fReservedField, pos := at_ 10 0 }
  failIf (!stepOpen s step) rowStepOrder
  failIf ((s.origins.get [] (tblKey t step)).contains (c.f 4 16 16)) mergeOriginReused
  modify (fun s => { s with origins := s.origins.upd [] (tblKey t step) (fun l => c.f 4 16 16 :: l) })
  taintLate c step (scatterAll c tb step)
  let n ← takeGrants c
  pure (.later n)

/-- Ranges of a scatter (R422). -/
def scatterTouch (c : Ctx) : Cm (List Touch) := winTouch false c

def scatterDef : CmdDef := { opc := 0x72, spec := scatterSpec, eu := mergeUnit, run := scatterRun, touch := scatterTouch }
/-- ROW_SCATTER (R344 to R348). -/
def execRowScatter (t : Thr) (b : Body) (s : State) : Host.Outcome State Fault Refusal := .next (issueCmd t b scatterDef s)

/-- Is a grant of merge unit p in service (R373)? -/
def grantBusy (s : State) (p : Nat) : Bool := (opList s).any (fun e => e.2.holds.contains p)

/-- The grant in service at merge unit p reaches MERGE_GRANT contributions: the rest of its holder's is queued again (R135, R348). -/
def mergeSplit (s : State) (p : Nat) : State :=
  let s := mergeTurn s p
  let grant := actN s (pg clsROW p) 0x810
  match (opList s).find? (fun e => e.2.holds.contains p && decide (e.2.grants.getD p 0 > grant)) with
  | some (id, _) =>
    mergeTurn (bump (updOp s id (fun o => { o with grants := o.grants.set p (o.grants.getD p 0 - grant), holds := o.holds.filter (· != p) }))
      (pg clsROW p) 0xEC) p
  | none => s

/-- MERGE_GRANT_SPLIT (R348). -/
def execMergeGrantSplit (p : Fin 16) (s : State) : Host.Outcome State Fault Refusal := .next (mergeSplit s p)
/-! ### ROW_MERGE_FLUSH (R349 to R351, R365) -/

/-- Operand words of ROW_MERGE_FLUSH (R349). -/
def flushSpec : CmdSpec :=
  { fields := [(4, 0, 9), (5, 0, 32), (6, 0, 32)],
    bad := fun w => [(at_ 4 1, cf w 4 0 1 == 1 && decide (cf w 4 1 8 ≥ 64)), (at_ 5 0, cf w 5 0 32 == 0), (at_ 6 0, cf w 4 0 1 == 1 && cf w 6 0 32 != 0)] }

/-- Order of contributions: id, ORIGIN, position (R350). -/
def contribLe (a b : Contrib) : Bool :=
  let k (x : Contrib) : Nat := (x.id * 2 ^ 16 + x.origin) * 2 ^ 32 + x.pos
  decide (k a ≤ k b)

/-- One row for each id of a sorted window: id, contribution count, G (R350). -/
def mergeFrom : Option (Nat × Nat × List Nat) → List Contrib → List (Nat × Nat × List Nat)
  | none, [] => []
  | some a, [] => [a]
  | none, x :: l => mergeFrom (some (x.id, 1, x.g)) l
  | some a, x :: l => if a.1 = x.id then mergeFrom (some (a.1, a.2.1 + 1, addRows a.2.2 x.g)) l else a :: mergeFrom (some (x.id, 1, x.g)) l

/-- Words of an update's message: the header's 24 bytes, the element count, the row. -/
def updateWords (r : StageRec) : List DWord :=
  wordsOf (bytesOf (stageHead r) 24 ++ bytesOf r.g.length 8 ++ rowBytes32 r.g) (r.g.length / 2 + 5)

/-- Send an update's message to its home. -/
def updateOut (s : State) (tag m prio cls pav : Nat) (r : StageRec) : State × Bool :=
  sendPieces s { dst := m, cls, prio, mtype := 7, die := pav, stream := 1538, tag := tag % 65536 } false (r.g.length / 62 + 2) (updateWords r)

/-- Send one update to its row's home module, in gather/scatter class (R350), once an entry of a reorder table is free (R387). -/
def sendUpdate (c : Ctx) (tb : Table) (r : StageRec) : Cm Unit := do
  let s ← get
  let m := match tb.index r.id with | some (g, _) => homeModule s g | none => ownId s
  let own := standIn s m = ownId s
  -- an update of this module's own has its row's address, by which it passes through an Orangery
  let a := if own then (mapRow s (resolver s r.tbl r.id) r.tbl r.id).getD 0 else 0
  let q : Req := { kind := .rowUpdate, home := if own then dPav r.pav else dRemote m, slot := some c.key, op := some c.op, addr := m * 2 ^ 44 + a,
                   cls := 2, words := [stageHead r, leNat (rowBytes32 r.g), r.g.length] }
  let wait := !mayLeave s q
  let (s, tag) := addReq (bump s (pg clsROW r.pav) 0xA8) (if wait then { q with st := .held } else q)
  if wait ∨ own then set s
  else match updateOut s tag m (effPrio s c.key) 2 r.pav r with
    | (s, true) => set s
    | (s, false) => do
      set s
      throw { code := fUnreachable, detail := resource 20 14 m }

/-- Flush one merge unit's window, whose contributions it serves in grants (R348); answers the updates sent (R350). -/
def flushUnit (c : Ctx) (t : Nat) (step : BitVec 32) (p : Nat) : Cm Nat := do
  let s ← get
  let n := (s.mwins.get [] (winKey p t step)).length
  ownOp c (fun o => { o with grants := (List.range 16).map (fun q => if q = p then n else o.grants.getD q 0) })
  let s ← get
  let rows := mergeFrom none ((s.mwins.get [] (winKey p t step)).mergeSort contribLe)
  modify (fun s => { s with mwins := s.mwins.put [] (winKey p t step) [] })
  let me := ownId s
  each (fun (r : Nat × Nat × List Nat) =>
    sendUpdate c (table s p t) { step, tbl := t, id := r.1, key := c.f 6 0 32, src := me, pav := p, count := r.2.1, g := r.2.2, addr := 0 }) rows
  pure rows.length

/-- The records of a dense region's gradient buffer (R365, R368). -/
def denseRecords (c : Ctx) (r : Nat) (step : BitVec 32) : Cm Nat := do
  let s ← get
  let g := region s r
  let n := ceilDiv g.elems 16384
  each (fun k => do
    let len := min 16384 (g.elems - 16384 * k)
    let l ← readLocal (unitOf g.base) (g.grad + 65536 * k) (4 * len)
    modify (fun s => journal s (unitOf g.base) 2 step (r + 16384 * k * 2 ^ 64) l [1, c.op])) (List.range n)
  pure n

/-- ROW_MERGE_FLUSH's effect (R349, R350, R365). -/
def flushRun (c : Ctx) : Cm Stand := do
  let s ← get
  let t := c.f 4 1 8
  let step := BitVec.ofNat 32 (c.f 5 0 32)
  if c.b 4 0 then
    failIf (!(region s t).valid) prmInvalid
    failIf (!stepOpen s step) rowStepOrder
    modify (fun s => updStep s step (fun x => { x with regions := (t :: x.regions).eraseDups }))
    let n ← denseRecords c t step
    pure (.later n)
  else
    let tb := table s c.pav t
    failIf (!tb.valid || tb.frozen) rowTableInvalid
    failIf (!stepOpen s step) rowStepOrder
    failIf ((s.flushKeys.get [] (tblKey t step)).contains (c.f 6 0 32)) mergeKeyReused
    modify (fun s => { s with flushKeys := s.flushKeys.upd [] (tblKey t step) (fun l => c.f 6 0 32 :: l), origins := s.origins.put [] (tblKey t step) [] })
    let ns ← collect (flushUnit c t step) pavs
    onDone c (pg clsROW c.pav) 0xD0
    let n ← takeGrants c
    pure (.later (ns.foldl (· + ·) 0 + n))

/-- A faulted flush taints its step (R376), unless the step is not one of the module's. -/
def flushTaint (c : Ctx) : Cm Stand := fun s =>
  match flushRun c s with
  | .ok a s' => .ok a s'
  | .error f s' => .error f (if f.code < holdCode then taint s' (BitVec.ofNat 32 (c.f 5 0 32)) else s')

def flushDef : CmdDef := { opc := 0x73, spec := flushSpec, eu := mergeUnit, run := flushTaint }
/-- ROW_MERGE_FLUSH (R349 to R351, R365). -/
def execRowMergeFlush (t : Thr) (b : Body) (s : State) : Host.Outcome State Fault Refusal := .next (issueCmd t b flushDef s)

/-! ### Updates answered (R351, R353, R355, R641) -/

/-- Step of an update's words. -/
def updateStep (r : Req) : BitVec 32 := BitVec.ofNat 32 (bitsOf (r.words.getD 0 0) 64 32)
/-- Merge unit of an update's words. -/
def updatePav (r : Req) : Nat := bitsOf (r.words.getD 0 0) 140 4

/-- An update is answered: acknowledged, refused by a full bank, held for want of a bank, or failed (R353, R355, R356, R376). -/
def updateAnswer (s : State) (tag : Nat) (r : Req) (st : Status) (code : Nat) : State :=
  let fail (s : State) (f : FaultInfo) : State := faultReq (taint s (updateStep r)) tag r f
  match st, code with
  | .ok, 0 => (match r.op with | some o => opAnswered (dropReq s tag) o | none => dropReq s tag)
  | .ok, 1 => fail (bump s (pg clsROW (updatePav r)) 0xE0) { code := stageOverflow }
  | .ok, _ => updReq (bump s (pg clsROW (updatePav r)) 0xE0) tag (fun r => { r with st := .busy })
  | .fenced, _ => fail s { code := fWriteFenced, addr := r.addr }
  | .uncorrectable, _ => fail s { code := fUncorrectable, detail := reqResource s r }
  | .unreachable, _ => fail s { code := fUnreachable, detail := reqResource s r }

/-- Held updates to one home module are sent in the order in which they were held (R641). -/
def firstHeld (s : State) (tag : Nat) (r : Req) : Bool :=
  !(reqList s).any (fun e => e.2.kind == .rowUpdate && e.2.st == .busy && gMod e.2.addr == gMod r.addr && updatePav e.2 == updatePav r && decide (e.1 < tag))

/-- Is a bank of its home free for the held update? Another module's home is asked by sending the update again. -/
def bankFree (s : State) (r : Req) : Bool :=
  if isOwn s r.addr then
    let head := r.words.getD 0 0
    let (s, u, _) := updateUnit s (bitsOf head 40 8) (bitsOf head 0 40)
    let l := banksUsed (homeUnit s u)
    l.contains (updateStep r) || decide (l.length < 3)
  else true

/-- STAGED_UPDATE_RELEASE (R353, R641): a held update is sent once a bank is free. -/
def execStagedUpdateRelease (tag : Nat) (s : State) : Host.Outcome State Fault Refusal :=
  .next (match getReq s tag with
    | some r =>
      if r.kind = .rowUpdate ∧ r.st = .busy ∧ firstHeld s tag r ∧ bankFree s r ∧ mayLeave s r then
        let s := updReq s tag (fun r => { r with st := .sent })
        if isOwn s r.addr then s
        else (updateOut s tag (gMod r.addr) ((r.slot.map (effPrio s)).getD 0) r.cls (updatePav r)
          (recOf (r.words.getD 0 0) (r.words.getD 1 0) (r.words.getD 2 0))).1
      else s
    | none => s)

end Sys2Proof.Machine
end

