-- ==== Sys2Proof/Machine/Apply.lean ====
section
/-!
DEFINITION. A step is applied at its homes (R360 to R363, R366), with the stages of its moves (R223), and ends at the module (R363).
-/
namespace Sys2Proof.Machine
open Sys2Proof

/-! ### Optimizers (R360, R361) -/

/-- b to the power t, within 2 ulp (R360). -/
def pow32 (b t : Nat) : Nat :=
  let v := of32 b
  let mag := if t = 0 then Val.one else if v.isZero then Val.zero else (v.abs.ln.mul (Val.ofInt t)).exp
  near .pow 2 b t (if v.sign && t % 2 == 1 then mag.neg else mag)

/-- Optimizer fields as captured: OPT, LR, B1, B2, EPS, WD (R360). -/
structure Opt where
  opt : Nat
  lr : Nat
  b1 : Nat
  b2 : Nat
  eps : Nat
  wd : Nat
deriving DecidableEq, Repr

/-- The optimizer of captured fields. -/
def optOf (l : List Nat) : Opt :=
  { opt := l.getD 0 0 % 4, lr := l.getD 1 0, b1 := l.getD 2 0, b2 := l.getD 3 0, eps := l.getD 4 0, wd := l.getD 5 0 }

/-- w − lr · (u + wd · w). -/
def Opt.move (o : Opt) (w u : Nat) : Nat := sub32 w (mul32 o.lr (add32 u (mul32 o.wd w)))

/-- Bytes of state of a row or region of e elements (R360). -/
def Opt.stateLen (o : Opt) (e : Nat) : Nat := optStateLen o.opt e
/-- Place of the state of the row at index x. -/
def Opt.stateOff (o : Opt) (e x : Nat) : Nat := optStateOff o.opt e x

/-- The new elements and the new state, from the stored elements, the gradient row, the clip factor and the state as a number (R360). -/
def Opt.run (o : Opt) (c : Nat) (w g : List Nat) (st : Nat) : List Nat × List Byte :=
  let e := w.length
  let g := g.map (mul32 c)
  let one := 0x3F800000
  match o.opt with
  | 1 =>
    let a := add32 st (divBy (to32 (ofFa40 (laneSum (g.map (fun v => sq (of32 v)))))) e)
    let d := add32 (sqrt32 a) o.eps
    ((w.zip g).map (fun p => o.move p.1 (div32 p.2 d)), bytesOf a 4)
  | 2 =>
    let t := (bitsOf st (64 * e) 32 + 1) % 2 ^ 32
    let (k1, k2) := (sub32 one o.b1, sub32 one o.b2)
    let (bc1, bc2) := (sub32 one (pow32 o.b1 t), sub32 one (pow32 o.b2 t))
    let l := ((w.zip g).zipIdx).map (fun p =>
      let gj := p.1.2
      let m := add32 (mul32 o.b1 (bitsOf st (32 * p.2) 32)) (mul32 k1 gj)
      let v := add32 (mul32 o.b2 (bitsOf st (32 * (e + p.2)) 32)) (mul32 k2 (mul32 gj gj))
      let u := div32 (div32 m bc1) (add32 (sqrt32 (div32 v bc2)) o.eps)
      (o.move p.1.1 u, m, v))
    (l.map (·.1), rowBytes32 (l.map (·.2.1)) ++ rowBytes32 (l.map (·.2.2)) ++ bytesOf t 4)
  | _ => ((w.zip g).map (fun p => o.move p.1 p.2), [])

/-- A row's bytes in a width class (R361). -/
def writeback (cls : Nat) (sr : Nat → Option Nat) (w : List Nat) : List Byte :=
  if cls = 0 then rowBytes32 w else (encodeRow (classCode cls) false sr (w.map of32)).1

/-- Does a row hold an infinity or a NaN? -/
def nonfinite (w : List Nat) : Bool := w.any (fun v => !(of32 v).isFin)

/-- Random bits of a row's writeback (R361). -/
def rowSr (on : Bool) (seed : Nat) (step : BitVec 32) (t id j : Nat) : Option Nat := srOf on seed step.toNat (t * 2 ^ 52 + id * 2 ^ 12 + j)

/-- Capture a table's optimizer fields from a ROW page. -/
def captureTable (s : State) (p t : Nat) : List Nat :=
  [0x208, 0x20C, 0x210, 0x214, 0x218, 0x21C].map (fun o => actN s (pg clsROW p) o t) ++ [actAddr s (pg clsROW p) 0x224 t, actAddr s (pg clsROW p) 0x22C t]
/-- Capture a region's optimizer fields. -/
def captureRegion (s : State) (r : Nat) : List Nat :=
  [(region s r).opt + 4 * b2n (region s r).wbSr] ++ [0x2A8, 0x2AC, 0x2B0, 0x2B4, 0x2B8].map (fun o => actN s (pg clsROW 0) o r) ++ [(region s r).state, 0]

/-- The fields that a COMMIT captures for its staged tables and regions (R360). -/
def captureOpts (s : State) (x : StepSt) : List (Nat × List Nat) :=
  pavs.flatMap (fun p => x.sums.map (fun e => (p * 256 + e.1, captureTable s p e.1))) ++ x.regions.map (fun r => (4096 + r, captureRegion s r))

/-- Captured fields at a key. -/
def StepSt.fields (x : StepSt) (k : Nat) : List Nat := ((x.opts.find? (fun e => e.1 == k)).map (·.2)).getD []

/-! ### Applying at a home unit (R362, R366) -/

/-- Page whose captured table fields a unit uses: its Pavilion's, or Pavilion 0's for a far home. -/
def unitPav (u : Nat) : Nat := if u < 16 then u else 0

/-- How an item of an apply fares: applied, left as it is, or to be gone on with after a reset. -/
inductive Applied where
  | done | left | blocked
deriving DecidableEq, Repr

/-- The service that two spans need. -/
def bothServe (s : State) (a n b m : Nat) : Service :=
  match spanService s a n, (if m = 0 then .inService else spanService s b m) with
  | .fenced, _ => .fenced | _, .fenced => .fenced | .inService, .inService => .inService | _, _ => .resetting

/-- Write the row and the state that a home's redo slot holds (R362). -/
def writeRedo (s : State) (u : Nat) (r : Redo) : State :=
  let s := countMem s u r.row r.bytes.length true 2
  let s := if r.stBytes = [] then s else wrBytes (countMem s u r.state r.stBytes.length true 2) r.state r.stBytes
  wrBytes s r.row r.bytes

/-- Apply one row (R360 to R362): it is computed into the redo slot, and written from it. Rows whose memory is lost are left as they are: they are rebuilt (R369). -/
def applyRow (s : State) (u : Nat) (x : StepSt) (r : StageRec) : State × Applied :=
  let (s, ra) := resolveRow s (resolver s r.tbl r.id) r.tbl r.id
  match ra, (table s (unitPav u) r.tbl).index r.id with
  | .resetting a, _ => (noteFenced s u a, .blocked)
  | .row ra, some (_, ix) =>
    let f := x.fields (unitPav u * 256 + r.tbl)
    let o := optOf f
    let e := ra.elems
    let n := classBytes ra.cls e
    let sa := f.getD 6 0 + o.stateOff e ix
    let sn := o.stateLen e
    match bothServe s ra.addr n sa sn with
    | .resetting => (s, .blocked)
    | .fenced => (s, .left)
    | .inService =>
      let (s, bad) := meets s ra.addr n false
      let (s, badSt) := meets s sa sn false
      if bad || badSt then (s, .left)
      else
        let w := (decodeRow ra.cls e (rdN s ra.addr n)).1
        let c := ((x.clips.find? (fun k => k.1 == r.tbl)).map (·.2)).getD 0x3F800000
        let (w', st') := o.run c w r.g (rdN s sa sn)
        let redo : Redo := { row := ra.addr, bytes := writeback ra.cls (rowSr (bitOf (f.getD 0 0) 2) (f.getD 7 0) x.num r.tbl r.id) w',
                             state := sa, stBytes := st' }
        let s := countMem s u ra.addr n false 2
        let s := if sn = 0 then s else countMem s u sa sn false 2
        let s := writeRedo (updHome s u (fun h => { h with redo := some redo })) u redo
        let s := if nonfinite w' then bumpUnit s u 0xF0 0xAC else s
        (if u < 16 then bump s (pg clsROW u) 0xC8 else bump (bump s (pg clsFAR (u - 16)) 0x90) (pg clsFAR (u - 16)) 0x8C, .done)
  | _, _ => (s, .left)

/-- Element `j` of a region's values. -/
def regionElem (bf16 : Bool) (raw j : Nat) : Nat := if bf16 then bitsOf raw (16 * j) 16 * 65536 else bitsOf raw (32 * j) 32

/-- A region's new elements and state: the optimizer's step, with the random bits of its writeback, for which no seed is given, a free function of the
step, the region and the element. -/
def stepRegion (s : State) (x : StepSt) (k : Nat) : State :=
  let g := region s k
  let f := x.fields (4096 + k)
  let o := optOf f
  let e := g.elems
  let n := (if g.bf16 then 2 else 4) * e
  let sa := f.getD 6 0
  let sn := o.stateLen e
  let gr := rdN s g.grad (4 * e)
  let r := o.run x.denseClip ((List.range e).map (regionElem g.bf16 (rdN s g.base n))) ((List.range e).map (fun j => bitsOf gr (32 * j) 32)) (rdN s sa sn)
  let sr (j : Nat) : Option Nat := if bitOf (f.getD 0 0) 2 then some (Config.regionBits x.num.toNat k j).toNat else none
  let u := unitOf g.base
  let s := countMem (countMem (countMem s u g.base n false 2) u g.grad (4 * e) false 2) u g.base n true 2
  let s := countMem (countMem s u sa sn false 2) u sa sn true 2
  wrBytes (wrBytes s sa r.2) g.base (writeback (b2n g.bf16) sr r.1)

/-- The region is done with in this step. -/
def regionDone (s : State) (x : StepSt) (k : Nat) : State := updStep s x.num (fun x => { x with regionsDone := k :: x.regionsDone })

/-- Apply a region of which every atom has been read; one that meets a lost atom is left as it is (R369). -/
def readRegion (x : StepSt) (k : Nat) (y : State × Bool) : State × Applied :=
  if y.2 then (regionDone y.1 x k, .left) else (regionDone (stepRegion y.1 x k) x k, .done)

/-- Apply a dense region (R366), unless its memory is lost: then it is rebuilt (R369). -/
def applyRegion (s : State) (x : StepSt) (k : Nat) : State × Applied :=
  let g := region s k
  let f := x.fields (4096 + k)
  let e := g.elems
  let n := (if g.bf16 then 2 else 4) * e
  let sa := f.getD 6 0
  let sn := (optOf f).stateLen e
  let v := bothServe s g.base n sa sn
  let vg := spanService s g.grad (4 * e)
  if v = .fenced ∨ vg = .fenced then (regionDone s x k, .left)
  else if v = .resetting ∨ vg = .resetting then (s, .blocked)
  else readRegion x k (meetsAny [(g.base, n), (g.grad, 4 * e), (sa, sn)] s)

/-- The new bytes of a moved row (R223 stage 1): a copy within one class, else converted. -/
def moveRow (s : State) (src dst e a : Nat) (sr : Nat → Option Nat) : List Byte :=
  let n := classBytes src e
  if src = dst then rdBytes s a n else writeback dst sr (decodeRow src e (rdN s a n)).1

/-- Move the rows of a block, which Pavilion p's row engine copies in class `c`; the rows' new bytes (R222, R223, R394). -/
def moveRows (p c : Nat) (tb : Table) (src dst from' dest : Nat) (sr : Nat → Nat → Option Nat) (id0 : Nat) : Nat → Cm (List Byte)
  | 0 => pure []
  | n + 1 => do
    let l ← moveRows p c tb src dst from' dest sr id0 n
    let a := from' + n * classStride src tb.elems
    let b := dest + n * classStride dst tb.elems
    let _ ← readLocal p a (classBytes src tb.elems) c
    let s ← get
    let bytes := moveRow s src dst tb.elems a (sr (id0 + n))
    writeLocal p b bytes c
    if src = dst then pure ()
      else if isFar s a then count (pg clsFAR (farOrang a)) 0x8C else if isFar s b then count (pg clsFAR (farOrang b)) 0x8C else pure ()
    pure (l ++ bytes)

/-- One block of a move is done, its source span staged until the command completes (R223); the move is, once its last one is (R224). -/
def moveDone (s : State) (id : Nat) (src : List Range) : State :=
  let w := (s.moves.get none id).getD { left := 1 }
  let s := { s with moves := s.moves.put none id (some { left := w.left - 1, src := src ++ w.src }) }
  if w.left ≤ 1 then opAnswered s id else s

/-- A copy that fails, as one to a domain under reset does, faults the move, and taints its step (R394, R590); a rebuilt move has no task. -/
def moveFail (s : State) (step : BitVec 32) (id : Nat) (o : Op) (f : FaultInfo) : State :=
  match o.slot with
  | some key => taint (engineFault s key o.opcode f (some id)) step
  | none => s

/-- Every copy of the block map names a moved block's new place, but for those in a Pavilion whose memory is fenced (R223 stage 3). -/
def moveMap (p c t b e' : Nat) : Cm Unit := do
  let s ← get
  each (fun q => do
    let a := (table s q t).entryAddr q b
    if memService s a = .fenced then pure ()
    else do
      writeLocal p a (bytesOf e' 8) c
      count (pg clsROW q) 0x98) pavs
  modify (fun s => dropBlocks s (fun k => k == blockKey t b))

/-- Copy the rows of a block to `dest` in class `dst` (R223 stage 1). -/
def moveCopy (p c u : Nat) (step : BitVec 32) (t b : Nat) (tb : Table) (e dst dest n : Nat) : Cm (List Byte) := do
  let s ← get
  let f := captureTable s (unitPav u) t
  let id0 := tb.idFirst + roleCoord s 3 * tb.partSize + b * 2 ^ tb.shift
  moveRows p c tb (entryClass e) dst (entryBase e) dest (rowSr (bitOf (f.getD 0 0) 2) (f.getD 7 0) step t) id0 n

/-- Write the rows of a block from their journalled values, which stand packed, at a stride. -/
def writeValues (p c dest len stride : Nat) (values : List Byte) : Nat → Cm Unit
  | 0 => pure ()
  | n + 1 => do
    writeValues p c dest len stride values n
    writeLocal p (dest + n * stride) ((values.drop (n * len)).take len) c

/-- The home units that a block's rows lie in, by its entry; Pavilion p where the entry names no rows (R223, R353). -/
def blockUnits (s : State) (tb : Table) (p e : Nat) : List Nat :=
  let sp := blockSpan tb e
  if !bitOf e 40 || blockInconsistent s tb e then [p] else [unitOf sp.1, unitOf (sp.1 + sp.2 - 1)].eraseDups

/-- The blocks of the pending moves of a step that are not moved yet: command, block, home units. -/
def stepBlocks (s : State) (step : BitVec 32) : List (Nat × Nat × List Nat) :=
  (pendingMoves s).flatMap (fun e =>
    let w := e.2.cmd.toNat
    let p := match e.2.eu with | .row p => p | _ => 0
    let tb := table s p (cf w 4 0 8)
    if cf w 10 0 32 ≠ step.toNat then []
    else ((List.range (cf w 7 0 17)).map (cf w 5 0 34 + ·)).filterMap (fun b =>
      if s.moved.contains (step, cf w 4 0 8, b) then none else some (e.1, b, blockUnits s tb p (blockEntry s tb p b))))

/-- Has a home unit applied every update of a step? -/
def rowsApplied (s : State) (u : Nat) (step : BitVec 32) : Bool :=
  let h := homeUnit s u
  h.applied == step || (match h.work with | some w => w.step == step && w.rows.isEmpty | none => false)

/-- Is a block to be moved, with the updates of its rows in every home unit applied (R223)? -/
def blockReady (s : State) (step : BitVec 32) (x : Nat × Nat) : Bool :=
  (stepBlocks s step).all (fun y => !(y.1 == x.1 && y.2.1 == x.2) || y.2.2.all (fun u => rowsApplied s u step))

/-- The place of a block's MOVE_VALUES record, in its header: the table in byte 24, the block as a u64 at 32 (DESIGN CHOICE, log entry 37). -/
def moveOwn (t b : Nat) : Nat := t + b * 2 ^ 64

/-- Move block b of a move (R223 stages 1 to 3): its rows, their journal record, and its entry in every copy of the block map. A rebuild's
`val`, the block's MOVE_VALUES, stands in place of the source (R368). The source span; none for an entry that is not VALID. -/
def moveStages (p cls u : Nat) (step : BitVec 32) (t b dst dest0 first : Nat) (val : Option (List Byte)) : Cm (Option Range) := do
  let s ← get
  let tb := table s p t
  -- a copy of the entry in a domain under reset is waited for
  holdIf (pavs.any (fun q => memService s ((table s q t).entryAddr q b) = .resetting))
  let l ← readLocal p (tb.entryAddr p b) 8 cls
  let e := leNat l
  let dest := dest0 + (b - first) * 2 ^ tb.shift * classStride dst tb.elems
  let n := min (2 ^ tb.shift) (tb.partSize - b * 2 ^ tb.shift)
  if !bitOf e 40 || blockInconsistent s tb e then pure none
  else do
    let values ← (match val with
      | some v => do
        writeValues p cls dest (classBytes dst tb.elems) (classStride dst tb.elems) v n
        pure v
      | none => moveCopy p cls u step t b tb e dst dest n)
    modify (fun s => journal s u 4 step (moveOwn t b) values [4])
    moveMap p cls t b (dest / 64 + dst * 2 ^ 38 + 2 ^ 40)
    pure (some (entryBase e, n * classStride (entryClass e) tb.elems))

/-- What moving a block ends in: entered in the committed update set, blocked, or a fault of its command (R223). -/
def concludeMove (s : State) (x : StepSt) (id : Nat) (o : Op) (t b : Nat) : EStateM.Result FaultInfo State (Option Range) → State × Applied
  | .ok src s' => (moveDone (if src.isSome then { s' with moved := (x.num, t, b) :: s'.moved } else s') id src.toList, .done)
  | .error f s' =>
    if f.code = holdCode ∨ f.code = fencedCode ∨ f.code = fWriteFenced ∧ o.slot.isNone then (s, .blocked)
    else (moveFail s' x.num id o f, .left)

/-- Move block b of a pending move, and enter it in the committed update set (R223); a domain under reset, or asleep, at its source stops it. -/
def moveBlock (s : State) (u : Nat) (x : StepSt) (val : Option (List Byte)) (id b : Nat) : State × Applied :=
  match getOp s id with
  | none => (s, .done)
  | some o =>
    let w := o.cmd.toNat
    let p := match o.eu with | .row p => p | _ => 0
    concludeMove s x id o (cf w 4 0 8) b
      (moveStages p (bitsOf w 8 2) u x.num (cf w 4 0 8) b (cf w 4 8 2) (cf w 8 0 44) (cf w 5 0 34) val s)

/-- Apply the items of a list until one is blocked; what is left of it, and which were applied. -/
def applyList {α : Type} (f : State → α → State × Applied) : List α → State → State × List α × List α
  | [], s => (s, [], [])
  | r :: l, s =>
    match f s r with
    | (s, .blocked) => (s, r :: l, [])
    | (s, .left) => applyList f l s
    | (s, .done) => let x := applyList f l s; (x.1, x.2.1, r :: x.2.2)

/-- The end of a unit's apply so far: what is left of its moves, and those that wait for another unit's updates. -/
def applyEnd (u : Nat) (w : Apply) (wait : List (Nat × Nat)) (c : State × List (Nat × Nat) × List (Nat × Nat)) : State :=
  updHome c.1 u (fun h => { h with work := some { w with moves := c.2.1 ++ wait, stopped := w.rows != [] || w.regions != [] || c.2.1 != [] } })

/-- A unit's moves, once its rows and regions are applied. -/
def applyMoves (u : Nat) (x : StepSt) (w : Apply) (b : State × List Nat × List Nat) : State :=
  let w := { w with regions := b.2.1 }
  if w.rows = [] ∧ b.2.1 = [] then
    -- the unit's own updates are applied
    let s := updHome b.1 u (fun h => { h with work := some w })
    let (ready, wait) := w.moves.partition (blockReady s x.num)
    applyEnd u w wait (applyList (fun s m => moveBlock s u x none m.1 m.2) ready s)
  else applyEnd u w [] (b.1, w.moves, [])

/-- A unit's regions, once its rows are applied. -/
def applyRegions (u : Nat) (x : StepSt) (w : Apply) (a : State × List StageRec × List StageRec) : State :=
  let w := { w with rows := a.2.1, did := w.did ++ a.2.2.map (fun r => (r.tbl, r.id)) }
  if a.2.1 = [] then applyMoves u x w (applyList (fun s => applyRegion s x) w.regions a.1) else applyMoves u x w (a.1, w.regions, [])

/-- Go on with a unit's apply: rows, then regions, then moves (R362, R366, R223). -/
def applyGo (s : State) (u : Nat) (x : StepSt) (w : Apply) : State := applyRegions u x w (applyList (fun s => applyRow s u x) w.rows s)

/-- The blocks of pending moves of a step that a unit moves: those whose first row it holds. A block that is not VALID is left to its row
engine's Pavilion. -/
def unitMoves (s : State) (u : Nat) (step : BitVec 32) : List (Nat × Nat) :=
  ((stepBlocks s step).filter (fun x => x.2.2.head? == some u)).map (fun x => (x.1, x.2.1))

/-- Does another unit still have to move a block of which a unit holds rows (R223)? -/
def movesElsewhere (s : State) (u : Nat) (step : BitVec 32) : Bool :=
  (stepBlocks s step).any (fun x => x.2.2.head? != some u && x.2.2.contains u)

/-- The step being applied at the module, if any. -/
def applying (s : State) : Option StepSt := s.steps.head?.bind (fun x => if x.phase = .applying ∧ x.confirmed then some x else none)

/-- Domain of a home unit's own block: its Pavilion, or its Orangery's first channel group. -/
def unitServes (s : State) (u : Nat) : Bool :=
  if u < 16 then (dom s (dPav u)).service == .inService else (dom s (dOrang (u - 16))).service == .inService

/-- APPLY_START (R362): a home unit begins to apply a committed step, once the COMMIT record is confirmed. -/
def execApplyStart (u : Fin 20) (s : State) : Host.Outcome State Fault Refusal :=
  .next (match applying s with
    | some x =>
      let h := homeUnit s u
      if h.work = none ∧ h.applied ≠ x.num ∧ unitServes s u then
        applyGo s u x { step := x.num, rows := (h.recs.filter (fun r => r.step == x.num)).mergeSort recLe,
                        regions := x.regions.filter (fun k => unitOf (region s k).base == u.val), moves := unitMoves s u x.num }
      else s
    | none => s)

/-- The row in a home's redo slot is written again, where its memory is served (R362). -/
def redoRow (s : State) (u : Nat) : State :=
  match (homeUnit s u).redo with
  | some r => if bothServe s r.row r.bytes.length r.state r.stBytes.length = .inService then writeRedo s u r else s
  | none => s

/-- APPLY_RESUME (R362): an apply that met a reset rewrites the row in the redo slot, and goes on at its cursor. -/
def execApplyResume (u : Fin 20) (s : State) : Host.Outcome State Fault Refusal :=
  .next (match applying s, (homeUnit s u).work with
    | some x, some w => if w.stopped ∧ unitServes s u then applyGo (redoRow (bumpUnit s u 0xF4 0xB0) u) u x w else s
    | _, _ => s)

/-- Moved values of a unit that the buddy has not confirmed (R223 stage 2). -/
def movesUnconfirmed (s : State) (u : Nat) (step : BitVec 32) : Bool :=
  (reqList s).any (fun e => e.2.kind == .journal && e.2.aop == 4 && e.2.words.getD 0 0 == u && e.2.words.getD 1 0 == step.toNat)

/-- Blocks of a unit that waited for another unit's updates are moved, where those are applied now (R223). -/
def movesOn (s : State) (u : Nat) : State :=
  match applying s, (homeUnit s u).work with
  | some x, some w => if w.step = x.num ∧ !w.stopped ∧ w.moves ≠ [] then applyMoves u x w (s, [], []) else s
  | _, _ => s

/-- HOME_APPLIED (R363): the unit's bank becomes its committed update set, A_h the step; held fetches and checks are served. -/
def execHomeApplied (u : Fin 20) (s : State) : Host.Outcome State Fault Refusal :=
  let s := movesOn s u
  .next (match applying s, (homeUnit s u).work with
    | some x, some w =>
      if w.step = x.num ∧ !w.stopped ∧ w.moves = [] ∧ !movesUnconfirmed s u x.num ∧ !movesElsewhere s u x.num then
        releaseRows (updHome s u (fun h =>
          { h with applied := x.num, set := w.did, setStep := x.num, recs := h.recs.filter (fun r => r.step != x.num), work := none, redo := none }))
      else s
    | _, _ => s)

/-! ### The end of a step (R36, R296, R363) -/

/-- Set bit 62 of the tasks whose step ends, and bit 63 of those whose step is applied (R36, R37). -/
def stepBits (s : State) (step : BitVec 32) (applied : Bool) : State :=
  s.slots.foldl (fun s e =>
    let t := e.2
    if t.st = .free then s
    else
      let b62 : DWord := if t.step = step then 1#64 <<< 62 else 0
      let b63 : DWord := if applied ∧ serialGe step t.step then 1#64 <<< 63 else 0
      if b62 ||| b63 = 0 then s else applySet s e.1 t.gen (b62 ||| b63)) s

/-- Loaded Hedge slots whose weight rows lie in a staged range become STALE (R296). -/
def staleSlots (s : State) : State :=
  let rs := stagedRanges s
  { s with hslots := s.hslots.mapAll {} (fun _ h =>
      let d := tdescOf h.wdesc.toNat
      let v := h.desc.toNat
      let staged (n : Nat) : Bool := rs.any (overlaps (gLoc (d.row (bitsOf v 64 24 + n)), rowBytes d.format d.cols))
      if h.loaded && isOwn s d.base && (List.range (bitsOf v 96 17)).any staged then { h with stale := true } else h) }

/-- What a module keeps for a step besides its stages ends with the step (R349, R545). -/
def clearStep (s : State) (step : BitVec 32) : State :=
  let par := step.toNat % 2
  { s with origins := s.origins.keep (fun k _ => k % 2 != par), flushKeys := s.flushKeys.keep (fun k _ => k % 2 != par),
           sqSlots := s.sqSlots.keep (fun k _ => k / 256 != par) }

/-- Is the committed step applied at every home unit, dense regions included (R363)? -/
def stepReady (s : State) : Option StepSt :=
  match applying s with
  | some x =>
    if (List.range 20).all (fun u => (homeUnit s u).applied == x.num) && x.regions.all (fun k => x.regionsDone.contains k) then some x else none
  | none => none

/-- A_m becomes the step; waiting gathers and checks go on (R214, R215, R363). -/
def stepApplied (s : State) (x : StepSt) : State :=
  let s := { s with applied := x.num, steps := s.steps.filter (fun y => y.num != x.num), replay := false,
                    moved := s.moved.filter (fun m => m.1 == x.num) }
  let s := staleSlots (clearStep (stepBits s x.num true) x.num)
  pavs.foldl rowPump s

/-- The module's part of STEP_ABORT for a step (R364, R224): windows and banks discarded, its scatters, flushes and moves faulted. -/
def stepDiscard (s : State) (step : BitVec 32) : State :=
  let named (o : Op) : Option Nat :=
    let w := o.cmd.toNat
    match o.opcode with
    | 0x72 => if cf w 11 0 32 = step.toNat then some stepAborted else none
    | 0x73 => if cf w 5 0 32 = step.toNat then some stepAborted else none
    | 0x74 => if cf w 10 0 32 = step.toNat then some rowMoveAborted else none
    | _ => none
  let s := { s with steps := s.steps.filter (fun y => y.num != step) }
  let s := (opList s).foldl (fun s e =>
    match getOp s e.1, named e.2 with
    | some o, some code => engineFault s (o.slot.getD 0) o.opcode { code } (some e.1)
    | _, _ => s) s
  let s := (List.range 20).foldl (fun s u =>
    let h := homeUnit s u
    bumpUnit (updHome s u (fun h => { h with recs := h.recs.filter (fun r => r.step != step) })) u 0xE8 0xA4
      (h.recs.filter (fun r => r.step == step)).length) s
  let s := { s with mwins := s.mwins.keep (fun k _ => k % 2 != step.toNat % 2) }
  clearStep (stepBits s step false) step

end Sys2Proof.Machine
end

