-- ==== Sys2Proof/Machine/Coll.lean ====
section
/-!
DEFINITION. Collectives (R542 to R547): the four commands, the pieces that travel between the participants of a ring, the sums formed
at a chunk's owner, and the ends of a collective.
-/
namespace Sys2Proof.Machine
open Sys2Proof

def colMismatch : Nat := 0x0180
def colSlotReused : Nat := 0x0181
def colStepOrder : Nat := 0x0182

/-! ### Signatures, participants and chunks (R542, R543) -/

/-- What every participant must name alike (R546), COUNT aside: opcode, AXIS, formats, SUMSQ_EN, ORDER_REQ, ROOT, PARTS. -/
def collSig (w : Nat) : Nat :=
  bitsOf w 0 8 + cf w 4 0 5 * 2 ^ 8 + cf w 4 13 1 * 2 ^ 13 + cf w 4 14 4 * 2 ^ 14 + cf w 6 0 16 * 2 ^ 18

namespace Coll
def opcode (x : Coll) : Nat := bitsOf x.sig 0 8
def axis (x : Coll) : Nat := bitsOf x.sig 8 2
def inFa (x : Coll) : Bool := bitOf x.sig 10
def outFa (x : Coll) : Bool := bitOf x.sig 11
def sumsq (x : Coll) : Bool := bitOf x.sig 12
def root (x : Coll) : Nat := bitsOf x.sig 14 4
def parts (x : Coll) : Nat := bitsOf x.sig 18 16
/-- Coordinates of the participants, by rank. -/
def coords (x : Coll) : List Nat := (List.range 16).filter (bitOf x.parts)
/-- P. -/
def ranks (x : Coll) : Nat := x.coords.length
/-- First element of chunk k. -/
def chunkLo (x : Coll) (k : Nat) : Nat := k * x.count / x.ranks
/-- Elements of chunk k. -/
def chunkLen (x : Coll) (k : Nat) : Nat := x.chunkLo (k + 1) - x.chunkLo k
/-- Bytes of a result element. -/
def outBytes (x : Coll) : Nat := if x.outFa then 8 else 4
/-- A sum, or a gathered input, as its DST holds it (R544). -/
def outBits (x : Coll) (v : Nat) : Nat := if x.outFa ∨ (x.opcode = 0x83 ∧ !x.inFa) then v else to32 (ofFa40 v)
end Coll

/-- Rank of this module among the participants. -/
def collRank (s : State) (x : Coll) : Nat := bitCount (roleCoord s x.axis) x.parts
/-- Role at a coordinate of this module's ring on an axis. -/
def ringRole (s : State) (axis k : Nat) : Nat :=
  let at' (a : Nat) : Nat := if a = axis then k else roleCoord s a
  coordId s (at' 0) (at' 1) (at' 2) (at' 3)
/-- Does the participant at a coordinate receive the sums of other chunks than its own? -/
def collReceives (x : Coll) (k : Nat) : Bool :=
  match x.opcode with | 0x80 => k == x.root | 0x81 => true | _ => false
/-- Elements that this module's DST receives (R543). -/
def collExpected (s : State) (x : Coll) : Nat :=
  match x.opcode with
  | 0x80 => if roleCoord s x.axis = x.root then x.count else 0
  | 0x81 => x.count
  | 0x82 => x.chunkLen (collRank s x)
  | _ => x.ranks * x.count

/-- The collective of an engine with an id; one that has ended, or whose own command has gone with its task, is there no more. -/
def getColl (s : State) (k : Nat) : Option Coll :=
  match s.colls.get none k with
  | some x => if !x.ended && x.op.all (fun o => (getOp s o).isSome) then some x else none
  | none => none
/-- Keep a collective. -/
def putColl (s : State) (k : Nat) (x : Option Coll) : State := { s with colls := s.colls.put none k x }
/-- The fragments that a collective's engine has taken under its id. -/
def collSeen (s : State) (k : Nat) : List Nat := ((s.colls.get none k).map (·.seen)).getD []
/-- A collective ends here: what it has taken is remembered (R590). -/
def endColl (s : State) (k : Nat) : State := putColl s k (some { ended := true, seen := collSeen s k })
/-- Collectives that an engine holds. -/
def collsHeld (s : State) (axis : Nat) : Nat := (s.colls.filter (fun e => e.1 / 2 ^ 32 == axis && (getColl s e.1).isSome)).length

/-! ### Messages (R547) -/

/-- The message of a fragment, which carries its request's tag. -/
def collMsg (s : State) (id : Nat) (r : Req) : Msg :=
  let axis := match r.eu with | some (.col a) => a | _ => 0
  mkMsg s { dst := gMod r.addr, cls := 1, prio := r.mode, mtype := 9, die := 16 + axis, stream := 3585, tag := id % 65536, tagEpoch := r.tagEpoch.toNat }
    (r.words.map (BitVec.ofNat 64))

/-- Send fragments of at most 29 containers, each a request that its receiver confirms (R586, R590), to the participant at a coordinate: 0 a contribution, 1 results, 2 a mismatch. The last
argument is the element of the first. -/
def collFrags (s : State) (k : Nat) (x : Coll) (coord kind : Nat) : List (List Nat) → Nat → State × Bool
  | [], _ => (s, true)
  | l :: r, e =>
    let words : List Nat := [k % 2 ^ 32 + collRank s x * 2 ^ 32 + kind * 2 ^ 36, x.sig, x.count + e * 2 ^ 32] ++ l
    let dst := ringRole s x.axis coord
    let prio := match x.op.bind (getOp s) with | some o => effPrio s (o.slot.getD 0) | none => 0
    let q : Req := { kind := .coll, home := dRemote dst, eu := some (.col x.axis), addr := dst * 2 ^ 44, cls := 1, mode := prio, words }
    let sent (s : State) : State := bump s (pg clsCOL x.axis) 0x48 (8 * words.length)
    -- one that finds no entry of a reorder table free waits (R387)
    if !mayLeave s q then collFrags (sent (addReq s { q with st := .held }).1) k x coord kind r (e + l.length)
    else
      let (s, id) := addReq s q
      match sendMsg s (collMsg s id q) with
      | (s, true) => collFrags (sent s) k x coord kind r (e + l.length)
      | (s, false) => (dropReq s id, false)

/-- Send elements in pieces of 4,096, from element e on. -/
def collSend (s : State) (k : Nat) (x : Coll) (coord kind e : Nat) (l : List Nat) : State × Bool :=
  collFrags s k x coord kind ((chunks 4096 (l.length / 4096 + 1) l).flatMap (fun p => chunks 29 (p.length / 29 + 1) p)) e

/-! ### The ends (R79, R545, R546) -/

/-- A collective ends in a fault of its command. -/
def collFault (s : State) (k : Nat) (x : Coll) (f : FaultInfo) : State :=
  let s := endColl s k
  match x.op with
  | some id =>
    match getOp s id with
    | some o => dropOp (engineFault s (o.slot.getD 0) o.opcode f (some id)) id
    | none => s
  | none => s

/-- A mismatch: told to every other participant by the owner that finds it. -/
def collMismatch (s : State) (k : Nat) (x : Coll) (tell : Bool) : State :=
  let s := bump s (pg clsCOL x.axis) 0x60
  let s := if tell then (x.coords.filter (· != roleCoord s x.axis)).foldl (fun s q => (collFrags s k x q 2 [[]] 0).1) s else s
  collFault s k x { code := colMismatch }

/-- Key of a command's sum-of-squares slot. -/
def sumKey (w : Nat) : Nat := cf w 12 0 1 * 256 + cf w 4 5 8

/-- A collective whose DST is written and whose own chunk is delivered completes; its sum of squares is written first (R545). -/
def collEnd (s : State) (k : Nat) : State :=
  match getColl s k with
  | some x =>
    match x.op.bind (fun id => (getOp s id).map (fun o => (id, o))) with
    | some (id, o) =>
      if x.got = collExpected s x ∧ (x.opcode = 0x83 ∨ x.formed = x.chunkLen (collRank s x)) then
        let q := sumKey o.cmd.toNat
        let vals := (x.done.flatMap (fun e => e.2.getD [])).map (fun v => sq (if x.outFa then ofFa40 v else of32 v))
        let s := if x.sumsq ∧ (s.sqSlots.get none q).isSome then { s with sqSlots := s.sqSlots.put none q (some (laneSum vals)) } else s
        opAnswered (bump (endColl s k) (pg clsCOL x.axis) 0x50) id
      else s
    | none => s
  | none => s

/-- Write elements of the result from element e on. -/
def collWrite (s : State) (k e : Nat) (l : List Nat) : State :=
  match getColl s k with
  | some x =>
    match x.op.bind (getOp s) with
    | some o =>
      let pos := if x.opcode = 0x82 then e - x.chunkLo (collRank s x) else e
      let a := gLoc (cf o.cmd.toNat 10 0 56) + x.outBytes * pos
      match serveWrite s (16 + x.axis) a ((l.map (fun v => bytesOf v x.outBytes)).flatten) with
      | (s, .ok) => collEnd (putColl s k (some { x with got := x.got + l.length })) k
      | (s, .fenced) => collFault s k x { code := fWriteFenced, addr := gAddr s a }
      | (s, _) => collFault s k x { code := fUncorrectable, detail := memResource s a }
    | none => s
  | none => s

/-! ### The owner's sums (R544) -/

/-- A piece of a rank's contribution to this module's chunk, as far as it has arrived. -/
def pieceFrom (x : Coll) (lo rank i : Nat) : List Nat :=
  (x.frags.filter (fun e => decide (rank * 2 ^ 32 + lo + 4096 * i ≤ e.1 ∧ e.1 < rank * 2 ^ 32 + lo + 4096 * (i + 1)))).flatMap (fun e => (e.2.getD []).drop 2)

/-- A piece of this module's chunk is formed: it is written here and delivered to its receivers. -/
def collDeliver (s : State) (k i : Nat) (l : List Nat) : State :=
  match getColl s k with
  | some x =>
    let r := collRank s x
    let e := x.chunkLo r + 4096 * i
    let x := { x with done := x.done.put none i (some l), formed := x.formed + l.length }
    let s := putColl s k (some x)
    let own := roleCoord s x.axis
    let (s, ok) := (x.coords.filter (fun q => q != own && collReceives x q)).foldl
      (fun (y : State × Bool) q => let (s, b) := collSend y.1 k x q 1 e l; (s, y.2 && b)) (s, true)
    if !ok then collFault s k x { code := fUnreachable, detail := resource 20 14 (ownId s) }
    else if collReceives x own ∨ x.opcode = 0x82 then collWrite s k e l
    else collEnd s k
  | none => s

/-- Add what has arrived of piece i of this module's chunk: under the fixed tree once every rank's is there, else as it arrives. -/
def collAdd (s : State) (k i : Nat) : State :=
  match getColl s k with
  | some x =>
    let r := collRank s x
    let lo := x.chunkLo r
    let n := min 4096 (x.chunkLen r - 4096 * i)
    let all := List.range x.ranks
    let here := all.filter (fun q => (pieceFrom x lo q i).length == n)
    if x.tree then
      if here.length = x.ranks then
        let cols := all.map (fun q => pieceFrom x lo q i)
        let root := (List.range n).map (fun j => (treeRoot addFa40 5 (cols.map (fun c => c.getD j 0))).headD 0)
        collDeliver (bump s (pg clsCOL x.axis) 0x40 ((x.ranks - 1) * n)) k i (root.map x.outBits)
      else s
    else
      let step (y : State × Option (List Nat) × Nat) (q : Nat) : State × Option (List Nat) × Nat :=
        if bitOf y.2.2 q then y
        else
          let p := pieceFrom x lo q i
          match y.2.1 with
          | none => (y.1, some p, y.2.2 ||| 1 <<< q)
          | some a => (bump y.1 (pg clsCOL x.axis) 0x40 n, some ((a.zip p).map (fun v => addFa40 v.1 v.2)), y.2.2 ||| 1 <<< q)
      let (s, acc, mask) := here.foldl step (s, x.sums.get none i, x.added.get 0 i)
      let s := putColl s k (some { x with sums := x.sums.put none i acc, added := x.added.put 0 i mask })
      if bitCount 16 mask = x.ranks then collDeliver s k i ((acc.getD []).map x.outBits) else s
  | none => s

/-- Take a fragment that has arrived: its key is (kind · 16 + rank) · 2^32 + first element, its words the sender's signature and count,
then containers. -/
def collTake (s : State) (k key : Nat) (ws : List Nat) : State :=
  match getColl s k with
  | some x =>
    if x.op.isNone then s
    else
      let kind := key / 2 ^ 36
      let e := key % 2 ^ 32
      let differs := ws.getD 0 0 != x.sig || ws.getD 1 0 != x.count
      if kind = 2 ∨ differs then collMismatch s k x (kind != 2)
      else if kind = 1 then collWrite s k e ((ws.drop 2).map (fun v => if x.opcode = 0x83 then x.outBits v else v))
      else
        let i := (e - x.chunkLo (collRank s x)) / 4096
        collAdd (putColl s k (some { x with frags := x.frags.put none key (some ws) })) k i
  | none => s

/-- The collective of this module's own command with a COLL_ID on another axis: a COLL_ID names one collective (R542, log entry 96). -/
def collElsewhere (s : State) (axis id : Nat) : Option (Nat × Coll) :=
  (((List.range 4).filter (· != axis)).filterMap (fun a => (getColl s (a * 2 ^ 32 + id)).map (fun x => (a * 2 ^ 32 + id, x)))).find?
    (fun e => e.2.op.isSome)

/-- What arrives for a COLL_ID differs in AXIS from this module's own command, collective x: both end in COL_MISMATCH, x's and the one
that the fragment's signature and count name (R546). A mismatch that is told here is not told back. -/
def axisMismatch (s : State) (k : Nat) (x : Coll) (key : Nat) (ws : List Nat) : State :=
  let y : Coll := { sig := ws.getD 0 0, count := ws.getD 1 0 }
  let told := if key / 2 ^ 36 = 2 then [] else y.coords.filter (· != roleCoord s y.axis)
  collMismatch (told.foldl (fun s q => (collFrags s k y q 2 [[]] 0).1) s) k x true

/-! ### The commands (R542) -/

/-- Operand words of the collectives (R542). -/
def collSpec (opc : Nat) : CmdSpec :=
  { fields := [(4, 0, 18), (5, 0, 32), (6, 0, 16), (7, 0, 32), (8, 0, 56), (10, 0, 56), (12, 0, 32)],
    bad := fun w =>
      let sq := bitOf w (at_ 4 4)
      [(at_ 4 4, sq && !(opc == 0x81 || opc == 0x82)), (at_ 4 5, !sq && cf w 4 5 8 != 0), (at_ 4 14, opc != 0x80 && cf w 4 14 4 != 0),
       (at_ 7 0, cf w 7 0 32 == 0), (at_ 12 0, !sq && cf w 12 0 32 != 0)] }

/-- Element e of an input of n-byte elements, converted exactly to FA40 (R544); a gathered input keeps its bits where the formats agree. -/
def collInput (x : Coll) (l : List Byte) : List Nat :=
  if x.inFa then (chunks 8 (x.count + 1) l).map leNat
  else (chunks 4 (x.count + 1) l).map (fun b => if x.opcode = 0x83 ∧ !x.outFa then leNat b else toFa40 (of32 (leNat b)))

/-- The destination of a collective, where this module receives (R546). -/
def collDest (c : Ctx) (dst len : Nat) : Cm Unit :=
  if len ≠ 0 then do
    access c dst len 1
    modify (fun s => noteWrote s c.key dst len)
  else pure ()

/-- What is held for a COLL_ID on the other axes: the first fragment of each, with its key. -/
def heldElsewhere (s : State) (axis id : Nat) : List (Nat × List Nat) :=
  ((List.range 4).filter (· != axis)).filterMap (fun a =>
    (getColl s (a * 2 ^ 32 + id)).bind (fun y => if y.op.isNone then y.order.head?.map (fun q => (q, (y.frags.get none q).getD [])) else none))

/-- A collective issues (R542 to R546). -/
def collRun (c : Ctx) : Cm Stand := do
  let s ← get
  let axis := c.f 4 0 2
  let step := BitVec.ofNat 32 (c.f 12 0 32)
  let k := axis * 2 ^ 32 + c.f 5 0 32
  let x : Coll := { op := some c.op, sig := collSig c.w, count := c.f 7 0 32, tree := c.b 4 13 || treeForced s }
  let own := roleCoord s axis
  let src := c.f 8 0 56
  let dst := c.f 10 0 56
  let inLen := if x.inFa then 8 else 4
  let want := collExpected s x
  fieldIf (firstBad [(at_ 6 0, !bitOf x.parts own), rsvIn c.w 0 (at_ 6 (axisLen s axis)) (16 - axisLen s axis),
      (at_ 7 0, x.opcode == 0x83 && decide (x.ranks * x.count ≥ 2 ^ 32)), (at_ 10 0, x.opcode == 0x80 && own != x.root && dst != 0)])
  faultIf (src % inLen ≠ 0) { code := fMisaligned, addr := src }
  faultIf (dst % x.outBytes ≠ 0) { code := fMisaligned, addr := dst }
  failIf (!isOwn s src || (want != 0 && !isOwn s dst)) fNotPermitted
  failIf (x.sumsq && !stepOpen s step) colStepOrder
  failIf (x.sumsq && (s.sqSlots.get none (sumKey c.w)).isSome) colSlotReused
  -- an engine holds 256 collectives, those that have only been heard of included (R546)
  let early := getColl s k
  holdIf (match early with | some y => y.op.isSome | none => decide (collsHeld s axis ≥ 256))
  access c src (inLen * x.count) 0
  holdIf (want != 0 && asleep s (gLoc dst))
  collDest c dst (x.outBytes * want)
  let l ← readRaw c src (inLen * x.count)
  let vals := collInput x l
  ownOp c (fun o => { o with opcode := x.opcode, slot := some c.key, eu := c.eu, cmd := BitVec.ofNat 512 c.w, waits := 1 })
  modify (fun s =>
    let s := if x.sumsq then { s with sqSlots := s.sqSlots.put none (sumKey c.w) (some 0) } else s
    let s := if x.opcode = 0x83 then s else bump s (pg clsCOL axis) (if x.tree then 0x54 else 0x58)
    putColl s k (some { x with seen := collSeen s k }))
  -- contributions to the other owners, or to every participant of a gather
  let s ← get
  let r := collRank s x
  let (s, ok) := x.coords.zipIdx.foldl (fun (y : State × Bool) q =>
    if q.2 = r then y
    else
      let (s, b) := if x.opcode = 0x83 then collSend y.1 k x q.1 1 (r * x.count) vals
        else collSend y.1 k x q.1 0 (x.chunkLo q.2) ((vals.drop (x.chunkLo q.2)).take (x.chunkLen q.2))
      (s, y.2 && b)) (s, true)
  set s
  if !ok then
    modify (fun s => endColl s k)
    throw { code := fUnreachable, detail := resource 20 14 (ownId s) }
  -- what has arrived before it, in the order of its arrival, then its own (R544)
  modify (fun s =>
    let s := (heldElsewhere s axis (c.f 5 0 32)).foldl (fun s e => axisMismatch s k x e.1 e.2) s
    let s := ((early.map (fun y => y.order.map (fun q => (q, (y.frags.get none q).getD [])))).getD []).foldl
      (fun s e => collTake s k e.1 e.2) s
    let head := [x.sig, x.count]
    let s := if x.opcode = 0x83 then collWrite s k (r * x.count) (vals.map x.outBits)
      else (chunks 4096 (x.count / 4096 + 1) ((vals.drop (x.chunkLo r)).take (x.chunkLen r))).zipIdx.foldl
        (fun s p => collTake s k (r * 2 ^ 32 + x.chunkLo r + 4096 * p.2) (head ++ p.1)) s
    collEnd s k)
  pure (.later 0)

/-- Ranges of a collective (R422). -/
def collTouch (c : Ctx) : Cm (List Touch) := do
  let s ← get
  let x : Coll := { sig := collSig c.w, count := c.f 7 0 32 }
  pure [(c.f 8 0 56, (if x.inFa then 8 else 4) * x.count, false), (c.f 10 0 56, x.outBytes * collExpected s x, true)]

/-- A collective of the engine of an axis. -/
def collDef (opc axis : Nat) : CmdDef :=
  { opc, spec := collSpec opc, eu := fun _ => .col axis, run := collRun, touch := collTouch }
/-- Issue a collective: the engines are module-wide, and the command's AXIS, after substitution, says which one serves it. -/
def collIssue (t : Thr) (b : Body) (opc : Nat) (s : State) : State :=
  issueCmd t b (collDef opc (cf (substitute s (thrKey t) (cmdOf opc b).toNat) 4 0 2)) s

/-- COL_REDUCE (R543). -/
def execColReduce (t : Thr) (b : Body) (s : State) : Host.Outcome State Fault Refusal := .next (collIssue t b 0x80 s)
/-- COL_ALLREDUCE (R543). -/
def execColAllreduce (t : Thr) (b : Body) (s : State) : Host.Outcome State Fault Refusal := .next (collIssue t b 0x81 s)
/-- COL_REDUCE_SCATTER (R543). -/
def execColReduceScatter (t : Thr) (b : Body) (s : State) : Host.Outcome State Fault Refusal := .next (collIssue t b 0x82 s)
/-- COL_ALLGATHER (R543). -/
def execColAllgather (t : Thr) (b : Body) (s : State) : Host.Outcome State Fault Refusal := .next (collIssue t b 0x83 s)

/-! ### Pieces that arrive (R544, R546) -/

/-- Does the memory of a collective's DST sleep? What reaches it waits (R617). -/
def collAsleep (s : State) (k : Nat) : Bool :=
  match (getColl s k).bind (fun x => x.op.bind (getOp s)) with
  | some o => asleep s (gLoc (cf o.cmd.toNat 10 0 56))
  | none => false

/-- A fragment is taken: it is confirmed to its sender (R586). -/
def collConfirm (s : State) (m : Msg) : State := reply s m 0x41 0 0 []

/-- A COLL message reaches its engine: held while this module's own command has not been issued, and not taken while the engine is
full (R546). One taken before is discarded (R590). -/
def collArrive (s : State) (i : Nat) (m : Msg) : State :=
  let axis := bitsOf (m.pl 1) 8 2
  let k := axis * 2 ^ 32 + bitsOf (m.pl 0) 0 32
  let kind := bitsOf (m.pl 0) 36 2
  let rank := bitsOf (m.pl 0) 32 4
  let key := (kind * 16 + rank) * 2 ^ 32 + bitsOf (m.pl 2) 32 32
  let ws := m.pl 1 :: bitsOf (m.pl 2) 0 32 :: (m.drop 5).map (·.toNat)
  let name := (m.src * 65536 + m.tag) * 2 ^ 38 + key
  let seen := name :: collSeen s k
  if (collSeen s k).contains name then collConfirm (takeArrival s i) m
  else match collElsewhere s axis (bitsOf (m.pl 0) 0 32), (getColl s k).bind (·.op) with
  | some (o, x), none =>
    -- this module's own command of that COLL_ID names another axis
    collConfirm (axisMismatch (putColl (takeArrival s i) k (some { ended := true, seen })) o x key ws) m
  | _, _ => match getColl s k with
  | some x =>
    let x := { x with seen }
    if x.op.isSome then collConfirm (collTake (putColl (takeArrival s i) k (some x)) k key ws) m
    else
      let s := if bitOf x.held rank then s else bump s (pg clsCOL axis) 0x64
      collConfirm (putColl (takeArrival s i) k (some { x with frags := x.frags.put none key (some ws), order := x.order ++ [key], held := x.held ||| 1 <<< rank })) m
  | none =>
    if collsHeld s axis ≥ 256 then s
    else collConfirm (putColl (bump (takeArrival s i) (pg clsCOL axis) 0x64) k (some { frags := [(key, some ws)], order := [key], held := 1 <<< rank, seen })) m

/-- COLL (R544): a collective's piece reaches its owner or a receiver. A piece within the module is added as its command issues. -/
def execColl (r : HomeReq) (s : State) : Host.Outcome State Fault Refusal :=
  .next (match r with
    | .own _ => s
    | .arrived i =>
      match arrival s i with
      | some m =>
        let axis := bitsOf (m.pl 1) 8 2
        if forMe s m 9 ∧ euServes s (.col axis) ∧ !collAsleep s (axis * 2 ^ 32 + bitsOf (m.pl 0) 0 32) then
          onArrival s i m (collArrive s i m)
        else s
      | none => s)

/-- A fragment finds no route: its collective, if it is in flight here, faults with UNREACHABLE (R590). -/
def collLose (s : State) (id : Nat) (r : Req) : State :=
  let s := dropReq s id
  let k := (match r.eu with | some (.col a) => a | _ => 0) * 2 ^ 32 + r.words.headD 0 % 2 ^ 32
  match getColl s k with
  | some x => if x.op.isSome then collFault s k x { code := fUnreachable, detail := resource 20 14 (gMod r.addr) } else s
  | none => s

/-- A module is declared lost: the fragments for it are given up, and the collectives in flight in which it takes part fault (R546). -/
def collLost (s : State) (id : Nat) : State :=
  let s := (reqList s).foldl (fun s e => if e.2.kind = .coll ∧ gMod e.2.addr = id then dropReq s e.1 else s) s
  s.colls.foldl (fun s e =>
    match getColl s e.1 with
    | some x =>
      if x.op.isSome && x.coords.any (fun q => ringRole s x.axis q == id) then
        collFault (bump s (pg clsCOL x.axis) 0x5C) e.1 x { code := fPeerLost, detail := resource 20 14 id }
      else s
    | none => s) s

end Sys2Proof.Machine
end

