-- ==== Sys2Proof/Machine/Rand.lean ====
section
/-!
DEFINITION. The random and selection unit: keyed and Lite fills (R473 to R480), the noise source (R481 to R485), scans and draws
(R486 to R495).
-/
namespace Sys2Proof.Machine
open Sys2Proof

/-- The random unit of a Pavilion. -/
def rng (s : State) (p : Nat) : Rng := s.rngs.get {} p
/-- Change a random unit. -/
def updRng (s : State) (p : Nat) (f : Rng → Rng) : State := { s with rngs := s.rngs.upd {} p f }

/-- Is the page's unit fenced (R591)? -/
def unitFenced (s : State) (pageN : Nat) : Bool := (page s pageN).fenced || domFenced s (dPage pageN)

/-! ### Fills (R473, R474, R476 to R479) -/

/-- UNIFORM and BERNOULLI of a generator word; RAW32 passes it on (R474). -/
def fillWord (dist p24 w : Nat) : Nat :=
  match dist with
  | 1 => frac w
  | 3 => b2n (decide (w / 2 ^ 8 < p24))
  | _ => w

/-- The value of element e of a keyed fill (R474). -/
def fillValue (dist seed stream draw p24 e : Nat) : Nat :=
  if dist = 2 then
    let w := gen seed stream e draw
    let u1 := frac (w.getD 0 0)
    let u2 := frac (w.getD 1 0)
    mul32 (sqrt32 (mul32 0xC0000000 (ln32 u1))) (cosTurn32 u2)
  else fillWord dist p24 (genW seed stream (e / 4 % 2 ^ 64) draw e)

/-- Bits packed into bytes, the first in bit 0. -/
def packBits : Nat → List Nat → List Byte
  | 0, _ => []
  | n + 1, l => BitVec.ofNat 8 ((l.take 8).zipIdx.foldl (fun a p => a + p.1 * 2 ^ p.2) 0) :: packBits n (l.drop 8)

/-- The bytes of a fill: 32-bit elements, or one bit each with BERNOULLI (R473). -/
def fillBytes (dist : Nat) (l : List Nat) : List Byte :=
  if dist = 3 then packBits (l.length / 8) l else (l.map (fun v => bytesOf v 4)).flatten

/-- Bytes of a fill's destination. -/
def fillLen (dist count : Nat) : Nat := if dist = 3 then count / 8 else 4 * count

/-- Operand words of RNG_FILL (R473). -/
def fillSpec : CmdSpec :=
  { fields := [(4, 0, 2), (5, 0, 64), (7, 0, 32), (8, 0, 64), (10, 0, 32), (11, 0, 56), (13, 0, 25), (14, 0, 32)],
    bad := fun w =>
      let dist := cf w 4 0 2
      [(at_ 10 0, cf w 10 0 32 == 0 || dist == 3 && cf w 10 0 3 != 0),
       (at_ 13 0, if dist = 3 then decide (cf w 13 0 25 > 2 ^ 24) else cf w 13 0 25 != 0)] }

/-- RNG_FILL's effect (R473, R474). -/
def fillRun (c : Ctx) : Cm Stand := do
  let dist := c.f 4 0 2
  let n := c.f 10 0 32
  faultIf (dist ≠ 3 ∧ c.f 11 0 56 % 4 ≠ 0) { code := fMisaligned, addr := c.f 11 0 56 }
  writeT c (c.f 11 0 56) (fillBytes dist ((List.range n).map (fun k =>
    fillValue dist (c.f 5 0 64) (c.f 7 0 32) (c.f 14 0 32) (c.f 13 0 25) ((c.f 8 0 64 + k) % 2 ^ 64))))
  count (pg clsRNG c.pav) 0x40 n
  onDone c (pg clsRNG c.pav) 0x60
  pure (.later 0)

/-- One step of a lane and its output (R476). -/
def laneStep (x : DWord) : DWord × DWord :=
  let x := x ^^^ (x >>> 12)
  let x := x ^^^ (x <<< 25)
  let x := x ^^^ (x >>> 27)
  (x, x * 0x2545F4914F6CDD1D)

/-- A linear map of lane states over GF(2), as the images of the 64 unit states. -/
abbrev LaneMap := List DWord

/-- The image of a state. -/
def LaneMap.app (m : LaneMap) (x : DWord) : DWord :=
  m.zipIdx.foldl (fun a p => if x.getLsbD p.2 then a ^^^ p.1 else a) 0
/-- The map applied twice, n times over: the 2^n-th power. -/
def LaneMap.squares : Nat → LaneMap → LaneMap
  | 0, m => m
  | n + 1, m => LaneMap.squares n (m.map m.app)
/-- One step as a map. -/
def LaneMap.one : LaneMap := (List.range 64).map (fun i => (laneStep (1#64 <<< i)).1)
/-- The map of the power k, from the map m of power one: for `n` bits of k. -/
def LaneMap.pow : Nat → LaneMap → Nat → DWord → DWord
  | 0, _, _, x => x
  | n + 1, m, k, x => LaneMap.pow n (m.map m.app) (k / 2) (if k % 2 = 1 then m.app x else x)
/-- A state and its images under n further maps. -/
def LaneMap.orbit (m : LaneMap) : Nat → DWord → List DWord
  | 0, _ => []
  | n + 1, x => x :: LaneMap.orbit m n (m.app x)

/-- The lanes of a slot initialised with a seed and a stream (R477). -/
def liteInit (seed stream : Nat) : List DWord :=
  let x0 : DWord := if seed = 0 then 0x9E3779B97F4A7C15 else BitVec.ofNat 64 seed
  let jump := LaneMap.squares 42 LaneMap.one
  LaneMap.orbit jump 64 (LaneMap.pow 16 (LaneMap.squares 6 jump) stream x0)

/-- A round: the 128 words, and the advanced lanes (R476). -/
def liteRound (l : List DWord) : List Nat × List DWord :=
  let r := l.map laneStep
  ((r.map (fun p => [p.2.toNat % 2 ^ 32, p.2.toNat / 2 ^ 32])).flatten, r.map (·.1))
/-- The words of n rounds, and the lanes after them. -/
def liteRounds : Nat → List DWord → List Nat × List DWord
  | 0, l => ([], l)
  | n + 1, l =>
    let (w, l) := liteRound l
    let (w', l) := liteRounds n l
    (w ++ w', l)

/-- Operand words of RNG_LITE_FILL (R478). -/
def liteSpec : CmdSpec :=
  { fields := [(4, 0, 27), (5, 0, 64), (7, 0, 32), (8, 0, 56), (10, 0, 25)],
    bad := fun w =>
      let dist := cf w 4 8 2
      let init := bitOf w (at_ 4 10)
      [(at_ 4 8, dist == 2), (at_ 4 11, !init && cf w 4 11 16 != 0), (at_ 5 0, !init && cf w 5 0 64 != 0),
       (at_ 7 0, cf w 7 0 32 == 0 || dist == 3 && cf w 7 0 3 != 0),
       (at_ 10 0, if dist = 3 then decide (cf w 10 0 25 > 2 ^ 24) else cf w 10 0 25 != 0)] }

/-- RNG_LITE_FILL's effect (R476 to R479). -/
def liteRun (c : Ctx) : Cm Stand := do
  let slotN := c.f 4 0 8
  let dist := c.f 4 8 2
  let n := c.f 7 0 32
  faultIf (dist ≠ 3 ∧ c.f 8 0 56 % 4 ≠ 0) { code := fMisaligned, addr := c.f 8 0 56 }
  let st ← get
  if c.b 4 10 then
    set (updRng st c.pav (fun r => { r with lite := r.lite.put none slotN (some ⟨c.f 4 11 16, liteInit (c.f 5 0 64) (c.f 4 11 16)⟩) }))
  let st ← get
  match (rng st c.pav).lite.get none slotN with
  | none => failWith 0x0171
  | some l => do
    let (words, lanes) := liteRounds (ceilDiv n 128) l.lanes
    writeT c (c.f 8 0 56) (fillBytes dist ((words.take n).map (fillWord dist (c.f 10 0 25))))
    modify (fun s => updRng s c.pav (fun r => { r with lite := r.lite.put none slotN (some { l with lanes }) }))
    count (pg clsRNG c.pav) 0x48 n
    onDone c (pg clsRNG c.pav) 0x60
    pure (.later 0)

/-! ### The noise source (R481 to R485) -/

/-- Operand words of RNG_NOISE_READ (R484). -/
def noiseSpec : CmdSpec :=
  { fields := [(4, 0, 13), (5, 0, 56)], bad := fun w => [(at_ 4 0, cf w 4 0 13 == 0 || decide (cf w 4 0 13 > 4096))] }

/-- Is the source failed or fenced? -/
def noiseDown (s : State) (p : Nat) : Bool := decide ((rng s p).noise ≥ 2) || unitFenced s (pg clsRNG p)

/-- Write as many of a noise read's blocks as the pool holds: `cursor` counts those written. -/
def noiseBlocks (c : Ctx) : Nat → Nat → Cm Nat
  | 0, done => pure done
  | n + 1, done => do
    let s ← get
    if done ≥ c.f 4 0 13 then pure done
    else match (rng s c.pav).pool with
      | [] => pure done
      | b :: rest => do
        set (updRng s c.pav (fun r => { r with pool := rest }))
        access c (c.f 5 0 56 + 32 * done) 32 1
        writeRaw c (c.f 5 0 56 + 32 * done) (bytesOf b.toNat 32)
        noiseBlocks c n (done + 1)

/-- A noise read has written `k` blocks; with the last of them the range counts as written by its task (R56). -/
def noiseWrote (c : Ctx) (k : Nat) : Cm Unit :=
  modify (fun s => if k ≥ c.f 4 0 13 then noteWrote s c.key (c.f 5 0 56) (32 * c.f 4 0 13) else s)

/-- RNG_NOISE_READ's effect (R484): the blocks that the pool holds now; the rest as they come. -/
def noiseRun (c : Ctx) : Cm Stand := do
  let s ← get
  failIf (noiseDown s c.pav) 0x0170
  faultIf (c.f 5 0 56 % 32 ≠ 0) { code := fMisaligned, addr := c.f 5 0 56 }
  access c (c.f 5 0 56) (32 * c.f 4 0 13) 1
  -- an earlier read that still waits is served first
  let n := if (opList s).any (fun e => decide (e.2.eu = .rng c.pav) && e.2.opcode == 0x92 && decide (e.2.waits > 0)) then 0 else 64
  let k ← noiseBlocks c n 0
  noiseWrote c k
  ownOp c (fun o => { o with cursor := k })
  onDone c (pg clsRNG c.pav) 0x60
  pure (.later (b2n (decide (k < c.f 4 0 13))))

/-- Noise reads of a Pavilion that wait for blocks. -/
def noiseWaiting (s : State) (p : Nat) : List (Nat × Op) :=
  (unitOps s (.rng p)).filter (fun e => e.2.opcode == 0x92 && decide (e.2.waits > 0) && decide (e.2.cursor < cf e.2.cmd.toNat 4 0 13))

/-- A noise read of a source that has failed faults: the blocks already written remain, and the others are undefined (R484, R500). -/
def noiseFail (s : State) (e : Nat × Op) : State :=
  match e.2.slot with
  | some k =>
    let w := e.2.cmd.toNat
    let rest := ownSpans s (cf w 5 0 56 + 32 * e.2.cursor) (32 * (cf w 4 0 13 - e.2.cursor))
    engineFault (updOp s e.1 (fun o => { o with outs := rest })) k 0x92 { code := 0x0170 } (some e.1)
  | none => s

/-- The read that is served next: one already begun, or the first by priority and age (R494). -/
def noiseNext (s : State) (p : Nat) : Option (Nat × Op) :=
  match (noiseWaiting s p).find? (fun e => decide (e.2.cursor > 0)) with
  | some e => some e
  | none => pickOp s (noiseWaiting s p)

/-- Serve the waiting reads while the pool holds blocks. -/
def serveNoise (s : State) (p : Nat) : Nat → State
  | 0 => s
  | n + 1 =>
    if (rng s p).pool = [] then s
    else match noiseNext s p with
      | none => s
      | some (id, _) =>
        serveNoise (serveOp s id (fun c o => do
          let k ← noiseBlocks c 64 o.cursor
          noiseWrote c k
          modify (fun s => updOp s id (fun o => { o with cursor := k, waits := o.waits - b2n (decide (k ≥ c.f 4 0 13)) })))) p n

/-- NOISE_BLOCK (R482): a conditioned block enters the pool; the source pauses while the pool is full. -/
def execNoiseBlock (p : Fin 16) (s : State) : Host.Outcome State Fault Refusal :=
  .next (if (rng s p).noise = 1 ∧ (rng s p).pool.length < 64 then
      let s := bump { s with noiseCount := s.noiseCount + 1 } (pg clsRNG p) 0x50
      let s := updRng s p (fun r => { r with pool := r.pool ++ [Config.noiseBlock (s.noiseCount - 1)] })
      serveNoise s p 16
    else s)

/-- NOISE_RESTART (R483): 1 ms after a failure the start-up test runs again. -/
def execNoiseRestart (p : Fin 16) (s : State) : Host.Outcome State Fault Refusal :=
  .next (if (rng s p).noise = 2 then updRng s p (fun r => { r with noise := 0 }) else s)

/-- STARTUP_TEST_PASS (R481). -/
def execStartupTestPass (p : Fin 16) (s : State) : Host.Outcome State Fault Refusal :=
  .next (if (rng s p).noise = 0 then updRng s p (fun r => { r with noise := 1 }) else s)

/-- A read of SEED_DRAW_LO: the low half is returned and the high half latched. One draw uses up a block of the pool. -/
def seedDraw (s : State) (p : Nat) : State × Nat :=
  match (rng s p).pool with
  | b :: rest =>
    (updRng s p (fun r => { r with pool := rest, seedOk := true, seedHi := BitVec.ofNat 32 (bitsOf b.toNat 32 32) }), bitsOf b.toNat 0 32)
  | [] => (bump (updRng s p (fun r => { r with seedOk := false, seedHi := 0 })) (pg clsRNG p) 0x64, 0)

/-- SEED_DRAW_LO (R485). -/
def execSeedDrawLo (p : Fin 16) (s : State) : Host.Outcome State Fault Refusal :=
  let r := seedDraw s p
  .next (emit r.1 (.answer 1 [pg clsRNG p, 0x110, r.2]))

/-! ### Scan (R486 to R488) -/

/-- An FP32 number as an integer whose order is the numbers' order; both zeros are 0. -/
def ord32 (w : Nat) : Int := if w ≥ 2 ^ 31 then -((w : Int) - 2 ^ 31) else w

/-- Is the FP32 number a NaN? -/
def isNaN32 (w : Nat) : Bool := decide (w % 2 ^ 31 > 0x7F800000)

/-- A finite FP32 number above zero: a temperature (R486, R489). -/
def tempOk (w : Nat) : Bool := decide (0 < w ∧ w < 0x7F800000)

/-- z_i of R487. -/
def scoreZ (fmt temp w : Nat) : Nat := to32 ((elemVal fmt w).div (of32 temp))

/-- Is z eligible (R487)? -/
def eligible (z : Nat) : Bool := !isNaN32 z && z != 0xFF800000

/-- Operand words of SEL_SCAN (R486). -/
def scanSpec : CmdSpec :=
  { fields := [(4, 0, 21), (5, 0, 25), (6, 0, 56), (8, 0, 32), (9, 0, 56)],
    bad := fun w =>
      [(at_ 4 0, cf w 4 0 8 == 0 || decide (cf w 4 0 8 > 3)), (at_ 4 8, cf w 4 8 13 == 0 || decide (cf w 4 8 13 > 4096)),
       (at_ 5 0, cf w 5 0 25 == 0 || decide (cf w 5 0 25 > 2 ^ 24)), (at_ 8 0, !tempOk (cf w 8 0 32))] }

/-- The scores of a vector: element bits. -/
def readScores (c : Ctx) (g fmt n : Nat) : Cm (List Nat) := do
  let b := codeBits fmt / 8
  faultIf (g % b ≠ 0) { code := fMisaligned, addr := g }
  let l ← readT c g (b * n)
  count (pg clsSEL c.pav) 0x40 n
  pure ((chunks b n l).map leNat)

/-- Rank by (z descending, index ascending). -/
def rankZ (l : List (Nat × Nat)) : List (Nat × Nat) :=
  l.mergeSort (fun a b => decide (ord32 a.1 > ord32 b.1) || (decide (ord32 a.1 = ord32 b.1) && decide (a.2 ≤ b.2)))

/-- Bin of m − z (R487). The difference of two infinities is no number, and its bin is a free function of the two (R493). -/
def scanBin (m z : Nat) : Nat :=
  match (of32 m).sub (of32 z) with
  | .nan _ => Config.infBin m z % 32
  | .inf _ => 31
  | _ =>
    match of32 (sub32 m z) with
    | .fin _ k e => min 31 (if 0 ≤ e then k * 2 ^ e.toNat else k / 2 ^ (-e).toNat)
    | _ => 31

/-- The unit takes no command while it is fenced (R591). A command that finds no grant in service has the next (R494). -/
def selServes (c : Ctx) : Cm Unit := do
  let s ← get
  faultIf (unitFenced s (pg clsSEL c.pav)) { code := fResourceRetired, detail := resource c.pav 12 1 }
  ownOp c (fun o => { o with inService := !(unitOps s (.sel c.pav)).any (fun e => e.2.inService && e.1 != c.op) })

/-- The work of a selection command in cycles: where it does not fit one grant, what is left of it is waited for (R494). -/
def inGrants (c : Ctx) (cycles : Nat) : Cm Unit := do
  let s ← get
  let many := decide (cycles > actN s (pg clsSEL c.pav) 0x108)
  ownOp c (fun o => { o with cursor := if many then cycles else 0, waits := o.waits + b2n many })

/-- With no grant in service the next one is given: to the highest effective priority, the oldest among equals (R494). -/
def selTurn (s : State) (p : Nat) : State :=
  if (unitOps s (.sel p)).any (·.2.inService) then s
  else match pickOp s (unitOps s (.sel p)) with
    | some (id, _) => updOp s id (fun o => { o with inService := true })
    | none => s

/-- A grant has ended: the next is given, unless a COMMIT of the page is to be applied first (R499). -/
def selEnd (s : State) (p : Nat) : State := if (page s (pg clsSEL p)).commitPending then s else selTurn s p

/-- The grant in service reaches its length: what is left of its command's work is queued again, and counted (R494). -/
def selSplit (s : State) (p : Nat) : State :=
  let s := selTurn s p
  let grant := actN s (pg clsSEL p) 0x108
  match (unitOps s (.sel p)).find? (fun e => e.2.inService && decide (e.2.cursor > grant)) with
  | none => s
  | some (id, _) => selEnd (bump (updOp s id (fun o => { o with cursor := o.cursor - grant, inService := false })) (pg clsSEL p) 0x64) p

/-- The command in service works off what fits its grant. -/
def selFinish (s : State) (p id : Nat) : State :=
  let s := selTurn s p
  updOp s id (fun o =>
    if o.inService ∧ 0 < o.cursor ∧ o.cursor ≤ actN s (pg clsSEL p) 0x108 then { o with cursor := 0, waits := o.waits - 1 } else o)

/-- SEL_SCAN's effect (R487, R488). -/
def scanRun (c : Ctx) : Cm Stand := do
  let fmt := c.f 4 0 8
  let k := c.f 4 8 13
  let n := c.f 5 0 25
  let recA := c.f 9 0 56
  selServes c
  let raw ← readScores c (c.f 6 0 56) fmt n
  faultIf (recA % 64 ≠ 0) { code := fMisaligned, addr := recA }
  let zs := raw.map (scoreZ fmt (c.f 8 0 32))
  let nan := (raw.filter (fun w => (elemVal fmt w).isNaN)).length
  count (pg clsSEL c.pav) 0x5C nan
  let ranked := rankZ (zs.zipIdx.filter (fun p => eligible p.1))
  let kept := ranked.take k
  let m := match ranked with | [] => 0xFF800000 | x :: _ => x.1
  let bins := ranked.map (fun p => scanBin m p.1)
  let low := (zs.filter (· == 0xFF800000)).length
  let hist := (List.range 32).map (fun j => (bins.filter (· == j)).length + (if j = 31 then low else 0))
  let word (v : Nat) : List Byte := bytesOf v 4
  access c recA (192 + 8 * k) 1
  writeT c recA (word 0x4E414353 ++ word 0 ++ word n ++ word kept.length ++ word nan ++ word m ++ word (c.f 8 0 32) ++
    List.replicate 36 0 ++ (hist.map word).flatten ++ (kept.map (fun p => word p.1 ++ word p.2)).flatten)
  writeT c (recA + 4) (word 1)
  onDone c (pg clsSEL c.pav) 0x50
  let s ← get
  inGrants c (ceilDiv n 64)
  pure (.later 0)

/-! ### Draw (R489 to R492) -/

/-- Operand words of SEL_DRAW (R489). -/
def drawSpec : CmdSpec :=
  { fields := [(4, 0, 3), (5, 0, 56), (7, 0, 56)],
    bad := fun w => [(at_ 4 1, cf w 4 0 1 == 0 && cf w 4 1 1 != 0), (at_ 4 2, cf w 4 0 1 == 1 && cf w 4 2 1 != 0)] }

/-- The lowest offending bit of bits [lo + n - 1 : lo] that must be zero. -/
def zeroBits (v lo n : Nat) : Nat × Bool := (lo + (lowBit (bitsOf v lo n)).getD 0, bitsOf v lo n != 0)

/-- The lowest offending bit of a draw descriptor (R489). -/
def drawDescBad (v : Nat) (race repl kept : Bool) : Option Nat :=
  let d := bitsOf v 288 16
  firstBad
    ([zeroBits v 168 24, zeroBits v 248 8, zeroBits v 304 16, zeroBits v 345 7, zeroBits v 392 120] ++
     (if race then
        [(256, bitsOf v 256 25 == 0 || decide (bitsOf v 256 25 > 2 ^ 24)), zeroBits v 281 7,
         (288, if repl then d == 0 || decide (d > 4) else d == 0 || decide (d > 4096)),
         zeroBits v 320 25, (352, !tempOk (bitsOf v 352 32)), (384, bitsOf v 384 8 == 0 || decide (bitsOf v 384 8 > 3))]
      else
        [(256, bitsOf v 256 13 == 0 || decide (bitsOf v 256 13 > 4096)), zeroBits v 269 19,
         (288, decide (d > 1024) || d == 0 && !kept),
         (320, bitsOf v 320 25 == 0 || decide (bitsOf v 320 25 > 2 ^ 24)), zeroBits v 352 32, zeroBits v 384 8]))

/-- q of R490: 2^31 for an equal score, else exp of the difference · 2^31, truncated. -/
def massOf (z0 z : Nat) : Nat :=
  if ord32 z = ord32 z0 then 2 ^ 31
  else match of32 (expRne (sub32 z z0)) with
    | .fin _ m e => let k := e + 31; if 0 ≤ k then m * 2 ^ k.toNat else m / 2 ^ (-k).toNat
    | _ => 0

/-- Running sums. -/
def prefixSums : Nat → List Nat → List Nat
  | _, [] => []
  | a, x :: r => (a + x) :: prefixSums (a + x) r

/-- The first position whose element satisfies p; the length where none does. -/
def firstAt {α : Type} (p : α → Bool) : List α → Nat
  | [] => 0
  | x :: r => if p x then 0 else firstAt p r + 1

/-- Where the header of a draw stands: at the first multiple of 64 from OUT on (R492; DESIGN CHOICE, log entry 90: R489 takes an OUT of
4-byte alignment). -/
def drawOut (c : Ctx) : Nat := ceilDiv (c.f 7 0 56) 64 * 64

/-- Write the header and the outputs of a draw (R492). -/
def writeDraw (c : Ctx) (kept draws : List Nat) (empty : Bool) : Cm Unit := do
  faultIf (c.f 7 0 56 % 4 ≠ 0) { code := fMisaligned, addr := c.f 7 0 56 }
  let out := drawOut c
  if empty then
    count (pg clsSEL c.pav) 0x60
    writeT c out (bytesOf 0 8 ++ bytesOf 0xFFFFFFFF 4)
  else
    count (pg clsSEL c.pav) 0x54 draws.length
    writeT c out (bytesOf kept.length 4 ++ bytesOf draws.length 4 ++ ((kept ++ draws).map (fun v => bytesOf v 4)).flatten)

/-- A LIST draw (R490, R492). -/
def listDraw (c : Ctx) (v : Nat) : Cm Nat := do
  let src := bitsOf v 192 56
  faultIf (src % 64 ≠ 0) { code := fMisaligned, addr := src }
  let h ← readNat c src 192
  failIf (bitsOf h 0 32 != 0x4E414353 || bitsOf h 32 32 != 1 || bitsOf h 224 288 != 0) 0x0178
  let k := min (bitsOf v 256 13) (bitsOf h 96 32)
  let l ← readT c (src + 192) (8 * k)
  let ent := (chunks 8 k l).map leNat
  let z0 := bitsOf (ent.getD 0 0) 0 32
  let q := prefixSums 0 (ent.map (fun e => massOf z0 (bitsOf e 0 32)))
  let total := q.getD (k - 1) 0
  let n := firstAt (fun x => decide (x * 2 ^ 24 ≥ bitsOf v 320 25 * total)) q + 1
  let idx (j : Nat) : Nat := bitsOf (ent.getD j 0) 32 32
  let draws := (List.range (bitsOf v 288 16)).map (fun d =>
    let t := below (r64 (gen (bitsOf v 0 64) (bitsOf v 64 32) (bitsOf v 128 40) (bitsOf v 96 32 + d))) (q.getD (n - 1) 0)
    idx (firstAt (fun x => decide (x > t)) q))
  writeDraw c (if c.b 4 2 then (List.range n).map idx else []) draws (k == 0)
  pure (4 * k + bitsOf v 288 16)

/-- g of R491. -/
def raceG (w : Nat) : Nat :=
  let neg (x : Nat) : Nat := x ^^^ 2 ^ 31
  neg (ln32 (neg (ln32 (frac w))))

/-- A RACE draw (R491, R492). -/
def raceDraw (c : Ctx) (v : Nat) : Cm Nat := do
  let fmt := bitsOf v 384 8
  let n := bitsOf v 256 25
  let d := bitsOf v 288 16
  let raw ← readScores c (bitsOf v 192 56) fmt n
  count (pg clsSEL c.pav) 0x5C (raw.filter (fun w => (elemVal fmt w).isNaN)).length
  let el := (raw.map (scoreZ fmt (bitsOf v 352 32))).zipIdx.filter (fun p => eligible p.1)
  let keys (j : Nat) : List (Nat × Nat) := el.map (fun p =>
    (add32 p.1 (raceG (genW (bitsOf v 0 64) (bitsOf v 64 32) (bitsOf v 128 40 * 2 ^ 24 + p.2) (bitsOf v 96 32) j)), p.2))
  let draws := if c.b 4 1 then (List.range d).map (fun j => ((rankZ (keys j)).getD 0 (0, 0)).2)
    else ((rankZ (keys 0)).take d).map (·.2)
  writeDraw c [] draws el.isEmpty
  onDone c (pg clsSEL c.pav) 0x58
  pure (ceilDiv n 64)

/-- SEL_DRAW's effect (R489 to R492). -/
def drawRun (c : Ctx) : Cm Stand := do
  let desc := c.f 5 0 56
  selServes c
  faultIf (desc % 64 ≠ 0) { code := fMisaligned, addr := desc }
  let v ← readNat c desc 64
  match drawDescBad v (c.b 4 0) (c.b 4 1) (c.b 4 2) with
  | some p => throw { code := fReservedField, pos := p }
  | none => do
    let cycles ← (if c.b 4 0 then raceDraw c v else listDraw c v)
    inGrants c cycles
    pure (.later 0)

/-- A range written, and one read, by a command. -/
def touchRW (rd wr : Ctx → Nat × Nat) (c : Ctx) : Cm (List Touch) :=
  pure [((rd c).1, (rd c).2, false), ((wr c).1, (wr c).2, true)]

/-- The unit of a core's Pavilion. -/
def rngUnit (core : Nat) : EUnit := .rng (core / 32)
def selUnit (core : Nat) : EUnit := .sel (core / 32)

def fillDef : CmdDef :=
  { opc := 0x90, spec := fillSpec, eu := rngUnit, run := fillRun,
    touch := fun c => pure [(c.f 11 0 56, fillLen (c.f 4 0 2) (c.f 10 0 32), true)] }
def liteDef : CmdDef :=
  { opc := 0x91, spec := liteSpec, eu := rngUnit, run := liteRun,
    touch := fun c => pure [(c.f 8 0 56, fillLen (c.f 4 8 2) (c.f 7 0 32), true)] }
def noiseDef : CmdDef :=
  { opc := 0x92, spec := noiseSpec, eu := rngUnit, run := noiseRun, touch := fun c => pure [(c.f 5 0 56, 32 * c.f 4 0 13, true)] }
def scanDef : CmdDef :=
  { opc := 0x93, spec := scanSpec, eu := selUnit, run := scanRun,
    touch := touchRW (fun c => (c.f 6 0 56, c.f 5 0 25 * (codeBits (c.f 4 0 8) / 8))) (fun c => (c.f 9 0 56, 192 + 8 * c.f 4 8 13)) }
/-- Ranges of a draw: its scores or record are known from its descriptor, read at issue. -/
def drawTouch (c : Ctx) : Cm (List Touch) := do
  let v ← readNat c (c.f 5 0 56) 64
  let src := if c.b 4 0 then bitsOf v 256 25 * (codeBits (bitsOf v 384 8) / 8) else 192 + 8 * bitsOf v 256 13
  let out := 8 + 4 * ((if c.b 4 2 then bitsOf v 256 13 else 0) + max 1 (bitsOf v 288 16))
  pure [(c.f 5 0 56, 64, false), (bitsOf v 192 56, src, false), (drawOut c, out, true)]
def drawDef : CmdDef := { opc := 0x94, spec := drawSpec, eu := selUnit, run := drawRun, touch := drawTouch }

/-- RNG_FILL (R473). -/
def execRngFill (t : Thr) (b : Body) (s : State) : Host.Outcome State Fault Refusal := .next (issueCmd t b fillDef s)
/-- RNG_LITE_FILL (R478). -/
def execRngLiteFill (t : Thr) (b : Body) (s : State) : Host.Outcome State Fault Refusal := .next (issueCmd t b liteDef s)
/-- RNG_NOISE_READ (R484). -/
def execRngNoiseRead (t : Thr) (b : Body) (s : State) : Host.Outcome State Fault Refusal := .next (issueCmd t b noiseDef s)
/-- SEL_SCAN (R486). -/
def execSelScan (t : Thr) (b : Body) (s : State) : Host.Outcome State Fault Refusal := .next (issueCmd t b scanDef s)
/-- SEL_DRAW (R489). -/
def execSelDraw (t : Thr) (b : Body) (s : State) : Host.Outcome State Fault Refusal := .next (issueCmd t b drawDef s)
/-- SEL_GRANT_SPLIT (R494). -/
def execSelGrantSplit (p : Fin 16) (s : State) : Host.Outcome State Fault Refusal :=
  .next (selSplit s p)

end Sys2Proof.Machine
end

