-- ==== Sys2Proof/Machine/Hedge.lean ====
section
/-!
DEFINITION. Hedge (R293 to R306): layer slots, keep records, audits, and grants. A command does its work group by group at the
grants that HDG_GRANT gives.
-/
namespace Sys2Proof.Machine
open Sys2Proof

def hdgSlotInvalid : Nat := 0x0158
def hdgShape : Nat := 0x0159

/-- Slot k of a Pavilion's Hedge. -/
def hslot (s : State) (p k : Nat) : HSlot := s.hslots.get {} (16 * p + k)
/-- Change a slot. -/
def updHslot (s : State) (p k : Nat) (f : HSlot → HSlot) : State := { s with hslots := s.hslots.upd {} (16 * p + k) f }
/-- The work of a Hedge command. -/
def hworkOf (s : State) (id : Nat) : Option HWork := s.hworks.get none id
/-- Record the work of a command. -/
def putHwork (id : Nat) (w : Option HWork) : Cm Unit := modify (fun s => { s with hworks := s.hworks.put none id w })
/-- Is the Pavilion's Hedge fenced (R591)? -/
def hdgFenced (s : State) (p : Nat) : Bool := unitFenced s (pg clsHDG p)

/-- Bits [lo + n − 1 : lo] of a slot's layer descriptor. -/
def HSlot.f (h : HSlot) (lo n : Nat) : Nat := bitsOf h.desc.toNat lo n
def HSlot.n0 (h : HSlot) : Nat := h.f 64 24
def HSlot.neurons (h : HSlot) : Nat := h.f 96 17
def HSlot.k0 (h : HSlot) : Nat := h.f 128 24
def HSlot.klen (h : HSlot) : Nat := h.f 160 17
def HSlot.rank (h : HSlot) : Nat := h.f 384 8

/-! ### HDG_LOAD (R293, R294) -/

/-- Operand words of HDG_LOAD. -/
def hloadSpec : CmdSpec := { fields := [(4, 0, 4), (5, 0, 56)], bad := fun _ => [] }

/-- The lowest bit of a layer descriptor that must be zero and is not (R293). -/
def layerReserved (v : Nat) : Option Nat :=
  firstBad [zeroBits v 56 8, zeroBits v 88 8, zeroBits v 113 15, zeroBits v 152 8, zeroBits v 177 15, zeroBits v 248 8, zeroBits v 312 8,
            zeroBits v 376 8, zeroBits v 609 7, zeroBits v 616 408]

/-- Values of a layer descriptor that are out of range (R293). -/
def layerShape (v : Nat) (w : TDesc) : Bool :=
  let neurons := bitsOf v 96 17
  let klen := bitsOf v 160 17
  neurons == 0 || decide (neurons > 65536) || klen == 0 || decide (klen > 65536) || decide (bitsOf v 384 8 > 64) || decide (bitsOf v 392 8 > 12) ||
  bitsOf v 416 32 == 0 || decide (bitsOf v 128 24 + klen > w.cols) || decide (bitsOf v 64 24 + neurons > w.rows)

/-- HDG_LOAD is checked at its issue, and then waits for its grants; a fenced Hedge completes it without effect (R591). -/
def hloadCheck (c : Ctx) : Cm Stand := do
  let s ← get
  let g := c.f 5 0 56
  faultIf (g % 64 ≠ 0) { code := fMisaligned, addr := g }
  let v ← readNat c g 128
  match layerReserved v with
  | some p => throw { code := fReservedField, pos := p }
  | none => do
    let d ← readDescN c (bitsOf v 0 56) [1, 2, 3, 4, 5, 6, 7, 8, 9, 10] [0]
    faultIf (layerShape v (tdescOf d)) { code := hdgShape }
    faultIf (bitsOf v 192 56 % 4 ≠ 0) { code := fMisaligned, addr := bitsOf v 192 56 }
    if hdgFenced s c.pav then pure (.later 0)
    else do
      putHwork c.op (some { desc := BitVec.ofNat 1024 v, d1 := BitVec.ofNat 256 d })
      pure (.later 1)

/-- HDG_LOAD. A read of its issue that fails leaves the slot not LOADED (R311); a check that fails has no effect (R71, R293). -/
def hloadRun (c : Ctx) : Cm Stand := fun s =>
  match hloadCheck c s with
  | .error f s' =>
    .error f (if f.code = fUncorrectable ∨ f.code = fUnreachable ∨ f.code = fencedCode then updHslot s' c.pav (c.f 4 0 4) (fun h => { h with loaded := false }) else s')
  | r => r

/-- Local address of slot k's norms (R294). -/
def normArea (s : State) (p k : Nat) : Nat := (dispArea s p).1 + 0x8200000 + k * 0x40000

/-- √ of the sum of squares, every step rounded toward +∞ (R294). -/
def upNorm (l : List Val) : Nat := up32 (of32 (l.foldl (fun a v => up32 ((of32 a).add (of32 (up32 (v.mul v))))) 0)).sqrt

/-- The norms of 64 neurons, or of those that are left (R294). -/
def loadGrant (c : Ctx) (w : HWork) : Cm Unit := do
  let k := c.f 4 0 4
  if !w.begun then
    modify (fun s => updHslot s c.pav k (fun _ => { loading := some c.op, desc := w.desc, wdesc := w.d1 }))
  let s ← get
  let h := hslot s c.pav k
  let d := tdescOf w.d1.toNat
  let ns := (List.range (min 64 (h.neurons - w.next))).map (w.next + ·)
  let norms ← collect (fun n => do
    let r ← rowPart c d (h.n0 + n) h.k0 h.klen
    pure (upNorm r)) ns
  writeLocal c.die (normArea s c.pav k + 4 * w.next) ((norms.map (fun x => bytesOf x 4)).flatten)
  if w.next + 64 ≥ h.neurons then
    modify (fun s => updHslot s c.pav k (fun h => { h with loading := none, loaded := true }))
    putHwork c.op none
    modify (fun s => updOp s c.op (fun o => { o with waits := o.waits - 1 }))
  else putHwork c.op (some { w with begun := true, next := w.next + 64, left := 0, split := false })

/-! ### HDG_PREDICT and HDG_AUDIT_READ (R297 to R304) -/

/-- Operand words of HDG_PREDICT; of HDG_AUDIT_READ with `audit`. -/
def predictSpec (audit : Bool) : CmdSpec :=
  { fields := [(4, 0, 15), (5, 0, 24), (6, 0, 25), (7, 0, 56), (9, 0, 56), (11, 0, 32), (12, 0, 56), (14, 0, 32), (15, 0, 24)],
    bad := fun w =>
      let skip := cf w 4 6 1 == 1
      let fmt := cf w 4 7 8
      [(at_ 4 4, cf w 4 4 2 == 3), (at_ 4 6, audit && skip),
       (at_ 4 7, if skip then !(fmt == 1 || fmt == 2 || fmt == 3 || fmt == 0x0E) else fmt != 0),
       (at_ 5 0, cf w 5 0 5 != 0), (at_ 6 0, cf w 6 0 25 == 0 || decide (cf w 6 0 25 > 2 ^ 24)),
       (at_ 11 0, cf w 11 0 6 != 0 || decide (cf w 11 0 32 < 72)), (at_ 12 0, !audit && !skip && cf w 12 0 56 != 0),
       (at_ 14 0, audit && cf w 14 0 32 != 0)] }

/-- Both commands are checked at their issue, and then wait for their grants. -/
def predictRun (audit : Bool) (c : Ctx) : Cm Stand := do
  let s ← get
  let keep := c.f 9 0 56
  faultIf (keep % 64 ≠ 0) { code := fMisaligned, addr := keep }
  let x ← readDescN c (c.f 7 0 56) [1, 2, 3, 4, 5] [0]
  let o ← (if audit then readDescN c (c.f 12 0 56) [1, 2, 3, 0x0E] [0]
    else if c.b 4 6 then readDescN c (c.f 12 0 56) [c.f 4 7 8] [0]
    else pure 0)
  if audit && hdgFenced s c.pav then pure (.later 0)
  else do
    putHwork c.op (some { d1 := BitVec.ofNat 256 x, d2 := BitVec.ofNat 256 o })
    pure (.later 1)

/-- The checks that depend on the slot, made when the command's turn comes (R295, R297, R301). -/
def predictBegin (c : Ctx) (audit : Bool) (w : HWork) : Cm Unit := do
  let s ← get
  let h := hslot s c.pav (c.f 4 0 4)
  let x := tdescOf w.d1.toNat
  let o := tdescOf w.d2.toNat
  failIf (!h.loaded) hdgSlotInvalid
  faultIf (c.f 11 0 32 < 64 + 8 * h.neurons) { code := fReservedField, pos := at_ 11 0 }
  failIf (!audit && c.f 4 4 2 == 1 && h.rank == 0) hdgShape
  failIf (decide (c.f 5 0 24 + c.f 6 0 25 > x.rows ∨ h.k0 + h.klen > x.cols)) hdgShape
  failIf ((audit || c.b 4 6) && decide (c.f 5 0 24 + c.f 6 0 25 > o.rows ∨ c.f 15 0 24 + h.neurons > o.cols)) hdgShape
  countIf (!audit && c.f 4 4 2 == 1 && deterministic s) (pg clsHDG c.pav) 0x70

/-- FP32 bias of neuron n (R293). -/
def biasOf (c : Ctx) (h : HSlot) (n : Nat) : Cm Nat := if h.f 192 56 = 0 then pure 0 else readNat c (h.f 192 56 + 4 * n) 4

/-- BF16 factors as FP32 bits. -/
def bf16Row (c : Ctx) (g n : Nat) : Cm (List Nat) := do
  let l ← readT c g (2 * n)
  pure ((chunks 2 n l).map (fun b => leNat b * 2 ^ 16))

/-- Which neurons of a group of rows are inactive: certified (R299), or predicted inactive (R301). -/
def inactive (c : Ctx) (h : HSlot) (mode : Nat) (rows : List (List Val)) : Cm (List Bool) := do
  let s ← get
  let ns := List.range h.neurons
  let bias ← collect (biasOf c h) ns
  if mode = 0 then
    let xmax := rows.foldl (fun m r => let x := upNorm r; if (of32 x).isNaN || (of32 m).lt (of32 x) then x else m) 0
    let norms ← readLocal c.die (normArea s c.pav (c.f 4 0 4)) (4 * h.neurons)
    pure (((chunks 4 h.neurons norms).zip bias).map (fun p =>
      let t := up32 ((of32 (leNat p.1)).mul (of32 xmax))
      let u := up32 ((of32 t).mul (.fin false (2 ^ 13 + 1) (-13)))
      (of32 (up32 ((of32 p.2).add (of32 u)))).lt Val.zero))
  else
    let r := h.rank
    let us ← collect (fun k => bf16Row c (h.f 256 56 + 2 * r * k) r) (List.range h.klen)
    let vs ← collect (fun j => bf16Row c (h.f 320 56 + 2 * h.neurons * j) h.neurons) (List.range r)
    let ps := rows.map (fun x => (x.zip us).foldl (fun a q => (a.zip q.2).map (fun e => add32 e.1 (mul32 (to32 q.1) e.2))) (List.replicate r 0))
    pure (ns.map (fun n => ps.all (fun p =>
      let t := (p.zip vs).foldl (fun a q => add32 a (mul32 q.1 (q.2.getD n 0))) 0
      (of32 (add32 t (bias.getD n 0))).lt (of32 (h.f 448 32)))))

/-- Rows of group g that the command covers. -/
def groupRows (c : Ctx) (g : Nat) : List Nat := (List.range (min 32 (c.f 6 0 25 - 32 * g))).map (c.f 5 0 24 + 32 * g + ·)

/-- What a group is decided to be: kept neurons, audited ones, skipped ones, and its cycles (R305). -/
def decideGroup (c : Ctx) (w : HWork) (g : Nat) : Cm (List Nat × List Nat × List Nat × Nat) := do
  let s ← get
  let h := hslot s c.pav (c.f 4 0 4)
  let all := List.range h.neurons
  let mode := if c.f 4 4 2 = 1 ∧ deterministic s then 0 else c.f 4 4 2
  if h.fallback || h.stale || hdgFenced s c.pav || mode == 2 then pure (all, [], [], ceilDiv h.neurons 64)
  else do
    let rows := groupRows c g
    let xs ← collect (fun r => rowPart c (tdescOf w.d1.toNat) r h.k0 h.klen) rows
    let off ← inactive c h mode xs
    let isOff (n : Nat) : Bool := off.getD n false
    let audited := all.filter (fun n => isOff n && mode == 1 &&
      decide (genW (h.f 512 64) (h.f 576 32) ((c.f 5 0 24 / 32 + g) * 2 ^ 16 + n) 0 0 < 2 ^ (32 - h.f 392 8)))
    let skipped := all.filter (fun n => isOff n && !audited.contains n)
    let kept := all.filter (fun n => !isOff n || audited.contains n)
    let first := if mode = 0 then ceilDiv (rows.length * h.klen) 256 else ceilDiv (rows.length * h.rank * (h.klen + h.neurons)) 4096
    pure (kept, audited, skipped, first + ceilDiv h.neurons 256 + ceilDiv (kept.length + audited.length) 64 +
      (if c.b 4 6 then ceilDiv (skipped.length * rows.length) 64 else 0))

/-- Write one element list of a row, and report it in groups of 32 (R298, R254, R331). -/
def skipRow (c : Ctx) (d : TDesc) (row : Nat) (cols : List Nat) : Cm Unit := do
  let b := codeBits d.format / 8
  let x := castRep d.format false none (of32 (c.f 14 0 32))
  each (fun col => writeNat c (d.row row + b * col) b x.bits) cols
  report d (cols.map (fun _ => x))

/-- Read the kept weight rows of a group ahead of the loads that need them, where the slot's PREFETCH is 1 and the rows lie in this module's
far tier: the reads reach the Orangery's row cache, and change nothing else (R306, R388). -/
def prefetch (c : Ctx) (h : HSlot) (kept : List Nat) (s : State) : State :=
  let d := tdescOf h.wdesc.toNat
  let b := codeBits d.format
  if h.f 608 1 = 0 then s
  else kept.foldl (fun s n =>
    let row := d.row (h.n0 + n)
    -- the block scales, and the elements
    let parts := (if codeIsMx d.format then [(row + h.k0 / 32, (h.k0 + h.klen - 1) / 32 - h.k0 / 32 + 1)] else []) ++
      [(row + d.head + h.k0 * b / 8, ceilDiv ((h.k0 + h.klen) * b) 8 - h.k0 * b / 8)]
    parts.foldl (fun s x =>
      if isOwn s x.1 && isFar s (gLoc x.1) && memService s (gLoc x.1) == .inService then countMem s c.die (gLoc x.1) x.2 false 2 else s) s) s

/-- Write a group's keep record and its skip values (R298). -/
def writeGroup (c : Ctx) (w : HWork) (g : Nat) (kept audited skipped : List Nat) : Cm Unit := do
  let s ← get
  let h := hslot s c.pav (c.f 4 0 4)
  let page := pg clsHDG c.pav
  let rec' := c.f 9 0 56 + g * c.f 11 0 32
  let list (l : List Nat) : List Byte := (l.map (fun n => bytesOf (h.n0 + n) 4)).flatten
  writeT c rec' (bytesOf kept.length 4 ++ bytesOf audited.length 4 ++ List.replicate 56 0 ++ list kept)
  writeT c (rec' + 64 + 4 * h.neurons) (list audited)
  if c.b 4 6 then each (fun r => skipRow c (tdescOf w.d2.toNat) r (skipped.map (c.f 15 0 24 + ·))) (groupRows c g)
  count page 0x40
  count page 0x48 skipped.length
  count page 0x50 kept.length
  countIf (h.stale || hdgFenced s c.pav) page 0x6C
  modify (prefetch c h kept)

/-- Count the audits and misses of a group (R302). -/
def auditGroup (c : Ctx) (w : HWork) (g : Nat) : Cm Unit := do
  let s ← get
  let k := c.f 4 0 4
  let h := hslot s c.pav k
  let page := pg clsHDG c.pav
  let rec' := c.f 9 0 56 + g * c.f 11 0 32
  let n ← readNat c (rec' + 4) 4
  let l ← readT c (rec' + 64 + 4 * h.neurons) (4 * min n h.neurons)
  let ns := ((chunks 4 h.neurons l).map leNat).filter (fun x => decide (h.n0 ≤ x ∧ x < h.n0 + h.neurons))
  let o := tdescOf w.d2.toNat
  let miss ← collect (fun x => do
    let vs ← collect (fun r => do
      let v ← rowPart c o r (c.f 15 0 24 + (x - h.n0)) 1
      pure (v.getD 0 Val.zero)) (groupRows c g)
    pure (vs.any (fun v => (of32 (h.f 480 32)).lt v))) ns
  let m := (miss.filter id).length
  count page 0x60 ns.length
  count page 0x64 m
  modify (fun s => updHslot s c.pav k (fun h => { h with audits := min (h.audits + ns.length) (2 ^ 32 - 1), misses := min (h.misses + m) (2 ^ 32 - 1) }))

/-- The end of an HDG_AUDIT_READ: FALLBACK (R302). -/
def auditEnd (c : Ctx) : Cm Unit := do
  let s ← get
  let k := c.f 4 0 4
  let h := hslot s c.pav k
  if !h.fallback && decide (h.audits ≥ h.f 416 32 ∧ h.misses * 2 ^ 16 > h.f 400 16 * h.audits) then
    count (pg clsHDG c.pav) 0x68
    modify (fun s => raiseEvt (updHslot s c.pav k (fun h => { h with fallback := true })) (pg clsHDG c.pav) 0)

/-- A grant of a prediction or audit read: its group, or, when the group takes longer than the grant, part of it (R305). -/
def groupGrant (c : Ctx) (audit : Bool) (w : HWork) : Cm Unit := do
  if !w.begun then predictBegin c audit w
  let s ← get
  let page := pg clsHDG c.pav
  let grant := actN s page 0x114
  let g := w.next
  let (kept, audited, skipped, cycles) ← (if audit then pure ([], [], [], 1) else decideGroup c w g)
  let need := if w.left = 0 then cycles else w.left
  if need > grant then
    count page 0x58 grant
    putHwork c.op (some { w with begun := true, left := need - grant, split := true })
  else do
    count page 0x58 need
    if audit then auditGroup c w g else writeGroup c w g kept audited skipped
    if 32 * (g + 1) ≥ c.f 6 0 25 then
      if audit then auditEnd c
      putHwork c.op none
      modify (fun s => updOp s c.op (fun o => { o with waits := o.waits - 1 }))
    else putHwork c.op (some { w with begun := true, next := g + 1, left := 0, split := false })

/-- A grant of an HDG_LOAD: 64 neurons at 256 elements a cycle, in parts of at most the grant (R305). -/
def hloadGrant (c : Ctx) (w : HWork) : Cm Unit := do
  let s ← get
  let page := pg clsHDG c.pav
  let grant := actN s page 0x114
  let v := w.desc.toNat
  let cycles := ceilDiv (min 64 (bitsOf v 96 17 - w.next) * bitsOf v 160 17) 256
  let need := if w.left = 0 then cycles else w.left
  if need > grant then
    count page 0x58 grant
    if !w.begun then
      modify (fun s => updHslot s c.pav (c.f 4 0 4) (fun _ => { loading := some c.op, desc := w.desc, wdesc := w.d1 }))
    putHwork c.op (some { w with begun := true, left := need - grant, split := true })
  else do
    count page 0x58 need
    loadGrant c w

/-! ### Grants (R295, R305) -/

/-- The command that the next grant goes to: the highest effective priority, the oldest among equals, a slot's commands in order. A command
of which a read of its issue is still to be made holds back the later ones of its slot. -/
def hdgNext (s : State) (p : Nat) : Option (Nat × Op) :=
  let all := (unitOps s (.hdg p)).filter (fun e => e.2.unrun || (hworkOf s e.1).isSome)
  let l := all.filter (fun e => (hworkOf s e.1).isSome)
  if l.any (fun e => ((hworkOf s e.1).map (·.split)).getD false) then none
  else pickOp s (l.filter (fun e => (e.2.tries == 0 || e.2.due) && (slot s (e.2.slot.getD 0)).heldFault.isNone &&
    !all.any (fun x => decide (x.1 < e.1) && cf x.2.cmd.toNat 4 0 4 == cf e.2.cmd.toNat 4 0 4)))

/-- One grant of a Hedge command. -/
def hdgStep (work : Option HWork) (id opc : Nat) (c : Ctx) (_o : Op) : Cm Unit := do
  match work with
  | none => pure ()
  | some w =>
    modify (fun s => updOp s id (fun o => { o with tries := 0, due := false }))
    if opc = 0x98 then hloadGrant c w else groupGrant c (opc == 0x9A) w

/-- HDG_GRANT (R305). -/
def execHdgGrant (p : Fin 16) (s : State) : Host.Outcome State Fault Refusal :=
  .next (if !euServes s (.hdg p) then s else
    match hdgNext s p with
    | none => s
    | some (id, o) => serveOp s id (hdgStep (hworkOf s id) id o.opcode))

/-- HDG_GRANT_SPLIT (R305): the grant in service reaches its length, and its leftover work is queued again. -/
def execHdgGrantSplit (p : Fin 16) (s : State) : Host.Outcome State Fault Refusal :=
  .next (match (unitOps s (.hdg p)).find? (fun e => ((hworkOf s e.1).map (·.split)).getD false) with
    | none => s
    | some (id, _) =>
      bump { s with hworks := s.hworks.upd none id (fun w => w.map (fun w => { w with split := false })) } (pg clsHDG p) 0x74)

/-! ### Commands -/

def hdgUnit (core : Nat) : EUnit := .hdg (core / 32)

/-- Ranges of a prediction or audit read (R422). -/
def predictTouch (audit : Bool) (c : Ctx) : Cm (List Touch) := do
  let x ← rowsTouch c (c.f 7 0 56) (c.f 5 0 24) (c.f 6 0 25) false
  let o ← (if audit || c.b 4 6 then rowsTouch c (c.f 12 0 56) (c.f 5 0 24) (c.f 6 0 25) (!audit) else pure [])
  let f ← winTouch false c
  pure (f ++ (c.f 9 0 56, ceilDiv (c.f 6 0 25) 32 * c.f 11 0 32, !audit) :: x ++ o)

def hloadDef : CmdDef :=
  { opc := 0x98, spec := hloadSpec, eu := hdgUnit, run := hloadRun,
    touch := fun c => do
      let f ← winTouch false c
      pure ((c.f 5 0 56, 128, false) :: f) }
def predictDef : CmdDef := { opc := 0x99, spec := predictSpec false, eu := hdgUnit, run := predictRun false, touch := predictTouch false }
def auditDef : CmdDef := { opc := 0x9A, spec := predictSpec true, eu := hdgUnit, run := predictRun true, touch := predictTouch true }

/-- HDG_LOAD (R293). -/
def execHdgLoad (t : Thr) (b : Body) (s : State) : Host.Outcome State Fault Refusal := .next (issueCmd t b hloadDef s)
/-- HDG_PREDICT (R297). -/
def execHdgPredict (t : Thr) (b : Body) (s : State) : Host.Outcome State Fault Refusal := .next (issueCmd t b predictDef s)
/-- HDG_AUDIT_READ (R302). -/
def execHdgAuditRead (t : Thr) (b : Body) (s : State) : Host.Outcome State Fault Refusal := .next (issueCmd t b auditDef s)

end Sys2Proof.Machine
end

