-- ==== Sys2Proof/Machine/Links.lean ====
section
/-!
DEFINITION. A link leaves service (R523, R524): its unacknowledged messages complete FENCED, its entries are freed, its epoch advances.
-/
namespace Sys2Proof.Machine
open Sys2Proof

/-- Engine behind an entry of the inbox: a link below 64, 128 + a link that has since been reset; 64 stands for none. -/
def inboxEngine (l : Nat) : Option Nat := if l = 64 then none else some (l % 128 / 8)

/-- STATE_CHANGE of a link's page (R529). -/
def linkChanged (s : State) (l : Nat) : State := raiseEvt s (pg clsLNK l) 0

/-- Answer or drop messages that a link gave up, counting those answered (R523). -/
def fenceMsgs (s : State) (e : Nat) (ep : BitVec 8) : List Msg → State
  | [] => s
  | m :: r => fenceMsgs (refuseMsg (if m.isRequest then bump s (pg clsPE e) 0x74 else s) m 1 ep) e ep r

/-- A bundle has lost its last active link: what still waits at its engine has no route (R525). -/
def strandMsgs (s : State) (e : Nat) : State :=
  if activeLinks s e ≠ [] then s
  else
    (s.txq.get [] e).foldl (fun s t => refuseMsg (bump s (pg clsPE e) 0x7C) t.msg 3 0) { s with txq := s.txq.put [] e [] }

/-- Take a link out of its bundle, into a state of R530 (R523 steps 1 to 3): every message with a flit not yet acknowledged, and the later
messages of the same streams at its engine, completes FENCED under the link's new epoch; the receiver's partial messages go. What waits for the bundle's last link is stranded (R525). -/
def linkDrop (s : State) (l st : Nat) : State :=
  let e := l / 8
  let k := link s l
  let q := s.txq.get [] e
  let begun (t : TxMsg) : Bool := t.link == some l
  let msgs := (k.replay.map (·.msgs)).flatten ++ (q.filter begun).map (·.msg)
  let streams := msgs.map Msg.streamKey
  let hit (t : TxMsg) : Bool := !begun t && streams.contains t.msg.streamKey
  let all := msgs ++ (q.filter hit).map (·.msg)
  let ep := (dom s (dLink l)).epoch + 1
  let s := { s with
    txq := s.txq.put [] e (q.filter (fun t => !begun t && !hit t))
    streams := s.streams.upd [] e (fun x => x.map (fun n => if n.link = l then { n with unacked := 0 } else n))
    inbox := s.inbox.map (fun x => if x.1 = l then (128 + l, x.2) else x) }
  let s := updLink s l (fun _ => { st, partner := k.partner, partnerLink := k.partnerLink, lanesOut := k.lanesOut, failed := k.failed })
  let s := updDom s (dLink l) (fun d => { d with epoch := ep, done := ep })
  let s := raiseEvt (linkChanged s l) (pg clsLNK l) 30
  strandMsgs (fenceMsgs (bump s (pg clsLNK l) 0x70 all.length) e ep all) e

end Sys2Proof.Machine
end

