-- ==== Sys2Proof/Machine/Sampler.lean ====
section
/-!
DEFINITION. The neighbourhood samplers and the Trellis (R152 to R189): graph descriptors and structure reads, the six sampling
methods, the Trellis that they write, and the building of alias tables.
-/
namespace Sys2Proof.Machine
open Sys2Proof

/-! ### Graph descriptors (R159, R193) -/

def Graph.valid (g : Graph) : Bool := bitOf g.cfg 0
def Graph.wfmt (g : Graph) : Nat := bitsOf g.cfg 1 2
def Graph.times (g : Graph) : Bool := bitOf g.cfg 3
def Graph.relSorted (g : Graph) : Bool := bitOf g.cfg 4
def Graph.nbrSorted (g : Graph) : Bool := bitOf g.cfg 5
def Graph.timeSorted (g : Graph) : Bool := bitOf g.cfg 6
def Graph.count (g : Graph) : Nat := bitsOf g.cfg 7 4 + 1
/-- Is the id one of the graph (R152)? -/
def Graph.has (g : Graph) (v : Nat) : Bool := decide (g.first ≤ v ∧ v < g.first + g.count * g.size)

/-- Descriptor g as registers spell it (R193). -/
def graphOf (rd : Nat → Nat) (g : Nat) : Graph :=
  let b := 0x200 + 0x50 * g
  { node := pairAddr rd b, edge := pairAddr rd (b + 8), wgt := pairAddr rd (b + 0x10), time := pairAddr rd (b + 0x18),
    aliasTab := pairAddr rd (b + 0x20), first := pairAddr rd (b + 0x28), size := pairAddr rd (b + 0x30), edges := pairAddr rd (b + 0x38),
    aliases := pairAddr rd (b + 0x40), cfg := rd (b + 0x48) }
/-- Active copy of descriptor g of SMP[p]. -/
def graphAct (s : State) (p g : Nat) : Graph := graphOf (fun o => actN s (pg clsSMP p) o) g
/-- Shadow of descriptor g of SMP[p]. -/
def graphSh (s : State) (p g : Nat) : Graph := graphOf (fun o => shN s (pg clsSMP p) o) g
/-- GD_ACTIVE.PENDING of descriptor g (R192). -/
def graphPending (s : State) (p g : Nat) : Bool := graphSh s p g != graphAct s p g

/-! ### A command's job -/

/-- What a sampler command works from: its sampling descriptor (R185), the copied graph descriptor (R159), the engines that work on it, each
numbered 2 · Pavilion + engine, and the one of them whose work this is. -/
structure SJob where
  c : Ctx
  d : Nat
  g : Graph
  gang : List Nat := []
  eng : Nat := 0
deriving DecidableEq, Repr

def SJob.op (j : SJob) : Nat := bitsOf j.c.w 0 8
def SJob.batch (j : SJob) : Nat := j.c.f 6 0 32
def SJob.seed (j : SJob) : Nat := bitsOf j.d 0 64
def SJob.hops (j : SJob) : Nat := bitsOf j.d 72 4
def SJob.wout (j : SJob) : Bool := bitOf j.d 80
def SJob.eout (j : SJob) : Bool := bitOf j.d 81
def SJob.kout (j : SJob) : Bool := bitOf j.d 82
def SJob.trans (j : SJob) : Bool := bitOf j.d 83
def SJob.recent (j : SJob) : Bool := bitOf j.d 84
def SJob.cap (j : SJob) : Nat := bitsOf j.d 96 25
def SJob.work (j : SJob) : Nat := bitsOf j.d 128 56
def SJob.workLen (j : SJob) : Nat := 4096 * bitsOf j.d 192 32
def SJob.candCap (j : SJob) : Nat := bitsOf j.d 224 23
/-- The hop entry of hop h, from 1. -/
def SJob.hop (j : SJob) (h : Nat) : Nat := bitsOf j.d (256 + 32 * (h - 1)) 32
def SJob.k (j : SJob) (h : Nat) : Nat := bitsOf (j.hop h) 0 17
def SJob.relSel (j : SJob) (h : Nat) : Nat := bitsOf (j.hop h) 17 8
def SJob.relAny (j : SJob) (h : Nat) : Bool := bitOf (j.hop h) 25
def SJob.p (j : SJob) : Nat := bitsOf j.d 512 32
def SJob.q (j : SJob) : Nat := bitsOf j.d 544 32
def SJob.tries (j : SJob) : Nat := bitsOf j.d 576 8
def SJob.temporal (j : SJob) : Bool := j.op == 0x65
def SJob.walk (j : SJob) : Bool := j.op == 0x64
/-- Local base of the Trellis, and its span. -/
def SJob.base (j : SJob) : Nat := gLoc (j.c.f 10 0 56)
def SJob.limit (j : SJob) : Nat := 4096 * j.c.f 12 0 32

/-- gen(K, h, d) of R162. -/
def SJob.words (j : SJob) (key h d : Nat) : List Nat := Machine.gen j.seed j.batch ((h - 1) * 2 ^ 61 + key % 2 ^ 40) d

/-- Count at the page of the Pavilion whose engine does the work (R190). -/
def SJob.count (j : SJob) (off : Nat) (n : Nat := 1) : Cm Unit := Machine.count (pg clsSMP j.c.pav) off n

/-- Fault code SMP_CAPACITY (R195). -/
def smpCapacity : Nat := 0x0123

/-! ### Structure reads (R152 to R157, R165) -/

/-- Global address of a structure address of partition `part`: the module of equal D, M and P coordinates (R152). -/
def partAddr (s : State) (part a : Nat) : Nat := coordId s (roleCoord s 0) (roleCoord s 1) (roleCoord s 2) part * 2 ^ 44 + a

/-- A computation of engine x, numbered 2 · Pavilion + engine: bytes of another module that it needs are that engine's reads (R189). -/
def asEngine {α : Type} (x : Nat) (m : Cm α) : Cm α := fun s =>
  match m s with
  | .error f s' => .error (if f.code = awaitCode then { f with pos := x } else f) s'
  | .ok v s' => .ok v s'

/-- Read n bytes of a partition's structure. -/
def SJob.read (j : SJob) (part a n : Nat) : Cm Nat := do
  let s ← get
  let l ← asEngine j.eng (readRaw j.c (partAddr s part a) n)
  pure (leNat l)

/-- Read n entries of w bytes from entry e of a table on, in reads of 64 bytes (R174). -/
def SJob.block (j : SJob) (part tab w e n : Nat) : Cm (List Nat) := do
  let l ← collect (fun i => do
    let k := min (64 / w) (n - 64 / w * i)
    let v ← j.read part (tab + w * e + 64 * i) (w * k)
    pure ((List.range k).map (fun x => bitsOf v (8 * w * x) (8 * w)))) (List.range (ceilDiv (w * n) 64))
  pure l.flatten

/-- Count structure reads of a partition (R174, R190). -/
def SJob.reads (j : SJob) (part n : Nat) : Cm Unit := do
  let s ← get
  j.count 0x48 n
  if part ≠ roleCoord s 3 then j.count 0x50 n

/-- A node record (R153), its partition beside it. -/
structure NodeRec where
  part : Nat := 0
  off : Nat := 0
  deg : Nat := 0
  hasAlias : Bool := false
  aliasOff : Nat := 0
deriving DecidableEq, Repr

/-- Is a node record inconsistent (R157)? -/
def recBad (g : Graph) (r : Nat) : Bool :=
  bitsOf r 81 7 != 0 || decide (bitsOf r 0 48 + bitsOf r 48 32 > g.edges) ||
  (bitOf r 80 && decide (bitsOf r 88 40 + bitsOf r 48 32 > g.aliases))

/-- The record of a node; one outside the graph or inconsistent has degree 0 (R157). -/
def SJob.node (j : SJob) (v : Nat) : Cm NodeRec := do
  if !j.g.has v then
    j.count 0x7C
    pure {}
  else
    let part := (v - j.g.first) / j.g.size
    j.reads part 1
    let r ← j.read part (j.g.node + 16 * ((v - j.g.first) % j.g.size)) 16
    if recBad j.g r then
      j.count 0x78
      pure { part }
    else pure { part, off := bitsOf r 0 48, deg := bitsOf r 48 32, hasAlias := bitOf r 80, aliasOff := bitsOf r 88 40 }

/-- Binary search: the first position in [lo, hi) whose key is not below x, and the keys known after it by position. A key known before is
not read again. -/
def lowerBound (key : Nat → Cm Nat) (x : Nat) : Nat → Nat → Nat → Tab Nat → Cm (Nat × Tab Nat)
  | 0, lo, _, seen => pure (lo, seen)
  | n + 1, lo, hi, seen =>
    if lo < hi then do
      let m := (lo + hi) / 2
      -- keys stand one above their values, so that a key of 0 is still listed
      let k ← (if seen.get 0 m = 0 then key m else pure (seen.get 0 m - 1))
      let seen := Tab.put 0 seen m (k + 1)
      if k < x then lowerBound key x n (m + 1) hi seen else lowerBound key x n lo m seen
    else pure (lo, seen)

/-- Are keys ascending? -/
def ascending (l : List Nat) : Bool := (l.zip l.tail).all (fun p => decide (p.1 ≤ p.2))

/-- The keys of a range of a partition's table by which its order is judged: all of them in the own partition, else those that a search has
read (DESIGN CHOICE, log entry 95). -/
def SJob.keys (j : SJob) (s : State) (part tab w lo n a b : Nat) (seen : Tab Nat) : List Nat :=
  if part = roleCoord s 3 then (List.range (b - a)).map (fun i => bitsOf (rdN s (tab + w * (a + i)) w) lo n)
  else (seen.filter (fun e => decide (a ≤ e.1 ∧ e.1 < b))).map (fun e => e.2 - 1)

/-- The first position of [a, b) whose field is not below x: the field is `n` bits from `lo` of the entry of `w` bytes at `tab`; and the keys
known then. A search over another order answers some position, a free function of what it searches (R156, R164). -/
def SJob.search (j : SJob) (part tab w lo n x a b : Nat) (seen : Tab Nat := []) : Cm (Nat × Tab Nat) := do
  let (p, seen) ← lowerBound (fun e => do
    let v ← j.read part (tab + w * e) w
    pure (bitsOf v lo n)) x 64 a b seen
  let s ← get
  let keys := j.keys s part tab w lo n a b seen
  if ascending keys then pure (p, seen)
  else pure (a + Config.unsortedPos keys x % (b - a + 1), seen)

/-- Reads of a binary search over n entries (R165). -/
def searchReads (n : Nat) : Nat := if n = 0 then 0 else Nat.log2 n + 1

/-- The edge range of a node at a hop (R165). DESIGN CHOICE (log entry 95): the searches of a run's two ends share what they read, and an
entry for each end at one level of the search is one read of the rule's bound. -/
def SJob.range (j : SJob) (h : Nat) (r : NodeRec) : Cm (Nat × Nat) := do
  let a := r.off
  let b := r.off + r.deg
  if j.relAny h ∨ r.deg = 0 then pure (a, b)
  else do
    j.reads r.part (searchReads r.deg)
    let (lo, seen) ← j.search r.part j.g.edge 8 40 8 (j.relSel h) a b
    let (hi, _) ← j.search r.part j.g.edge 8 40 8 (j.relSel h + 1) a b seen
    pure (lo, max lo hi)

/-- Bytes of a weight (R155). -/
def SJob.wbytes (j : SJob) : Nat := if j.g.wfmt = 1 then 2 else 4

/-- A stored weight as the sampler takes it (R155, R167): FP32 bits. DESIGN CHOICE (log entry 81): a weight of −0 is no negative one; it is
read as it stands and not counted. -/
def SJob.weightOf (j : SJob) (x : Nat) : Cm Nat := do
  let w := if j.g.wfmt = 1 then to32 (elemVal 0x03 x) else x
  let v := of32 w
  if !v.isFin || (v.sign && !v.isZero) then
    j.count 0x80
    pure 0
  else pure w

/-- The weight of an edge. -/
def SJob.weight (j : SJob) (part e : Nat) : Cm Nat := do
  let x ← j.read part (j.g.wgt + j.wbytes * e) j.wbytes
  j.weightOf x

/-- The weights of n edges from position e on, in reads of 64 bytes (R174). -/
def SJob.weights (j : SJob) (part e n : Nat) : Cm (List Nat) := do
  let l ← j.block part j.g.wgt j.wbytes e n
  collect j.weightOf l

/-- 64-byte reads of n weights (R174). -/
def SJob.weightReads (j : SJob) (n : Nat) : Nat := ceilDiv n (64 / j.wbytes)

/-- An emitted edge: neighbour and relation, partition and position, and its Trellis values. -/
structure Edge where
  nbr : Nat
  rel : Nat
  part : Nat
  pos : Nat
  wgt : Nat
  time : Nat
  draw : Nat
deriving DecidableEq, Repr

/-- NO_DRAW of R166. -/
def noDraw : Nat := 0xFFFFFFFF

/-- Emit the edge at a position with its draw index, and its weight where it has been read (R154, R181). `known`: its entry, where that has
been read; else it is one more read (R174). -/
def SJob.emit (j : SJob) (part pos draw : Nat) (w : Option Nat) (known : Option Nat := none) : Cm Edge := do
  let ent ← (match known with
    | some x => pure x
    | none => do
      j.reads part 1
      j.read part (j.g.edge + 8 * pos) 8)
  let wgt ← (match w with
    | some x => pure x
    | none =>
      if j.wout && j.g.wfmt != 0 then do
        j.reads part 1
        j.weight part pos
      else pure 0x3F800000)
  let time ← (if j.eout || j.temporal then do
      j.reads part 1
      j.read part (j.g.time + 8 * pos) 8
    else pure 0)
  pure { nbr := bitsOf ent 0 40, rel := bitsOf ent 40 8, part, pos, wgt, time, draw }

/-! ### Methods for one destination (R166, R167, R170, R173) -/

/-- Floyd's steps from j on, n of them (R166): the chosen offset and draw index of each. -/
def floydSteps (draw : Nat → List Nat) (lo : Nat) : Nat → Nat → List Nat → List (Nat × Nat)
  | 0, _, _ => []
  | n + 1, k, set =>
    let t := below (r64 (draw (k - lo))) (k + 1)
    let t := if set.contains t then k else t
    (t, k - lo) :: floydSteps draw lo n (k + 1) (t :: set)

/-- Floyd's algorithm over [a, b) (R166). DESIGN CHOICE (log entry 81): where the edges are no more than k, NO_DRAW stands for each and no
draw is made or counted (R165, R166), though R174 lists min(n, k). -/
def SJob.floyd (j : SJob) (h v part a b : Nat) : Cm (List Edge) := do
  let n := b - a
  let k := j.k h
  if n ≤ k then collect (fun i => j.emit part (a + i) noDraw none) (List.range n)
  else do
    j.count 0x40 k
    collect (fun p => j.emit part (a + p.1) p.2 none) (floydSteps (j.words v h) (n - k) k (n - k) [])

/-- Running FP32 sums. -/
def sums32 : Nat → List Nat → List Nat
  | _, [] => []
  | acc, w :: r => let x := add32 acc w; x :: sums32 x r

/-- Place of the last element that satisfies p. -/
def lastAt {α : Type} (p : α → Bool) (l : List α) : Nat := l.length - 1 - firstAt p l.reverse

/-- Weighted draws from prefix sums (R167). DESIGN CHOICE (log entry 81): a node whose weights are all 0 counts ZERO_WEIGHT once, and no
draws. -/
def SJob.inverse (j : SJob) (h v part a b : Nat) : Cm (List Edge) := do
  let n := b - a
  j.reads part (ceilDiv n 8 + j.weightReads n)
  let _ ← j.block part j.g.edge 8 a n
  let ws ← j.weights part a n
  if ws.all (fun w => (of32 w).isZero) then
    j.count 0x84
    pure []
  else do
    let sm := sums32 0 ws
    let total := sm.getD (n - 1) 0
    j.count 0x40 (j.k h)
    collect (fun d =>
      let target := of32 (mul32 (frac ((j.words v h d).getD 2 0)) total)
      let i := firstAt (fun x => target.lt (of32 x)) sm
      let i := if i < n then i else lastAt (fun w => !(of32 w).isZero) ws
      j.emit part (a + i) d (some (if j.wout then ws.getD i 0 else 0))) (List.range (j.k h))

/-- Weighted draws from an alias table (R167, R168). DESIGN CHOICE (log entry 81): a node whose table has no entry to take counts ZERO_WEIGHT
once a draw. -/
def SJob.aliasDraw (j : SJob) (h v a n : Nat) (r : NodeRec) : Cm (List Edge) := do
  if !r.hasAlias || !j.relAny h then failWith 0x0122
  j.count 0x40 (j.k h)
  let l ← collect (fun d => do
    let w := j.words v h d
    let i := below (r64 w) n
    j.reads r.part 1
    let ent ← j.read r.part (j.g.aliasTab + 8 * (r.aliasOff + i)) 8
    let thresh := bitsOf ent 32 32
    let i := if w.getD 2 0 < thresh ∨ thresh = 0xFFFFFFFF then i else bitsOf ent 0 32
    if i ≥ n then do
      j.count 0x84
      pure none
    else do
      let e ← j.emit r.part (a + i) d none
      pure (some e)) (List.range (j.k h))
  pure (l.filterMap id)

/-- Put a keyed element behind those whose FP32 key is not below its own. -/
def keyInsert (x : Nat × Nat) : List (Nat × Nat) → List (Nat × Nat)
  | [] => [x]
  | y :: r => if (of32 y.1).lt (of32 x.1) then x :: y :: r else y :: keyInsert x r
/-- Keyed elements in descending key order, ties in the order given. -/
def keySort (l : List (Nat × Nat)) : List (Nat × Nat) := l.foldl (fun acc x => keyInsert x acc) []

/-- Weighted without replacement (R170). -/
def SJob.reservoir (j : SJob) (h v part a b : Nat) : Cm (List Edge) := do
  let n := b - a
  j.reads part (ceilDiv n 8 + j.weightReads n)
  j.count 0x40 n
  let ents ← j.block part j.g.edge 8 a n
  let ws ← j.weights part a n
  let keys := (ws.zipIdx.filter (fun e => !(of32 e.1).isZero)).map (fun e =>
    (div32 (lg32 (frac ((j.words v h e.2).getD 2 0))) e.1, e.2))
  collect (fun e => j.emit part (a + e.2) e.2 (some (ws.getD e.2 0)) (some (ents.getD e.2 0))) ((keySort keys).take (j.k h))

/-- Edges strictly before the query time (R173). -/
def SJob.before (j : SJob) (h v tau part a b : Nat) : Cm (List Edge) := do
  j.reads part (searchReads (b - a))
  let (c, _) ← j.search part j.g.time 8 0 64 tau a b
  if c = a then
    j.count 0x90
    pure []
  else if j.recent then collect (fun i => j.emit part (c - 1 - i) noDraw none) (List.range (min (j.k h) (c - a)))
  else j.floyd h v part a c

/-- The edges of one destination of a node-wise method (R157, R165 to R173). -/
def SJob.dest (j : SJob) (h v tau : Nat) : Cm (List Edge) := do
  let r ← j.node v
  let (a, b) ← j.range h r
  if a = b then
    j.count 0x74
    if j.temporal then j.count 0x90
    pure []
  else match j.op with
    | 0x60 => j.floyd h v r.part a b
    | 0x61 => if b - a ≤ 256 then j.inverse h v r.part a b else j.aliasDraw h v a (b - a) r
    | 0x62 => j.reservoir h v r.part a b
    | _ => j.before h v tau r.part a b

/-! ### Layer-wise importance (R171) -/

/-- An edge seen by a layer: its entry, position, partition and weight. -/
abbrev Seen := Nat × Nat × Nat × Nat

/-- Every edge of a destination, with its weight (R171). -/
def SJob.scan (j : SJob) (h v : Nat) : Cm (List Seen) := do
  let r ← j.node v
  let (a, b) ← j.range h r
  if a = b then
    j.count 0x74
    pure []
  else do
    j.reads r.part (ceilDiv (b - a) 8 + (if j.g.wfmt = 0 then 0 else j.weightReads (b - a)))
    let ents ← j.block r.part j.g.edge 8 a (b - a)
    let ws ← (if j.g.wfmt = 0 then pure [] else j.weights r.part a (b - a))
    pure (ents.zipIdx.map (fun e => (e.1, a + e.2, r.part, ws.getD e.2 0x3F800000)))

/-- The neighbour of an edge seen. -/
def Seen.nbr (e : Seen) : Nat := bitsOf e.1 0 40

/-- Add w² to the candidate's sum. -/
def addCand (acc : Tab Nat) (e : Seen) : Tab Nat :=
  let x := e.2.2.2
  -- sums stand one above their bits, so that a sum of zero is still listed
  Tab.put 0 acc (Seen.nbr e) (add32 (acc.get 1 (Seen.nbr e) - 1) (mul32 x x) + 1)

/-- A hop of SMP_LAYERWISE, from the edges seen from each destination: their edge lists (R171). A candidate whose sum is 0 is never
selected; DESIGN CHOICE (log entry 81): a layer of no more than S candidates makes no draw. -/
def SJob.layer (j : SJob) (h : Nat) (seen : List (List Seen)) : Cm (List (List Edge)) := do
  let cand := (seen.flatten.foldl addCand []).map (fun e => (e.1, e.2 - 1))
  failIf (decide (cand.length > j.candCap)) smpCapacity
  let total := cand.foldl (fun a e => add32 a e.2) 0
  let many := decide (cand.length > j.k h)
  if many then j.count 0x40 cand.length
  let drawn := cand.filter (fun e => !(of32 e.2).isZero)
  let sel :=
    if many then
      ((keySort (drawn.map (fun e =>
        (div32 (lg32 (frac ((j.words e.1 h 0).getD 2 0))) e.2, e.1)))).take (j.k h)).map (·.2)
    else drawn.map (·.1)
  let size := to32 (Val.ofInt sel.length)
  collect (fun l => collect (fun (e : Seen) =>
    let q := (cand.find? (fun x => x.1 == Seen.nbr e)).elim 0 (·.2)
    j.emit e.2.2.1 e.2.1 0 (some (div32 (div32 (mul32 e.2.2.2 total) size) q)) (some e.1)) (l.filter (fun e => sel.contains (Seen.nbr e)))) seen

/-! ### Second-order walks (R172) -/

/-- A walk: its start, the node it stands on, the node before, and whether it has ended. -/
structure Walker where
  start : Nat
  r : Nat
  cur : Nat
  prev : Nat
  prevRec : NodeRec := {}
  ended : Bool := false
deriving DecidableEq, Repr

/-- Is x a neighbour of the walk's previous node (R172)? -/
def SJob.adjacent (j : SJob) (h : Nat) (t : NodeRec) (x : Nat) : Cm Bool := do
  let (a, b) ← j.range h t
  j.reads t.part (searchReads (b - a))
  let (p, seen) ← j.search t.part j.g.edge 8 0 40 x a b
  if p < b then do
    let nbr ← (if seen.get 0 p = 0 then do
        let ent ← j.read t.part (j.g.edge + 8 * p) 8
        pure (bitsOf ent 0 40)
      else pure (seen.get 0 p - 1))
    pure (nbr == x)
  else pure false

/-- The larger of two FP32 numbers. -/
def larger32 (a b : Nat) : Nat := if (of32 a).lt (of32 b) then b else a

/-- The attempts of a step: the offset kept, its entry and its attempt (R172). -/
def SJob.attempts (j : SJob) (h : Nat) (w : Walker) (part a n : Nat) : Nat → Nat → Nat × Nat → Cm (Nat × Nat × Nat)
  | 0, att, last => do
    j.count 0x88
    pure (last.1, last.2, att - 1)
  | k + 1, att, _ => do
    let g := j.words w.start h (w.r * 2 ^ 8 + att)
    let i := below (r64 g) n
    j.count 0x40
    j.reads part 1
    let ent ← j.read part (j.g.edge + 8 * (a + i)) 8
    if h = 1 then pure (i, ent, att)
    else do
      let x := bitsOf ent 0 40
      let ip := div32 0x3F800000 j.p
      let iq := div32 0x3F800000 j.q
      let amax := larger32 (larger32 ip 0x3F800000) iq
      let alpha ← (if x = w.prev then pure ip else do
        let adj ← j.adjacent h w.prevRec x
        pure (if adj then 0x3F800000 else iq))
      if (of32 (mul32 (frac (g.getD 2 0)) amax)).lt (of32 alpha) then pure (i, ent, att)
      else j.attempts h w part a n k (att + 1) (i, ent)

/-- One step of a walk: its edge, if any, and the walk after it (R172). -/
def SJob.walkStep (j : SJob) (h : Nat) (w : Walker) : Cm (List Edge × Walker) := do
  if w.ended then pure ([], w)
  else do
    let r ← j.node w.cur
    let (a, b) ← j.range h r
    if a = b then
      j.count 0x74
      j.count 0x8C
      pure ([], { w with ended := true })
    else do
      let (i, ent, att) ← j.attempts h w r.part a (b - a) j.tries 0 (0, 0)
      let e ← j.emit r.part (a + i) (w.r * 2 ^ 8 + att) none (some ent)
      pure ([e], { w with cur := e.nbr, prev := w.cur, prevRec := r })

/-! ### The Trellis (R175 to R183) -/

/-- A Trellis node: global id, query time, and the hop at which it was first reached (R182). -/
structure TNode where
  id : Nat
  time : Nat
  hop : Nat
deriving DecidableEq, Repr

/-- A Trellis under construction: its nodes by local id, the next free offset and the end of the last array, the hop records, the
destinations of the next hop, and the walks. -/
structure Build where
  nodes : List TNode := []
  next : Nat := 0
  fin : Nat := 0
  recs : List (List Byte) := []
  start : Nat := 0
  walks : List Walker := []
deriving DecidableEq, Repr

/-- The next multiple of 64. -/
def align64 (n : Nat) : Nat := ceilDiv n 64 * 64

def SJob.seedMap (j : SJob) : Nat := 0x80 + 128 * j.hops
def SJob.nodeList (j : SJob) : Nat := align64 (j.seedMap + 4 * j.c.f 7 0 32)
def SJob.nodeTime (j : SJob) : Nat := if j.temporal then align64 (j.nodeList + 8 * j.cap) else 0
def SJob.arrays (j : SJob) : Nat := align64 ((if j.temporal then j.nodeTime else j.nodeList) + 8 * j.cap)

/-- Write bytes at an offset of the Trellis. -/
def SJob.put (j : SJob) (off : Nat) (l : List Byte) : Cm Unit := writeLocal j.c.die (j.base + off) l
/-- Bytes that the layout leaves unnamed: free, and the same wherever the Trellis is made from the same (R164). -/
def SJob.gap (j : SJob) (nodes : List TNode) (off n : Nat) : Cm Unit :=
  let from' := j.d :: j.batch :: nodes.map (fun x => x.id + 2 ^ 40 * x.time)
  modify (fun s => wrBytes s (j.base + off) ((List.range n).map (fun i => Config.trellisGap from' (off + i))))

/-- The header (R180). -/
def SJob.header (j : SJob) (b : Build) (status : Nat) : List Byte :=
  let n (v k : Nat) : List Byte := bytesOf v k
  n 0x314C5254 4 ++ n 1 2 ++
  n (b2n j.wout + 2 * b2n j.eout + 4 * b2n j.kout + 8 * b2n j.trans + 16 * b2n j.temporal + 32 * b2n j.walk) 2 ++
  n j.hops 1 ++ n j.op 1 ++ n (bitsOf j.d 64 2) 1 ++ n status 1 ++ n b.nodes.length 4 ++ n (j.c.f 7 0 32) 4 ++ n j.batch 4 ++ n j.seed 8 ++
  n b.fin 8 ++ n j.seedMap 8 ++ n j.nodeList 8 ++ n j.nodeTime 8 ++ n j.cap 4 ++ n b.walks.length 4 ++
  n (if j.walk then j.p else 0) 4 ++ n (if j.walk then j.q else 0) 4 ++ List.replicate 48 0

/-- The local id of a node, a new one if it has none (R176, R178). -/
def SJob.assign (j : SJob) (hop : Nat) (nodes : List TNode) (v time : Nat) : Cm (List TNode × Nat) := do
  let i := firstAt (fun x => x.id == v && (!j.temporal || x.time == time)) nodes
  if i < nodes.length then pure (nodes, i)
  else if nodes.length ≥ j.cap then failWith smpCapacity
  else do
    j.count 0x60
    pure (nodes ++ [{ id := v, time, hop }], i)

/-- Local ids of a list of nodes in order; `hits` counts those that hold one already (R190). -/
def SJob.assignAll (j : SJob) (hop : Nat) (hits : Bool) : List TNode → List (Nat × Nat) → Cm (List TNode × List Nat)
  | nodes, [] => pure (nodes, [])
  | nodes, (v, t) :: r => do
    let (nodes', i) ← j.assign hop nodes v t
    if hits && i < nodes.length then j.count 0x68
    let (nodes', l) ← j.assignAll hop hits nodes' r
    pure (nodes', i :: l)

/-- Write one array, or none, at the next offset (R179): its offset, 0 where absent. -/
def SJob.array (j : SJob) (present : Bool) (l : List Byte) (b : Build) : Cm (Nat × Build) := do
  if !present then pure (0, b)
  else if b.next + l.length > j.limit then failWith smpCapacity
  else do
    j.gap b.nodes b.fin (b.next - b.fin)
    j.put b.next l
    pure (b.next, { b with next := align64 (b.next + l.length), fin := b.next + l.length })

/-- Numbers of n bytes each. -/
def packN (n : Nat) (l : List Nat) : List Byte := (l.map (fun v => bytesOf v n)).flatten

/-- Write a hop's arrays and form its record (R176, R177, R181). -/
def SJob.putHop (j : SJob) (h : Nat) (b : Build) (lists : List (List Edge)) : Cm Build := do
  let el := lists.flatten
  failIf (decide (el.length > 2 ^ 24)) smpCapacity
  let known := b.nodes.length
  let (nodes, src) ← j.assignAll h true b.nodes (el.map (fun e => (e.nbr, e.time)))
  let lim := nodes.length
  let b0 := { b with nodes }
  let (o1, b1) ← j.array true (packN 4 (0 :: prefixSums 0 (lists.map List.length))) b0
  let (o2, b2) ← j.array true (packN 4 (List.zipWith (fun l e => l % 2 ^ 24 + e.rel * 2 ^ 24) src el)) b1
  let (o3, b3) ← j.array true (packN 8 (el.map (fun e => e.pos % 2 ^ 48 + e.part % 16 * 2 ^ 48))) b2
  let (o4, b4) ← j.array j.wout (packN 4 (el.map (·.wgt))) b3
  let (o5, b5) ← j.array j.eout (packN 8 (el.map (·.time))) b4
  let (o6, b6) ← j.array j.kout (packN 4 (el.map (·.draw))) b5
  let (o7, b7) ← j.array j.trans (packN 4 ((List.range (lim + 1)).map (fun l => (src.filter (fun x => decide (x < l))).length))) b6
  let (o8, b8) ← j.array j.trans (packN 4 ((List.range lim).flatMap (fun l => (src.zipIdx.filter (fun x => x.1 == l)).map (·.2)))) b7
  let r := packN 4 [if j.walk then 0 else b.start, lists.length, el.length, lim - known, j.hop h, lim] ++
    packN 8 [o1, o2, o3, o4, o5, o6, o7, o8] ++ List.replicate 40 (0 : Byte)
  pure { b8 with recs := b.recs ++ [r], start := known }

/-- The job as engine e, numbered 2 · Pavilion + engine, works on it: its reads are that Pavilion's, and it counts there (R187, R190). -/
def SJob.onEngine (j : SJob) (e : Nat) : SJob :=
  if e / 2 = j.c.pav then { j with eng := e } else { j with eng := e, c := { j.c with core := 32 * (e / 2), eu := .smp (e / 2) } }

/-- The job as the engine that draws chunk i of hop h works on it: the issuing engine for the first, else one of those that have joined,
which of them the spec leaves to timing (R187). -/
def SJob.taker (j : SJob) (h i : Nat) : Cm SJob := do
  if j.gang.length ≤ 1 || (h == 1 && i == 0) then pure j
  else do
    let s ← get
    let (s, x) := takeFree s
    set s
    pure (j.onEngine (j.gang.getD (x % j.gang.length) 0))

/-- What a step of the method gives for each destination of a hop, drawn in chunks of SMP.CHUNK (R187, R194). -/
def SJob.chunked {α β : Type} (j : SJob) (h : Nat) (f : SJob → α → Cm β) (l : List α) : Cm (List β) := do
  let s ← get
  let n := max 1 (bitsOf (actN s (pg clsSMP j.c.pav) 0x404) 0 11)
  let r ← collect (fun i => do
    let k ← j.taker h i
    collect (f k) ((l.drop (n * i)).take n)) (List.range (ceilDiv l.length n))
  pure r.flatten

/-- The edge lists of hop h (R177). -/
def SJob.lists (j : SJob) (h : Nat) (b : Build) : Cm (List (List Edge) × Build) := do
  if j.walk then do
    let l ← j.chunked h (fun k w => k.walkStep h w) b.walks
    pure (l.map (·.1), { b with walks := l.map (·.2) })
  else do
    let dests := b.nodes.drop b.start
    let l ← (if j.op = 0x63 then do
        let seen ← j.chunked h (fun k (n : TNode) => k.scan h n.id) dests
        j.layer h seen
      else j.chunked h (fun k (n : TNode) => k.dest h n.id n.time) dests)
    pure (l, b)

/-- The hops from h on, n of them. -/
def SJob.runHops (j : SJob) : Nat → Nat → Build → Cm Build
  | 0, _, b => pure b
  | n + 1, h, b => do
    let (l, b) ← j.lists h b
    let b ← j.putHop h b l
    j.runHops n (h + 1) b

/-- A seed-list entry: its node and query time (R175). -/
def SJob.seedAt (j : SJob) (i : Nat) : Cm (Nat × Nat) := do
  let n := if j.temporal then 16 else 8
  let l ← asEngine j.eng (readRaw j.c (j.c.f 8 0 56 + n * i) n)
  let v := leNat l
  failIf (bitsOf v 40 24 != 0 || !j.g.has (bitsOf v 0 40)) 0x0121
  pure (bitsOf v 0 40, v / 2 ^ 64)

/-- Build the Trellis; STATUS = 1 is written last (R175 to R183). The end offset of its last array. -/
def SJob.trellis (j : SJob) : Cm Nat := do
  j.put 0 (j.header {} 0)
  failIf (decide (j.arrays > j.limit)) smpCapacity
  let seeds ← collect j.seedAt (List.range (j.c.f 7 0 32))
  let (nodes, map) ← j.assignAll 0 false [] seeds
  j.put j.seedMap (packN 4 map)
  j.gap nodes (j.seedMap + 4 * map.length) (j.nodeList - j.seedMap - 4 * map.length)
  let walks := if j.walk then nodes.flatMap (fun n => (List.range (j.k 1)).map (fun r => { start := n.id, r, cur := n.id, prev := n.id : Walker })) else []
  let b ← j.runHops j.hops 1 { nodes, next := j.arrays, fin := j.arrays, walks }
  j.put j.nodeList (packN 8 (b.nodes.map (fun n => n.id + n.hop * 2 ^ 40)))
  j.gap b.nodes (j.nodeList + 8 * b.nodes.length) ((if j.temporal then j.nodeTime else j.arrays) - j.nodeList - 8 * b.nodes.length)
  if j.temporal then
    j.put j.nodeTime (packN 8 (b.nodes.map (·.time)))
    j.gap b.nodes (j.nodeTime + 8 * b.nodes.length) (j.arrays - j.nodeTime - 8 * b.nodes.length)
  each (fun (e : List Byte × Nat) => j.put (0x80 + 128 * e.2) e.1) b.recs.zipIdx
  j.put 0 (j.header b 0)
  j.put 0x0B [1]
  pure b.fin

/-- The ranges that the command may leave undefined (R183): everything of the Trellis span but STATUS, and the work area. -/
def SJob.spans (j : SJob) : List (Nat × Nat) := [(j.base, 0x0B), (j.base + 0x0C, j.limit - 0x0C), (gLoc j.work, j.workLen)]

/-- Ranges without one of their bytes. -/
def without (a : Nat) (l : List (Nat × Nat)) : List (Nat × Nat) :=
  l.flatMap (fun r => if r.1 ≤ a ∧ a < r.1 + r.2 then [(r.1, a - r.1), (a + 1, r.1 + r.2 - a - 1)] else [r])

/-- Serve a sampler command: on a fault STATUS = 2 is left, and the rest of both spans is undefined (R183, R186). -/
def SJob.serve (j : SJob) : Cm Unit := fun s =>
  match j.trellis s with
  | .ok n s' => .ok () (updSlot (scramble s' (gLoc j.work) j.workLen) j.c.key (fun t =>
      { t with wrote := (j.base, n) :: (gLoc j.work, j.workLen) :: t.wrote }))
  | .error f s' =>
    if f.code = holdCode ∨ f.code = awaitCode then .error f s'
    else .error f (updSlot (updOp (wrB s' (j.base + 0x0B) 2) j.c.op (fun o => { o with outs := [] })) j.c.key (fun t =>
      { t with wrote := j.spans ++ without (j.base + 0x0B) t.wrote }))

/-! ### Issue (R184 to R187) -/

/-- The lowest offending bit of a sampling descriptor (R185). -/
def sdescBad (v op : Nat) : Option Nat :=
  let hops := bitsOf v 72 4
  let walk := op == 0x64
  let layer := op == 0x63
  let posBad (lo : Nat) : Nat × Bool :=
    let x := bitsOf v lo 32
    if walk then (lo, !((of32 x).isFin && !(of32 x).isZero && !(of32 x).sign)) else zeroBits v lo 32
  firstBad
    ([zeroBits v 66 6, (72, hops == 0 || decide (hops > 8)), zeroBits v 76 4, (84, bitOf v 84 && op != 0x65), zeroBits v 85 11,
      (96, bitsOf v 96 25 == 0 || decide (bitsOf v 96 25 > 2 ^ 24)), zeroBits v 121 7, zeroBits v 128 12, zeroBits v 184 8,
      (192, bitsOf v 192 32 == 0),
      (if layer then (224, bitsOf v 224 23 == 0 || decide (bitsOf v 224 23 > 2 ^ 22)) else zeroBits v 224 23), zeroBits v 247 9,
      posBad 512, posBad 544, (if walk then (576, bitsOf v 576 8 == 0) else zeroBits v 576 8), zeroBits v 584 440] ++
     (List.range 8).flatMap (fun i =>
        let lo := 256 + 32 * i
        let k := bitsOf v lo 17
        if i ≥ hops then [zeroBits v lo 32]
        else [zeroBits v (lo + 26) 6,
              (lo, k == 0 || (if layer then decide (k > 65536) else if walk && i > 0 then decide (k > 1) else decide (k > 1024))),
              (if bitOf v (lo + 25) then zeroBits v (lo + 17) 8 else (0, false))]))

/-- Does the copied graph lack what the method needs (R186)? -/
def SJob.graphBad (j : SJob) : Bool :=
  !j.g.valid || ((j.op == 0x61 || j.op == 0x62) && j.g.wfmt == 0) || ((j.temporal || j.eout) && !(j.g.times && j.g.timeSorted)) ||
  (j.walk && !j.g.nbrSorted) || ((List.range j.hops).any (fun i => !j.relAny (i + 1)) && !j.g.relSorted)

/-- Commands queued or joined at engine e of a Pavilion's samplers, up to the 8 of its queue (R187, R192): behind them stand those that a
fenced engine left, in issue order. -/
def smpQueue (s : State) (p e : Nat) : Nat := min 8 ((opList s).filter (fun x => x.2.joined.contains (2 * p + e))).length

/-- May engine e take a command? -/
def smpFree (s : State) (p e : Nat) : Bool := !domFenced s (dSmp p e) && decide (smpQueue s p e < 8)

/-- The engine that takes a command (R187). -/
def smpEngine (s : State) (p : Nat) : Option Nat :=
  match smpFree s p 0, smpFree s p 1 with
  | true, true => some (if smpQueue s p 0 ≤ smpQueue s p 1 then 0 else 1)
  | true, false => some 0
  | false, true => some 1
  | false, false => none

/-- Take an engine, and copy the active graph descriptors (R159, R187): a command that reads again after a FENCED completion keeps both. -/
def smpTake (c : Ctx) : Cm Unit := do
  let s ← get
  if (s.sworks.get none c.op).isSome then pure ()
  else match smpEngine s c.pav with
    | none => do
      if domFenced s (dSmp c.pav 0) && domFenced s (dSmp c.pav 1) then
        throw { code := fResourceRetired, detail := resource c.pav 6 0 }
      hold
    | some e => do
      ownOp c (fun o => { o with joined := [2 * c.pav + e], cursor := 4 })
      onDone c (pg clsSMP c.pav) 0x70
      modify (fun s =>
        let w : SWork := { graphs := (List.range 4).map (graphAct s c.pav), early := !(page s (pg clsSMP c.pav)).commitPending }
        { s with sworks := s.sworks.put none c.op (some w) })

/-- The graph descriptor that a command copied. -/
def SWork.graph (w : SWork) (s : State) (p g : Nat) : Graph := w.graphs.getD g (graphAct s p g)

/-- The job of a command that an engine has taken. -/
def smpJob (s : State) (c : Ctx) (w : SWork) : SJob :=
  let d := (w.desc.getD 0).toNat
  let gang := ((getOp s c.op).getD {}).joined
  { c, d, g := w.graph s c.pav (if bitsOf c.w 0 8 = 0x66 then c.f 4 0 2 else bitsOf d 64 2), gang, eng := gang.headD (2 * c.pav) }

/-- Operand words of opcodes 0x60 to 0x65 (R184). -/
def smpSpec : CmdSpec :=
  { fields := [(4, 0, 56), (6, 0, 32), (7, 0, 32), (8, 0, 56), (10, 0, 56), (12, 0, 32), (13, 0, 16)],
    bad := fun w => [(at_ 7 0, cf w 7 0 32 == 0 || decide (cf w 7 0 32 > 2 ^ 24)), (at_ 12 0, cf w 12 0 32 == 0)] }

/-- Bytes of a command's seed list. -/
def seedLen (c : Ctx) : Nat := (if bitsOf c.w 0 8 = 0x65 then 16 else 8) * c.f 7 0 32

/-- Does a span lie wholly in the issuing module's near tier? -/
def ownNear (s : State) (g len : Nat) : Bool := isOwn s g && decide (gLoc g + len ≤ 2 ^ 40)

/-- Does the copied graph serve the command, and the work area hold what it needs (R169, R178, R186)? -/
def smpFit (c : Ctx) : Cm Unit := do
  let s ← get
  let j := smpJob s c ((s.sworks.get none c.op).getD {})
  if bitsOf c.w 0 8 = 0x66 then do
    failIf (!j.g.valid || j.g.wfmt == 0 || j.g.aliases == 0) 0x0120
    failIf (decide (c.f 5 0 40 + c.f 7 0 32 > j.g.size)) 0x0121
  else do
    failIf j.graphBad 0x0120
    failIf (decide (j.workLen < 32 * j.cap + 16 * j.candCap + 65536)) smpCapacity

/-- A command that names graph descriptor g stands at its engine: to be served, or, where it was issued after the COMMIT write, to wait
there for the commit of its descriptor (R160). -/
def smpStand (c : Ctx) (g : Nat) (d : Option (BitVec 1024)) : Cm Stand := do
  let s ← get
  let early := ((s.sworks.get none c.op).getD {}).early
  modify (fun s => { s with sworks := s.sworks.upd none c.op (fun w => w.map (fun w => { w with desc := d })) })
  ownOp c (fun o => { o with cursor := g })
  if !early && (page s (pg clsSMP c.pav)).commitPending && graphPending s c.pav g then do
    count (pg clsSMP c.pav) 0x98
    ownOp c (fun o => { o with inService := false })
  else smpFit c
  pure (.later 1)

/-- The issue of a sampler command at its engine: its sampling descriptor, its spans, and the copied graph (R184 to R186). -/
def smpIssue (c : Ctx) : Cm Stand := do
  let s ← get
  let d ← asEngine ((((getOp s c.op).getD {}).joined).headD (2 * c.pav)) (readNat c (c.f 4 0 56) 128)
  match sdescBad d (bitsOf c.w 0 8) with
  | some p => throw { code := fReservedField, pos := p }
  | none => do
    let work := bitsOf d 128 56
    let len := 4096 * bitsOf d 192 32
    faultIf (c.f 10 0 56 % 256 ≠ 0) { code := fMisaligned, addr := c.f 10 0 56 }
    faultIf (!ownNear s (c.f 10 0 56) (4096 * c.f 12 0 32)) { code := fNotPermitted, addr := c.f 10 0 56 }
    faultIf (!ownNear s work len) { code := fNotPermitted, addr := work }
    faultIf (c.f 8 0 56 % (if bitsOf c.w 0 8 = 0x65 then 16 else 8) ≠ 0) { code := fMisaligned, addr := c.f 8 0 56 }
    access c (c.f 8 0 56) (seedLen c) 0
    access c (c.f 10 0 56) (4096 * c.f 12 0 32) 1
    access c work len 0
    access c work len 1
    ownOp c (fun o => { o with outs := [(gLoc work, len)] })
    smpStand c (bitsOf d 64 2) (some (BitVec.ofNat 1024 d))

/-- A sampler command's effect (R184 to R187). DESIGN CHOICE (log entry 81): a GANG without the issuing Pavilion is a reserved field at its
first bit, judged behind the fields that R184 calls reserved. -/
def smpRun (c : Ctx) : Cm Stand := do
  faultIf (!bitOf (c.f 13 0 16) c.pav) { code := fReservedField, pos := at_ 13 0 }
  faultIf (c.f 4 0 56 % 128 ≠ 0) { code := fMisaligned, addr := c.f 4 0 56 }
  smpTake c
  catchFenced (smpIssue c)

/-- Ranges known at issue (R422): the descriptor, the seed list and the Trellis. -/
def smpTouch (c : Ctx) : Cm (List Touch) :=
  pure [(c.f 4 0 56, 128, false), (c.f 8 0 56, seedLen c, false), (c.f 10 0 56, 4096 * c.f 12 0 32, true)]

/-! ### Alias tables (R169) -/

/-- The state of the algorithm of R169: what is left, thresholds, aliases, and the two FIFOs. -/
structure AliasSt where
  p : Tab Nat
  thr : Tab (Option Nat) := []
  al : Tab (Option Nat) := []
  small : List Nat
  large : List Nat

/-- Is an FP32 number below one? -/
def below1 (x : Nat) : Bool := (of32 x).lt Val.one

/-- Pair small entries with large ones. -/
def aliasPairs : Nat → AliasSt → AliasSt
  | 0, a => a
  | n + 1, a =>
    match a.small, a.large with
    | x :: sm, l :: lg =>
      let px := a.p.get 0 x
      let pl := sub32 (add32 (a.p.get 0 l) px) 0x3F800000
      let a := { a with p := Tab.put 0 a.p l pl, thr := a.thr.put none x (some px), al := a.al.put none x (some l), small := sm }
      aliasPairs n (if below1 pl then { a with large := lg, small := sm ++ [l] } else a)
    | _, _ => a

/-- The entries of a node's alias table from its weights; `none` where a NaN leaves one without a value (R169). -/
def aliasTable (ws : List Nat) : List (Option (Nat × Nat)) :=
  let n := ws.length
  let total := ws.foldl add32 0
  if (of32 total).isZero then List.replicate n (some (0xFFFFFFFF, 0))
  else
    let ps := ws.map (fun w => div32 (mul32 w (to32 (Val.ofInt n))) total)
    let idx := List.range n
    let a := aliasPairs (2 * n + 1)
      { p := ps.zipIdx.foldl (fun m e => Tab.put 0 m e.2 e.1) []
        small := idx.filter (fun i => below1 (ps.getD i 0))
        large := idx.filter (fun i => Val.one.le (of32 (ps.getD i 0))) }
    let a := (a.large ++ a.small).foldl (fun a l => { a with thr := a.thr.put none l (some 0x3F800000), al := a.al.put none l (some l) }) a
    idx.map (fun i => match a.thr.get none i, a.al.get none i with
      | some t, some l =>
        if Val.one.le (of32 t) then some (l, 0xFFFFFFFF)
        else match of32 t with
          | .fin neg m e => if neg && m != 0 then none else some (l, if 0 ≤ e + 32 then m * 2 ^ (e + 32).toNat else m / 2 ^ (-(e + 32)).toNat)
          | _ => none
      | _, _ => none)

/-- A free alias entry. -/
def freeEntry : Cm Nat := do
  let s ← get
  let (s, v) := takeFree s
  set s
  pure v

/-- Build the table of one node of the own partition (R169). -/
def SJob.buildNode (j : SJob) (v : Nat) : Cm Unit := do
  let s ← get
  let r ← j.node v
  if r.hasAlias && decide (r.deg > 256) then do
    j.reads r.part (j.weightReads r.deg)
    let ws ← j.weights r.part r.off r.deg
    let a := j.g.aliasTab + 8 * r.aliasOff
    let l ← collect (fun (e : Option (Nat × Nat)) => match e with
      | some x => pure (x.1 + x.2 * 2 ^ 32)
      | none => freeEntry) (aliasTable ws)
    if r.part = roleCoord s 3 then
      writeLocal j.c.die a (packN 8 l)
      modify (fun s => updSlot s j.c.key (fun t => { t with wrote := (a, 8 * r.deg) :: t.wrote }))

/-- Operand words of SMP_ALIAS_BUILD (R169). -/
def aliasSpec : CmdSpec :=
  { fields := [(4, 0, 2), (5, 0, 40), (7, 0, 32)], bad := fun w => [(at_ 7 0, cf w 7 0 32 == 0)] }

/-- Build the tables of the own partition's nodes (R169). DESIGN CHOICE (log entry 81): a module whose G coordinate is no partition's has no
node of the range, and builds nothing. -/
def SJob.build (j : SJob) : Cm Unit := do
  let s ← get
  let own := roleCoord s 3
  if own < j.g.count then
    each j.buildNode ((List.range (j.c.f 7 0 32)).map (fun i => j.g.first + own * j.g.size + j.c.f 5 0 40 + i))

/-- SMP_ALIAS_BUILD's effect (R160, R169, R187). -/
def aliasRun (c : Ctx) : Cm Stand := do
  smpTake c
  smpStand c (c.f 4 0 2) none

/-! ### Service, waiting commands, and helpers -/

/-- The command that engine e of a Pavilion serves: the oldest that it took and that waits for no commit (R160, R187). -/
def smpHead (s : State) (x : Nat) : Option Nat :=
  ((opList s).find? (fun e => e.2.joined.head? == some x && e.2.inService)).map (·.1)

/-- Is a command the one that its issuing engine serves? -/
def smpServed (s : State) (id : Nat) (o : Op) : Bool := o.joined.any (fun x => smpHead s x == some id)

/-- An engine serves a command that it has taken (R187). -/
def smpFinish (s : State) (id : Nat) : State :=
  match getOp s id, s.sworks.get none id with
  | some o, some w =>
    if o.unrun ∨ !smpServed s id o ∨ !euServes s o.eu then s
    else serveOp s id (fun c o => do
      let s ← get
      (if o.opcode = 0x66 then (smpJob s c w).build else (smpJob s c w).serve)
      modify (fun s => updOp { s with sworks := s.sworks.put none id none } id (fun o => { o with waits := o.waits - 1 })))
  | _, _ => s

/-- A command that waited for a commit of its descriptor goes on with the descriptor as it then stands (R160). -/
def smpResume (s : State) (id : Nat) : State :=
  match getOp s id, s.sworks.get none id with
  | some o, some w =>
    let p := o.joined.headD 0 / 2
    if o.inService ∨ ((page s (pg clsSMP p)).commitPending && graphPending s p o.cursor) then s
    else serveOp { s with sworks := s.sworks.put none id (some { w with graphs := (List.range 4).map (graphAct s p) }) } id (fun c _ => do
      ownOp c (fun o => { o with inService := true })
      smpFit c)
  | _, _ => s

/-- The commands of SMP[p] that waited for its commit go on (R160). -/
def smpPump (s : State) (p : Nat) : State :=
  ((unitOps s (.smp p)).filter (fun e => !e.2.inService)).foldl (fun s e => smpResume s e.1) s

/-- Descriptors named by the commands in service on a Pavilion's engines (R160): any of the four while a command's is not known. -/
def smpNamed (s : State) (p : Nat) : List Nat :=
  [0, 1].flatMap (fun e => match (smpHead s (2 * p + e)).bind (getOp s) with
    | some o => if o.cursor < 4 then [o.cursor] else List.range 4
    | none => [])

/-- SMP_GANG_JOIN (R187): engine e of Pavilion p, with a free queue entry, joins a command whose gang names the Pavilion. -/
def execSmpGangJoin (id : Nat) (p : Fin 16) (e : Fin 2) (s : State) : Host.Outcome State Fault Refusal :=
  .next (match getOp s id with
    | some o =>
      if 0x60 ≤ o.opcode ∧ o.opcode ≤ 0x65 ∧ bitOf (cf o.cmd.toNat 13 0 16) p ∧ !o.joined.contains (2 * p.val + e) ∧ smpFree s p e ∧
          o.inService ∧ euServes s (.smp p) ∧ (dom s (dPav p)).service = .inService then
        updOp s id (fun o => { o with joined := o.joined ++ [2 * p.val + e.val] })
      else s
    | none => s)

/-! ### Commands -/

def smpUnit (core : Nat) : EUnit := .smp (core / 32)

def smpDef (opc : Nat) : CmdDef := { opc, spec := smpSpec, eu := smpUnit, run := smpRun, touch := smpTouch }
def aliasDef : CmdDef := { opc := 0x66, spec := aliasSpec, eu := smpUnit, run := aliasRun }

/-- SMP_UNIFORM (R166, R184). -/
def execSmpUniform (t : Thr) (b : Body) (s : State) : Host.Outcome State Fault Refusal := .next (issueCmd t b (smpDef 0x60) s)
/-- SMP_ALIAS (R167, R184). -/
def execSmpAlias (t : Thr) (b : Body) (s : State) : Host.Outcome State Fault Refusal := .next (issueCmd t b (smpDef 0x61) s)
/-- SMP_RESERVOIR (R170, R184). -/
def execSmpReservoir (t : Thr) (b : Body) (s : State) : Host.Outcome State Fault Refusal := .next (issueCmd t b (smpDef 0x62) s)
/-- SMP_LAYERWISE (R171, R184). -/
def execSmpLayerwise (t : Thr) (b : Body) (s : State) : Host.Outcome State Fault Refusal := .next (issueCmd t b (smpDef 0x63) s)
/-- SMP_WALK2 (R172, R184). -/
def execSmpWalk2 (t : Thr) (b : Body) (s : State) : Host.Outcome State Fault Refusal := .next (issueCmd t b (smpDef 0x64) s)
/-- SMP_TEMPORAL (R173, R184). -/
def execSmpTemporal (t : Thr) (b : Body) (s : State) : Host.Outcome State Fault Refusal := .next (issueCmd t b (smpDef 0x65) s)
/-- SMP_ALIAS_BUILD (R169). -/
def execSmpAliasBuild (t : Thr) (b : Body) (s : State) : Host.Outcome State Fault Refusal := .next (issueCmd t b aliasDef s)

end Sys2Proof.Machine
end

