-- ==== Sys2Proof/Machine/Dense.lean ====
section
/-!
DEFINITION. The dense engine: banks, tiles and chains (R231 to R243), loads, multiplications and drains (R249 to R255), attention
(R256, R257), and saved tiles (R258).
-/
namespace Sys2Proof.Machine
open Sys2Proof

/-- A core's dense engine. -/
def dense (s : State) (core : Nat) : Dense := s.dense.get {} core
/-- Change a core's dense engine. -/
def updDense (s : State) (core : Nat) (f : Dense → Dense) : State := { s with dense := s.dense.upd {} core f }
/-- Tile A or B. -/
def tile (s : State) (core n : Nat) : Tile := if n % 2 = 0 then (dense s core).a else (dense s core).b
/-- Set tile A or B. -/
def setTile (s : State) (core n : Nat) (t : Tile) : State := updDense s core (fun d => if n % 2 = 0 then { d with a := t } else { d with b := t })
/-- Bank 0 or 1. -/
def bank (s : State) (core n : Nat) : Option Bank := if n = 0 then (dense s core).bank0 else (dense s core).bank1
/-- Set a bank. -/
def setBank (s : State) (core n : Nat) (b : Option Bank) : State := updDense s core (fun d => if n = 0 then { d with bank0 := b } else { d with bank1 := b })

/-- Operand codes of the dense engine (R234). -/
def dnsCodes : List Nat := [2, 3, 4, 5, 6, 7, 8, 9, 0x0A, 0x0B, 0x0C]
/-- Bank capacity of a code in K positions (R233). -/
def bankCap (code : Nat) : Nat := 32 * codeG code

/-- Fields of the bank's command (R251). -/
def Bank.f (b : Bank) (word lo n : Nat) : Nat := cf b.cmd.toNat word lo n
def Bank.tdesc (b : Bank) : TDesc := tdescOf b.desc.toNat
def Bank.k0 (b : Bank) : Nat := b.f 5 0 24
def Bank.klen (b : Bank) : Nat := b.f 6 0 13
def Bank.ncols (b : Bank) : Nat := b.f 4 3 5 + 1
def Bank.isList (b : Bank) : Bool := b.f 4 1 1 == 1
/-- The values of a bank column. -/
def Bank.col (b : Bank) (n : Nat) : List Val :=
  -- with KMAJOR no MX code is open, so scales start at K0's block in every case that has them
  scaleElems b.tdesc.format b.k0 (b.scales.getD n []) (b.bits.getD n [])

/-! ### One queue for the tiles (R249, R269) -/

/-- The work of a dense command that is served by groups. -/
def dworkOf (s : State) (id : Nat) : Option DWork := s.dworks.get none id
/-- Record that work. -/
def putDwork (id : Nat) (w : Option DWork) : Cm Unit := modify (fun s => { s with dworks := s.dworks.put none id w })

/-- Has an outstanding dense or sparse command work left: does it wait for its turn, or to read again, or for its groups or walk? -/
def tileLive (s : State) (e : Nat × Op) : Bool :=
  !e.2.inService || e.2.unrun || (s.walks.get none e.1).isSome || (dworkOf s e.1).isSome

/-- Has a dense or sparse command of the core issued before command `before` work left, or is a bank of it still to be filled again
(R263)? -/
def tilesBusy (s : State) (core before : Nat) : Bool :=
  (dense s core).refills != [] ||
  (opList s).any (fun e => decide ((e.2.eu = .dns core ∨ e.2.eu = .sps core) ∧ e.1 < before) && !e.2.parked && tileLive s e)

/-- Run a command, or queue it behind a walk that is not finished. -/
def inOrder (run : Ctx → Cm Stand) (c : Ctx) : Cm Stand := do
  let s ← get
  if tilesBusy s c.core c.op then do
    ownOp c (fun o => { o with inService := false })
    pure (.later 1)
  else run c

/-! ### DNS_LOAD_W (R251) -/

/-- Operand words of DNS_LOAD_W. -/
def loadWSpec : CmdSpec :=
  { fields := [(4, 0, 8), (5, 0, 24), (6, 0, 13), (7, 0, 24), (8, 0, 56), (10, 0, 56)],
    bad := fun w =>
      [(at_ 4 2, bitOf w (at_ 4 2) && bitOf w (at_ 4 1)), (at_ 5 0, cf w 5 0 5 != 0), (at_ 6 0, cf w 6 0 13 == 0 || decide (cf w 6 0 13 > 4096)),
       (at_ 10 0, !bitOf w (at_ 4 1) && cf w 10 0 56 != 0)] }

/-- Count elements that R236 clamps. -/
def countClamps (c : Ctx) (code : Nat) (l : List Nat) : Cm Unit := count (pg clsDNS c.pav) 0x6C (l.filter (elemClamped code)).length

/-- Source row or column of bank column n (R251). -/
def bankSrc (c : Ctx) (n : Nat) : Cm Nat := do
  if c.b 4 1 then readNat c (c.f 10 0 56 + 4 * (c.f 7 0 24 + n)) 4 else pure (c.f 7 0 24 + n)

/-- One bank column: its element bits and scales. -/
def bankCol (c : Ctx) (d : TDesc) (src : Nat) : Cm (List Nat × List Nat) := do
  let k0 := c.f 5 0 24
  let klen := c.f 6 0 13
  failIf (decide (src ≥ if c.b 4 2 then d.cols else d.rows)) 0x0142
  if c.b 4 2 then
    let l ← collect (fun k => do
      let e ← rowBits c d (k0 + k) src 1
      pure (e.getD 0 0)) (List.range klen)
    countClamps c d.format l
    pure (l, [])
  else
    let sc ← rowScales c d src k0 klen
    let l ← rowBits c d src k0 klen
    countClamps c d.format l
    pure (l, sc)

/-- Fill a bank from the memory that a descriptor names, as DNS_LOAD_W does and a resumption does again (R251, R263). -/
def fillBank (c : Ctx) (v : Nat) : Cm Unit := do
  let d := tdescOf v
  faultIf (c.b 4 2 && codeIsMx d.format) { code := fReservedField, pos := at_ 4 2 }
  faultIf (c.b 4 1 ∧ c.f 10 0 56 % 4 ≠ 0) { code := fMisaligned, addr := c.f 10 0 56 }
  failIf (decide (c.f 6 0 13 > bankCap d.format) || decide (c.f 5 0 24 + c.f 6 0 13 > if c.b 4 2 then d.rows else d.cols)) 0x0142
  let src ← collect (bankSrc c) (List.range (c.f 4 3 5 + 1))
  let cols ← collect (bankCol c d) src
  modify (fun s => setBank s c.core (c.f 4 0 1)
    (some { cmd := BitVec.ofNat 512 c.w, desc := BitVec.ofNat 256 v, src, bits := cols.map (·.1), scales := cols.map (·.2) }))

/-- DNS_LOAD_W's effect: its bank is empty until it is filled. -/
def loadWRun (c : Ctx) : Cm Stand := do
  modify (fun s => setBank s c.core (c.f 4 0 1) none)
  let v ← readDescN c (c.f 8 0 56) dnsCodes [0]
  fillBank c v
  pure (.later 0)

def loadWDef : CmdDef :=
  { opc := 0x20, spec := loadWSpec, eu := .dns, needs := 1, run := inOrder loadWRun
    touch := fun c => do
      let l ← (if c.b 4 1 then winTouch false c
        else if c.b 4 2 then rowsTouch c (c.f 8 0 56) (c.f 5 0 24) (c.f 6 0 13) false
        else rowsTouch c (c.f 8 0 56) (c.f 7 0 24) (c.f 4 3 5 + 1) false)
      pure ((c.f 8 0 56, 32, false) :: l) }

/-! ### Chains (R231, R232, R239, R240, R243) -/

/-- Exact group sum of an integer slice. -/
def intDot (a b : List Val) : Int :=
  ((a.zip b).map (fun p => p.1.scaled 0 * p.2.scaled 0)).foldl (· + ·) 0

/-- One accumulator's chain over the slices of a row: its container, and how often it was clamped. -/
def chain (int : Bool) (g : Nat) : Nat → Nat → List Val → List Val → Nat × Nat
  | 0, acc, _, _ => (acc, 0)
  | n + 1, acc, a, w =>
    if a.isEmpty then (acc, 0)
    else
      let (acc', hit) :=
        if int then
          let r := addSat32 (ofI64 acc) (intDot (a.take g) (w.take g))
          (toI64 r.1, b2n r.2)
        else (addFa40 acc (toFa40 (Val.sum (((a.take g).zip (w.take g)).map (fun p => p.1.mul p.2)))), 0)
      let r := chain int g n acc' (a.drop g) (w.drop g)
      (r.1, r.2 + hit)

/-- Start a command on a tile: OVERWRITE, or ADD, which faults on a tile of the other KIND (R240). -/
def startTile (c : Ctx) (n : Nat) (int : Bool) (code : Nat := 0x0143) : Cm Unit := do
  let s ← get
  if c.acc then failIf ((tile s c.core n).int != int) code
  else set (setTile s c.core n { int })

/-- Advance a tile's chain counter (R240). -/
def advance (c : Ctx) (n k : Nat) : Cm Unit := do
  let s ← get
  let t := tile s c.core n
  let ch := min (t.chain + k) (2 ^ 32 - 1)
  countIf (decide (ch > 65536) && !t.accLong) (pg clsDNS c.pav) 0x64
  modify (fun s => setTile s c.core n { t with chain := ch, accLong := t.accLong || decide (ch > 65536) })

/-- Accumulate a row group into `width` columns of a tile: activation rows, each as the values of the bank's K positions (R231, R232). -/
def accumulate (c : Ctx) (n : Nat) (b : Bank) (g : Nat) (rows : List (List Val)) (width : Nat := 32) : Cm Unit := do
  let s ← get
  let t := tile s c.core n
  let zero := List.replicate b.klen Val.zero
  let res := (rows.zipIdx.map (fun r => (List.range width).map (fun j =>
    (32 * r.2 + j, chain t.int g b.klen (t.vals.get 0 (32 * r.2 + j)) r.1 (if j < b.ncols then b.col j else zero))))).flatten
  let hits := (res.map (fun e => e.2.2)).sum
  let t' := { t with vals := res.foldl (fun m e => m.put 0 e.1 e.2.1) t.vals, sat := t.sat || decide (hits > 0),
                     satCount := min 0xFFFF (t.satCount + hits) }
  countIf (decide (hits > 0) && !t.sat) (pg clsDNS c.pav) 0x68
  modify (fun s => setTile s c.core n t')
  advance c n b.klen
  count (pg clsDNS c.pav) 0x48 (rows.length * min width b.ncols * b.klen)
  count (pg clsDNS c.pav) 0x40 (rows.length * ceilDiv b.klen g)

/-- The bank a command uses, its activations' format checked against it (R234, R252). -/
def useBank (c : Ctx) (fmt : Nat) : Cm Bank := do
  let s ← get
  match bank s c.core (c.f 4 0 1) with
  | none => failWith 0x0141
  | some b => do
    failIf (codeIsInt b.tdesc.format != codeIsInt fmt) 0x0140
    pure b

/-- Activation rows, as the values of the bank's K positions. -/
def actRows (c : Ctx) (d : TDesc) (b : Bank) (rows : List Nat) : Cm (List (List Val)) :=
  collect (fun r => do
    let sc ← rowScales c d r b.k0 b.klen
    let l ← rowBits c d r b.k0 b.klen
    countClamps c d.format l
    pure (scaleElems d.format b.k0 sc l)) rows

/-! ### Drains (R244 to R247, R253, R254) -/

/-- The value that a tile element drains as. -/
def tileVal (t : Tile) (i : Nat) : Val := if t.int then .ofInt (ofI64 (t.vals.get 0 i)) else ofFa40 (t.vals.get 0 i)

/-- Output codes of drains (R252). -/
def outCodes : List Nat := [1, 2, 3, 0x0D, 0x0E]

/-- Write elements of one output row at given columns, and report them as one group (R254). -/
def drainRow (c : Ctx) (d : TDesc) (row : Nat) (elems : List (Nat × Cast)) : Cm Unit := do
  failIf (decide (row ≥ d.rows) || elems.any (fun e => decide (e.1 ≥ d.cols))) 0x0142
  let b := codeBits d.format / 8
  let c0 := (elems.headD (0, ⟨0, false, false, .zero⟩)).1
  if elems.zipIdx.all (fun e => e.1.1 == c0 + e.2) then
    writeT c (d.row row + b * c0) ((elems.map (fun e => bytesOf e.2.bits b)).flatten)
  else each (fun e => writeNat c (d.row row + b * e.1) b e.2.bits) elems
  report d (elems.map (·.2))

/-- Drain rows of a tile: (tile row, output row) pairs, at the output columns of the tile's columns (R253). -/
def drainTile (c : Ctx) (d : TDesc) (n : Nat) (rows : List (Nat × Nat)) (cols : List Nat) (sr sat : Bool) (seed stream : Nat) : Cm Unit := do
  let s ← get
  let t := tile s c.core n
  each (fun p => drainRow c d p.2 (cols.zipIdx.map (fun q =>
    (q.1, castRep d.format sat (srOf sr seed stream (p.2 * d.cols + q.1)) (tileVal t (32 * p.1 + q.2)))))) rows
  count (pg clsDNS c.pav) 0x60

/-- Conditions on OUT_FMT, SR, SAT and the key of a drain (R252, R253); `on` when the command drains. -/
def drainBad (w : Nat) (on : Bool) : List (Nat × Bool) :=
  let sr := bitOf w (at_ 4 3)
  let fmt := cf w 4 5 8
  [(at_ 4 3, sr && (!on || fmt == 0x0D || fmt == 0x0E)), (at_ 4 4, bitOf w (at_ 4 4) && !on),
   (at_ 4 5, if on then !outCodes.contains fmt else fmt != 0), (at_ 12 0, !sr && cf w 12 0 64 != 0), (at_ 14 0, !sr && cf w 14 0 32 != 0)]

/-! ### DNS_MM (R252) -/

/-- Operand words of DNS_MM. -/
def mmSpec : CmdSpec :=
  { fields := [(4, 0, 14), (5, 0, 24), (6, 0, 25), (7, 0, 56), (9, 0, 56), (11, 0, 24), (12, 0, 64), (14, 0, 32)],
    bad := fun w =>
      let auto := bitOf w (at_ 4 2)
      let rows := cf w 6 0 25
      drainBad w auto ++
      [(at_ 6 0, rows == 0 || decide (rows > 2 ^ 24) || decide (rows > 32) && (bitOf w 15 || !auto)),
       (at_ 9 0, !auto && cf w 9 0 56 != 0), (at_ 11 0, bitOf w (at_ 4 13) && cf w 11 0 24 != 0)] }

/-- Record the work of a command that is served by groups, and start it in its turn. -/
def beginGroups (c : Ctx) (a o : Nat) (start : Ctx → Cm Stand) : Cm Stand := do
  putDwork c.op (some { a := BitVec.ofNat 256 a, o := BitVec.ofNat 256 o })
  inOrder start c

/-- The turn of a command that is served by groups has come: its groups are due. -/
def startGroups (c : Ctx) : Cm Stand := do
  modify (fun s => { s with dworks := s.dworks.upd none c.op (fun w => w.map (fun w => { w with begun := true })) })
  pure (.later 1)

/-- DNS_MM's turn has come: the checks against its bank and its tile (R252). -/
def mmStart (c : Ctx) : Cm Stand := do
  let s ← get
  let w := (dworkOf s c.op).getD {}
  let a := tdescOf w.a.toNat
  let d := tdescOf w.o.toNat
  let b ← useBank c a.format
  failIf (c.acc && (tile s c.core (c.f 4 1 1)).int != codeIsInt a.format) 0x0143
  faultIf (c.b 4 13 && !b.isList) { code := fReservedField, pos := at_ 4 13 }
  failIf (decide (b.k0 + b.klen > a.cols) || c.b 4 2 && !c.b 4 13 && decide (c.f 11 0 24 + b.ncols > d.cols)) 0x0142
  startGroups c

/-- DNS_MM's issue: the checks against its descriptors (R252). -/
def mmRun (c : Ctx) : Cm Stand := do
  let auto := c.b 4 2
  let last := c.f 5 0 24 + c.f 6 0 25
  let a ← readDescN c (c.f 7 0 56) dnsCodes [0]
  let o ← (if auto then readDescN c (c.f 9 0 56) [c.f 4 5 8] [0] else pure 0)
  failIf (auto && (c.f 4 5 8 == 0x0D) != codeIsInt (tdescOf a).format) 0x0143
  failIf (decide (last > (tdescOf a).rows) || auto && decide (last > (tdescOf o).rows)) 0x0142
  beginGroups c a o mmStart

def mmDef : CmdDef :=
  { opc := 0x21, spec := mmSpec, eu := .dns, needs := 1, run := mmRun
    touch := fun c => do
      let l ← rowsTouch c (c.f 7 0 56) (c.f 5 0 24) (c.f 6 0 25) false
      let o ← (if c.b 4 2 then rowsTouch c (c.f 9 0 56) (c.f 5 0 24) (c.f 6 0 25) true else pure [])
      pure (l ++ o) }

/-! ### DNS_DRAIN (R253) -/

/-- Operand words of DNS_DRAIN. -/
def drainSpec : CmdSpec :=
  { fields := [(4, 0, 1), (4, 3, 11), (5, 0, 24), (6, 0, 6), (7, 0, 29), (8, 0, 56), (10, 0, 56), (12, 0, 64), (14, 0, 32)],
    bad := fun w =>
      drainBad w true ++
      [(at_ 6 0, cf w 6 0 6 == 0 || decide (cf w 6 0 6 > 32)), (at_ 7 0, bitOf w (at_ 4 13) && cf w 7 0 24 != 0),
       (at_ 10 0, !bitOf w (at_ 4 13) && cf w 10 0 56 != 0)] }

/-- DNS_DRAIN's effect (R253). -/
def drainRun (c : Ctx) : Cm Stand := do
  let s ← get
  let n := c.f 7 24 5 + 1
  let d ← readDesc c (c.f 8 0 56) [c.f 4 5 8] [0]
  failIf ((c.f 4 5 8 == 0x0D) != (tile s c.core (c.f 4 0 1)).int) 0x0143
  faultIf (c.b 4 13 ∧ c.f 10 0 56 % 4 ≠ 0) { code := fMisaligned, addr := c.f 10 0 56 }
  let cols ← collect (fun k => if c.b 4 13 then readNat c (c.f 10 0 56 + 4 * k) 4 else pure (c.f 7 0 24 + k)) (List.range n)
  drainTile c d (c.f 4 0 1) ((List.range (c.f 6 0 6)).map (fun i => (i, c.f 5 0 24 + i))) cols (c.b 4 3) (c.b 4 4) (c.f 12 0 64) (c.f 14 0 32)
  pure (.later 0)

def drainDef : CmdDef :=
  { opc := 0x22, spec := drainSpec, eu := .dns, needs := 1, run := inOrder drainRun
    touch := fun c => do
      let l ← rowsTouch c (c.f 8 0 56) (c.f 5 0 24) (c.f 6 0 6) true
      pure (if c.b 4 13 then (c.f 10 0 56, 4 * (c.f 7 24 5 + 1), false) :: l else l) }

/-! ### Attention (R256, R257) -/

/-- A word is a finite FP32 number. -/
def finite32 (w : Nat) : Bool := decide (w % 2 ^ 31 < 0x7F800000)

/-- Operand words of DNS_ATTN_SCORE. -/
def scoreSpec : CmdSpec :=
  { fields := [(4, 0, 3), (4, 4, 9), (5, 0, 24), (6, 0, 25), (7, 0, 56), (9, 0, 56), (11, 0, 24), (12, 0, 32), (13, 0, 24)],
    bad := fun w =>
      [(15, bitOf w 15), (at_ 4 5, cf w 4 5 8 != 1 && cf w 4 5 8 != 2), (at_ 6 0, cf w 6 0 25 == 0 || decide (cf w 6 0 25 > 2 ^ 24)),
       (at_ 12 0, !finite32 (cf w 12 0 32))] }

/-- A score: RNE_FP32(RNE_FP32(acc) × SCALE), masked (R256). -/
def scoreVal (c : Ctx) (t : Tile) (i q key : Nat) : Val :=
  if c.b 4 2 && decide (key > c.f 11 0 24 + q) then .inf true else of32 (mul32 (to32 (tileVal t i)) (c.f 12 0 32))

/-- Drain a block of keys: each query's scores are one part of an output row (R256). -/
def drainScores (c : Ctx) (d : TDesc) (b : Bank) (n : Nat) (keys : List (Nat × Nat)) : Cm Unit := do
  let s ← get
  let t := tile s c.core n
  each (fun q => drainRow c d (c.f 13 0 24 + q) (keys.map (fun k =>
    (k.2, castRep d.format (c.b 4 4) none (scoreVal c t (32 * k.1 + q) q k.2))))) (List.range b.ncols)
  count (pg clsDNS c.pav) 0x60

/-- DNS_ATTN_SCORE's turn has come: the checks against its bank (R256). -/
def scoreStart (c : Ctx) : Cm Stand := do
  let s ← get
  let w := (dworkOf s c.op).getD {}
  let k := tdescOf w.a.toNat
  let b ← useBank c k.format
  failIf (decide (b.k0 + b.klen > k.cols ∨ c.f 13 0 24 + b.ncols > (tdescOf w.o.toNat).rows)) 0x0142
  startGroups c

/-- DNS_ATTN_SCORE's issue: the checks against its descriptors (R256). -/
def scoreRun (c : Ctx) : Cm Stand := do
  let last := c.f 5 0 24 + c.f 6 0 25
  let a ← readDescN c (c.f 7 0 56) dnsCodes [0]
  let o ← readDescN c (c.f 9 0 56) [c.f 4 5 8] [0]
  failIf (codeIsInt (tdescOf a).format) 0x0143
  failIf (decide (last > 2 ^ 24 ∨ last > (tdescOf a).rows ∨ last > (tdescOf o).cols)) 0x0142
  beginGroups c a o scoreStart

def scoreDef : CmdDef :=
  { opc := 0x23, spec := scoreSpec, eu := .dns, needs := 1, run := scoreRun
    touch := fun c => do
      let l ← rowsTouch c (c.f 7 0 56) (c.f 5 0 24) (c.f 6 0 25) false
      let o ← rowsTouch c (c.f 9 0 56) (c.f 13 0 24) 32 true
      pure (l ++ o) }

/-- Operand words of DNS_ATTN_VALUE. -/
def valueSpec : CmdSpec :=
  { fields := [(4, 0, 3), (5, 0, 24), (6, 0, 25), (7, 0, 56), (9, 0, 56)],
    bad := fun w => [(at_ 4 2, bitOf w (at_ 4 2) && !bitOf w 15), (at_ 6 0, cf w 6 0 25 == 0 || decide (cf w 6 0 25 > 32))] }

/-- Rescale every row of a tile by its factor (R257). An integer tile has no rescale in the spec: a free function of the element
and the factor stands for it. -/
def rescale (c : Ctx) (n : Nat) (factors : List Nat) : Cm Unit := do
  let s ← get
  let t := tile s c.core n
  let vals ← collect (fun i => do
    if t.int then pure (toI64 (signExt 32 (Config.rescaledInt (t.vals.get 0 i) (factors.getD (i / 32) 0)).toNat))
    else pure (toFa40 ((ofFa40 (t.vals.get 0 i)).mul (of32 (factors.getD (i / 32) 0))))) (List.range 1024)
  modify (fun s => setTile s c.core n { t with vals := vals.zipIdx.foldl (fun m e => m.put 0 e.2 e.1) t.vals })
  advance c n 1

/-- DNS_ATTN_VALUE's turn has come: the checks against its bank and its tile (R257). -/
def valueStart (c : Ctx) : Cm Stand := do
  let s ← get
  let a := tdescOf ((dworkOf s c.op).getD {}).a.toNat
  let b ← useBank c a.format
  failIf (c.acc && (tile s c.core (c.f 4 1 1)).int != codeIsInt a.format) 0x0143
  failIf (decide (b.k0 + b.klen > a.cols)) 0x0142
  startGroups c

/-- DNS_ATTN_VALUE's issue: the checks against its descriptor (R257). -/
def valueRun (c : Ctx) : Cm Stand := do
  let a ← readDescN c (c.f 7 0 56) dnsCodes [0]
  faultIf (c.b 4 2 ∧ c.f 9 0 56 % 4 ≠ 0) { code := fMisaligned, addr := c.f 9 0 56 }
  failIf (decide (c.f 5 0 24 + c.f 6 0 25 > (tdescOf a).rows)) 0x0142
  beginGroups c a 0 valueStart

def valueDef : CmdDef :=
  { opc := 0x24, spec := valueSpec, eu := .dns, needs := 1, run := valueRun
    touch := fun c => do
      let l ← rowsTouch c (c.f 7 0 56) (c.f 5 0 24) (c.f 6 0 25) false
      pure (if c.b 4 2 then (c.f 9 0 56, 128, false) :: l else l) }

/-! ### Groups (R252, R256, R257, R261) -/

/-- Rescale the tile of a DNS_ATTN_VALUE (R257). -/
def rescaleTile (c : Ctx) : Cm Unit := do
  let l ← readT c (c.f 9 0 56) 128
  rescale c (c.f 4 1 1) ((chunks 4 32 l).map leNat)

/-- What a group is drained to: DNS_MM with AUTO_DRAIN drains its rows, DNS_ATTN_SCORE its scores (R252, R256). -/
def drainGroup (c : Ctx) (opc : Nat) (d : TDesc) (b : Bank) (t : Nat) (rows : List (Nat × Nat)) : Cm Unit :=
  if opc = 0x23 then drainScores c d b t rows
  else if opc = 0x21 ∧ c.b 4 2 then
    drainTile c d t rows (if c.b 4 13 then b.src else (List.range b.ncols).map (c.f 11 0 24 + ·)) (c.b 4 3) (c.b 4 4) (c.f 12 0 64) (c.f 14 0 32)
  else pure ()

/-- Rows or keys of a group. -/
def groupList (c : Ctx) (k : Nat) : List Nat := (List.range (min 32 (c.f 6 0 25 - 32 * k))).map (fun i => c.f 5 0 24 + 32 * k + i)

/-- The next group of a command; after the last one its work is done. -/
def dnsGroup (opc : Nat) (w : DWork) (c : Ctx) (_ : Op) : Cm Unit := do
  let s ← get
  match bank s c.core (c.f 4 0 1) with
  | none => failWith 0x0141
  | some b => do
    let a := tdescOf w.a.toNat
    let t := c.f 4 1 1 + w.k
    let l := groupList c w.k
    if opc = 0x24 ∧ c.b 4 2 then rescaleTile c
    startTile c t (codeIsInt a.format)
    let acts ← actRows c a b l
    accumulate c t b (min (codeG a.format) (codeG b.tdesc.format)) acts
    drainGroup c opc (tdescOf w.o.toNat) b t (l.zipIdx.map (fun p => (p.2, p.1)))
    if 32 * (w.k + 1) ≥ c.f 6 0 25 then
      putDwork c.op none
      modify (fun s => updOp s c.op (fun o => { o with waits := o.waits - 1 }))
    else putDwork c.op (some { w with k := w.k + 1 })

/-- Groups that a command still has. -/
def groupsLeft (o : Op) (w : DWork) : Nat := ceilDiv (cf o.cmd.toNat 6 0 25) 32 - w.k

/-- Serve up to n groups of a command whose turn has come. -/
def dnsGroups (s : State) (id : Nat) : Nat → State
  | 0 => s
  | n + 1 =>
    match getOp s id, dworkOf s id with
    | some o, some w => if w.begun then dnsGroups (serveOp s id (dnsGroup o.opcode w)) id n else s
    | _, _ => s

/-! ### Banks of a resumed task (R263) -/

/-- The context in which a bank is filled again. -/
def refillCtx (core : Nat) (r : Refill) : Ctx := { thr := 16 * core, core, key := r.key, w := r.cmd.toNat, op := refillId core, eu := .dns core }

/-- Fill the banks of a resumed task again, in order, each once its reads succeed. A read that completes FENCED is made again at a
READ_RETRY (R255, R593); one whose memory is asleep waits. -/
def runRefills (s : State) (core : Nat) : Nat → State
  | 0 => s
  | n + 1 =>
    match (dense s core).refills with
    | [] => s
    | r :: rest =>
      if r.far.st = 1 then s
      else match fillBank (refillCtx core r) r.desc.toNat s with
      | .ok _ s' =>
        let s' := bump (updDense s' core (fun d => { d with refills := rest })) (pg clsDNS (core / 32)) 0x70
        runRefills (match r.op with | some i => updOp s' i (fun o => { o with waits := o.waits - 1 }) | none => s') core n
      | .error f s' =>
        if f.code = holdCode then s
        else if f.code = awaitCode then askFar (s) (refillCtx core r) f.addr f.detail 0
        else if f.code = fencedCode ∧ r.tries < retryMax s then
          updDense (noteFenced s (core / 32) f.addr) core (fun d => { d with refills := { r with tries := r.tries + 1, fencedAt := f.addr } :: rest })
        else faultTask (updDense s' core (fun d => { d with refills := [] })) r.key 0x20
          (if f.code = fencedCode then { code := fRetryExhausted, detail := memResource s f.addr } else f)

/-- Fill the banks that no FENCED read holds up. -/
def pumpRefills (s : State) (core : Nat) : State := if (dense s core).refills.any (fun r => r.tries != 0) then s else runRefills s core 2

/-- The read of a bank that completed FENCED is made again (R255, R593), unless its task no longer holds the engine. -/
def retryRefill (s : State) (core : Nat) : State :=
  match (dense s core).refills with
  | [] => s
  | r :: _ =>
    if (slot s r.key).st ≠ .running then updDense s core (fun d => { d with refills := [] })
    else if r.tries = 0 then runRefills s core 2
    else if memService s r.fencedAt = .resetting ∨ !euServes s (.dns core) then s
    else runRefills (bump s (pg clsDNS (core / 32)) 0x78) core 2

/-! ### Saved tiles (R258) -/

/-- The status record of a tile. -/
def tileRecord (t : Tile) : Nat :=
  b2n t.int + 2 * b2n t.sat + 4 * b2n t.accLong + t.satCount * 2 ^ 16 + t.chain * 2 ^ 32

/-- The tile's 1,024 containers in order. -/
def tileBytes (t : Tile) : List Byte := ((List.range 1024).map (fun i => bytesOf (t.vals.get 0 i) 8)).flatten

/-- A tile from a status record and its containers; `none` for a record that R258 refuses. -/
def tileOf (rec' : Nat) (vals : List Nat) : Option Tile :=
  let int := bitOf rec' 0
  let chain := bitsOf rec' 32 32
  let bad (v : Nat) : Bool :=
    if int then v != toI64 (ofI64 v) else bitsOf v 0 24 != 0 || (ofFa40 v).isNaN && v != fa40NaN
  if bitsOf rec' 3 13 ≠ 0 ∨ bitsOf rec' 64 64 ≠ 0 ∨ bitOf rec' 2 ≠ decide (chain > 65536) ∨ vals.any bad then none
  else some { int, vals := vals.zipIdx.foldl (fun m e => m.put 0 e.2 e.1) [], chain, accLong := bitOf rec' 2, sat := bitOf rec' 1,
              satCount := bitsOf rec' 16 16 }

/-- Operand words of DNS_TILE_SAVE and DNS_TILE_RESTORE. -/
def tileSpec : CmdSpec := { fields := [(4, 0, 1), (5, 0, 56)], bad := fun _ => [] }

/-- DNS_TILE_SAVE's effect (R258). -/
def tileSaveRun (c : Ctx) : Cm Stand := do
  let s ← get
  let g := c.f 5 0 56
  faultIf (g % 64 ≠ 0) { code := fMisaligned, addr := g }
  let t := tile s c.core (c.f 4 0 1)
  writeT c g (tileBytes t ++ bytesOf (tileRecord t) 16)
  count (pg clsDNS c.pav) 0x74
  pure (.later 0)

/-- DNS_TILE_RESTORE's effect (R258). -/
def tileRestoreRun (c : Ctx) : Cm Stand := do
  let g := c.f 5 0 56
  faultIf (g % 64 ≠ 0) { code := fMisaligned, addr := g }
  let l ← readT c g 0x2010
  match tileOf (leNat (l.drop 0x2000)) ((chunks 8 1024 (l.take 0x2000)).map leNat) with
  | none => failWith 0x0144
  | some t => do
    modify (fun s => setTile s c.core (c.f 4 0 1) t)
    pure (.later 0)

def tileSaveDef : CmdDef :=
  { opc := 0x25, spec := tileSpec, eu := .dns, needs := 1, run := inOrder tileSaveRun, touch := fun c => pure [(c.f 5 0 56, 0x2010, true)] }
def tileRestoreDef : CmdDef :=
  { opc := 0x26, spec := tileSpec, eu := .dns, needs := 1, run := inOrder tileRestoreRun, touch := fun c => pure [(c.f 5 0 56, 0x2010, false)] }

/-- DNS_LOAD_W (R251). -/
def execDnsLoadW (t : Thr) (b : Body) (s : State) : Host.Outcome State Fault Refusal := .next (issueCmd t b loadWDef s)
/-- DNS_MM (R252). -/
def execDnsMm (t : Thr) (b : Body) (s : State) : Host.Outcome State Fault Refusal := .next (issueCmd t b mmDef s)
/-- DNS_DRAIN (R253). -/
def execDnsDrain (t : Thr) (b : Body) (s : State) : Host.Outcome State Fault Refusal := .next (issueCmd t b drainDef s)
/-- DNS_ATTN_SCORE (R256). -/
def execDnsAttnScore (t : Thr) (b : Body) (s : State) : Host.Outcome State Fault Refusal := .next (issueCmd t b scoreDef s)
/-- DNS_ATTN_VALUE (R257). -/
def execDnsAttnValue (t : Thr) (b : Body) (s : State) : Host.Outcome State Fault Refusal := .next (issueCmd t b valueDef s)
/-- DNS_TILE_SAVE (R258). -/
def execDnsTileSave (t : Thr) (b : Body) (s : State) : Host.Outcome State Fault Refusal := .next (issueCmd t b tileSaveDef s)
/-- DNS_TILE_RESTORE (R258). -/
def execDnsTileRestore (t : Thr) (b : Body) (s : State) : Host.Outcome State Fault Refusal := .next (issueCmd t b tileRestoreDef s)

end Sys2Proof.Machine
end

