-- ==== Sys2Proof/Machine/Sparse.lean ====
section
/-!
DEFINITION. The sparse engine: operands (R270 to R274), the match walks (R275, R277), segment mode (R278, R279), hub splitting (R120
to R125, R280), and tile jobs with their resolution (R281 to R286).
-/
namespace Sys2Proof.Machine
open Sys2Proof

def fSpsOperand : Nat := 0x0150
def fSpsShape : Nat := 0x0151
def fSpsPair : Nat := 0x0152
def fSpsKind : Nat := 0x0153
def fSpsBank : Nat := 0x0154

/-- Class of R270: 0 16-bit float, 1 8-bit, 2 FP32. -/
def spsClass (code : Nat) : Nat := if code = 2 ∨ code = 3 then 0 else if code = 1 then 2 else 1
/-- G_s of R279. -/
def segGroup (code : Nat) : Nat := match spsClass code with | 0 => 8 | 1 => 16 | _ => 4

/-- A sparse command with what it has read of its operand block (R282). -/
structure Sps where
  c : Ctx
  opc : Nat
  wk : Walk

/-- The three descriptors, seed and stream of the operand block. -/
def Sps.a (x : Sps) : TDesc := tdescOf (bitsOf x.wk.block.toNat 0 256)
def Sps.b (x : Sps) : TDesc := tdescOf (bitsOf x.wk.block.toNat 256 256)
def Sps.o (x : Sps) : TDesc := tdescOf (bitsOf x.wk.block.toNat 512 256)
def Sps.seed (x : Sps) : Nat := bitsOf x.wk.block.toNat 768 64
def Sps.stream (x : Sps) : Nat := bitsOf x.wk.block.toNat 832 32
def Sps.auto (x : Sps) : Bool := x.c.b 4 1
def Sps.m0 (x : Sps) : Nat := x.c.f 5 0 24
def Sps.rows (x : Sps) : Nat := x.c.f 6 0 25
def Sps.k0 (x : Sps) : Nat := x.c.f 7 0 24
def Sps.klen (x : Sps) : Nat := x.c.f 8 0 25
def Sps.n0 (x : Sps) : Nat := x.c.f 9 0 24
def Sps.ncols (x : Sps) : Nat := x.c.f 10 0 12 + 1
def Sps.weighted (x : Sps) : Bool := x.c.b 4 14
def Sps.mean (x : Sps) : Bool := x.c.b 4 15
def Sps.transpose (x : Sps) : Bool := x.c.b 4 16
def Sps.int (x : Sps) : Bool := codeIsInt x.b.format
/-- Slices of 32 columns, and jobs (R283). -/
def Sps.slices (x : Sps) : Nat := ceilDiv x.ncols 32
def Sps.jobs (x : Sps) : Nat := ceilDiv x.rows 32 * x.slices
/-- Row group, slice and tile of the job, its first row, rows and columns. -/
def Sps.slice (x : Sps) : Nat := x.wk.job % x.slices
def Sps.tile (x : Sps) : Nat := x.c.f 4 0 1 + x.wk.job
def Sps.row0 (x : Sps) : Nat := x.m0 + 32 * (x.wk.job / x.slices)
def Sps.jobRows (x : Sps) : Nat := min 32 (x.rows - 32 * (x.wk.job / x.slices))
def Sps.col0 (x : Sps) : Nat := x.n0 + 32 * x.slice
def Sps.jobCols (x : Sps) : Nat := min 32 (x.ncols - 32 * x.slice)
/-- Page of the engine. -/
def Sps.page (x : Sps) : Nat := pg clsSPS x.c.pav

/-! ### BM64 and COO16 operands (R271 to R273) -/

/-- Stored elements of one BM64 row in blocks that meet [k0, k0 + klen): (block, list of (column, element bits)) (R271, R272). -/
def bmRow (c : Ctx) (d : TDesc) (r k0 klen : Nat) : Cm (List (Nat × List (Nat × Nat))) := do
  let e ← readNat c (d.base + 8 * r) 8
  let rec' := d.base + 64 * bitsOf e 0 40
  let nb := ceilDiv d.cols 64
  let values := rec' + 64 * ceilDiv nb 5
  let w := codeBits d.format / 8
  let b0 := k0 / 64
  collect (fun i => do
    let blk := b0 + i
    let line ← readNat c (rec' + 64 * (blk / 5)) 64
    -- the line's reserved bytes, and the bits past the last column
    let past (s : Nat) : Bool := decide (5 * (blk / 5) + s ≥ nb) && (bitsOf line (64 * s) 64 != 0 || bitsOf line (320 + 32 * s) 32 != 0)
    let beyond (s : Nat) : Bool := decide (5 * (blk / 5) + s + 1 = nb) && d.cols % 64 != 0 && bitsOf line (64 * s + d.cols % 64) (64 - d.cols % 64) != 0
    failIf (bitsOf line 480 32 != 0 || (List.range 5).any past || (List.range 5).any beyond) fSpsOperand
    let map := bitsOf line (64 * (blk % 5)) 64
    let idx := bitsOf line (320 + 32 * (blk % 5)) 32
    let cols := (List.range 64).filter (bitOf map)
    let inK := cols.filter (fun j => decide (k0 ≤ 64 * blk + j ∧ 64 * blk + j < k0 + klen))
    if inK.isEmpty then pure (blk, [])
    else do
      let l ← readT c (values + idx * 4 * w) (w * cols.length)
      let vals := (chunks w cols.length l).map leNat
      pure (blk, (cols.zip vals).filterMap (fun p => if inK.contains p.1 then some (64 * blk + p.1, p.2) else none))) (List.range (ceilDiv (k0 + klen) 64 - b0))

/-- Values of a dense B column n over [k0, k0 + klen) (R275). -/
def denseB (x : Sps) (n k0 klen : Nat) : Cm (List Val) :=
  if x.c.b 4 12 then do
    let l ← collect (fun k => rowPart x.c x.b (k0 + k) n 1) (List.range klen)
    pure l.flatten
  else rowPart x.c x.b n k0 klen

/-- Add a group of exact products to an accumulator: the group sum rounded once, then the addition (R239, R243). -/
def addGroup (int : Bool) (acc : Nat) (ps : List Val) : Nat × Nat :=
  if int then
    let r := addSat32 (ofI64 acc) (ps.foldl (fun a v => a + v.scaled 0) 0)
    (toI64 r.1, b2n r.2)
  else (addFa40 acc (toFa40 (Val.sum ps)), 0)

/-- A chain of groups. -/
def addGroups (int : Bool) (acc : Nat) (gs : List (List Val)) : Nat × Nat :=
  gs.foldl (fun a g => let r := addGroup int a.1 g; (r.1, a.2 + r.2)) (acc, 0)

/-- Keep a tile row's new containers and clamps (R240, R243). -/
def putTileRow (c : Ctx) (n i : Nat) (vals : List Nat) (hits : Nat) : Cm Unit := do
  let s ← get
  let t := tile s c.core n
  countIf (decide (hits > 0) && !t.sat) (pg clsDNS c.pav) 0x68
  modify (fun s => setTile s c.core n
    { t with vals := vals.zipIdx.foldl (fun m e => m.put 0 (32 * i + e.2) e.1) t.vals, sat := t.sat || decide (hits > 0),
             satCount := min 0xFFFF (t.satCount + hits) })

/-- A tile row's containers. -/
def tileRow (s : State) (core n i : Nat) : List Nat := (List.range 32).map (fun j => (tile s core n).vals.get 0 (32 * i + j))

/-- Value of the A element bits. -/
def aVal (x : Sps) (e : Nat) : Val := elemVal x.a.format e

/-- Read the B columns of a BM64 job (R275). -/
def bmCols (x : Sps) : Cm (List (Tab Val)) :=
  collect (fun n => do
    if x.c.b 4 13 then
      let l ← bmRow x.c x.b (x.col0 + n) x.k0 x.klen
      pure ((l.map (fun b => b.2.map (fun e => (e.1, elemVal x.b.format e.2)))).flatten)
    else
      let l ← denseB x (x.col0 + n) x.k0 x.klen
      pure (l.zipIdx.map (fun p => (x.k0 + p.2, p.1)))) (List.range x.jobCols)

/-- Add a block of a BM64 row into the row's outputs: matches in ascending order, in groups of 4 (R275). -/
def bmAdd (x : Sps) (t : Todo) : Cm Unit := do
  let s ← get
  let old := tileRow s x.c.core x.tile t.row
  let res := (List.range x.jobCols).map (fun n =>
    let b := x.wk.cols.getD n []
    let prods := t.elems.filterMap (fun e => (b.find? (fun p => p.1 == e.1)).map (fun p => (aVal x e.2).mul p.2))
    (addGroups x.int (old.getD n 0) (chunks 4 64 prods), prods.length))
  count x.page 0x40 ((res.map (·.2)).sum)
  putTileRow x.c x.tile t.row (res.map (·.1.1)) ((res.map (·.1.2)).sum)

/-- The entries of a COO16 region that lie in the K range, as (row, column, bits), each checked as it is read (R273). -/
def cooRegion (x : Sps) (rr cr : Nat) : Cm (List (Nat × Nat × Nat)) := do
  let d := x.a
  let e ← readNat x.c (d.base + 8 * (rr * ceilDiv d.cols 2048 + cr)) 8
  let n := bitsOf e 40 24
  failIf (decide (n > 65536)) fSpsOperand
  let at' := d.base + 64 * bitsOf e 0 40
  let w := codeBits d.format / 8
  let cs ← readT x.c at' (2 * n)
  let cs := (chunks 2 n cs).map leNat
  let vs ← readT x.c (at' + 64 * ceilDiv (2 * n) 64) (w * n)
  let vs := (chunks w n vs).map leNat
  let bad := (cs.zip (cs.drop 1)).any (fun p => decide (p.2 ≤ p.1)) ||
    cs.any (fun v => decide (32 * rr + v / 2048 ≥ d.rows ∨ 2048 * cr + v % 2048 ≥ d.cols))
  failIf bad fSpsOperand
  pure ((cs.zip vs).filterMap (fun p =>
    let r := 32 * rr + p.1 / 2048
    let k := 2048 * cr + p.1 % 2048
    if x.k0 ≤ k ∧ k < x.k0 + x.klen then some (r, k, p.2) else none))

/-- Region columns that the K range meets. -/
def Sps.cregs (x : Sps) : List Nat := (List.range (ceilDiv (x.k0 + x.klen) 2048 - x.k0 / 2048)).map (x.k0 / 2048 + ·)
/-- Region rows that a job meets. -/
def Sps.rregs (x : Sps) : List Nat := (List.range ((x.row0 + x.jobRows - 1) / 32 - x.row0 / 32 + 1)).map (x.row0 / 32 + ·)

/-- B's elements (k, col0 + n) for the job's columns. -/
def bSlice (x : Sps) (k : Nat) : Cm (List Val) :=
  if x.c.b 4 12 then rowPart x.c x.b k x.col0 x.jobCols
  else do
    let l ← collect (fun n => rowPart x.c x.b (x.col0 + n) k 1) (List.range x.jobCols)
    pure l.flatten

/-- The regions that a COO16 job meets, as (row, column) of regions, in the order taken (R277). -/
def Sps.regionList (x : Sps) : List (Nat × Nat) := x.rregs.flatMap (fun rr => x.cregs.map (rr, ·))

/-- Read a region of a COO16 job: its entries in the job's rows, in list order (R277). -/
def cooTodo (x : Sps) (rr cr : Nat) : Cm (List Todo) := do
  let l ← cooRegion x rr cr
  pure (l.filterMap (fun e =>
    if x.row0 ≤ e.1 ∧ e.1 < x.row0 + x.jobRows then some { row := e.1 - x.row0, pos := e.2.1, elems := [e.2] } else none))

/-- Add the products of a COO16 entry singly (R277). -/
def cooAdd (x : Sps) (t : Todo) : Cm Unit :=
  match t.elems with
  | (k, v) :: _ => do
    count x.page 0x58
    let bs ← bSlice x k
    let s ← get
    let old := tileRow s x.c.core x.tile t.row
    let res := bs.zipIdx.map (fun p => addGroup x.int (old.getD p.2 0) [(aVal x v).mul p.1])
    putTileRow x.c x.tile t.row (res.map (·.1)) ((res.map (·.2)).sum)
  | [] => pure ()

/-! ### Segment mode (R274, R278, R279) -/

/-- Fields of the hop record (R181). -/
def Sps.dstStart (x : Sps) : Nat := bitsOf x.wk.hop.toNat 0 32
def Sps.dstCount (x : Sps) : Nat := bitsOf x.wk.hop.toNat 32 32
def Sps.srcLimit (x : Sps) : Nat := bitsOf x.wk.hop.toNat 0xA0 32
/-- Address of entry k of the hop's array whose offset stands at byte `off` of the record. -/
def Sps.arr (x : Sps) (off size k : Nat) : Nat := x.wk.trellis + bitsOf x.wk.hop.toNat (8 * off) 64 + size * k
/-- Is the array present (R181)? -/
def Sps.has (x : Sps) (off : Nat) : Bool := bitsOf x.wk.hop.toNat (8 * off) 64 != 0

/-- First and one past the last edge position of row t, in the order walked (R278). -/
def segRange (x : Sps) (t : Nat) : Cm (Nat × Nat) := do
  let off := if x.transpose then 0x48 else 0x18
  let i := if x.transpose then t else t - x.dstStart
  let v ← readNat x.c (x.arr off 4 i) 8
  pure (bitsOf v 0 32, bitsOf v 32 32)

/-- Last i with offset i at most f among the forward offsets: the destination of forward edge f (R278). -/
def forwardDst (x : Sps) (f : Nat) : Cm Nat := do
  let l ← readT x.c (x.arr 0x18 4 0) (4 * (x.dstCount + 1))
  let offs := (chunks 4 (x.dstCount + 1) l).map leNat
  pure (x.dstStart + (firstAt' (fun v => decide (f < v)) offs - 1))
where
  /-- The first position whose element satisfies p; the length where none does. -/
  firstAt' (p : Nat → Bool) : List Nat → Nat
    | [] => 0
    | v :: r => if p v then 0 else firstAt' p r + 1

/-- The SRC entry of the edge at walk position e, its forward edge, and whether its relation is selected (R278). -/
def segSrc (x : Sps) (e : Nat) : Cm (Nat × Nat × Bool) := do
  let f ← (if x.transpose then readNat x.c (x.arr 0x50 4 e) 4 else pure e)
  let src ← readNat x.c (x.arr 0x20 4 f) 4
  pure (bitsOf src 0 24, f, x.c.b 4 17 || bitsOf src 24 8 == x.c.f 4 18 8)

/-- Edge at walk position e: its weight bits and X row, or nothing when its relation is not selected (R278). -/
def segEdge (x : Sps) (e : Nat) : Cm (Option (Nat × Nat)) := do
  let (src, f, selected) ← segSrc x e
  count x.page 0x50
  if !selected then pure none
  else do
    let w ← (if x.weighted then readNat x.c (x.arr 0x30 4 f) 4 else pure 0x3F800000)
    let s ← (if x.transpose then forwardDst x f else pure src)
    pure (some (w, s))

/-- The contribution of the edge at walk position e: its weight and X row slice for the job's columns, where its relation is selected (R278,
R279). -/
def segContrib (x : Sps) (e : Nat) : Cm (List (Nat × List Val)) := do
  match ← segEdge x e with
  | none => pure []
  | some (w, s) => do
    failIf (decide (s ≥ x.b.rows)) fSpsShape
    let xs ← rowPart x.c x.b s x.col0 x.jobCols
    pure [(w, xs)]

/-- Contributions from edge e on, of n edges at most, until a group of g is complete: the group, and the next edge (R279). -/
def segTake (x : Sps) (g : Nat) : Nat → Nat → List (Nat × List Val) → Cm (List (Nat × List Val) × Nat)
  | 0, e, l => pure (l, e)
  | n + 1, e, l => if l.length ≥ g then pure (l, e) else do
      let m ← segContrib x e
      segTake x g n (e + 1) (l ++ m)

/-- A product w × x: exact for BF16 and 8-bit x, rounded once to FA40 for FP16 and FP32 (R279). -/
def segProduct (code w : Nat) (v : Val) : Val :=
  if codeIsInt code then v
  else
    let p := (of32 w).mul v
    if code = 1 ∨ code = 3 then ofFa40 (toFa40 p) else p

/-- Add contributions in groups of G_s to containers (R279): the containers and clamps. -/
def segAdd (x : Sps) (acc : List Nat) (l : List (Nat × List Val)) : List Nat × Nat :=
  let g := segGroup x.b.format
  let res := (List.range x.jobCols).map (fun n =>
    addGroups x.int (acc.getD n 0) (chunks g (l.length / g + 1) (l.map (fun e => segProduct x.b.format e.1 (e.2.getD n Val.zero)))))
  (res.map (·.1), (res.map (·.2)).sum)

/-- The walk's state. -/
def walkOf (s : State) (id : Nat) : Option Walk := s.walks.get none id
/-- Keep a walk's state. -/
def putWalk (id : Nat) (w : Option Walk) : Cm Unit := modify (fun s => { s with walks := s.walks.put none id w })

/-- The next group of an unsplit row of edges e0 to e1 − 1: a group is added, and the position recorded (R279, R290). -/
def segGroupStep (x : Sps) (e0 e1 : Nat) : Cm Unit := do
  let (l, e) ← segTake x (segGroup x.b.format) (e1 - x.wk.edge) x.wk.edge []
  let s ← get
  let (vals, hits) := segAdd x (tileRow s x.c.core x.tile x.wk.row) l
  putTileRow x.c x.tile x.wk.row vals hits
  let wk := { x.wk with edge := e, counts := x.wk.counts.put 0 x.wk.row (x.wk.counts.get 0 x.wk.row + l.length) }
  putWalk x.c.op (some (if e ≥ e1 then { wk with row := wk.row + 1, span := none, edge := 0, longest := max wk.longest (e1 - e0) } else wk))

/-- Hub-flow entries of a Pavilion, and of a command. -/
def hubsOf (s : State) (p : Hub → Bool) : List (Nat × Hub) := s.hubs.filterMap (fun e => e.2.bind (fun h => if p h then some (e.1, h) else none))

/-- Begin a split row (R120 to R122): its entry is taken. -/
def beginHub (x : Sps) (edges : Nat) : Cm Unit := do
  let s ← get
  let h : Hub := { op := x.c.op, pav := x.c.pav, i := x.wk.row, row := x.row0 + x.wk.row, edges }
  set { s with hubs := s.hubs.put none s.nextHub (some h), nextHub := s.nextHub + 1 }
  countIf (x.slice = 0) (pg clsDSP x.c.pav) 0x98
  putWalk x.c.op (some { x.wk with row := x.wk.row + 1, span := none, edge := 0, longest := max x.wk.longest edges, stalled := false })

/-- After the last contribution: the mean (R279), and the chain counter. -/
def segFinish (x : Sps) : Cm Unit := do
  if x.mean then
    each (fun i => do
      let n := x.wk.counts.get 0 i
      if n > 0 then
        let s ← get
        putTileRow x.c x.tile i ((tileRow s x.c.core x.tile i).map (fun v => toFa40 ((ofFa40 v).div (.fin false n 0)))) 0) (List.range x.jobRows)
  advance x.c x.tile (x.wk.longest + b2n x.mean)

/-! ### Expansion (R286) -/

/-- The job's rows as dense activation rows over the K range. -/
def expandRows (x : Sps) : Cm (List (List Val)) := do
  let line (l : List (Nat × Val)) : List Val :=
    (List.range x.klen).map (fun k => match l.find? (fun e => e.1 == x.k0 + k) with | some e => e.2 | none => Val.zero)
  if x.a.layout = 1 then
    collect (fun i => do
      let bs ← bmRow x.c x.a (x.row0 + i) x.k0 x.klen
      pure (line ((bs.map (fun b => b.2.map (fun e => (e.1, aVal x e.2)))).flatten))) (List.range x.jobRows)
  else if x.a.layout = 2 then do
    let l ← collect (fun rr => do
      let l ← collect (fun cr => cooRegion x rr cr) x.cregs
      pure l.flatten) x.rregs
    let l := l.flatten
    pure ((List.range x.jobRows).map (fun i => line (l.filterMap (fun e => if e.1 = x.row0 + i then some (e.2.1, aVal x e.2.2) else none))))
  else
    collect (fun i => do
      let (e0, e1) ← segRange x (x.row0 + i)
      let es ← collect (fun k => segSrc x (e0 + k)) (List.range (e1 - e0))
      pure (line ((es.filter (·.2.2)).map (fun e => (e.1, Val.one))))) (List.range x.jobRows)

/-- Run a job by expansion (R286). -/
def jobExpand (x : Sps) : Cm Unit := do
  let s ← get
  match bank s x.c.core (x.c.f 4 26 1) with
  | none => failWith fSpsBank
  | some b => do
    failIf (b.k0 != x.k0 || b.klen != x.klen) fSpsShape
    failIf (codeIsInt b.tdesc.format != x.int) fSpsPair
    let rows ← expandRows x
    accumulate x.c x.tile b (if x.a.layout = 3 then codeG b.tdesc.format else min (codeG x.a.format) (codeG b.tdesc.format)) rows x.jobCols

/-! ### Jobs (R283, R285) -/

/-- The density hint as a fraction (R285), and whether a CSR-local job must stay in segment mode. -/
def density (x : Sps) : Cm (Nat × Nat × Bool) := do
  if x.a.layout = 1 then
    let l ← collect (fun i => do
      let e ← readNat x.c (x.a.base + 8 * (x.row0 + i)) 8
      pure (bitsOf e 40 24)) (List.range x.jobRows)
    pure (l.sum, x.jobRows * x.a.cols, false)
  else if x.a.layout = 2 then
    let l ← collect (fun cr => do
      let e ← readNat x.c (x.a.base + 8 * (x.row0 / 32 * ceilDiv x.a.cols 2048 + cr)) 8
      pure (bitsOf e 40 24)) x.cregs
    pure (l.sum, 32 * x.klen, false)
  else if x.weighted || x.mean || x.transpose then pure (0, 1, true)
  else
    let l ← collect (fun i => do
      let (e0, e1) ← segRange x (x.row0 + i)
      collect (fun k => segSrc x (e0 + k)) (List.range (e1 - e0))) (List.range x.jobRows)
    let l := l.flatten
    pure ((l.filter (·.2.2)).length, x.jobRows * x.klen, l.any (fun e => decide (e.1 < x.k0 ∨ e.1 ≥ x.k0 + x.klen)))

/-- Threshold of SPS_AUTO for the layout and class (R285). -/
def Sps.thr (x : Sps) : Nat :=
  bitsOf x.wk.thrs (if x.a.layout = 1 then (if spsClass x.a.format = 0 then 0 else 8) else if x.a.layout = 2 then 16 else 24) 8

/-- Does the job resolve to the walk of its layout (R285)? -/
def walksJob (x : Sps) : Cm Bool := do
  if x.opc ≠ 0x43 then pure true
  else do
    let (n, d, stay) ← density x
    pure (stay || decide (256 * n < x.thr * d))

/-- End a job: drain it and go to the next (R283). -/
def endJob (x : Sps) (walked : Bool) : Cm Unit := do
  if x.auto then
    drainTile x.c x.o x.tile ((List.range x.jobRows).map (fun i => (i, x.row0 + i))) ((List.range x.jobCols).map (x.col0 + ·))
      (x.c.b 4 2) (x.c.b 4 3) x.seed x.stream
  count x.page (if walked then 0x68 else 0x6C)
  let w := x.wk
  putWalk x.c.op (some { block := w.block, trellis := w.trellis, hop := w.hop, thrs := w.thrs, split := w.split, job := w.job + 1 })

/-- Begin a job: it runs by expansion at once, or its walk begins. -/
def beginJob (x : Sps) : Cm Unit := do
  startTile x.c x.tile x.int fSpsKind
  let walked ← walksJob x
  if !walked then do
    jobExpand x
    endJob x false
  else do
    let cols ← (if x.a.layout = 1 then bmCols x else pure [])
    putWalk x.c.op (some { x.wk with begun := true, cols })

/-- End a BM64 or COO16 job: the chain counter advances by KLEN. -/
def endWalk (x : Sps) : Cm Unit := do
  advance x.c x.tile x.klen
  endJob x true

/-- A step of a BM64 walk: a row's blocks are read, or the next of them is added. -/
def bmStep (x : Sps) : Cm Unit :=
  match x.wk.todo with
  | t :: r => do
    bmAdd x t
    putWalk x.c.op (some { x.wk with todo := r, row := if r.isEmpty then x.wk.row + 1 else x.wk.row })
  | [] =>
    if x.wk.row < x.jobRows then do
      let l ← bmRow x.c x.a (x.row0 + x.wk.row) x.k0 x.klen
      putWalk x.c.op (some { x.wk with todo := l.map (fun b => { row := x.wk.row, pos := b.1, elems := b.2 }) })
    else endWalk x

/-- A step of a COO16 walk: a region's entries are read, or the next of them is added. -/
def cooStep (x : Sps) : Cm Unit :=
  match x.wk.todo with
  | t :: r => do
    cooAdd x t
    putWalk x.c.op (some { x.wk with todo := r })
  | [] =>
    match x.regionList[x.wk.regions]? with
    | some (rr, cr) => do
      let l ← cooTodo x rr cr
      putWalk x.c.op (some { x.wk with todo := l, regions := x.wk.regions + 1 })
    | none => endWalk x

/-- A step of a segment walk: a row's edge range is read; its next group is added, or the row is split (R120); a job ends when its split rows
have been added (R122, R125). True while the walk must wait. -/
def segStep (x : Sps) : Cm Bool := do
  let s ← get
  if x.wk.row < x.jobRows then
    match x.wk.span with
    | none => do
      let (e0, e1) ← segRange x (x.row0 + x.wk.row)
      putWalk x.c.op (some { x.wk with span := some (e0, e1), edge := e0 })
      pure false
    | some (e0, e1) =>
      if e1 - e0 ≤ x.wk.split then do
        segGroupStep x e0 e1
        pure false
      else if (hubsOf s (fun h => h.pav == x.c.pav)).length ≥ 32 then do
        putWalk x.c.op (some { x.wk with stalled := true })
        pure true
      else do
        beginHub x (e1 - e0)
        pure false
  else if hubsOf s (fun h => h.op == x.c.op) ≠ [] then pure true
  else do
    segFinish x
    endJob x true
    pure false

/-- One step of a walk, at whose end the engine may stop (R290): none while it can go on, else whether the command has ended. -/
def walkStep (c : Ctx) (opc : Nat) : Cm (Option Bool) := do
  let s ← get
  match walkOf s c.op with
  | none => pure (some false)
  | some wk =>
    let x : Sps := { c, opc, wk }
    if wk.job ≥ x.jobs then do
      putWalk c.op none
      pure (some true)
    else if !wk.begun then do
      beginJob x
      pure none
    else if x.a.layout = 1 then do
      bmStep x
      pure none
    else if x.a.layout = 2 then do
      cooStep x
      pure none
    else do
      let wait ← segStep x
      pure (if wait then some false else none)

/-- Go on with a command until it ends or must wait for hub rows (R122, R125): true at its end. -/
def pumpJobs (c : Ctx) (opc : Nat) : Nat → Cm Bool
  | 0 => pure false
  | n + 1 => do
    match ← walkStep c opc with
    | some b => pure b
    | none => pumpJobs c opc n

/-- Steps that a command can take at most: a row of a job has fewer than 2^30 blocks, entries or groups. -/
def pumpFuel (w : Nat) : Nat := (cf w 6 0 25 + 34) * (cf w 10 0 12 / 32 + 2) * 2 ^ 30

/-! ### Issue (R281, R282, R284) -/

/-- Operand words of opcodes 0x40 to 0x43 (R281). -/
def spsSpec (opc : Nat) : CmdSpec :=
  { fields := [(4, 0, 27), (5, 0, 24), (6, 0, 25), (7, 0, 28), (8, 0, 25), (9, 0, 24), (10, 0, 12), (12, 0, 56)],
    bad := fun w =>
      let auto := bitOf w (at_ 4 1)
      let sr := bitOf w (at_ 4 2)
      let fmt := cf w 4 4 8
      let seg := opc == 0x42 || opc == 0x43
      let rows := cf w 6 0 25
      let klen := cf w 8 0 25
      [(at_ 4 2, sr && (!auto || fmt == 0x0D || fmt == 0x0E)), (at_ 4 3, bitOf w (at_ 4 3) && !auto),
       (at_ 4 4, if auto then !outCodes.contains fmt else fmt != 0),
       (at_ 4 12, if opc = 0x42 then !bitOf w (at_ 4 12) else bitOf w (at_ 4 12) && bitOf w (at_ 4 13)),
       (at_ 4 13, bitOf w (at_ 4 13) && opc != 0x40), (at_ 4 14, bitOf w (at_ 4 14) && !seg),
       (at_ 4 15, bitOf w (at_ 4 15) && (!seg || bitOf w 15)), (at_ 4 16, bitOf w (at_ 4 16) && !seg), (at_ 4 17, bitOf w (at_ 4 17) && !seg),
       (at_ 4 18, cf w 4 18 8 != 0 && (!seg || bitOf w (at_ 4 17))), (at_ 4 26, bitOf w (at_ 4 26) && opc != 0x43),
       (at_ 6 0, rows == 0 || decide (rows > 2 ^ 24) || decide (rows > 32) && (bitOf w 15 || !auto)),
       (at_ 7 0, if opc = 0x40 then cf w 7 0 6 != 0 else if opc = 0x41 then cf w 7 0 11 != 0 else opc == 0x42 && cf w 7 0 24 != 0),
       (at_ 7 24, if seg then opc == 0x42 && cf w 7 24 4 == 0 else cf w 7 24 4 != 0),
       (at_ 8 0, if opc = 0x42 then klen != 0 else klen == 0 || decide (klen > 2 ^ 24)),
       (at_ 10 0, decide (cf w 10 0 12 > 31) && !auto)] }

/-- The lowest offending bit of an operand block, counted from its first byte (R282, R98, R270). -/
def blockBad (opc w v : Nat) : Option Nat :=
  let a := bitsOf v 0 256
  let b := bitsOf v 256 256
  let o := bitsOf v 512 256
  let lays := match opc with | 0x40 => [1] | 0x41 => [2] | 0x42 => [3] | _ => [1, 2, 3]
  let lay := bitsOf a 72 8
  let pa :=
    if lay = 3 ∧ lays.contains 3 then
      firstBad [rsvIn a 0 56 8, (64, bitsOf a 64 8 != 1), rsvIn a 0 80 16, (96, bitsOf a 96 24 != 0), rsvIn a 0 120 8, (128, bitsOf a 128 24 != 0), rsvIn a 0 152 8,
                (160, bitsOf a 160 32 != 0), rsvIn a 0 204 3, rsvIn a 0 208 48]
    else tdescBad a [2, 3, 4, 5, 0x0B] lays
  let pb := tdescBad b (if lay = 3 then [1, 2, 3, 4, 5, 0x0B] else [2, 3, 4, 5, 0x0B]) (if bitOf w (at_ 4 13) then [1] else [0])
  let po := if bitOf w (at_ 4 1) then tdescBad o [cf w 4 4 8] [0] else if o ≠ 0 then lowBit o else none
  lowest (lowest pa (pb.map (· + 256))) (lowest (po.map (· + 512)) (if bitsOf v 864 160 ≠ 0 then (lowBit (bitsOf v 864 160)).map (· + 864) else none))

/-- Read a Trellis's header and the hop's record, and check them (R274). -/
def readTrellis (x : Sps) : Cm Walk := do
  let base := x.a.base
  let hop := x.c.f 7 24 4
  let h ← readNat x.c base 128
  failIf (bitsOf h 0 32 != 0x314C5254 || bitsOf h 0x58 8 != 1) fSpsOperand
  faultIf (hop = 0 ∨ hop > bitsOf h 0x40 8) { code := fReservedField, pos := at_ 7 24 }
  let r ← readNat x.c (base + 0x80 * hop) 128
  let wk := { x.wk with trellis := base, hop := BitVec.ofNat 1024 r }
  let y : Sps := { x with wk }
  failIf (!y.has 0x18 || !y.has 0x20 || x.weighted && !y.has 0x30 || x.transpose && (!y.has 0x48 || !y.has 0x50)) fSpsOperand
  pure wk

/-- The checks of R270, R278, R279 and R284 that can be made at issue. -/
def spsChecks (x : Sps) : Cm Unit := do
  let bRows := if x.c.b 4 12 then x.b.cols else x.b.rows
  let bK := if x.c.b 4 12 then x.b.rows else x.b.cols
  if x.a.layout = 3 then
    faultIf (!x.c.b 4 12) { code := fReservedField, pos := at_ 4 12 }
    failIf (x.int && x.weighted) fSpsPair
    let lo := if x.transpose then 0 else x.dstStart
    let hi := if x.transpose then x.srcLimit else x.dstStart + x.dstCount
    failIf (decide (x.m0 < lo ∨ x.m0 + x.rows > hi)) fSpsShape
  else
    faultIf (x.a.layout = 1 ∧ x.k0 % 64 ≠ 0 ∨ x.a.layout = 2 ∧ x.k0 % 2048 ≠ 0) { code := fReservedField, pos := at_ 7 0 }
    faultIf (x.c.f 7 24 4 ≠ 0) { code := fReservedField, pos := at_ 7 24 }
    failIf (codeIsInt x.a.format != x.int || spsClass x.a.format != spsClass x.b.format) fSpsPair
    failIf (decide (x.m0 + x.rows > x.a.rows ∨ x.k0 + x.klen > x.a.cols ∨ x.k0 + x.klen > bK)) fSpsShape
  faultIf (x.mean && x.int) { code := fReservedField, pos := at_ 4 15 }
  failIf (decide (x.n0 + x.ncols > bRows)) fSpsShape
  failIf (x.auto && decide (x.m0 + x.rows > x.o.rows ∨ x.n0 + x.ncols > x.o.cols)) fSpsShape
  failIf (x.auto && (x.c.f 4 4 8 == 0x0D) != x.int) fSpsKind

/-- A sparse command's turn has come: the checks against its tile and its bank, and its walk is due (R284). -/
def spsStart (opc : Nat) (c : Ctx) : Cm Stand := do
  let s ← get
  let x : Sps := { c, opc, wk := (walkOf s c.op).getD {} }
  failIf (x.c.acc && (tile s x.c.core (x.c.f 4 0 1)).int != x.int) fSpsKind
  match bank s x.c.core (x.c.f 4 26 1) with
  | some b => failIf (x.opc == 0x43 && (b.k0 != x.k0 || b.klen != x.klen)) fSpsShape
  | none => pure ()
  pure (.later 1)

/-- Read a sparse command's operand block, and its Trellis, and check them (R274, R282, R284). -/
def spsCheck (opc : Nat) (c : Ctx) (wk : Walk) : Cm Unit := do
  let g := c.f 12 0 56
  faultIf (g % 32 ≠ 0) { code := fMisaligned, addr := g }
  let v ← readNat c g 128
  match blockBad opc c.w v with
  | some p => throw { code := fReservedField, pos := p }
  | none => do
    let x : Sps := { c, opc, wk := { wk with block := BitVec.ofNat 1024 v } }
    let wk ← (if x.a.layout = 3 then readTrellis x else pure x.wk)
    spsChecks { x with wk }
    putWalk c.op (some wk)

/-- A sparse command's issue: it keeps the thresholds that stand then, also while a FENCED read of its issue is made again (R120, R285,
R308); it is checked, and walks in its turn. -/
def spsRun (opc : Nat) (c : Ctx) : Cm Stand := do
  let s ← get
  let wk := (walkOf s c.op).getD { thrs := actN s (pg clsSPS c.pav) 0x10C, split := bitsOf (actN s (pg clsDSP c.pav) 0x100) 0 17 }
  putWalk c.op (some wk)
  catchFenced (do
    spsCheck opc c wk
    inOrder (spsStart opc) c)

/-- Ranges of a sparse command: its operand block and outputs are named directly, the rest depends on data (R422). -/
def spsTouch (c : Ctx) : Cm (List Touch) := do
  let v ← readNat c (c.f 12 0 56) 128
  let o := tdescOf (bitsOf v 512 256)
  let r ← winTouch false c
  pure ((c.f 12 0 56, 128, false) :: r ++ (if c.b 4 1 then [(o.row (c.f 5 0 24), (c.f 6 0 25 - 1) * o.stride + rowBytes o.format o.cols, true)] else []))

def spsDef (opc : Nat) : CmdDef := { opc, spec := spsSpec opc, eu := .sps, needs := 3, run := spsRun opc, touch := spsTouch }

/-- SPS_BM64 (R275). -/
def execSpsBm64 (t : Thr) (b : Body) (s : State) : Host.Outcome State Fault Refusal := .next (issueCmd t b (spsDef 0x40) s)
/-- SPS_COO16 (R277). -/
def execSpsCoo16 (t : Thr) (b : Body) (s : State) : Host.Outcome State Fault Refusal := .next (issueCmd t b (spsDef 0x41) s)
/-- SPS_SEGMENT (R278). -/
def execSpsSegment (t : Thr) (b : Body) (s : State) : Host.Outcome State Fault Refusal := .next (issueCmd t b (spsDef 0x42) s)
/-- SPS_AUTO (R285). -/
def execSpsAuto (t : Thr) (b : Body) (s : State) : Host.Outcome State Fault Refusal := .next (issueCmd t b (spsDef 0x43) s)

/-! ### Commands queued behind a walk -/

/-- What a tile command does when its turn comes. -/
def tileRun (opc : Nat) : Ctx → Cm Stand :=
  match opc with
  | 0x20 => loadWRun | 0x21 => mmStart | 0x22 => drainRun | 0x23 => scoreStart | 0x24 => valueStart | 0x25 => tileSaveRun | 0x26 => tileRestoreRun
  | o => spsStart o

/-- Start the commands queued behind one that has ended, in order, up to the next that has work left (R249, R269). -/
def pumpTiles (s : State) (core : Nat) : Nat → State
  | 0 => s
  | n + 1 =>
    match (opList s).find? (fun e => decide (e.2.eu = .dns core ∨ e.2.eu = .sps core) && !e.2.parked && !e.2.inService) with
    | none => s
    | some (id, o) =>
      if tilesBusy s core id then s
      else pumpTiles (serveOp s id (fun c _ => do
          let st ← tileRun o.opcode c
          let k := match st with | .later k => k | .posted k => k | _ => 0
          modify (fun s => updOp s id (fun o => { o with waits := o.waits + k - 1, inService := true })))) core n

/-! ### Hub segments (R121, R123, R280) -/

/-- Does no other resident task hold the core's sparse engine? The engine of the segment's own task qualifies once its walk has finished
the job's other rows; an engine whose walk waits for an entry counts as free (R121, R122). -/
def spsFree (s : State) (hb : Hub) (core : Nat) : Bool :=
  let own := ((getOp s hb.op).bind (·.slot))
  let wk (f : Walk → Bool) (id : Nat) : Bool := match walkOf s id with | some w => f w | none => false
  let rows (w : Walk) (id : Nat) : Nat :=
    ({ c := opCtx id ((getOp s id).getD {}), opc := 0, wk := w } : Sps).jobRows
  s.slots.all (fun e => !(decide (e.1 / 4096 = hb.pav ∧ e.2.st = .running ∧ e.2.core = core) && e.2.engSps) ||
    (own == some e.1 && wk (fun w => decide (w.row ≥ rows w hb.op)) hb.op) ||
    (opList s).any (fun o => o.2.slot == some e.1 && decide (o.2.eu = .sps (32 * hb.pav + core)) && wk (·.stalled) o.1))

/-- Records of the Pavilion's hub buffer that hold partials. -/
def hubRecords (s : State) (p : Nat) : List Nat := (hubsOf s (fun h => h.pav == p)).flatMap (fun e => e.2.parts.filterMap (fun x => x.2.map (·.buf)))

/-- The first record of the hub buffer that is free. -/
def hubRecord (s : State) (p : Nat) : Option Nat := (List.range 64).find? (fun b => !(hubRecords s p).contains b)

/-- Where the containers of a slice of a partial stand: in its record of 32 KiB, by output column (R123, R131). -/
def hubAddr (s : State) (p buf slice : Nat) : Nat := (dispArea s p).1 + 0x8000000 + buf * 0x8000 + 256 * slice

/-- A core may take the next segment of a hub: the hub has one, the Pavilion's limit of segments on their way allows it, and the core's
sparse engine is free, in service and enabled. -/
def hubMayPlace (s : State) (hb : Hub) (wk : Walk) (core : Nat) : Bool :=
  decide (hb.placed < ceilDiv hb.edges wk.split) &&
  decide (((hubsOf s (fun x => x.pav == hb.pav)).map (fun e => e.2.placed - e.2.added)).sum < bitsOf (actN s (pg clsDSP hb.pav) 0x40C) 0 7) &&
  spsFree s hb core && (dom s (dCore (32 * hb.pav + core))).service == .inService && euServes s (.sps (32 * hb.pav + core))

/-- The next segment of a hub is computed on a core, and its partial written to a record of the hub buffer. -/
def hubPlace (h : Nat) (hb : Hub) (core buf opcode : Nat) (wk : Walk) (c : Ctx) (_ : Op) : Cm Unit := do
  let x : Sps := { c, opc := opcode, wk }
  let (e0, _) ← segRange x hb.row
  let n := min wk.split (hb.edges - hb.placed * wk.split)
  let (l, _) ← segTake x (n + 1) n (e0 + hb.placed * wk.split) []
  let (vals, hits) := segAdd x [] l
  let s ← get
  writeLocal hb.pav (hubAddr s hb.pav buf x.slice) ((vals.map (fun v => bytesOf v 8)).flatten)
  let part : HubPart := { core, buf, count := l.length, hits }
  modify (fun s => { s with hubs := s.hubs.put none h (some { hb with placed := hb.placed + 1, parts := hb.parts.put none hb.placed (some part) }) })
  countIf (x.slice = 0) (pg clsDSP c.pav) 0x9C
  count x.page 0x70

/-- A walk goes on for up to n steps; its command waits for one event less when it is through. -/
def walkOn (c : Ctx) (opcode n : Nat) : Cm Unit := do
  let done ← pumpJobs c opcode n
  if done then modify (fun s => updOp s c.op (fun o => { o with waits := o.waits - 1 }))

/-- The partial sums of a hub's next segment are added to the tile row; after the last the hub's entry is free. -/
def hubAdd (h : Nat) (hb : Hub) (part : HubPart) (opcode : Nat) (wk : Walk) (last : Bool) (c : Ctx) (_ : Op) : Cm Unit := do
  let x : Sps := { c, opc := opcode, wk }
  let s ← get
  let b ← readLocal c.die (hubAddr s hb.pav part.buf x.slice) (8 * x.jobCols)
  let s ← get
  let old := tileRow s c.core x.tile hb.i
  let res := ((chunks 8 x.jobCols b).map leNat).zipIdx.map (fun p =>
    if x.int then let r := addSat32 (ofI64 (old.getD p.2 0)) (ofI64 p.1); (toI64 r.1, b2n r.2) else (addFa40 (old.getD p.2 0) p.1, 0))
  putTileRow c x.tile hb.i (res.map (·.1)) ((res.map (·.2)).sum + part.hits)
  putWalk c.op (some { wk with counts := wk.counts.put 0 hb.i (wk.counts.get 0 hb.i + part.count) })
  modify (fun s => { s with hubs := s.hubs.put none h (if last then none else some { hb with added := hb.added + 1, parts := hb.parts.put none hb.added none }) })

/-- HUB_SEGMENT_PLACE (R121): the row's next segment is placed on a core with a free sparse engine, and forms its partial. -/
def execHubSegmentPlace (h : Nat) (core : Fin 32) (s : State) : Host.Outcome State Fault Refusal :=
  .next (match s.hubs.get none h with
    | none => s
    | some hb =>
      match getOp s hb.op, walkOf s hb.op with
      | some o, some wk =>
        (match hubRecord s hb.pav with
         | some buf => if hubMayPlace s hb wk core then serveOp s hb.op (hubPlace h hb core buf o.opcode wk) else s
         | none => s)
      | _, _ => s)

/-- HUB_PARTIAL_ADD (R123): the next partial in segment order is added into the row; the last one frees the entry. The additions of a
pre-empted task wait until it runs again (R125). -/
def execHubPartialAdd (h : Nat) (s : State) : Host.Outcome State Fault Refusal :=
  .next (match s.hubs.get none h with
    | none => s
    | some hb =>
      match hb.parts.get none hb.added, getOp s hb.op, walkOf s hb.op with
      | some part, some o, some wk =>
        if (slot s (o.slot.getD 0)).st ≠ .running then s
        else serveOp s hb.op (hubAdd h hb part o.opcode wk (hb.added + 1 = ceilDiv hb.edges wk.split))
      | _, _, _ => s)

/-! ### Service -/

/-- The engine goes on with a command whose turn has come: up to n of its groups, or n steps of its walk. -/
def tileStep (s : State) (id n : Nat) : State :=
  match getOp s id with
  | none => s
  | some o =>
    if !o.inService || o.unrun then s
    else if (dworkOf s id).isSome then dnsGroups s id n
    else if (walkOf s id).isSome then serveOp s id (fun c o => walkOn c o.opcode n)
    else s

/-- Steps that a command's work can still take. -/
def tileSteps (s : State) (id : Nat) : Nat :=
  match getOp s id with
  | none => 0
  | some o => match dworkOf s id with
    | some w => groupsLeft o w
    | none => pumpFuel o.cmd.toNat

/-- The engines of a core do what is left of a command: banks are filled again, queued commands start in their turn, and the command's
groups are served, or its walk goes on until it ends or waits for hub rows. -/
def tileWork (s : State) (core id : Nat) : State :=
  let s := pumpTiles (pumpRefills s core) core 32
  match getOp s id with
  | none => s
  | some o =>
    if o.parked || !euServes s o.eu || (dense s core).refills != [] then s else pumpTiles (tileStep s id (tileSteps s id)) core 32

end Sys2Proof.Machine
end

