-- ==== Sys2Proof/Machine/Sync.lean ====
section
/-!
DEFINITION. NOP, SIGNAL, FENCE, CANCEL, END and PRIO_SET at both levels (R69, R90 to R92, R94, R96, R97, R686), flag sets
(R107), command completion (R79, R80), undefined opcodes (R67), and the entries of command queues (R73, R571).
-/
namespace Sys2Proof.Machine
open Sys2Proof

/-! ### Queue entries -/

/-- Window limit k of a queue: 0 near, 1 far, 2 host, 3 scratchpad (R580, R581); the Gatehouse's covers everything (R42). -/
structure Limit where
  base : Nat
  bound : Nat
  first : Nat
  last : Nat
  perms : Nat
  en : Bool
deriving DecidableEq, Repr

/-- The limit that three registers spell. -/
def limitOf (base bound cfg : Nat) : Limit :=
  { base := base * 4096, bound := bound * 4096, first := bitsOf cfg 0 12, last := bitsOf cfg 12 12, perms := bitsOf cfg 24 3, en := bitOf cfg 27 }

/-- Window limit k of a queue. -/
def qLimit (s : State) (q : QRef) (k : Nat) : Limit :=
  match q with
  | .gate => { base := 0, bound := 2 ^ 44, first := 0, last := 4095, perms := 7, en := true }
  | .host n => limitOf (qReg s n.val (0x120 + 12 * k)) (qReg s n.val (0x124 + 12 * k)) (qReg s n.val (0x128 + 12 * k))

/-- May the queue name a slot key (R40, R42)? -/
def qSlotOk (s : State) (q : QRef) (key : Nat) : Bool :=
  let n := key % 4096
  match q with
  | .gate => decide (4080 ≤ n)
  | .host i =>
    let r := qReg s i.val 0x11C
    bitOf (qReg s i.val 0x118) (key / 4096) && decide (bitsOf r 0 12 ≤ n ∧ n < bitsOf r 0 12 + bitsOf r 12 13)

/-- The queue's next entry, as its word and ring index; the Gatehouse writes its own (R42). -/
def qHead (s : State) (q : QRef) (w : Cmd) : Option Nat :=
  match q with
  | .gate => some 0
  | .host n =>
    let sq := s.sqs.get {} n.val
    let e := qEntries s n.val
    if sq.fetched.head? = some w ∧ s.power.mode = 0 then some ((sq.head.toNat + e - sq.fetched.length % e) % e) else none

/-- Take the queue's next entry. -/
def qPop (s : State) (q : QRef) : State :=
  match q with
  | .gate => s
  | .host n => { s with sqs := s.sqs.upd {} n.val (fun sq => { sq with fetched := sq.fetched.drop 1 }) }

/-- A queue entry faults: its record (R73). -/
def qFault (s : State) (q : QRef) (index opc : Nat) (f : FaultInfo) (h : Nat := 0) (clamped : Bool := false) : State :=
  postFor s q { queue := 0, code := f.code, pos := f.pos, handle := h, index, opcode := opc, clamped, detail := f.detail, addr := f.addr }

/-- Check the module of a handle against a queue's near limit (R48, R66). -/
def qTargetBad (s : State) (q : QRef) (m : Nat) : Option Nat :=
  let l := qLimit s q 0
  if !(l.en && decide (l.first ≤ m ∧ m ≤ l.last)) then some fWindowViolation
  else if !inTorus s m then some fAddrUnmapped
  else none

/-- Record a queue-level command as outstanding until it completes (R79, R571). -/
def qRetire (s : State) (q : QRef) (index opc w waits : Nat) : State :=
  { s with ops := s.ops.put none s.nextOp (some { opcode := opc, iss := .queue q, cmd := BitVec.ofNat 512 w, cpl := cplTarget w,
                                                  waits := ((getOp s s.nextOp).getD {}).waits + waits, cursor := index }),
           nextOp := s.nextOp + 1 }

/-- Perform a queue-level command other than TASK: checks 1 to 5 of R71, then its effect, which answers how many events it still
waits for, or a fault (R73). -/
def queueCmd (q : QRef) (opc : Nat) (b : Body) (sp : CmdSpec) (run : Nat → State → State × Except FaultInfo Nat) (s : State) : State :=
  let cw := cmdOf opc b
  let w := cw.toNat
  match qHead s q cw with
  | none => s
  | some index =>
    let s := qPop s q
    match lowest (word0Bad w opc true) (wordsBad w opc sp) with
    | some p => qFault s q index opc { code := fReservedField, pos := p }
    | none =>
      match (cplTarget w).bind (fun x => qTargetBad s q (hMod (x.toNat % 2 ^ 36))) with
      | some code => qFault s q index opc { code }
      | none =>
        match run w s with
        | (s, .error f) => qFault s q index opc f
        | (s, .ok n) => if opc = 0 then s else qRetire s q index opc w n

/-! ### NOP and END (R90, R96) -/

/-- A command without operands. -/
def noSpec : CmdSpec := { fields := [], bad := fun _ => [] }

def nopDef : CmdDef := { opc := 0, spec := noSpec, eu := .thread, run := fun _ => pure .now }
def endDef : CmdDef :=
  { opc := 0xA6, spec := noSpec, eu := .thread,
    run := fun c => do modify (fun s => updThr s c.thr (fun t => { t with ended := true })); pure .now }

/-- NOP (R90). -/
def execNop (i : Issuer) (b : Body) (s : State) : Host.Outcome State Fault Refusal :=
  .next (match i with
    | .thread t => issueCmd t b nopDef s
    | .queue q => queueCmd q 0 b noSpec (fun _ s => (s, .ok 0)) s)
/-- END (R96). -/
def execEndThread (t : Thr) (b : Body) (s : State) : Host.Outcome State Fault Refusal := .next (issueCmd t b endDef s)

/-! ### SIGNAL (R91) -/

/-- Operand words of SIGNAL. -/
def signalSpec : CmdSpec := { fields := [(4, 0, 36), (6, 0, 62)], bad := fun w => [(at_ 6 0, cf w 6 0 62 == 0)] }

/-- SIGNAL by a thread: the set waits for the thread's earlier writes and commands (R38). -/
def signalRun (c : Ctx) : Cm Stand := do
  let s ← get
  match targetBad s (slot s c.key) (hMod (c.f 4 0 36)) with
  | some code => failWith code
  | none =>
    let before := ((opList s).filter (fun e => e.2.ofThr c.thr && !e.2.posted)).map (·.1)
    modify (fun s => sendSet s (c.f 4 0 36) (BitVec.ofNat 64 (c.f 6 0 62)) before (openWrites s c.thr) (some c.op))
    pure (.later 1)

def signalDef : CmdDef := { opc := 0xA1, spec := signalSpec, eu := .thread, run := signalRun }

/-- SIGNAL (R91). -/
def execSignal (i : Issuer) (b : Body) (s : State) : Host.Outcome State Fault Refusal :=
  .next (match i with
    | .thread t => issueCmd t b signalDef s
    | .queue q => queueCmd q 0xA1 b signalSpec (fun w s =>
        match qTargetBad s q (hMod (cf w 4 0 36)) with
        | some code => (s, .error { code })
        | none => (sendSet s (cf w 4 0 36) (BitVec.ofNat 64 (cf w 6 0 62)) [] [] (some s.nextOp), .ok 1)) s)

/-- May the set be delivered: the writes and commands before it are done (R38)? -/
def setReady (s : State) (f : FlagSet) : Bool :=
  f.afterOps.all (fun i => (getOp s i).isNone) && f.afterReqs.all (fun i => (getReq s i).isNone)

/-- A set leaves for another module's dispatcher (R508), on its thread's stream or, a completion event, on the dispatcher's (R507). Its
command completes when the module confirms it (R79, R586). -/
def carrySet (s : State) (f : FlagSet) : State :=
  let h := f.target.toNat
  let r : Req := { kind := .signal, home := dRemote (hMod h), op := f.op, slot := (f.op.bind (getOp s)).bind (·.slot), addr := hMod h * 2 ^ 44, cls := 0,
                   words := [h, f.bits.toNat, f.die, f.prio] }
  let (s, id) := addReq s r
  match sendMsg s (signalMsg s id r) with
  | (s, true) => s
  | (s, false) => faultReq s id r { code := fUnreachable, detail := resource 20 14 (hMod h) }

/-- FLAG_SET (R107): the i-th set on its way reaches its dispatcher, or leaves for another module's (R508). -/
def execFlagSet (i : Nat) (s : State) : Host.Outcome State Fault Refusal :=
  .next (match s.sets[i]? with
    | some f =>
      if setReady s f then
        let h := f.target.toNat
        let s := { s with sets := s.sets.eraseIdx i }
        if standIn s (hMod h) = ownId s then
          let s := applySet s (hSlot h) (hGen h) f.bits
          match f.op with | some o => opAnswered s o | none => s
        else pumpHeld (carrySet s f)
      else s
    | none => s)

/-! ### FENCE (R92) -/

def fenceSpec : CmdSpec := { fields := [(4, 0, 2)], bad := fun w => [(at_ 4 0, cf w 4 0 2 == 0)] }
def fenceDef : CmdDef := { opc := 0xA2, spec := fenceSpec, eu := .thread, run := fun _ => pure (.later 0) }
/-- FENCE (R92): it completes once every condition of its SCOPE holds. -/
def execFence (t : Thr) (b : Body) (s : State) : Host.Outcome State Fault Refusal := .next (issueCmd t b fenceDef s)

/-- Do the conditions of a FENCE hold: bit 0, the thread's earlier ASYNC commands; bit 1, its earlier stores and atomics? -/
def fenceHolds (s : State) (k id scope : Nat) : Bool :=
  (!bitOf scope 0 || !(opList s).any (fun e => decide (e.1 < id) && e.2.ofThr k && e.2.async && !e.2.posted)) &&
  (!bitOf scope 1 || openWrites s k == [])

/-! ### CANCEL and PRIO_SET (R94, R97, R134, R686) -/

/-- Counts of rises of inherited priority (R118): holders whose effective priority has risen between two states. -/
def countRises (s0 s1 : State) : State :=
  s1.aflows.foldl (fun s e =>
    match e.2.holder with
    | some k => if effPrio s1 k > (slot s1 k).prio ∧ effPrio s1 k > (if (s0.aflows.get {} e.1).holder = some k then effPrio s0 k else (slot s1 k).prio)
        then bump s (dspPage k) 0xA4 else s
    | none => s) s1

/-- A CANCEL acts at the dispatcher that holds the slot (R94, R105, R119). -/
def doCancel (s : State) (key : Nat) (gen : BitVec 8) : State :=
  let t := slot s key
  if t.st = .waiting ∧ t.gen = gen then
    let s := leaveFlows s key t
    freeSlot (postFor s t.queue { queue := 0, code := fCancelled, handle := handle s key gen.toNat, index := t.index, opcode := 0xA0,
                                  clamped := t.clamped }) key
  else bump s (dspPage key) 0x88

/-- A PRIO_SET acts at the dispatcher that holds the slot (R97, R134). -/
def doPrio (s : State) (key : Nat) (gen : BitVec 8) (prio max : Nat) : State :=
  let s := if prio > max then bump s (dspPage key) 0x84 else s
  let t := slot s key
  if (t.st = .waiting ∨ t.st = .ready ∨ t.st = .running ∨ t.st = .preempted) ∧ t.gen = gen then
    countRises s (updSlot s key (fun t => { t with prio := min prio max }))
  else bump s (dspPage key) 0xA8

/-- Operand words of CANCEL and PRIO_SET. -/
def cancelSpec : CmdSpec := { fields := [(4, 0, 36)], bad := fun _ => [] }
def prioSpec : CmdSpec := { fields := [(4, 0, 36), (6, 0, 3)], bad := fun _ => [] }

/-- CANCEL or PRIO_SET on a handle that has passed its module's check: the Pavilion and slot check of R686, then the act, here
or at the other module, whose confirmation is awaited. `q` is the queue whose set and range bind it. -/
def dispatchAct (s : State) (q : QRef) (opc h prio : Nat) (op : Nat) (slotK : Option Nat) : State × Except FaultInfo Nat :=
  if !qSlotOk s q (hSlot h) then (s, .error { code := fWindowViolation })
  else if standIn s (hMod h) = ownId s then
    (if opc = 0xA4 then doCancel s (hSlot h) (hGen h) else doPrio s (hSlot h) (hGen h) prio (qPrioMax s q), .ok 0)
  else
    let (s, tag) := addReq s { kind := .carried, home := dRemote (hMod h), op := some op, slot := slotK, addr := hMod h * 2 ^ 44, cls := 0,
                                words := [opc, h, prio, qPrioMax s q] }
    (emit s (.dispatch opc (standHandle s h) prio (qPrioMax s q) tag), .ok 1)

/-- CANCEL or PRIO_SET by a thread. -/
def dispatchRun (opc : Nat) (c : Ctx) : Cm Stand := do
  let s ← get
  let t := slot s c.key
  match targetBad s t (hMod (c.f 4 0 36)) with
  | some code => failWith code
  | none =>
    match dispatchAct s t.queue opc (c.f 4 0 36) (c.f 6 0 3) c.op (some c.key) with
    | (_, .error f) => throw f
    | (s, .ok n) => do
      set s
      pure (.later n)

def cancelDef : CmdDef := { opc := 0xA4, spec := cancelSpec, eu := .thread, run := dispatchRun 0xA4 }
def prioDef : CmdDef := { opc := 0xA7, spec := prioSpec, eu := .thread, run := dispatchRun 0xA7 }

/-- CANCEL or PRIO_SET of a queue. -/
def dispatchQueue (q : QRef) (opc w : Nat) (s : State) : State × Except FaultInfo Nat :=
  match qTargetBad s q (hMod (cf w 4 0 36)) with
  | some code => (s, .error { code })
  | none => dispatchAct s q opc (cf w 4 0 36) (cf w 6 0 3) s.nextOp none

/-- A CANCEL or PRIO_SET that another module's handle check let through reaches the dispatcher that holds the slot: it acts, and confirms
(R686). It was carried in no message type of R508 (log entry 18); the confirmation answers its tag in the stream of dispatchers. -/
def carriedAct (s : State) (opc : Nat) (b : Body) (src max : Nat) (tag : BitVec 16) (epoch : BitVec 8) : State :=
  let w := (cmdOf opc b).toNat
  let h := cf w 4 0 36
  if s.power.mode ≠ 0 ∨ s.gate.forwardOnly ∨ standIn s (hMod h) ≠ ownId s ∨ !inTorus s src then s
  else
    let s := if opc = 0xA4 then doCancel s (hSlot h) (hGen h) else doPrio s (hSlot h) (hGen h) (cf w 6 0 3) max
    (sendMsg s (mkMsg s { dst := src, cls := 0, mtype := 0x41, die := hSlot h / 4096, stream := 2560, tag := tag.toNat, tagEpoch := epoch.toNat } [])).1

/-- CANCEL (R94, R686). -/
def execCancel (i : Sender) (b : Body) (s : State) : Host.Outcome State Fault Refusal :=
  .next (match i with
    | .thread t => issueCmd t b cancelDef s
    | .queue q => queueCmd q 0xA4 b cancelSpec (dispatchQueue q 0xA4) s
    | .carried src max tag epoch => carriedAct s 0xA4 b src max tag epoch)
/-- PRIO_SET (R97, R134, R686). -/
def execPrioSet (i : Sender) (b : Body) (s : State) : Host.Outcome State Fault Refusal :=
  .next (match i with
    | .thread t => issueCmd t b prioDef s
    | .queue q => queueCmd q 0xA7 b prioSpec (dispatchQueue q 0xA7) s
    | .carried src max tag epoch => carriedAct s 0xA7 b src max tag epoch)

/-! ### Completion (R79, R80, R571) -/

/-- May an outstanding command complete? -/
def opReady (s : State) (id : Nat) (o : Op) : Bool :=
  o.waits == 0 && o.tries == 0 && o.far.st == 0 && (o.inService || (match o.eu with | .sel _ => false | _ => true)) &&
  (match o.iss with
   | .thread _ => o.opcode != 0xA2 || fenceHolds s (o.key.getD 0) id (cf o.cmd.toNat 4 0 2)
   | .queue _ => true)

/-- Local address of the stream record of a saved command (R463). -/
def frameRec (s : State) (o : Op) : Nat := let key := o.slot.getD 0; frameAddr s (key / 4096) (key % 4096) + 0x6680 + 32 * o.rec'

/-- A stream command that completes while its task is saved sets DONE in its record (R463). -/
def frameDone (s : State) (o : Op) : State := wrB s (frameRec s o + 1) (rdB s (frameRec s o + 1) ||| 2)

/-- A command completes: its register is written, its thread may issue again, its scoreboard entry is released, its target is
set, and a queue-level command posts its record. -/
def completeOp (s : State) (id : Nat) (o : Op) : State :=
  let s := dropOp s id
  let s := o.onDone.foldl (fun s e => bump s e.1 e.2.1 e.2.2) s
  let (die, prio) := match o.iss with | .thread t => (t.core.val / 32, (o.slot.map (effPrio s)).getD 0) | .queue _ => (16, 0)
  let s := match o.cpl with | some x => sendTarget s x die prio | none => s
  match o.iss with
  | .thread t =>
    let k := thrKey t
    -- a command of a pre-empted task completes into its saved context (R128)
    if o.parked then (if o.eu = .stm (t.core.val) then frameDone s o else s)
    else
      let s := match o.dst with | some (r, v) => setThrReg s k r v | none => s
      updThr s k (fun t => { t with waits := if t.waits = some id then none else t.waits })
  | .queue q => postFor s q { queue := 0, index := o.cursor, opcode := o.opcode }


/-! ### Undefined opcodes (R67, R69, R70) -/

/-- UNDEFINED_OPCODE (R67, R69 to R74): ILLEGAL_OPCODE, the lowest offending bit being bit 0 of the OPCODE field. In test mode
opcodes 0xF0 to 0xFF are production-test functions outside the contract. -/
def execUndefinedOpcode (i : Issuer) (w : Cmd) (s : State) : Host.Outcome State Fault Refusal :=
  let op := w.toNat % 256
  if permittedAt op i then .fault .illFormed
  else if s.testMode ∧ op ≥ 0xF0 then .refused .productionTest
  else .next (match i with
    | .thread t =>
      if canIssue s t (.thread t.core.val) then faultTask s (((thr s (thrKey t)).slot).getD 0) op { code := fIllegalOpcode } else s
    | .queue q =>
      match qHead s q w with
      | none => s
      | some index => qFault (qPop s q) q index op { code := fIllegalOpcode })

end Sys2Proof.Machine
end

