-- ==== Sys2Proof/Machine/Tasks.lean ====
section
/-!
DEFINITION. Task acceptance, placement, pre-emption and release (R29 to R48, R81 to R89, R104 to R119, R126 to R137).
-/
namespace Sys2Proof.Machine
open Sys2Proof

/-! ### Acceptance (R84) -/

/-- Operand words of TASK (R82). -/
def taskSpec : CmdSpec :=
  { fields := [(4, 0, 32), (6, 0, 64), (8, 6, 38), (10, 0, 32), (11, 7, 37), (13, 0, 64)],
    bad := fun w => [(at_ 4 24, cf w 4 24 5 == 0 || decide (cf w 4 24 5 > 16)), (at_ 10 16, cf w 10 16 16 == 0)] }

/-- Does a span lie in the queue's near or host limit with R (R83)? The fault, if not. -/
def spanBad (s : State) (q : QRef) (a len : Nat) : Option Nat :=
  let inL (k : Nat) : Bool :=
    let l := qLimit s q k
    l.en && bitOf l.perms 0 && decide (l.first ≤ ownId s ∧ ownId s ≤ l.last ∧ l.base ≤ a ∧ a + len ≤ l.bound)
  let kinds := (isNear a && isNear (a + len - 1)) || (isHost a && isHost (a + len - 1))
  if kinds && (inL 0 || inL 2) then none
  else if !popSpan s a len then some fAddrUnmapped
  else some fWindowViolation

/-- Condition of an additional completion target (R89). -/
def targetWordBad (v : Nat) (i : Nat) : List (Nat × Bool) :=
  let p := 512 + 64 * i
  let e := bitsOf v p 64
  if bitOf e 63 then [(p + 36, decide (bitsOf e 36 6 ≥ 62)), (p + 42 + (lowBit (bitsOf e 42 21)).getD 0, bitsOf e 42 21 != 0)]
  else [(p + (lowBit e).getD 0, e != 0)]

/-- The valid additional targets of a descriptor (R89). -/
def descTargets (v : Nat) : List (BitVec 42) :=
  (List.range 8).filterMap (fun i => let e := bitsOf v (512 + 64 * i) 64; if bitOf e 63 then some (BitVec.ofNat 42 e) else none)

/-- Read a task descriptor for die `die` (R83, R85): its 1,024 bits, a fault, or neither while its home resets or is asleep. -/
def readTaskDesc (s : State) (die a : Nat) : State × Option (Except FaultInfo Nat) :=
  if isHost a then
    if sleeps s a 128 then (s, none)
    else match rdHost s a 128 with
    | (s, .ok l) => (carryAccess (bump s (pg clsHIF 0) 0x50 128) die (memDie a) false 3 128, some (.ok (leNat l)))
    | (s, .error _) => (s, some (.error { code := fAddrUnmapped }))
  else match readLocal die a 128 3 s with
    | .ok l s => (s, some (.ok (leNat l)))
    | .error f s' => if f.code = fencedCode ∨ f.code = holdCode then (s, none) else (s', some (.error f))

/-- The step of a task accepted now (R37). -/
def taskStep (s : State) : BitVec 32 := if (stepOf s s.lastOpen).isSome then s.lastOpen else s.lastOpen + 1

/-- Key of a queue's own state. -/
def sqKey : QRef → Nat | .host n => n.val | .gate => 256

/-- Key of an object's counters (R136, R147). -/
def objKey (p kind index : Nat) : Nat := (4 * p + kind) * 65536 + index

/-- Flow admission (R113, R114): the fault, or the counter of the wait, or nothing; the flow's entry. -/
def flowAdmit (s : State) (p id : Nat) : Except Nat (Option Nat × OFlow) :=
  match s.oflows.get none id with
  | some f =>
    if f.pav ≠ p then .error fFlowPavConflict
    else .ok (if f.next - f.oldest ≥ 256 then some 0x90 else none, f)
  | none =>
    let used := (s.oflows.filter (fun e => match e.2 with | some f => f.pav == p | none => false)).length
    .ok (if used ≥ 1024 then some 0x94 else none, { pav := p })

/-- The slot that a TASK's words, descriptor and place give. -/
def slotOf (s : State) (q : QRef) (w v index prio : Nat) (clamped : Bool) (old : Slot) (accept pos : Nat) : Slot :=
  let fk := bitsOf w 10 2
  let mask := BitVec.ofNat 64 (cf w 6 0 64)
  { st := if old.flags &&& mask = mask then .ready else .waiting, gen := BitVec.ofNat 8 (cf w 4 16 8), flags := old.flags, mask,
    prio, flowKind := fk, flowId := if fk = 0 then 0 else cf w 1 0 16, pos, accept, queue := q, index, threads := cf w 4 24 5,
    engDns := cf w 4 29 1 == 1, engSps := cf w 4 30 1 == 1, syncMode := cf w 4 31 1 == 1, prog := cf w 8 0 44, stride := cf w 10 0 16,
    len := cf w 10 16 16, arg := BitVec.ofNat 64 (cf w 13 0 64),
    wSp := BitVec.ofNat 128 (bitsOf v 0 128), wNear := BitVec.ofNat 128 (bitsOf v 128 128), wFar := BitVec.ofNat 128 (bitsOf v 256 128),
    wHost := BitVec.ofNat 128 (bitsOf v 384 128),
    targets := (match cplTarget w with | some x => [x] | none => []) ++ descTargets v, clamped, step := taskStep s }

/-- The wait of a queue's next command for a flow has ended (R113, R114). -/
def unstall (s : State) (q : QRef) : State := { s with sqs := s.sqs.upd {} (sqKey q) (fun x => { x with stalledFlow := none }) }

/-- A task enters its slot (R84, R87): the entry is used up, the acceptance number taken, and the flow's order joined. `s` is the state
that the read of the descriptor `v` left, `old` the slot as it was, `f` its ordered flow's entry. DESIGN CHOICE (log entry 80): PRIO_CLAMP
counts only a TASK that is accepted, as a fault leaves no side effect (R71). -/
def enterTask (s : State) (q : QRef) (index w v : Nat) (old : Slot) (clamped : Bool) (f : OFlow) : State :=
  let p := cf w 4 12 4
  let key := slotKey p (cf w 4 0 12)
  let prio := bitsOf w 12 3
  let accept := s.accepts.get 0 p
  let s1 := { unstall (qPop s q) q with accepts := s.accepts.put 0 p (accept + 1) }
  let s1 := if clamped then bump s1 (pg clsDSP p) 0x84 else s1
  let t := slotOf s q w v index (min prio (qPrioMax s q)) clamped old accept f.next
  let s1 := updSlot s1 key (fun _ => t)
  let s1 := if bitsOf w 10 2 = 1 then
      { s1 with oflows := s1.oflows.put none t.flowId (some { f with next := f.next + 1 }),
                objs := if f.next = 0 then s1.objs.put {} (objKey p 3 t.flowId) {} else s1.objs }
    else s1
  if t.flowKind = 2 then
    countRises s1 { s1 with aflows := s1.aflows.upd {} (aflowKey p t.flowId) (fun a => { a with queue := a.queue ++ [key] }) }
  else s1

/-- The fault of a TASK that has passed the checks of its words (R73, R84). -/
def taskFault (s : State) (q : QRef) (index w : Nat) (clamped : Bool) (f : FaultInfo) : State :=
  qFault (unstall (qPop s q) q) q index 0xA0 f (cf w 4 0 16 + ownId s * 2 ^ 16 + cf w 4 16 8 * 2 ^ 28) clamped

/-- Step 8 of acceptance: the descriptor has been read, or cannot be, or its home resets. -/
def acceptDesc (q : QRef) (index w : Nat) (old : Slot) (clamped : Bool) (f : OFlow) : State × Option (Except FaultInfo Nat) → State
  | (s, none) => s
  | (s, some (.error e)) => taskFault s q index w clamped e
  | (s, some (.ok v)) =>
    match firstBad ((List.range 8).flatMap (targetWordBad v)) with
    | some pos => taskFault s q index w clamped { code := fReservedField, pos }
    | none => enterTask s q index w v old clamped f

/-- Step 7 of acceptance: the flow admits the task, or refuses it, or lets it wait, each wait being counted once. -/
def acceptFlow (s : State) (q : QRef) (index w : Nat) (clamped : Bool) : Except Nat (Option Nat × OFlow) → State
  | .error code => taskFault s q index w clamped { code }
  | .ok (some off, _) =>
    if (s.sqs.get {} (sqKey q)).stalledFlow = some off then s
    else bump { s with sqs := s.sqs.upd {} (sqKey q) (fun x => { x with stalledFlow := some off }) } (pg clsDSP (cf w 4 12 4)) off
  | .ok (none, f) => acceptDesc q index w (slot s (slotKey (cf w 4 12 4) (cf w 4 0 12))) clamped f (readTaskDesc s (cf w 4 12 4) (cf w 11 0 44))

/-- Steps 5 to 8 of acceptance (R84): a command that waits changes nothing, but its wait for a flow is counted once. -/
def acceptTask (s : State) (q : QRef) (index w : Nat) : State :=
  let p := cf w 4 12 4
  let old := slot s (slotKey p (cf w 4 0 12))
  let clamped := decide (bitsOf w 12 3 > qPrioMax s q)
  if old.st ≠ .free ∨ old.cooling ∨ !euServes s (.dsp p) ∨ (dom s (dPav p)).service = .resetting then s
  else if domFenced s (dPav p) then taskFault s q index w clamped { code := fCoreFenced, detail := resource p 9 0 }
  else if BitVec.ofNat 8 (cf w 4 16 8) ≠ old.gen + 1 then taskFault s q index w clamped { code := fGenMismatch }
  else acceptFlow s q index w clamped (if bitsOf w 10 2 = 1 then flowAdmit s p (cf w 1 0 16) else .ok (none, {}))

/-- Steps 1 to 3 of acceptance: the fault of a TASK's words (R84). -/
def taskBad (s : State) (q : QRef) (w : Nat) : Option FaultInfo :=
  match lowest (word0Bad w 0xA0 true) (wordsBad w 0xA0 taskSpec) with
  | some pos => some { code := fReservedField, pos }
  | none =>
    if !qSlotOk s q (slotKey (cf w 4 12 4) (cf w 4 0 12)) then some { code := fWindowViolation }
    else match spanBad s q (cf w 8 0 44) (64 * ((cf w 4 24 5 - 1) * cf w 10 0 16 + cf w 10 16 16)) with
      | some code => some { code }
      | none => (spanBad s q (cf w 11 0 44) 128).map (fun code => { code })

/-- TASK (R82 to R89). -/
def execTask (q : QRef) (b : Body) (s : State) : Host.Outcome State Fault Refusal :=
  .next (
    let cw := cmdOf 0xA0 b
    let w := cw.toNat
    match qHead s q cw with
    | none => s
    | some index =>
      match taskBad s q w with
      | some f => qFault (qPop s q) q index 0xA0 f (cf w 4 0 16 + ownId s * 2 ^ 16 + cf w 4 16 8 * 2 ^ 28)
      | none => acceptTask s q index w)

/-- Does the oldest command that a queue has fetched wait for a slot, a flow entry or a position (R60)? -/
def headStalls (s : State) (q : Nat) : Bool :=
  match (s.sqs.get {} q).fetched.head? with
  | none => false
  | some cw =>
    let w := cw.toNat
    let t := slot s (slotKey (cf w 4 12 4) (cf w 4 0 12))
    w % 256 == 0xA0 && (taskBad s (.host (Fin.ofNat 256 q)) w).isNone &&
    (t.st != .free || t.cooling ||
      (bitsOf w 10 2 == 1 && BitVec.ofNat 8 (cf w 4 16 8) == t.gen + 1 &&
        (match flowAdmit s (cf w 4 12 4) (cf w 1 0 16) with | .ok (some _, _) => true | _ => false)))

/-! ### Dispatch checks (R45) -/

/-- Is a near (0), far (1) or host (2) window ill-formed (R43, R87, R684)? -/
def winMalformed (s : State) (k : Nat) (w : Nat) : Bool :=
  let lo := match k with | 0 => 0 | 1 => farBase | _ => 0x80000000000
  let hi := match k with | 0 => 2 ^ 40 | 1 => farBase + farSize s | _ => 0xC0000000000
  if wPresent w then bitsOf w 91 37 != 0 || !decide (wFirst w ≤ wLast w) || !decide (wBase w < wBound w) || !decide (lo ≤ wBase w ∧ wBound w ≤ hi)
  else w != 0

/-- Is a scratchpad window ill-formed (R44, R88)? -/
def spMalformed (s : State) (pav w : Nat) : Bool :=
  if !wPresent w then w != 0
  else bitsOf w 25 7 != 0 || bitsOf w 58 6 != 0 || bitsOf w 76 12 != 0 || bitsOf w 92 4 != 0 || bitsOf w 105 23 != 0 || wLen w == 0 ||
    (if wPin w then decide (wStart w + wLen w > 2 ^ 25) || wPinCore w / 32 != pav || !inTorus s (wModule w)
     else decide (wStart w + wLen w > 65536) || wModule w != 0 || wPinCore w != 0)

/-- Does a limit cover a range with a window's permissions (R45 check 2)? -/
def limitCovers (l : Limit) (lo hi first last w : Nat) : Bool :=
  l.en && decide (l.first ≤ first ∧ last ≤ l.last ∧ l.base ≤ lo ∧ hi ≤ l.bound) &&
  [0, 1, 2].all (fun p => !wPerm w p || bitOf l.perms p)

/-- Does the queue's scratchpad limit admit the task's window on a local core (R46)? -/
def spAdmits (s : State) (t : Slot) (p core : Nat) : Bool :=
  let w := t.wSp.toNat
  let r := spRange w (32 * p + core)
  !wPresent w || (if wPin w then limitCovers (qLimit s t.queue 3) r.1 (r.1 + r.2) (wModule w) (wModule w) w
    else limitCovers (qLimit s t.queue 3) r.1 (r.1 + r.2) (ownId s) (ownId s) w)

/-- The first dispatch check that fails (R45). DESIGN CHOICE (log entry 80): check 3 compares a window with the staged ranges, which are
this module's, only where its module range holds this module. -/
def dispatchBad (s : State) (key : Nat) : Option Nat :=
  let t := slot s key
  let p := key / 4096
  let ws := [t.wNear.toNat, t.wFar.toNat, t.wHost.toNat]
  if ws.zipIdx.any (fun e => winMalformed s e.2 e.1) || spMalformed s p t.wSp.toNat then some fWindowInvalid
  else if ws.zipIdx.any (fun e => wPresent e.1 && !limitCovers (qLimit s t.queue e.2) (wBase e.1) (wBound e.1) (wFirst e.1) (wLast e.1) e.1) ||
      !(List.range 32).any (spAdmits s t p) then some fWindowViolation
  else match t.targets.findSome? (fun x => targetBad s t (hMod (x.toNat % 2 ^ 36))) with
    | some code => some code
    | none =>
      if [t.wNear.toNat, t.wFar.toNat].any (fun w => (wPerm w 1 || wPerm w 2) && decide (wFirst w ≤ ownId s ∧ ownId s ≤ wLast w) &&
          (stagedRanges s).any (overlaps (wBase w, wBound w - wBase w))) then some fStagedWrite
      else none

/-! ### Placement (R109 to R111) -/

/-- Tasks of a Pavilion in a state. -/
def tasksIn (s : State) (p : Nat) (st : SlotSt → Bool) : List Nat :=
  (s.slots.filter (fun e => decide (e.1 / 4096 = p) && st e.2.st)).map (·.1)

/-- Does task a rank before task b (R109)? -/
def ranksBefore (s : State) (a b : Nat) : Bool :=
  decide (effPrio s a > effPrio s b) || (effPrio s a == effPrio s b && decide ((slot s a).accept < (slot s b).accept))

/-- Insert by a strict order. -/
def insertBy (lt : Nat → Nat → Bool) (x : Nat) : List Nat → List Nat
  | [] => [x]
  | y :: r => if lt x y then x :: y :: r else y :: insertBy lt x r

/-- The READY and PREEMPTED tasks of a Pavilion in rank order. -/
def ranked (s : State) (p : Nat) : List Nat :=
  (tasksIn s p (fun st => st == .ready || st == .preempted)).foldl (fun l k => insertBy (ranksBefore s) k l) []

/-- The resident tasks of a local core. -/
def residents (s : State) (p core : Nat) : List Nat := (tasksIn s p (· == .running)).filter (fun k => (slot s k).core == core)

/-- Free threads of a local core, ascending. -/
def freeThreads (s : State) (p core : Nat) : List Nat := (List.range 16).filter (fun t => (thr s (16 * (32 * p + core) + t)).slot.isNone)

/-- The reservation of a task on a local core (R44). -/
def reservation (s : State) (t : Slot) (p core : Nat) : Option Range :=
  let w := t.wSp.toNat
  let own := spOf (32 * p + core)
  let r := spRange w (32 * p + core)
  if !wPresent w || (wPin w && wModule w != ownId s) then none
  else
    let lo := max r.1 own
    let hi := min (r.1 + r.2) (own + 2 ^ 22)
    if lo < hi then some (lo, hi - lo) else none

/-- Do the reservations of two tasks overlap on a core? -/
def resClash (s : State) (a b : Nat) (p core : Nat) : Bool :=
  match reservation s (slot s a) p core, reservation s (slot s b) p core with
  | some x, some y => overlaps x y
  | _, _ => false

/-- Is it an atomic-flow task's turn (R117)? -/
def myTurn (s : State) (key : Nat) : Bool :=
  let t := slot s key
  t.flowKind != 2 ||
    (let f := s.aflows.get {} (aflowKey (key / 4096) t.flowId)
     f.holder == some key || (f.holder.isNone && f.queue.head? == some key))

/-- The local cores on which a task could ever run (R109, R111). -/
def coresFor (s : State) (key : Nat) : List Nat :=
  let t := slot s key
  let p := key / 4096
  let l := if t.saved then [t.core] else if wPresent t.wSp.toNat && wPin t.wSp.toNat then [wPinCore t.wSp.toNat % 32] else List.range 32
  l.filter (fun c => spAdmits s t p c && (dom s (dCore (32 * p + c))).service == .inService)

/-- Does a task fit a local core (R109), a task that is to be saved leaving its threads and engines aside (R127)? -/
def fits (s : State) (key core : Nat) (saving : Option Nat := none) : Bool :=
  let t := slot s key
  let p := key / 4096
  let res := (residents s p core).filter (fun k => saving != some k)
  let freed := match saving with | some v => (slot s v).threads | none => 0
  decide (t.threads ≤ (freeThreads s p core).length + freed) &&
  !res.any (fun k => (t.engDns && (slot s k).engDns) || (t.engSps && (slot s k).engSps)) &&
  !(residents s p core ++ (tasksIn s p (· == .preempted)).filter (fun k => (slot s k).core == core && k != key)).any (fun k => resClash s key k p core)

/-- May the core take the task beside the head reservation (R111)? -/
def headAllows (s : State) (key core : Nat) : Bool :=
  match s.heads.get none (key / 4096) with
  | some (h, c) => h == key || c != core || decide (effPrio s key > effPrio s h)
  | none => true

/-- The core that a task goes to, if it fits one (R110). -/
def coreFor (s : State) (key : Nat) : Option Nat :=
  let p := key / 4096
  let used (c : Nat) : Nat := 16 - (freeThreads s p c).length
  let pack := actN s (pg clsDSP p) 0x408 % 2 = 1
  if !myTurn s key then none
  else ((coresFor s key).filter (fun c => fits s key c && headAllows s key c)).foldl (fun b c => match b with
    | none => some c
    | some x => if (if pack then used c > used x else used c < used x) then some c else b) none

/-- Count a placement or resumption for an object (R136). -/
def countObj (s : State) (k bucket : Nat) : State :=
  { s with objs := s.objs.upd {} k (fun o => { o with loads := min (o.loads + 1) (2 ^ 64 - 1), hist := o.hist.set bucket (min (o.hist.getD bucket 0 + 1) (2 ^ 32 - 1)) }) }

/-- Restore thread j of a saved task from its frame onto a hardware thread (R130, R132). -/
def restoreThread (s : State) (key f core hw j : Nat) (w : Option Nat) : State :=
  let word := rdN s (f + 0x7008 + 4 * j) 4
  let waits := w.bind (fun i => if (getOp s i).isSome then some i else none)
  updThr s (16 * core + hw) (fun _ =>
    { slot := some key, next := word % 2 ^ 16, ended := bitOf word 16, waits,
      regs := (List.range 64).foldl (fun m r => Tab.put 0 m r (BitVec.ofNat 64 (rdN s (f + 0x200 * j + 8 * r) 8))) [] })

/-- The parked commands and requests of a task go back to its threads; vector commands beyond the engine's eight wait for room (R313). -/
def unpark (s : State) (key core : Nat) (hws : List Nat) : State :=
  let thrOf (j : Nat) : Thr := keyThr (16 * core + hws.getD j 0)
  let vec := ((unitOps s (.vec core)).filter (fun e => e.2.parked && e.2.slot == some key)).map (·.1)
  let late := vec.drop (8 - euCount s (.vec core))
  { s with ops := s.ops.map (fun e => (e.1, e.2.map (fun o => if o.parked && o.slot == some key then
             { o with parked := false, kept := late.contains e.1, iss := .thread (thrOf o.thrIdx) } else o))),
           reqs := s.reqs.map (fun e => (e.1, e.2.map (fun r => match r.thr with
             | some k => if 8192 + 16 * key ≤ k ∧ k < 8192 + 16 * key + 16 then { r with thr := some (thrKey (thrOf (k - 8192 - 16 * key))) } else r
             | none => r))) }

/-- The load that the record of bank n in a frame stands for (R262). The record does not hold the command's class or the address of its
descriptor: DESIGN CHOICE (log entry 86), the reads are bulk. -/
def refillCmd (n r : Nat) : Nat :=
  0x320 + (n + bitsOf r 369 2 * 2 + bitsOf r 376 5 * 8) * 2 ^ 128 + bitsOf r 320 32 * 2 ^ 160 + bitsOf r 352 16 * 2 ^ 192 + bitsOf r 384 32 * 2 ^ 224 +
    bitsOf r 256 64 * 2 ^ 320

/-- The bank to fill again where record n of a frame shows LOADED or PENDING (R263). -/
def refillOf (key n r : Nat) (pending : Option Nat) : Option Refill :=
  if bitOf r 368 || bitOf r 371 then
    some { key, bank := n, cmd := BitVec.ofNat 512 (refillCmd n r), desc := BitVec.ofNat 256 r, op := if bitOf r 371 then pending else none }
  else none

/-- Put back the dense engine's state that a frame holds (R258, R262, R263): the tiles, the resume point, and the banks to fill again. -/
def restoreDense (s : State) (key core f : Nat) (pending : Option Nat) : State :=
  let tl (a r : Nat) : Tile := (tileOf (rdN s (f + r) 16) ((List.range 1024).map (fun i => rdN s (f + a + 8 * i) 8))).getD {}
  let at' := bitsOf (rdN s (f + 0x6060) 8) 0 25
  let k (id : Nat) : Nat := (at' - cf (((getOp s id).getD {}).cmd.toNat) 5 0 24) / 32
  let refills := [0, 1].filterMap (fun n => refillOf key n (rdN s (f + 0x6080 + 64 * n) 64) pending)
  let s := { s with dworks := s.dworks.mapAll none (fun i w => match getOp s i, w with
    | some o, some w => some (if o.slot = some key ∧ w.begun then { w with k := k i } else w)
    | _, w => w) }
  pumpRefills (updDense s core (fun d => { d with a := tl 0x2000 0x6000, b := tl 0x4000 0x6010, bank0 := none, bank1 := none, refills })) core

/-- Send again what was withdrawn of a task that has resumed (R420). -/
def resendTags (s : State) (key : Nat) : State :=
  ((reqList s).filter (fun e => e.2.slot == some key && e.2.st == .withdrawn)).foldl (fun s e =>
    sendOwn (bump s (pg clsCORE (key / 4096)) 0x40) e.1 e.2) s

/-- Put back what a frame holds once it has been read (R130, R131). -/
def restoreRest (s : State) (key core : Nat) (hws : List Nat) (t : Slot) (f : Nat) (sv : Saved) : State :=
  let s := { updSlot s key (fun t => { t with st := .running, saved := false, quantumDone := false }) with saves := s.saves.put none key none }
  let s := (List.range t.threads).foldl (fun s j => restoreThread s key f core (hws.getD j 0) j (sv.thrs.getD j none)) s
  let s := unpark s key core hws
  let s := if t.engDns then restoreDense s key core f sv.pending else s
  match (slot s key).heldFault with
  | some (opc, code, pos, addr, detail) => faultTask s key opc { code, pos, addr, detail }
  | none => vecPump (resendTags s key) core

/-- Go on from the read of a frame: `none` where it completed FENCED. -/
def restoreFrom (s : State) (r : EStateM.Result FaultInfo State (List Byte)) (key core : Nat) (hws : List Nat) (f : Nat) : Option State :=
  match r with
  | .error e s' => if e.code = fencedCode then none else some (faultTask s' key 0xA0 { code := fContextLost, detail := e.detail })
  | .ok _ s' => some (restoreRest s' key core hws (slot s key) f ((s.saves.get none key).getD {}))

/-- Restore the context of a saved task (R129, R130); `none` while a read of the frame completes FENCED. -/
def restore (s : State) (key core : Nat) (hws : List Nat) : Option State :=
  restoreFrom s (readLocal (key / 4096) (frameAddr s (key / 4096) (key % 4096)) 0x7048 3 s) key core hws (frameAddr s (key / 4096) (key % 4096))

/-- Give a task its hardware threads, in order: each starts with its index, the task's handle and ARG in registers 0 to 2 (R76). -/
def bindThreads (s : State) (key core : Nat) (h arg : DWord) (hws : List Nat) : State :=
  hws.zipIdx.foldl (fun s e => updThr s (16 * core + e.1) (fun _ =>
    { slot := some key, regs := Tab.put 0 (Tab.put 0 (Tab.put 0 [] 0 (BitVec.ofNat 64 e.2)) 1 h) 2 arg })) s

/-- Start a task's threads (R76); a task that declares the dense engine finds it as R250 has it. -/
def startThreads (s : State) (key core : Nat) (hws : List Nat) : State :=
  let t := slot s key
  let s := bindThreads s key core (BitVec.ofNat 64 (handle s key t.gen.toNat)) t.arg hws
  let s := if t.engDns then { s with dense := s.dense.put {} core {} } else s
  updSlot s key (fun t => { t with st := .running, quantumDone := false })

/-- Place a task on a local core, or resume it there. -/
def place (s : State) (key core bucket : Nat) : Option State :=
  let t := slot s key
  let p := key / 4096
  let hws := (freeThreads s p core).take t.threads
  let s := updSlot s key (fun t => { t with core })
  let s := { s with heads := s.heads.mapAll none (fun _ h => if h.map (·.1) = some key then none else h) }
  let s := if t.flowKind = 2 then
      countRises s { s with aflows := s.aflows.upd {} (aflowKey p t.flowId) (fun f => { holder := some key, queue := f.queue.filter (· != key) }) }
    else s
  let s := countObj s (objKey p 1 core) bucket
  let s := match t.queue with | .host q => countObj s (objKey p 2 q.val) bucket | .gate => s
  let s := if t.flowKind = 1 then countObj s (objKey p 3 t.flowId) bucket else s
  if t.saved then restore s key (32 * p + core) hws else some (startThreads s key (32 * p + core) hws)

/-- The fenced core that a task is bound to: its saved context's, its pinned core, or the core of its head reservation (R105, R591). -/
def lostCore (s : State) (key : Nat) : Option Nat :=
  let t := slot s key
  let p := key / 4096
  let bound := (if t.saved then [t.core] else []) ++ (if wPresent t.wSp.toNat && wPin t.wSp.toNat then [wPinCore t.wSp.toNat % 32] else []) ++
    (match s.heads.get none p with | some h => if h.1 = key then [h.2] else [] | none => [])
  bound.find? (fun c => domFenced s (dCore (32 * p + c)))

/-- Consider the ranked tasks in order: check each once, and place the first that fits (R45, R109). -/
def placeFirst (s : State) (bucket : Nat) : List Nat → State
  | [] => s
  | k :: r =>
    match (if (slot s k).checked then none else dispatchBad s k), lostCore s k with
    | some code, _ => placeFirst (faultTask s k 0xA0 { code }) bucket r
    | none, some c => placeFirst (faultTask s k 0xA0 { code := fCoreFenced, detail := resource (k / 4096) 0 c }) bucket r
    | none, none =>
      let s := updSlot s k (fun t => { t with checked := true })
      match (coreFor s k).bind (fun c => place s k c bucket) with
      | some s => s
      | none => placeFirst s bucket r

/-- May the dispatcher of a Pavilion place tasks: it is in service, and no duty window holds it (R627)? -/
def dispServes (s : State) (p : Nat) : Bool :=
  euServes s (.dsp p) && (dom s (dPav p)).service == .inService && !(s.dutyHeld.get false p)

/-- PLACEMENT (R109): one placement decision; `bucket` is the waiting time's bucket of the task placed (R136). -/
def execPlacement (p : Fin 16) (bucket : Fin 8) (s : State) : Host.Outcome State Fault Refusal :=
  .next (if dispServes s p then placeFirst s bucket (ranked s p) else s)

/-- Obstacles of a core for a head reservation (R111). -/
def obstacles (s : State) (key core : Nat) : Nat :=
  let t := slot s key
  let p := key / 4096
  let res := residents s p core
  (t.threads - (freeThreads s p core).length) +
  b2n (t.engDns && res.any (fun k => (slot s k).engDns)) + b2n (t.engSps && res.any (fun k => (slot s k).engSps)) +
  ((res ++ (tasksIn s p (· == .preempted)).filter (fun k => (slot s k).core == core && k != key)).filter (fun k => resClash s key k p core)).length

/-- The core with the fewest obstacles, the lowest of several (R111). -/
def coreToReserve (s : State) (key : Nat) : Option Nat :=
  (coresFor s key).foldl (fun b c => match b with
    | none => some c
    | some x => if obstacles s key c < obstacles s key x then some c else b) none

/-- HEAD_RESERVE (R111): a READY task has been skipped for longer than SKIP_LIMIT. -/
def execHeadReserve (t : SlotRef) (s : State) : Host.Outcome State Fault Refusal :=
  .next (
    let key := slotKey t.pav t.n
    let st := (slot s key).st
    if (s.heads.get none t.pav).isSome ∨ !(st = .ready ∨ st = .preempted) ∨ !dispServes s t.pav then s
    else match coreToReserve s key with
      | none => s
      | some c => bump { s with heads := s.heads.put none t.pav (some (key, c)) } (pg clsDSP t.pav) 0xA0)

/-! ### Pre-emption (R126 to R130) -/

/-- Is a RUNNING task an eligible victim for a candidate (R127)? -/
def eligibleVictim (s : State) (cand v : Nat) : Bool :=
  let t := slot s v
  decide (effPrio s v < effPrio s cand ∧ effPrio s v ≠ 7) && t.quantumDone && !t.victim &&
  !(residents s (v / 4096) t.core).any (fun k => (slot s k).victim) &&
  (coresFor s cand).contains t.core && fits s cand t.core (some v)

/-- The better victim of two (R127): lowest priority, youngest, lowest core. -/
def betterVictim (s : State) (a b : Nat) : Bool :=
  let pa := effPrio s a
  let pb := effPrio s b
  decide (pa < pb) || (pa == pb && (decide ((slot s a).accept > (slot s b).accept) ||
    ((slot s a).accept == (slot s b).accept && decide ((slot s a).core < (slot s b).core))))

/-- The candidate of a Pavilion: the first task in rank order whose turn it is and which no core takes as it stands (R126). -/
def candidate (s : State) (p : Nat) : Option Nat :=
  (ranked s p).find? (fun k => myTurn s k && coresFor s k != [] && !(coresFor s k).any (fun c => fits s k c))

/-- The best eligible victim for a candidate (R127). -/
def victimFor (s : State) (p cand : Nat) : Option Nat :=
  ((tasksIn s p (· == .running)).filter (eligibleVictim s cand)).foldl (fun b v => match b with
    | none => some v
    | some x => if betterVictim s v x then some v else b) none

/-- PREEMPTION_CHECK (R126, R127): the candidate's victim, if any, is signalled. -/
def execPreemptionCheck (p : Fin 16) (s : State) : Host.Outcome State Fault Refusal :=
  .next (if !bitOf (actN s (pg clsDSP p) 0x104) 0 || !dispServes s p then s
    else match candidate s p with
      | none => s
      | some cand =>
        match victimFor s p cand with
        | none => s
        | some v => updSlot s v (fun t => { t with victim := true }))

/-- QUANTUM_END (R127): a RUNNING task has run for its quantum. -/
def execQuantumEnd (t : SlotRef) (s : State) : Host.Outcome State Fault Refusal :=
  .next (
    let key := slotKey t.pav t.n
    if (slot s key).st = .running then updSlot s key (fun t => { t with quantumDone := true }) else s)

/-- Thread keys of a task, in thread order. -/
def threadsOf (s : State) (key : Nat) : List Nat := (s.thrs.filter (fun e => decide (e.2.slot = some key))).map (·.1)

/-- Outstanding commands of a task. -/
def taskOpsOf (s : State) (key : Nat) : List (Nat × Op) := (opList s).filter (fun e => e.2.slot == some key)

/-- Is the request a tag access of a thread that waits, in a tag-wait list or refused by a full one (R418, R419), or one that such an access of its
thread holds back? -/
def onTag (s : State) (r : Req) : Bool :=
  r.thr.isSome && (r.st == .tagWait || r.st == .busy ||
    (r.st == .sent && r.local' && (reqList s).any (fun e => e.2.thr == r.thr && e.2.local' && (e.2.st == .tagWait || e.2.st == .busy))))

/-- Is the victim at its safe point (R128)? A load that waits on a tag has not been performed, and does not delay it (R420); a header that has been
consumed is still to be added. -/
def safePoint (s : State) (key : Nat) : Bool :=
  let waiting (id : Nat) : Bool := (reqList s).any (fun e => e.2.op == some id && onTag s e.2)
  !(taskOpsOf s key).any (fun e => (e.2.opcode == 6 || e.2.opcode == 0xA3) && !waiting e.1) &&
  !(reqList s).any (fun e => e.2.slot == some key && (e.2.kind == .load || e.2.kind == .atomic) && !onTag s e.2) &&
  !(reqList s).any (fun e => e.2.slot == some key && e.2.kind == .header && (match e.2.st with | .answered _ _ => true | _ => false))

/-- Take a request out of the tag-wait lists. -/
def leaveTags (s : State) (id : Nat) : State := { s with tagWait := s.tagWait.mapAll [] (fun _ l => l.filter (· != id)) }
/-- Take back one event of a counter. -/
def uncount (s : State) (page off : Nat) : State :=
  { s with regs := { s.regs with count := s.regs.count.put 0 (rkey page off 0) (cnt s page off - 1) } }

/-- A waiting tag access is withdrawn (R420). Its command counts as not issued: the thread goes back to it, where it is the last that
the thread issued; else the access is sent again when the task resumes. -/
def withdraw (s : State) (id : Nat) (r : Req) : State :=
  let s := uncount (leaveTags s id) (pg clsCORE ((r.slot.getD 0) / 4096)) 0x40
  match r.op, r.thr with
  | some i, some k =>
    let n := ((getOp s i).getD {}).cmdIdx
    if (thr s k).next = n + 1 then updThr (dropOp (dropReq s id) i) k (fun t => { t with next := n, waits := none })
    else updReq s id (fun r => { r with st := .withdrawn })
  | _, _ => updReq s id (fun r => { r with st := .withdrawn })

/-- Every waiting tag access of a task is withdrawn, the latest first, and every blocked header read (R335, R420). -/
def withdrawAll (s : State) (key : Nat) : State :=
  let s := ((reqList s).filter (fun e => e.2.slot == some key && onTag s e.2)).reverse.foldl (fun s e => withdraw s e.1 e.2) s
  ((reqList s).filter (fun e => e.2.slot == some key && e.2.kind == .header)).foldl (fun s e => dropReq (leaveTags s e.1) e.1) s


/-- Bytes of a command of the frame, zero where there is none. -/
def cmdBytes (o : Option Op) : List Byte := bytesOf (match o with | some o => o.cmd.toNat | none => 0) 64

/-- The bank record of a frame (R262), from the load that fills the bank: the bank of an abandoned load is PENDING, not LOADED. -/
def bankBytes (pending : Bool) (cmd : Cmd) (desc : BitVec 256) : List Byte :=
  let w := cmd.toNat
  bytesOf desc.toNat 32 ++ bytesOf (cf w 10 0 56) 8 ++ bytesOf (cf w 5 0 24) 4 ++ bytesOf (cf w 6 0 13) 2 ++
  [BitVec.ofNat 8 ((if pending then 8 else 1) + 2 * cf w 4 1 2), BitVec.ofNat 8 (cf w 4 3 5)] ++ bytesOf (cf w 7 0 24) 4 ++ List.replicate 12 0

/-- The record of bank n: of a load still to be made again, or of what the bank holds; `lost` where its load is abandoned. -/
def bankRecord (d : Dense) (n : Nat) (lost : Bool) : List Byte :=
  match d.refills.find? (·.bank == n), (if n = 0 then d.bank0 else d.bank1) with
  | some r, _ => bankBytes r.op.isSome r.cmd r.desc
  | none, some b => bankBytes lost b.cmd b.desc
  | none, none => List.replicate 64 0

/-- A unit's commands of a task that have work left: its first, in service or next, and those queued behind it in order. -/
def liveTiles (s : State) (key : Nat) (u : EUnit) : Option (Nat × Op) × List (Nat × Op) :=
  let l := (taskOpsOf s key).filter (fun e => decide (e.2.eu = u) && tileLive s e)
  (l.head?, l.drop 1)

/-- The resume point of a dense command: its next row or key, and the tile for that group (R262). -/
def resumePoint (s : State) (e : Nat × Op) : Nat :=
  if [0x21, 0x23, 0x24].contains e.2.opcode then
    let k := ((dworkOf s e.1).getD {}).k
    let w := e.2.cmd.toNat
    (cf w 5 0 24 + 32 * k) % 2 ^ 25 + (cf w 4 1 1 + k) % 2 * 2 ^ 25
  else 0

/-- The dense engine's part of a frame (R262); the load `pending` is abandoned. -/
def densePart (s : State) (key core : Nat) (pending : Option Nat) : List Byte :=
  let d := dense s core
  let (cur, q) := liveTiles s key (.dns core)
  let lost (n : Nat) : Bool := match pending.bind (getOp s) with | some o => cf o.cmd.toNat 4 0 1 == n | none => false
  bytesOf (tileRecord d.a) 16 ++ bytesOf (tileRecord d.b) 16 ++ cmdBytes (cur.map (·.2)) ++ bytesOf ((cur.map (resumePoint s)).getD 0) 8 ++
  List.replicate 24 0 ++ bankRecord d 0 (lost 0) ++ bankRecord d 1 (lost 1) ++
  ((List.range 7).map (fun i => cmdBytes (q[i]?.map (·.2)))).flatten ++ List.replicate 64 0

/-- Where a walk stands in its row (R290, R291): its next block, the column of its next entry, or its edges before the next. -/
def Walk.place (w : Walk) : Nat × Nat :=
  match w.todo with
  | t :: _ => (t.row, t.pos)
  | [] => (w.row, match w.span with | some (e0, _) => w.edge - e0 | none => 0)

/-- The sparse engine's part of a frame (R291). -/
def sparsePart (s : State) (key core : Nat) : List Byte :=
  let (cur, q) := liveTiles s key (.sps core)
  cmdBytes (cur.map (·.2)) ++
  (match cur.bind (fun e => (s.walks.get none e.1).map (fun w => ({ c := opCtx e.1 e.2, opc := e.2.opcode, wk := w } : Sps))) with
   | some x => bytesOf ((x.row0 + x.wk.place.1) % 2 ^ 25) 4 ++ bytesOf (x.slice % 128) 2 ++ bytesOf 0 2 ++ bytesOf x.wk.place.2 8
   | none => List.replicate 16 0) ++
  List.replicate 48 (0 : Byte) ++ ((List.range 3).map (fun i => cmdBytes (q[i]?.map (·.2)))).flatten ++ List.replicate 64 0

/-- The vector engine's part of a frame (R335). -/
def vectorPart (s : State) (key core : Nat) : List Byte :=
  let ops := (taskOpsOf s key).filter (fun e => decide (e.2.eu = .vec core) && ((vworkOf s e.1).isSome || e.2.unrun))
  let w := ((ops.head?).bind (fun e => vworkOf s e.1)).getD {}
  let column := match ops.head? with | some e => e.2.opcode == 0x55 && bitOf e.2.cmd.toNat (at_ 4 3) | none => false
  cmdBytes (ops.head?.map (·.2)) ++
  (if column then bytesOf 0 4 ++ bytesOf w.next 4 else bytesOf w.next 4 ++ bytesOf 0 4) ++
  bytesOf (w.parts.foldl (fun n e => max n (e.1 / 2048)) 0) 1 ++ List.replicate 55 (0 : Byte) ++
  bytesOf (w.arrived.foldl (fun a i => a ||| (1 <<< i)) 0) 128 ++
  ((List.range 3).map (fun i => cmdBytes (ops[i + 1]?.map (·.2)))).flatten ++ List.replicate 64 0

/-- The stream unit's part of a frame (R463). -/
def streamPart (s : State) (key core : Nat) : List Byte :=
  let ops := (taskOpsOf s key).filter (fun e => decide (e.2.eu = .stm core))
  ((List.range 8).map (fun i => match ops[i]? with
    | some e => [BitVec.ofNat 8 e.2.thrIdx, 1] ++ bytesOf e.2.cmdIdx 2 ++ List.replicate 28 (0 : Byte)
    | none => List.replicate 32 0)).flatten

/-- Registers of a thread in a frame. -/
def regBytes (s : State) (k : Nat) : List Byte := ((List.range 64).map (fun r => bytesOf (thrReg s k r).toNat 8)).flatten

/-- Per-thread word of a frame (R132). -/
def thrWord (s : State) (key k : Nat) : Nat :=
  let t := thr s k
  let pending := match t.waits.bind (getOp s) with | some o => o.opcode == 0xA2 | none => false
  t.next % 2 ^ 16 + b2n (thrEnded t (slot s key)) * 2 ^ 16 + b2n pending * 2 ^ 17

/-- The parts of a context frame, by offset (R132). -/
def frameParts (s : State) (key core : Nat) (pending : Option Nat) : List (Nat × List Byte) :=
  let t := slot s key
  let ks := threadsOf s key
  let ops := taskOpsOf s key
  let has (u : EUnit) : Bool := ops.any (fun e => decide (e.2.eu = u))
  ks.zipIdx.map (fun e => (0x200 * e.2, regBytes s e.1)) ++
  (if t.engDns then [(0x2000, tileBytes (dense s core).a), (0x4000, tileBytes (dense s core).b), (0x6000, densePart s key core pending)] else []) ++
  (if t.engSps then [(0x6300, sparsePart s key core)] else []) ++
  (if has (.vec core) then [(0x6480, vectorPart s key core)] else []) ++
  (if has (.stm core) then [(0x6680, streamPart s key core)] else []) ++
  [(0x7000, bytesOf (handle s key t.gen.toNat) 8 ++ ((List.range 16).map (fun j => bytesOf (match ks[j]? with
      | some k => thrWord s key k | none => 0) 4)).flatten)]

/-- Park the commands and requests of a saved task. -/
def park (s : State) (key core : Nat) : State :=
  let ks := threadsOf s key
  let strms := ((taskOpsOf s key).filter (fun e => decide (e.2.eu = .stm core))).map (·.1)
  { s with ops := s.ops.map (fun e => (e.1, e.2.map (fun o => if o.slot = some key then
             { o with parked := true, rec' := (strms.takeWhile (· != e.1)).length } else o))),
           reqs := s.reqs.map (fun e => (e.1, e.2.map (fun r => if r.slot = some key then
             { r with thr := r.thr.map (fun k => 8192 + 16 * key + (ks.takeWhile (· != k)).length) } else r))) }

/-- How far a victim's dense and sparse engines go on before its safe point: a free number of the groups, or steps of the walk, that the
commands in service still have (R261, R290). -/
def reachBoundary (s : State) (key core : Nat) : State :=
  [EUnit.dns core, EUnit.sps core].foldl (fun s u =>
    match (liveTiles s key u).1 with
    | some e =>
      let (s, v) := takeFree s
      tileStep s e.1 (v % (tileSteps s e.1 + 1))
    | none => s) s

/-- The DNS_LOAD_W of a victim that is in progress at its safe point, and so abandoned (R261): one that was abandoned before and is not
filled yet, or the last one that has not completed, of which it is free whether it is still in progress. -/
def abandoned (s : State) (key core : Nat) : State × Option Nat :=
  match (dense s core).refills.findSome? (·.op),
    ((taskOpsOf s key).filter (fun e => decide (e.2.eu = .dns core ∧ e.2.opcode = 0x20) && e.2.waits == 0 && !tileLive s e)).getLast? with
  | some i, _ => (s, some i)
  | none, some e =>
    let (s, v) := takeFree s
    if v % 2 = 1 then (updOp s e.1 (fun o => { o with waits := o.waits + 1 }), some e.1) else (s, none)
  | none, none => (s, none)

/-- Write a victim's context to its frame, and take it off its core (R129). `s0` is the state in which it cannot be saved yet. -/
def saveContext (s0 s : State) (t : SlotRef) (pending : Option Nat) : State :=
  let key := slotKey t.pav t.n
  let sl := slot s key
  let core := 32 * t.pav.val + sl.core
  match each (fun (e : Nat × List Byte) => writeLocal t.pav (frameAddr s t.pav t.n + e.1) e.2) (frameParts s key core pending) s with
  | .error e s' =>
    if e.code = holdCode then s0
    else faultTask s' key 0xA0 { code := if e.code = fencedCode ∨ e.code = fWriteFenced then fContextLost else e.code, detail := e.detail }
  | .ok _ s =>
    let sv : Saved := { thrs := (threadsOf s key).map (fun k => (thr s k).waits), pending }
    let s := updDense s core (fun d => { d with refills := if sl.engDns then [] else d.refills })
    let s := dropThreads (park s key core) key
    let s := updSlot s key (fun t => { t with st := .preempted, saved := true, victim := false })
    let s := if sl.engDns then bump s (pg clsDNS t.pav) 0x74 else s
    bump { s with saves := s.saves.put none key (some sv) } (pg clsDSP t.pav) 0x8C

/-- CONTEXT_SAVE (R128, R129): the victim's engines reach a tile boundary, and its context is written to its frame; a task that faults on
the way is not saved. -/
def execContextSave (t : SlotRef) (s : State) : Host.Outcome State Fault Refusal :=
  .next (
    let key := slotKey t.pav t.n
    let sl := slot s key
    let core := 32 * t.pav.val + sl.core
    if sl.st ≠ .running ∨ !sl.victim ∨ !safePoint s key then s
    else
      let s1 := reachBoundary s key core
      if (slot s1 key).st ≠ .running then s1
      else
        let (s2, pending) := abandoned s1 key core
        saveContext s (withdrawAll s2 key) t pending)

/-! ### Completion and release (R81, R105, R115) -/

/-- The task is released: its targets are set and its record posted; its slot, and its position in an ordered flow, are freed once the
record is written (R105, R115, R572). -/
def releaseTask (s : State) (key : Nat) : State :=
  let t := slot s key
  let s := updSlot s key (fun t => { t with st := .done, core := 0, victim := false })
  let s := t.targets.foldl (fun s x => sendTarget s x (key / 4096) (effPrio s key)) s
  let s := aflowLeave s key t
  match t.queue with
  | .gate => leaveDone s key
  | .host q =>
    if t.orphan then leaveDone s key
    else
      let n := (s.cqs.get {} (qCq s q.val)).held.length
      let s := postFor s t.queue { queue := 0, handle := handle s key t.gen.toNat, index := t.index, opcode := 0xA0, clamped := t.clamped }
      if (s.cqs.get {} (qCq s q.val)).held.length = n then leaveDone s key else s

/-- Is an ordered item at its release position? -/
def atRelease (s : State) (t : Slot) : Bool :=
  match s.oflows.get none t.flowId with | some f => f.oldest == t.pos | none => true

/-- Is everything of a RUNNING task complete (R81)? -/
def taskFinished (s : State) (key : Nat) : Bool :=
  let t := slot s key
  t.st == .running && (threadsOf s key).all (fun k => thrEnded (thr s k) t) && taskOpsOf s key == [] &&
  !(reqList s).any (fun e => e.2.slot == some key)

/-- TASK_DONE (R81, R105). -/
def execTaskDone (t : SlotRef) (s : State) : Host.Outcome State Fault Refusal :=
  .next (
    let key := slotKey t.pav t.n
    let sl := slot s key
    if !taskFinished s key then s
    else
      let s := dropThreads s key
      if sl.flowKind = 1 ∧ !atRelease s sl then updSlot s key (fun t => { t with st := .doneHeld, core := 0, victim := false })
      else releaseTask s key)

/-- ORDERED_RELEASE (R105, R115): every earlier item of the flow is released. -/
def execOrderedRelease (t : SlotRef) (s : State) : Host.Outcome State Fault Refusal :=
  .next (
    let key := slotKey t.pav t.n
    if (slot s key).st = .doneHeld ∧ atRelease s (slot s key) then releaseTask s key else s)

/-- COOLING_END (R32): the 20 µs of a freed slot are over. -/
def execCoolingEnd (t : SlotRef) (s : State) : Host.Outcome State Fault Refusal :=
  .next (
    let key := slotKey t.pav t.n
    if (slot s key).st = .free then updSlot s key (fun t => { t with cooling := false }) else s)

end Sys2Proof.Machine
end

