-- ==== Sys2Proof/Machine/Occur.lean ====
section
/-!
DEFINITION. Fences (R591, R592), occurrences against a resource, and the retirement of a resource that is classed permanent
(R594 to R596).
-/
namespace Sys2Proof.Machine
open Sys2Proof

/-! ### Fences (R591, R592) -/

/-- A fence shown on a page (R647, R648): FENCED, with whether the record holds it and whether FENCE_REQ asked for it. -/
def markFenced (s : State) (n : Nat) (ret req : Bool) : State :=
  raiseEvt (updPage s n (fun p => { p with fenced := true, retired := p.retired || ret, requested := p.requested || req })) n 29

/-- A list of tasks faults with a code. -/
def faultTasks (s : State) (l : List Nat) (f : FaultInfo) : State := l.foldl (fun s k => faultTask s k 0xA0 f) s

/-- Requests that wait on a tag of core c's scratchpad. -/
def tagWaiters (s : State) (c : Nat) : List Nat := (s.tagWait.filter (fun e => e.1 / 65536 = c)).flatMap (·.2)

/-- The requests that wait on a core's tags complete with a status. -/
def flushWaiters (s : State) (c : Nat) (st : Status) : State :=
  let ids := tagWaiters s c
  let s := { s with tagWait := s.tagWait.keep (fun g _ => g / 65536 != c) }
  ids.foldl (fun s id => match getReq s id with
    | some r => performed (if st = .fenced then noteFenced s (reqDie r) (gLoc r.addr) else s) id r st 0
    | none => s) s

/-- Requests that completed FENCED and wait for what is now fenced for good end UNCORRECTABLE: no RESET_DONE comes any more (R462, R591). -/
def endWaiting (s : State) : State :=
  (reqList s).foldl (fun s e =>
    match getReq s e.1 with
    | some r =>
      let gone := match r.kind with
        | .rowFetch | .rowCheck => r.home < 0x5000 && domFenced s r.home
        | .carried | .signal | .coll | .rowUpdate | .journal => false
        | _ => isOwn s (reqAddr r) && memService s (gLoc (reqAddr r)) == .fenced
      if (match r.st with | .fenced _ => gone | _ => false) then answerReq s e.1 r .uncorrectable 0 else s
    | none => s) s

/-- Fence a core: its resident, PREEMPTED and pinned tasks fault with CORE_FENCED. -/
def fenceCore (s : State) (c : Nat) : State :=
  if domFenced s (dCore c) then s
  else
    let p := c / 32
    let s := raiseEvt (updDom s (dCore c) (fun d => { d with service := .fenced })) (pg clsCORE p) 29
    let s := flushWaiters s c .uncorrectable
    let mine (k : Nat) : Bool := (slot s k).st == .running && (slot s k).core == c % 32 || lostCore s k == some (c % 32)
    checkFloor (endWaiting (faultTasks s ((tasksIn s p (fun st => st == .running || st == .ready || st == .preempted)).filter mine)
      { code := fCoreFenced, detail := resource p 0 (c % 32) }))

/-- Fence a Pavilion: every task of its dispatcher faults with CORE_FENCED, and the module reports LOST with reason 1. -/
def fencePav (s : State) (p : Nat) (ret req : Bool) : State :=
  if domFenced s (dPav p) then s
  else
    let s := markFenced (updDom s (dPav p) (fun d => { d with service := .fenced })) (pg clsPAV p) ret req
    let s := faultTasks s (tasksIn s p (fun st => st == .waiting || st == .ready || st == .running || st == .preempted || st == .doneHeld))
      { code := fCoreFenced, detail := resource p 9 0 }
    let s := (List.range 32).foldl (fun s i => flushWaiters s (32 * p + i) .uncorrectable) s
    reportLost (checkFloor (endWaiting s)) 1

/-- Fence an Orangery: its far quarter, and the links of its axis. -/
def fenceOrang (s : State) (o : Nat) (ret req : Bool) : State :=
  if domFenced s (dOrang o) then s
  else
    let s := markFenced (updDom s (dOrang o) (fun d => { d with service := .fenced })) (pg clsFAR o) ret req
    let s := (List.range 16).foldl (fun s i => let l := 16 * o + i; if (link s l).st = 0 ∨ (link s l).st ≥ 3 then s else linkDrop s l 3) s
    reportLost (checkFloor (endWaiting s)) 1

/-- Fence a link. -/
def fenceLink (s : State) (l st : Nat) (req : Bool) : State :=
  if (link s l).st = 3 ∨ (link s l).st = 4 then s
  else checkFloor (markFenced (updDom (linkDrop s l st) (dLink l) (fun d => { d with service := .fenced })) (pg clsLNK l) (st == 4) req)

/-- A sampler command ends in a fault: it leaves STATUS = 2, and the rest of its Trellis is undefined (R183). -/
def failTrellis (s : State) (id : Nat) (o : Op) : State :=
  match s.sworks.get none id with
  | some w =>
    if w.desc.isNone then s
    else
      let base := gLoc (cf o.cmd.toNat 10 0 56)
      let len := 4096 * cf o.cmd.toNat 12 0 32
      updOp (wrB s (base + 0x0B) 2) id (fun o => { o with outs := (base, 0x0B) :: (base + 0x0C, len - 0x0C) :: o.outs.filter (·.1 != base) })
  | none => s

/-- Fault the commands of a unit (R591, R629, R631). -/
def faultUnit (s : State) (u : EUnit → Bool) (f : FaultInfo) : State :=
  ((opList s).filter (fun e => u e.2.eu)).foldl (fun s e =>
    let s := match getOp s e.1 with | some o => failTrellis s e.1 o | none => s
    match getOp s e.1, e.2.slot with
    | some o, some k => dropOp (engineFault s k o.opcode f (some e.1)) e.1
    | some _, none => dropOp s e.1
    | none, _ => s) s

/-- Fence a sampler engine: the other engine takes its commands, and with both fenced they fault (R187, R591). -/
def fenceSmp (s : State) (p e : Nat) (ret req : Bool) : State :=
  let s := updDom s (dSmp p e) (fun d => { d with service := .fenced })
  if domFenced s (dSmp p (1 - e)) then
    faultUnit (markFenced s (pg clsSMP p) ret req) (· == .smp p) { code := fResourceRetired, detail := resource p 6 e }
  else
    { s with ops := s.ops.mapAll none (fun _ o => o.map (fun o => { o with joined := o.joined.map (fun x => if x = 2 * p + e then 2 * p + 1 - e else x) })) }

/-- Fence Hedge, the selection unit or the noise source of a Pavilion. -/
def fenceUnit (s : State) (cls p : Nat) (ret req : Bool) : State :=
  let s := markFenced s (pg cls p) ret req
  if cls = clsSEL then faultUnit s (· == .sel p) { code := fResourceRetired, detail := resource p 12 1 }
  else if cls = clsRNG then
    let s := updRng s p (fun r => { r with noise := 3, pool := [] })
    (noiseWaiting s p).foldl noiseFail s
  else s

/-! ### Retirement (R596) -/

/-- Retire a lane: the link runs on the other, or is retired with its second lane (R594). -/
def retireLane (s : State) (l n reason : Nat) : State :=
  let k := link s l
  if bitOf k.lanesOut n ∨ k.st = 4 then s
  else
    let s := updLink s l (fun k => { k with lanesOut := k.lanesOut ||| 1 <<< n })
    let s := addRecord (degrade s) (resource (16 + l / 16) 5 (2 * l + n)) reason 3 0xFFFF
    if (link s l).lanesOut = 3 then addRecord (fenceLink s l 4 false) (resource (16 + l / 16) 4 l) reason 2 0xFFFF
    else if k.st = 2 ∧ bitOf k.lanes n then linkDrop s l 1 else s

/-- The resources that the block of a page stands for when it is classed permanent (R592, R596). -/
def pageResources (n : Nat) : List Nat :=
  let c := pageCls n
  let i := pageInst n
  if c = clsHDG then [resource i 12 0]
  else if c = clsSEL then [resource i 12 1]
  else if c = clsRNG then [resource i 11 0]
  else if c = clsSMP then [resource i 6 0, resource i 6 1]
  else if c = clsFAR ∨ c = clsCOL then [resource (16 + i) 10 0]
  else if c = clsPE then [resource (16 + i / 2) 10 0]
  else if c = clsLNK then [resource (16 + i / 16) 4 i]
  else if 1 ≤ c ∧ c ≤ clsNEAR then [resource i 9 0]
  else []

/-- Retire a resource other than a page's block; an Orangery's channel group and a merge unit stand for their Orangery and Pavilion. -/
def retireOne (s : State) (res reason : Nat) : State :=
  let die := res % 32
  let ix := bitsOf res 10 20
  let fence (out : Bool) (s' : State) : State := if out then s else addRecord s' res reason 2 0xFFFF
  match bitsOf res 5 5 with
  | 0 => fence (domFenced s (dCore (32 * die + ix))) (fenceCore s (32 * die + ix))
  | 1 => match (List.range 64).find? (fun c => physOf s (64 * die + c) == ix) with | some c => retireNear s die c reason | none => s
  | 2 => retireFar s (die - 16) ix none reason
  | 3 => retireFar s (die - 16) (ix / 16384) (some (ix % 16384)) reason
  | 4 => fence ((link s ix).st == 4) (fenceLink s ix 4 false)
  | 5 => retireLane s (ix / 2) (ix % 2) reason
  | 6 => fence (domFenced s (dSmp die ix)) (fenceSmp s die ix true false)
  | 7 | 10 => fence (domFenced s (dOrang (die - 16))) (fenceOrang s (die - 16) true false)
  | 9 => fence (domFenced s (dPav die)) (fencePav s die true false)
  | 11 => fence (page s (pg clsRNG die)).retired (fenceUnit s clsRNG die true false)
  | 12 =>
    if ix = 0 then fence (page s (pg clsHDG die)).retired (fenceUnit s clsHDG die true false)
    else if ix = 1 then fence (page s (pg clsSEL die)).retired (fenceUnit s clsSEL die true false)
    else fence (domFenced s (dPav die)) (fencePav s die true false)
  | _ => s

/-- Retire the resource that a word of R584 names. -/
def retireRes (s : State) (res reason : Nat) : State :=
  if bitsOf res 5 5 = 8 then (pageResources (bitsOf res 10 20)).foldl (fun s r => endWaiting (retireOne s r reason)) s
  else endWaiting (retireOne s res reason)

/-! ### Occurrences (R594) -/

/-- An occurrence against a resource: counted, and, unless it was injected, held against the active threshold (R594, R604). -/
def occur (s : State) (res : Nat) (inj : Bool := false) : State :=
  let s := bump s (pg clsGH 1) 0x40
  if inj then s
  else
    let n := s.gate.occ.get 0 res + 1
    let s := updGate s (fun g => { g with occ := g.occ.put 0 res n })
    if n ≥ bitsOf (actN s (pg clsGH 1) 0x404) 0 2 then retireRes s res 1 else s

/-- Resource whose corrected errors of an hour are counted (R594): near channel, far frame, or core. -/
def ceResource (s : State) (a : Nat) : Nat :=
  match (if isFar s a then dataFrame s a else none) with
  | some x => resource (16 + farOrang a) 3 (x.1 % 64 * 16384 + x.2)
  | none => memResource s a

/-- A corrected error that was not injected, which may end a burst (R594). -/
def countBurst (s : State) (a : Nat) : State :=
  let res := ceResource s a
  let n := s.gate.ce.get 0 res + 1
  if n ≥ bitsOf (actN s (pg clsGH 1) 0x40C) 0 7 then occur (updGate s (fun g => { g with ce := g.ce.put 0 res 0 })) res
  else updGate s (fun g => { g with ce := g.ce.put 0 res n })

/-- Serve the retirements that waited for a copy to end (R397, R398). -/
def serveDue (s : State) : State :=
  s.gate.due.foldl (fun s d => retireRes s d.1 d.2) (updGate s (fun g => { g with due := [] }))

/-- The copy of a retirement reads its atoms in ascending order: the errors armed for the channel, at most those that its page's injection
still has, strike the first from channel address `ca` on (R397, R398, R604). -/
def copyStrike (s : State) (k ca : Nat) : State :=
  let n := if k < 4096 then pg clsNEAR (k / 64) else pg clsFAR ((k - 4096) / 64)
  (List.range (bitsOf (page s n).inject.toNat 12 8)).foldl (fun s i => struck (strike s (chanUnit s k (ca + 64 * i)) 64 true)) s

/-- An atom that was poisoned before the copy is uncorrectable in it (R397 step 3): the first that `p` names is latched. -/
def latchCopy (s : State) (n : Nat) (p : Nat → Bool) : State :=
  match (s.poison.filter (fun e => e.2 && p (64 * e.1))).map (·.1) with
  | a :: _ => latchErr s n (64 * a) false 2
  | [] => s

/-- The copy of a near channel ends: reads switch to the spare (R397). -/
def nearCopied (s : State) (k : Nat) : State :=
  let p := k / 64
  let s := copyStrike s k 0
  let c := chan s k
  let old := physOf s k
  let sp := (c.copying.bind id).getD 0xFFFF
  let s := updChan (markNear s p old) k (fun c => { c with st := 2, phys := some sp, copying := none })
  let s := bump s (pg clsNEAR p) 0x74 (2 ^ 24 - c.copied)
  addRecord (latchCopy s (pg clsNEAR p) (ofChannel s k)) (resource p 1 old) c.why 1 sp

/-- The copy of a far frame ends (R398). More than 16 frames retired make the channel permanent as a whole (R594). -/
def frameCopied (s : State) (k f : Nat) : State :=
  let o := (k - 4096) / 64
  let s := copyStrike s k (f * 2 ^ 20)
  let s := latchCopy s (pg clsFAR o) (ofFrames s k [f])
  let why := (chan s k).why
  let s := updChan s k (fun x => { x with frames := f :: x.frames, copying := none, st := farSt { x with st := 0 } })
  let s := degrade (bump s (pg clsFAR o) 0x80)
  let s := addRecord s (resource (16 + o) 3 (k % 64 * 16384 + f)) why 4 ((farFrames s).2.1 + s.spares.get 0 k - 1)
  if (chan s k).frames.length > 16 then retireFar s o (k % 64) none 1 else s

/-- The copy of a whole far channel ends (R398): the first atom of each quarter of its frames, as ERR_INJECT names them, may be struck. -/
def wholeCopied (s : State) (k : Nat) : State :=
  let o := (k - 4096) / 64
  let n := (farFrames s).1
  let live := liveFrames s k
  let s := ((List.range 4).filterMap (fun i => live.find? (fun f => decide (i * (n / 4) ≤ f)))).eraseDups.foldl (fun s f => copyStrike s k (f * 2 ^ 20)) s
  let s := latchCopy s (pg clsFAR o) (ofFrames s k live)
  let s := degrade (bump (remapWhole s k) (pg clsFAR o) 0x80 live.length)
  addRecord s (resource (16 + o) 2 (k % 64)) (chan s k).why 4 0xFFFF

/-- The copy of a far frame or channel ends. -/
def farCopied (s : State) (k : Nat) : State :=
  match (chan s k).copying with
  | none => s
  | some (some f) => frameCopied s k f
  | some none => wholeCopied s k

end Sys2Proof.Machine
end

