-- ==== Sys2Proof/Machine/Fabric.lean ====
section
/-!
DEFINITION. Flits, acknowledgement and retry, credits, classes and grants, link choice, forwarding, training (R502 to R525).
-/
namespace Sys2Proof.Machine
open Sys2Proof

/-! ### Flits and segments (R504, R505) -/

/-- A flit of a kind: 0 DATA, 1 IDLE, 2 NAK. -/
def mkFlit (seq ack kind : Nat) (w : List DWord) : Flit :=
  let v := seq % 4096 + ack % 4096 * 2 ^ 12 + kind * 2 ^ 24 + (w.take 31).foldr (fun x acc => x.toNat + 2 ^ 64 * acc) 0 * 2 ^ 32
  BitVec.ofNat 2048 (v + crc32 (bytesOf v 252) * 2 ^ 2016)

/-- SEQ, ACK and KIND of a flit, and payload word i. -/
def flitSeq (f : Flit) : Nat := bitsOf f.toNat 0 12
def flitAck (f : Flit) : Nat := bitsOf f.toNat 12 12
def flitKind (f : Flit) : Nat := bitsOf f.toNat 24 2
def flitWords (f : Flit) : List DWord := (List.range 31).map (fun i => BitVec.ofNat 64 (bitsOf f.toNat (32 + 64 * i) 64))

/-- A segment: a part of a message, or credits. -/
structure Seg where
  credit : Bool
  vc : Nat
  first : Bool := false
  last : Bool := false
  cum : Nat := 0
  words : List DWord := []
deriving DecidableEq, Repr

/-- The segments of a payload; `none` where it breaks R505. -/
def segments : Nat → List DWord → Option (List Seg)
  | 0, _ | _, [] => some []
  | n + 1, h :: r =>
    let v := h.toNat
    let k := bitsOf v 7 5
    match v % 4 with
    | 0 => if (h :: r).all (· == 0) then some [] else none
    | 1 =>
      if k = 0 ∨ k = 31 ∨ r.length < k ∨ v >>> 12 ≠ 0 then none
      else (segments n (r.drop k)).map (fun l => { credit := false, vc := bitsOf v 2 3, first := bitOf v 5, last := bitOf v 6, words := r.take k } :: l)
    | 2 => if v >>> 28 ≠ 0 then none else (segments n r).map (fun l => { credit := true, vc := bitsOf v 2 3, cum := bitsOf v 12 16 } :: l)
    | _ => none

/-- Are the segments of a message not broken by another of its channel (R505)? -/
def segsInOrder : List Seg → (Nat → Bool) → Bool
  | [], _ => true
  | g :: r, busy => (g.credit || g.first != busy g.vc) && segsInOrder r (if g.credit then busy else fun v => if v = g.vc then !g.last else busy v)

/-- Does the hop that brought a message over a link cross the dateline: what comes from the neighbour below goes +, and enters coordinate 0
(R516)? -/
def cameAcross (s : State) (l : Nat) : Bool := crossesDateline s (l / 16) (l / 8 % 2)

/-- Is a message's first segment on the channel of its CLASS, and on the dateline's after the hop across it (R505, R516)? -/
def segOnVc (s : State) (l : Nat) (g : Seg) : Bool :=
  g.credit || !g.first || (g.vc / 2 == Msg.cls g.words && (g.vc % 2 == 1 || !cameAcross s l))

/-- The segments of a flit of a link that is good under R504 and R505, beside the link's partial messages. -/
def goodFlit (s : State) (l : Nat) (f : Flit) : Option (List Seg) :=
  let k := link s l
  if crc32 (bytesOf f.toNat 252) ≠ bitsOf f.toNat 2016 32 ∨ flitKind f = 3 ∨ bitsOf f.toNat 26 6 ≠ 0 then none
  else match segments 32 (flitWords f) with
    | none => none
    | some segs =>
      if !segs.all (segOnVc s l) then none
      else if flitKind f = 0 then
        (if flitSeq f = k.rxNext ∧ !segsInOrder segs (fun v => k.rxPart.get [] v != []) then none else some segs)
      else if segs.all (·.credit) then some segs else none

/-- A violation of R504 to R508 by a link's partner: an occurrence against that module (R583, R584). -/
def partnerFault (s : State) (l : Nat) : State := occur s (resource 20 14 (link s l).partner)

/-- A flit that breaks R504 or R505 is discarded, and counted as a CRC error; where its CRC is right, its sender has broken the protocol. -/
def badFlit (s : State) (l : Nat) (f : Flit) : State :=
  let s := bump s (pg clsLNK l) 0x5C
  if crc32 (bytesOf f.toNat 252) = bitsOf f.toNat 2016 32 then partnerFault s l else s

/-! ### Sending a flit -/

/-- The active REPLAY fields (R528). -/
def retryLimit (s : State) (e : Nat) : Nat := bitsOf (actN s (pg clsPE e) 0x410) 0 4
def ackFlits (s : State) (e : Nat) : Nat := bitsOf (actN s (pg clsPE e) 0x410) 4 8

/-- Send a flit, which carries the receiver's current ACK (R509). -/
def sendFlit (s : State) (l seq kind : Nat) (w : List DWord) : State :=
  emit (updLink s l (fun k => { k with unsent := 0 })) (.flit l (mkFlit seq (link s l).rxNext kind w))

/-- CREDIT segments of a link's channels (R512), as many as there is room for. -/
def creditWords (k : Link) (room : Nat) : List DWord :=
  ((List.range 8).map (fun v => BitVec.ofNat 64 (2 + v * 4 + k.freed.get 0 v % 65536 * 2 ^ 12))).take room

/-- Send an IDLE flit with the link's credits. -/
def sendIdle (s : State) (l : Nat) : State := sendFlit s l 0 1 (creditWords (link s l) 8)

/-- NAK the SEQ that is expected (R510). -/
def sendNak (s : State) (l : Nat) : State :=
  bump (updLink (emit s (.flit l (mkFlit 0 (link s l).rxNext 2 []))) l (fun k => { k with gap := true, unsent := 0 })) (pg clsLNK l) 0x60

/-! ### Stream table and link choice (R518) -/

/-- Free credits of a channel (R512). -/
def vcFree (k : Link) (vc : Nat) : Nat := k.alloc.get 0 vc - (k.spent.get 0 vc + 65536 - k.back.get 0 vc) % 65536

/-- Streams with unacknowledged messages: the occupied entries of an engine's table. -/
def occupied (s : State) (e : Nat) : Nat := ((s.streams.get [] e).filter (fun n => decide (n.unacked > 0))).length

/-- The link with most free credits, the lowest among equals. -/
def mostFree (s : State) (vc : Nat) : List Nat → Option Nat
  | [] => none
  | l :: r =>
    match mostFree s vc r with
    | some b => if vcFree (link s b) vc > vcFree (link s l) vc then some b else some l
    | none => some l

/-- The link that a waiting message is to take now; `none` while the table is full. -/
def wantLink (s : State) (e : Nat) (t : TxMsg) : Option Nat :=
  match t.link with
  | some l => some l
  | none =>
    match (s.streams.get [] e).find? (fun n => n.stream == t.msg.streamKey && decide (n.unacked > 0)) with
    | some n => some n.link
    | none =>
      let act := activeLinks s e
      if occupied s e ≥ 4096 then none
      else if deterministic s then act[(t.msg.src + t.msg.dst + t.msg.die + t.msg.stream + t.msg.cls) % act.length]?
      else mostFree s t.vc act

/-- Count a message of a stream as unacknowledged on a link; a change of link is counted. -/
def openStream (s : State) (e l key : Nat) : State :=
  let tab := s.streams.get [] e
  let moved := tab.any (fun n => n.stream == key && n.link != l)
  let n := ((tab.find? (fun n => n.stream == key && n.link == l)).map (·.unacked)).getD 0
  let s := { s with streams := s.streams.put [] e ({ stream := key, link := l, unacked := n + 1 } :: tab.filter (fun n => n.stream != key)) }
  if moved then bump s (pg clsPE e) 0x68 else s

/-- A stream's message on a link is acknowledged. -/
def ackStream (s : State) (e l key : Nat) : State :=
  { s with streams := s.streams.upd [] e (fun t => t.map (fun n => if n.stream = key ∧ n.link = l then { n with unacked := n.unacked - 1 } else n)) }

/-! ### Acknowledgement and retry (R509 to R511) -/

/-- Reset a link: it retrains, unless it is DOWN (R511, R523), one occurrence against it (R594). -/
def linkReset (s : State) (l : Nat) (inj : Bool := false) : State :=
  let k := link s l
  if k.st = 3 ∨ k.st = 4 then s else occur (linkDrop s l (if k.st = 0 then 0 else 1)) (resource (16 + l / 16) 4 l) inj

/-- Take an ACK: the flits before it leave the replay buffer, and their messages are acknowledged. -/
def takeAck (s : State) (l a : Nat) : State :=
  let k := link s l
  match k.replay with
  | [] => s
  | h :: _ =>
    let n := (a + 4096 - h.seq) % 4096
    if n = 0 ∨ n > k.replay.length then s
    else
      let gone := k.replay.take n
      let s := updLink s l (fun k => { k with replay := k.replay.drop n, tries := 0, resend := k.resend.filter (fun q => !gone.any (fun x => x.seq == q)) })
      (gone.flatMap (·.msgs)).foldl (fun s m => ackStream s (l / 8) l m.streamKey) s

/-- Is an injection of kind 3 armed for the next reply of a link (R603)? The page it stands on. -/
def replyLoss (s : State) (l : Nat) : Option Nat :=
  if injKind s (pg clsLNK l) 0 = 3 then some (pg clsLNK l)
  else if injKind s (pg clsPE (l / 8)) (l % 8) = 3 then some (pg clsPE (l / 8)) else none

/-- A message is complete at a receiver: taken into its buffer, or discarded, its credits being freed (R508, R512, R603). -/
def deliver (s : State) (l vc : Nat) (m : Msg) : State :=
  let drop (s : State) : State := updLink s l (fun k => { k with freed := k.freed.upd 0 vc (fun n => (n + m.credits) % 65536) })
  if !m.good then drop (partnerFault (bump s (pg clsPE (l / 8)) 0x78) l)
  else
    let s := bump s (pg clsPE (l / 8)) 0x48
    match replyLoss s l with
    | some n => if m.mtype ≥ 0x40 then drop (injTaken s n) else { s with inbox := s.inbox ++ [(l, vc, m)] }
    | none => { s with inbox := s.inbox ++ [(l, vc, m)] }

/-- Take a segment. -/
def takeSeg (s : State) (l : Nat) (g : Seg) : State :=
  if g.credit then updLink s l (fun k => { k with back := k.back.put 0 g.vc g.cum })
  else
    let m := (link s l).rxPart.get [] g.vc ++ g.words
    if g.last then deliver (updLink s l (fun k => { k with rxPart := k.rxPart.put [] g.vc [] })) l g.vc m
    else updLink s l (fun k => { k with rxPart := k.rxPart.put [] g.vc m })

/-- A flit that is not accepted: one NAK for the gap (R510). -/
def rxGap (s : State) (l : Nat) : State := if (link s l).gap then s else sendNak s l

/-- Has the link DATA to send? -/
def hasData (s : State) (l : Nat) : Bool :=
  (link s l).resend != [] || (s.txq.get [] (l / 8)).any (fun t => wantLink s (l / 8) t == some l)

/-- A DATA flit in its order is taken: its acknowledgement, and its segments. -/
def takeData (s : State) (l : Nat) (f : Flit) (segs : List Seg) : State :=
  let s := bump (updLink s l (fun k => { k with rxNext := (k.rxNext + 1) % 4096, gap := false, unsent := k.unsent + 1 })) (pg clsLNK l) 0x48
  segs.foldl (fun s g => takeSeg s l g) (takeAck s l (flitAck f))

/-- DATA_FLIT (R504, R505, R509, R510). -/
def execDataFlit (l : Fin 64) (f : Flit) (s : State) : Host.Outcome State Fault Refusal :=
  .next (let k := link s l
    if k.st ≠ 2 then s
    else match goodFlit s l f with
      | none => rxGap (badFlit s l f) l
      | some segs =>
        if flitKind f ≠ 0 then s
        else if flitSeq f ≠ k.rxNext then rxGap s l
        else
          let s := takeData s l f segs
          if (link s l).unsent ≥ ackFlits s (l / 8) ∧ !hasData s l then sendIdle s l else s)

/-- IDLE_FLIT (R504, R509, R512): its acknowledgement and credits. -/
def execIdleFlit (l : Fin 64) (f : Flit) (s : State) : Host.Outcome State Fault Refusal :=
  .next (let k := link s l
    if k.st ≠ 2 then s
    else match goodFlit s l f with
      | none => badFlit s l f
      | some segs => if flitKind f = 1 then segs.foldl (fun s g => takeSeg s l g) (takeAck s l (flitAck f)) else s)

/-- NAK (R510, R511): the flits from the named SEQ on are sent again, or, too often, the link resets. -/
def execNak (l : Fin 64) (f : Flit) (s : State) : Host.Outcome State Fault Refusal :=
  .next (let k := link s l
    if k.st ≠ 2 then s
    else match goodFlit s l f with
      | none => badFlit s l f
      | some segs =>
        if flitKind f ≠ 2 then s
        else
          let s := segs.foldl (fun s g => takeSeg s l g) (takeAck s l (flitAck f))
          let k := link s l
          if (k.replay.head?).map (·.seq) ≠ some (flitAck f) then s
          else if k.tries ≥ retryLimit s (l / 8) then linkReset s l
          else updLink s l (fun k => { k with resend := k.replay.map (·.seq) }))

/-- NAK_REPEAT (R510). -/
def execNakRepeat (l : Fin 64) (s : State) : Host.Outcome State Fault Refusal :=
  .next (if (link s l).st = 2 ∧ (link s l).gap then sendNak s l else s)

/-- ACK_INTERVAL (R509). -/
def execAckInterval (l : Fin 64) (s : State) : Host.Outcome State Fault Refusal :=
  .next (if (link s l).st = 2 ∧ !hasData s l then sendIdle s l else s)

/-! ### The next flit (R510, R512 to R514) -/

/-- The oldest waiting message of each stream, in the order of their arrival at the engine. -/
def streamHeads : List TxMsg → List Nat → List TxMsg
  | [], _ => []
  | t :: r, seen => if seen.contains t.msg.streamKey then streamHeads r seen else t :: streamHeads r (t.msg.streamKey :: seen)

/-- Does a message wait for credits of its channel on a link (R512)? -/
def needsCredit (s : State) (l : Nat) (t : TxMsg) : Bool := t.link.isNone && decide (vcFree (link s l) t.vc < t.msg.credits)

/-- May a message send its next part on a link (R505, R512)? -/
def txReady (s : State) (l : Nat) (t : TxMsg) : Bool :=
  wantLink s (l / 8) t == some l && !needsCredit s l t &&
  (t.link.isSome || !(s.txq.get [] (l / 8)).any (fun x => x.link == some l && x.vc == t.vc))

/-- The messages of a class that are ready on a link. -/
def readyOf (s : State) (l c : Nat) : List TxMsg :=
  (streamHeads (s.txq.get [] (l / 8)) []).filter (fun t => t.msg.cls == c && txReady s l t)

/-- The list with the first occurrence of a message replaced. -/
def setFirst (a b : TxMsg) : List TxMsg → List TxMsg
  | [] => []
  | x :: r => if x = a then b :: r else x :: setFirst a b r

/-- Fill a payload with messages of one stream: the room left, the payload, and the messages that end in it. -/
def fillFlit (s : State) (l key : Nat) : Nat → Nat → List DWord → List Msg → State × List DWord × List Msg
  | 0, _, pay, ends => (s, pay, ends)
  | n + 1, room, pay, ends =>
    let e := l / 8
    let q := s.txq.get [] e
    match q.find? (fun t => t.msg.streamKey == key) with
    | none => (s, pay, ends)
    | some t =>
      if room < 2 ∨ !txReady s l t then (s, pay, ends)
      else
        let k := min 30 (min (room - 1) (t.msg.length - t.sent))
        let done := decide (t.sent + k = t.msg.length)
        let h := BitVec.ofNat 64 (1 + t.vc * 4 + b2n (decide (t.sent = 0)) * 2 ^ 5 + b2n done * 2 ^ 6 + k * 2 ^ 7)
        let s := if t.link.isSome then s
          else openStream (updLink s l (fun x => { x with spent := x.spent.upd 0 t.vc (fun v => (v + t.msg.credits) % 65536) })) e l key
        let t' : TxMsg := { t with link := some l, sent := t.sent + k }
        let s := { s with txq := s.txq.put [] e (if done then q.erase t else setFirst t t' q) }
        let s := if done then bump (bump s (pg clsPE e) 0x40) (pg clsPE e) 0x50 (8 * t.msg.length) else s
        fillFlit s l key n (room - 1 - k) (pay ++ h :: (t.msg.drop t.sent).take k) (if done then ends ++ [t.msg] else ends)

/-- The stream that a class sends from: its grant's, or the next by priority and age (R514). A new grant starts with none used. -/
def grantOf (s : State) (l c : Nat) : Option (Nat × Nat) :=
  let k := link s l
  let ready := readyOf s l c
  let used := k.grantUsed.get 0 c
  if used > 0 && decide (used < bitsOf k.grant 0 7) && ready.any (fun t => t.msg.streamKey + 1 == k.grantStream.get 0 c) then
    some (k.grantStream.get 0 c - 1, used)
  else (ready.foldl (fun (b : Option TxMsg) t => match b with
      | some x => if t.msg.prio > x.msg.prio then some t else b
      | none => some t) none).map (fun t => (t.msg.streamKey, 0))

/-- The class of the next slot (R513), and the round-robin place it leaves. -/
def slotClass (s : State) (l : Nat) : Option (Nat × Nat) :=
  let k := link s l
  let arb := k.arb
  let ready (c : Nat) : Bool := readyOf s l c != []
  if k.ctlUsed < bitsOf arb 0 6 ∧ ready 0 then some (0, k.rr)
  else if k.colUsed < bitsOf arb 8 6 ∧ ready 1 then some (1, k.rr)
  else ((List.range 3).map (fun i => (k.rr + i) % 3)).findSome? (fun i => let c := [2, 3, 1].getD i 2; if ready c then some (c, (i + 1) % 3) else none)

/-- Count the channels that have a message waiting and too few credits, and the waits for a stream entry (R512, R518). -/
def countStalls (s : State) (l : Nat) : State :=
  let e := l / 8
  let heads := streamHeads (s.txq.get [] e) []
  let stalled (v : Nat) : Bool := heads.any (fun t => t.vc == v && wantLink s e t == some l && needsCredit s l t)
  let s1 := (List.range 8).foldl (fun s v => if stalled v then addCnt s (pg clsPE e) 0x58 (l % 8 * 4 + v / 2) 1 else s) s
  if occupied s e ≥ 4096 ∧ heads.any (fun t => wantLink s e t == none) then bump s1 (pg clsPE e) 0x6C else s1

/-- Send a new DATA flit of a class (R510, R514). -/
def sendData (s : State) (l c rr : Nat) : State :=
  match grantOf s l c with
  | none => sendIdle s l
  | some (key, used) =>
    let e := l / 8
    let (s, pay, ends) := fillFlit s l key 31 31 [] []
    let k := link s l
    let pay := pay ++ creditWords k (31 - pay.length)
    let cut := decide (used + 1 ≥ bitsOf k.grant 0 7)
    let s := if cut && (s.txq.get [] e).any (fun t => t.msg.streamKey == key) then bump s (pg clsPE e) 0x70 else s
    let s := updLink s l (fun k => { k with
      rr, ctlUsed := k.ctlUsed + b2n (c == 0), colUsed := k.colUsed + b2n (c == 1)
      grantStream := k.grantStream.put 0 c (key + 1), grantUsed := k.grantUsed.put 0 c (if cut then 0 else used + 1)
      txNext := (k.txNext + 1) % 4096, replay := k.replay ++ [{ seq := k.txNext, payload := pay, msgs := ends }] })
    bump (sendFlit s l k.txNext 0 pay) (pg clsLNK l) 0x40

/-- Send the oldest flit that is to be resent (R510). -/
def sendAgain (s : State) (l seq : Nat) : State :=
  let k := link s l
  let pay := ((k.replay.find? (fun x => x.seq == seq)).map (·.payload)).getD []
  let first := (k.replay.head?).map (·.seq) == some seq
  let s := updLink s l (fun k => { k with resend := k.resend.drop 1, tries := k.tries + b2n first })
  bump (bump (sendFlit s l seq 0 pay) (pg clsLNK l) 0x40) (pg clsLNK l) 0x64

/-- Does an engine start new work (R647)? -/
def peServes (s : State) (e : Nat) : Bool :=
  (page s (pg clsPE e)).enable && !(page s (pg clsPE e)).stopped && !domResetting s (dPage (pg clsPE e))

/-- What a slot of a link in service sends: a flit that must be sent again, else the granted class's segments, else an IDLE flit. -/
def fillSlot (s : State) (l : Nat) : State :=
  match (link s l).resend with
  | q :: _ => sendAgain s l q
  | [] =>
    if (link s l).replay.length ≥ 128 ∨ !peServes s (l / 8) then sendIdle s l
    else match slotClass s l with
      | some (c, rr) => sendData s l c rr
      | none => sendIdle s l

/-- A frame of 64 slots begins, under the ARB and GRANT that stand (R513, R527). -/
def beginFrame (s : State) (l : Nat) : State :=
  updLink s l (fun k => { k with ctlUsed := 0, colUsed := 0, arb := actN s (pg clsPE (l / 8)) 0x10C, grant := actN s (pg clsPE (l / 8)) 0x110 })

/-- FLIT_SLOT (R510, R512 to R514). -/
def execFlitSlot (l : Fin 64) (s : State) : Host.Outcome State Fault Refusal :=
  .next (if (link s l).st ≠ 2 then s
    else
      let s := if (link s l).slot = 0 then beginFrame s l else s
      let s := countStalls s l
      let s := fillSlot s l
      updLink s l (fun k => { k with slot := (k.slot + 1) % 64 }))

/-! ### Forwarding (R515 to R517, R525) -/

/-- Send a message on along its ring, or onto the next one; `none` where no route exists. -/
def passOn (s : State) (vc : Nat) (m : Msg) : Option State :=
  let here := ownCoord s m.axis
  let go (a d : Nat) (on1 : Bool) : Option State :=
    let e := 2 * a + d
    if activeLinks s e = [] then none
    else
      let cross := crossesDateline s a d
      let s := if cross && !on1 then bump s (pg clsPE e) 0x64 else s
      let s := carry s (16 + m.axis) (16 + a) m.cls (8 * m.length)
      some { s with txq := s.txq.upd [] e (fun l => l ++ [{ msg := m.onRing a d, vc := 2 * m.cls + b2n (cross || on1) }]) }
  if here ≠ idCoord s m.dst m.axis then go m.axis m.dir (vc % 2 == 1)
  else match nextAxis s m.dst with
    | none => none
    | some a => match ringDir s a (ownCoord s a) (idCoord s m.dst a) with
      | none => none
      | some d => go a d false

/-- FORWARD (R515 to R517, R525): the j-th arrived message goes on; without a route it is answered UNREACHABLE or dropped. -/
def execForward (j : Nat) (s : State) : Host.Outcome State Fault Refusal :=
  .next (match s.inbox[j]? with
    | some (l, vc, m) =>
      -- messages of one stream leave in the order in which they came (R519)
      if m.dst = ownId s ∨ (s.inbox.take j).any (fun e => e.2.2.streamKey == m.streamKey) then s
      else
        let s := takeArrival s j
        let n := pg clsPE ((inboxEngine l).getD 0)
        (match passOn s vc m with
         | some s => bump s n 0x60
         | none => refuseMsg (bump s n 0x7C) m 3 0)
    | none => s)

/-! ### Training (R522 to R524) -/

/-- Id of the neighbour that a link should reach (R522). -/
def neighbour (s : State) (l : Nat) : Nat :=
  let a := l / 16
  let L := axisLen s a
  let c := (ownCoord s a + (if l / 8 % 2 = 0 then 1 else L - 1)) % L
  let at' (i : Nat) : Nat := if i = a then c else ownCoord s i
  coordId s (at' 0) (at' 1) (at' 2) (at' 3)

/-- The lanes that both ends of a link bring up, of those that the profile and the retirements leave (R522). -/
def lanesUp (s : State) (l : Nat) (t : Training) : Nat := t.lanes.toNat &&& (actN s (pg clsLNK l) 0x400 &&& (3 - (link s l).lanesOut))
/-- The lanes offered that did not come up. -/
def lanesFailed (s : State) (l : Nat) (t : Training) : List Nat :=
  (List.range 2).filter (fun n => bitOf (actN s (pg clsLNK l) 0x400 &&& (3 - (link s l).lanesOut)) n && !bitOf (lanesUp s l t) n)
/-- The failed lanes are recorded as occurrences. -/
def lanesOccur (s : State) (l : Nat) (failed : List Nat) : State :=
  failed.foldl (fun s n => occur s (resource (16 + l / 16) 5 (2 * l + n))) s
/-- The link's other end is the neighbour's link on that axis (R522). -/
def rightPartner (s : State) (l : Fin 64) (t : Training) : Bool :=
  t.mod.toNat == neighbour s l && t.axis.val == l.val / 16 && t.dir.val == 1 - l.val / 8 % 2 && t.idx.val == l.val % 8
/-- A link after training: in service with its partner's credits, or stopped because it is cabled wrongly. -/
def trainedLink (k : Link) (t : Training) (good : Bool) (lanes : Nat) (failed : List Nat) : Link :=
  let base : Link := { partner := t.mod.toNat, partnerLink := t.idx, lanesOut := k.lanesOut, failed := failed.foldl (fun m n => m ||| 1 <<< n) 0 }
  if good then { base with st := 2, lanes, alloc := (List.range 8).foldl (fun x v => x.put 0 v (bitsOf t.credits.toNat (10 * v) 10)) [] }
  else { base with st := 5 }

/-- What this end tells its partner at training: who it is, and the credits of its channels, as committed (R512, R522, R523, R528). -/
def tellPartner (s : State) (l : Nat) : State :=
  emit s (.train l (ownId s) (l / 16) (l / 8 % 2) (l % 8)
    ((List.range 8).map (fun v => bitsOf (actN s (pg clsPE (l / 8)) (0x400 + 4 * (v / 2))) (10 * (v % 2)) 10)))

/-- LINK_TRAINED (R522 to R524). -/
def execLinkTrained (l : Fin 64) (t : Training) (s : State) : Host.Outcome State Fault Refusal :=
  .next (let k := link s l
    if !(k.st = 0 ∨ k.st = 1 ∨ k.st = 5) ∨ axisLen s (l.val / 16) = 1 ∨ linkLost s l ∨ s.power.mode ≠ 0 then s
    else
      let lanes := lanesUp s l t
      let failed := lanesFailed s l t
      if lanes = 0 then
        let s := lanesOccur (updLink s l (fun k => { k with failed := failed.foldl (fun m n => m ||| 1 <<< n) 0 })) l failed
        if k.st = 1 then retireRes s (resource (16 + l.val / 16) 4 l) 2 else s
      else
        let good := rightPartner s l t
        let s := linkChanged (tellPartner (updLink s l (fun k => trainedLink k t good lanes failed)) l) l
        let s := if k.st = 1 ∧ good then bump s (pg clsLNK l) 0x68 else s
        if failed = [] then s else lanesOccur (bump (degrade s) (pg clsLNK l) 0x6C) l failed)

/-- LINK_RESET (R511, R523, R594). -/
def execLinkReset (l : Fin 64) (s : State) : Host.Outcome State Fault Refusal := .next (linkReset s l)

end Sys2Proof.Machine
end

