-- ==== Sys2Proof/Machine/Wake.lean ====
section
/-!
DEFINITION. Power states (R610, R613 to R620, R661, R662): dividers, what a Pavilion and the module keep and lose below Run, wakes, and
the requests of the PWR page.
-/
namespace Sys2Proof.Machine
open Sys2Proof

/-- Change the power stage's state. -/
def updPower (s : State) (f : Power → Power) : State := { s with power := f s.power }

/-! ### Dividers (R610, R663) -/

/-- Divider code in force on Pavilion p; 3 after reset. -/
def divOf (s : State) (p : Nat) : Nat := s.power.div.get 3 p
/-- A divider code takes effect. -/
def setDiv (s : State) (p code : Nat) : State :=
  if divOf s p = code then s else bump (updPower s (fun w => { w with div := w.div.put 3 p code })) (pg clsCLK 0) 0x44
/-- A divider change that waited takes effect. -/
def applyNext (s : State) (p : Nat) : State :=
  match s.power.next.get none p with
  | some c => setDiv (updPower s (fun w => { w with next := w.next.put none p none })) p c
  | none => s

/-- Order a divider change: it takes effect at the next common root edge, or on the exit from Hold or Nap. -/
def orderDiv (s : State) (p code : Nat) : State :=
  updPower s (fun w => { w with next := w.next.put none p (if divOf s p = code then none else some code) })

/-! ### The job (R657) -/

/-- Is every queue disabled in its active copy? -/
def queuesOff (s : State) : Bool :=
  s.regs.active.all (fun e => e.1 / 65536 != pg clsHIF 0 * 4096 + 0x10C || !bitOf (e.2.getD 0).toNat 0)
/-- Is every completion queue disabled in its active copy? -/
def cqsOff (s : State) : Bool :=
  s.regs.active.all (fun e => e.1 / 65536 != pg clsHIF 0 * 4096 + 0x158 || !bitOf (e.2.getD 0).toNat 0)
/-- GH_STATE.JOB. -/
def jobState (s : State) : Nat := if s.testMode then 3 else if s.gate.halted then 2 else if s.gate.started then 1 else 0
/-- A job has run until no step is open and every queue is disabled. -/
def settleJob (s : State) : State :=
  if s.gate.started && s.steps == [] && queuesOff s then updGate s (fun g => { g with started := false }) else s

/-! ### What a state loses (R613 to R616, R401) -/

/-- Does Pavilion p meet the conditions of R616? -/
def napOk (s : State) (p : Nat) : Bool :=
  s.slots.all (fun e => e.1 / 4096 != p || e.2.st == .free) && s.mwins.all (fun e => e.1 / 512 != p || e.2 == []) &&
  raHeld s p == 0 && (opList s).all (fun e => euPav e.2.eu != some p)

/-- Scratchpads of Pavilion p read zero, every tag EMPTY (R410). -/
def dropScratch (s : State) (p : Nat) : State :=
  let s := zeroRange s (spOf (32 * p)) (32 * 2 ^ 22)
  { s with tags := s.tags.keep (fun g _ => g / 65536 / 32 != p),
           poison := s.poison.keep (fun a _ => !(isSp (64 * a) && (64 * a - spBase) / 2 ^ 27 == p)) }

/-- What the units of Pavilion p lose in Nap (R614). -/
def dropUnits (s : State) (p : Nat) : State :=
  updRng { s with
    dense := s.dense.keep (fun c _ => c / 32 != p)
    bcache := s.bcache.put [] p []
    hslots := s.hslots.keep (fun k _ => k / 16 != p) } p
    (fun r => { r with noise := if r.noise = 3 then 3 else 0, pool := [], lite := [] })

/-- Pavilion p enters Nap. -/
def enterNap (s : State) (p : Nat) : State :=
  if s.power.pavs.get 0 p = 2 then s
  else bump (updPower (dropUnits (dropScratch s p) p) (fun w => { w with pavs := w.pavs.put 0 p 2 })) (pg clsPWR 0) 0x54
/-- Pavilion p enters Hold from Run. -/
def enterHold (s : State) (p : Nat) : State :=
  if s.power.pavs.get 0 p = 0 then bump (updPower s (fun w => { w with pavs := w.pavs.put 0 p 1 })) (pg clsPWR 0) 0x50 else s

/-- The segments that Rest keeps: those of RETAIN, and segment 7 where one of them has remapped frames (R401). -/
def retained (s : State) : Nat :=
  let m := actN s (pg clsFAR 0) 0x128
  let moved := s.chans.any (fun e => decide (e.1 ≥ 4096) && (e.2.frames.any (fun f => bitOf m (farSegment s (f * 2 ^ 20))) || (e.2.st == 2 && m != 0)))
  if moved then m ||| 128 else m
/-- Write back the dirty sectors of the row caches that lie in the segments of a mask, and drop every line (R401). -/
def dropCaches (s : State) (mask : Nat) : State :=
  let s1 := s.rcache.foldl (fun s e =>
    let o := e.1 / 65536
    bump s (pg clsFAR o) 0x70 ((e.2.filter (fun l => bitOf mask (segmentAt s (farAddr o (256 * l.tag))))).foldl (fun n l => n + ones l.dirty) 0)) s
  { s1 with rcache := [], pinRefused := [] }
/-- The near tier loses its contents, which are zeroed before they are served (R402). -/
def dropNear (s : State) : State :=
  let s := zeroRange s 0 (2 ^ 40)
  cleanChans { s with poison := s.poison.keep (fun a _ => !isNear (64 * a)) }
/-- The far tier loses the segments that a mask does not name: their contents are undefined (R402). -/
def dropFar (s : State) (mask : Nat) : State :=
  let s := (List.range 8).foldl (fun s k => if bitOf mask k then s else lose s (farBase + k * segBytes s) (segBytes s)) s
  { s with poison := s.poison.keep (fun a _ => !isFar s (64 * a) || bitOf mask (segmentAt s (64 * a))) }
/-- What the dispatchers, monitors and tables lose below Nap. -/
def dropAll (s : State) : State :=
  let s := pavs.foldl (fun s p => dropUnits (dropScratch s p) p) s
  { s with slots := [], accepts := [], aflows := [], oflows := [], heads := [], numSlots := [], sums := [], pops := [], saves := [] }

/-- The fabric links go DOWN (R613). -/
def linksDown (s : State) : State :=
  (List.range 64).foldl (fun s l => let st := (link s l).st; if st = 1 ∨ st = 2 ∨ st = 5 then linkDrop s l 0 else s) s

/-- Withdraw MOD_READY. -/
def notReady (s : State) : State := updGate s (fun g => { g with modReady := false })

/-- The module enters a state below Run (R613, R618). -/
def enterModule (s : State) (mode : Nat) : State :=
  let s := linksDown s
  let s := updPower s (fun w => { w with mode })
  match mode with
  | 1 => s
  | 2 => dropCaches (pavs.foldl (fun s p => dropUnits (dropScratch s p) p) s) 255
  | 3 =>
    let m := retained s
    notReady (dropFar (dropNear (dropAll (dropCaches (updPower s (fun w => { w with pll := 0 })) m))) m)
  | _ =>
    let s := notReady (dropFar (dropNear (dropAll { s with rcache := [], pinRefused := [] })) 0)
    let gh (k : Nat) : Bool := pageCls (k / 65536 / 4096) == clsGH
    let s := updPower s (fun w => { w with pll := 0 })
    { s with
      pcie := {}, msix := [], xlate := [], xlateInv := none, sqs := [], cqs := [], objs := [], homes := [], moved := [], mwins := []
      origins := [], flushKeys := [], parts := [], journal := [], jtail := 0, jseq := 0, jckpt := 0, sqSlots := [], colls := []
      latches := s.latches.keep (fun n _ => pageCls n == clsGH), cfgFail := []
      regs := { shadow := s.regs.shadow.keep (fun k _ => gh k), active := s.regs.active.keep (fun k _ => gh k),
                count := s.regs.count.keep (fun k _ => gh k), hiLatch := [] }
      pages := s.pages.mapAll {} (fun n h => if pageCls n = clsGH then h else { fenced := h.fenced, retired := h.retired, requested := h.requested }) }

/-! ### Wakes (R617, R619) -/

/-- Pavilion p leaves Hold or Nap: a divider change that waited takes effect, and what waited for its memory is served. -/
def wakePav (s : State) (p : Nat) : State :=
  if s.power.pavs.get 0 p = 0 then s
  else releaseRows (applyNext (bump (updPower s (fun w => { w with pavs := w.pavs.put 0 p 0 })) (pg clsPAV p) 0x48) p)
/-- The module leaves Hold or Nap; a Pavilion in a state of its own stays there. -/
def wakeHold (s : State) : State :=
  let s := updPower s (fun w => { w with mode := 0 })
  releaseRows (pavs.foldl (fun s p => if pavAsleep s p then s else applyNext s p) s)
/-- The module leaves Rest: registers are as they were, counters start at 0, and each near controller zeroes its channel (R402, R614). -/
def wakeRest (s : State) : State :=
  let s := updPower s (fun w => { w with mode := 0, pavs := [], zeroing := List.range 1024, pll := 2 ^ 20 - 1 })
  pavs.foldl applyNext { s with regs := { s.regs with count := [] }, objs := [] }

/-- MOD_READY (R634, R565): the module accepts doorbells. -/
def modReadyUp (s : State) : State := raiseEvt (updGate s (fun g => { g with modReady := true })) (pg clsHIF 0) 0

/-! ### Requests (R615, R616, R618, R620, R662) -/

/-- Does a domain of Pavilion p reset? -/
def pavResets (s : State) (p : Nat) : Bool :=
  domResetting s (dPav p) || (List.range 32).any (fun c => domResetting s (dCore (32 * p + c))) ||
  (List.range 13).any (fun c => domResetting s (dPage (pg (c + 2) p)))
/-- Does any domain reset? -/
def anyResets (s : State) : Bool := s.doms.any (fun e => e.2.service == .resetting)

/-- Evaluate a request of PAV_REQ: its RESULT. -/
def evalPav (s : State) (p target : Nat) : State × Nat :=
  match target with
  | 0 => (wakePav s p, 1)
  | 1 => (enterHold s p, 1)
  | _ => if napOk s p then (enterNap s p, 1) else (s, 2)
/-- Evaluate a request of MOD_REQ: its RESULT. -/
def evalMod (s : State) (target : Nat) : State × Nat :=
  if target = 0 then ((if s.power.mode = 1 ∨ s.power.mode = 2 then wakeHold s else s), 1)
  else if jobState s ≠ 0 ∨ s.steps ≠ [] ∨ (target ≥ 3 ∧ !(queuesOff s && cqsOff s)) then (s, 4)
  else if target ≥ 2 ∧ !pavs.all (napOk s) then (s, 2)
  else (enterModule s target, 1)

/-- The outcome of a request, shown where it is the one most recently written (R662). -/
def requestDone (s : State) (r : Nat × Nat × Nat) (result : Nat) : State :=
  updPower s (fun w => if w.request = [] ∧ w.source = r.1 ∧ w.who = r.2.1 then { w with result } else w)

/-- Evaluate the waiting requests in order of arrival, up to one whose domain resets (R620, R662). -/
def serveRequests (s : State) : Nat → State
  | 0 => s
  | n + 1 =>
    match s.power.request with
    | [] => s
    | r :: rest =>
      if (if r.1 = 0 then pavResets s r.2.1 else anyResets s) then s
      else
        let s := updPower s (fun w => { w with request := rest })
        let (s, result) := if r.1 = 0 then evalPav s r.2.1 r.2.2 else evalMod s r.2.2
        serveRequests (requestDone s r result) n

/-- A request is written: PENDING until it has been evaluated. -/
def powerRequest (s : State) (source p target : Nat) : State :=
  let s := updPower s (fun w => { w with result := 0, source, who := p, request := w.request ++ [(source, p, target)] })
  serveRequests s s.power.request.length

/-- A wake meets requests to enter a state that wait: they end with WOKEN (R620). -/
def wokenRequests (s : State) (p : Nat) : State :=
  let hit (r : Nat × Nat × Nat) : Bool := r.1 == 0 && r.2.1 == p && r.2.2 != 0
  let l := s.power.request.filter hit
  let s := updPower s (fun w => { w with request := w.request.filter (fun r => !hit r) })
  l.foldl (fun s r => requestDone s r 3) s

/-- Is Pavilion p idle (R615)? -/
def pavIdle (s : State) (p : Nat) : Bool :=
  s.slots.all (fun e => e.1 / 4096 != p || !(e.2.st == .running || e.2.st == .ready)) && (opList s).all (fun e => euPav e.2.eu != some p) &&
  (reqList s).all (fun e => !(isOwn s e.2.addr && e.2.unperformed && (homeDom s (gLoc e.2.addr) == dPav p ||
    (isSp (gLoc e.2.addr) && (gLoc e.2.addr - spBase) / 2 ^ 27 == p))))

/-- May this requester's access reach the register pages in the module's state (R613, R619)? Others wait. -/
def served (s : State) (r : Requester) : Bool :=
  match r with
  | .gatehouse => s.power.mode != 6 && decide (s.gate.pairsLost < 2)
  | _ => (s.power.mode == 0 || s.power.mode == 5) && decide (s.gate.pairsLost < 2)

/-- May this requester write the page (R577, R656)? Management Ethernet writes GH[0], PWR and CLK, and only where MGMT lets it; in
recovery only the HIF page answers. -/
def allowed (s : State) (r : Requester) (n : Nat) : Bool :=
  served s r && (!s.fw.recovery || n == pg clsHIF 0) && (match r with
    | .ethernet => (n == pg clsGH 0 || n == pg clsPWR 0 || n == pg clsCLK 0) && bitOf (shN s (pg clsGH 0) 0x120) 0
    | _ => true)

/-- An access from outside wakes a module that is in Hold or Nap (R619). -/
def wokenBy (s : State) (r : Requester) : State :=
  match r with
  | .gatehouse => s
  | _ => if s.power.mode = 1 ∨ s.power.mode = 2 then wakeHold s else s

/-- A write of PAV_REQ or MOD_REQ. -/
def powerWrite (s : State) (r : Requester) (source p target : Nat) : State :=
  let s := wokenBy s r
  if allowed s r (pg clsPWR 0) then powerRequest s source p target else s

/-- PAV_REQ with target RUN (R617, R661). -/
def execPavReqRun (r : Requester) (p : Fin 16) (s : State) : Host.Outcome State Fault Refusal :=
  .next (powerWrite s r 0 p 0)
/-- PAV_REQ with target HOLD (R615). -/
def execPavReqHold (r : Requester) (p : Fin 16) (s : State) : Host.Outcome State Fault Refusal :=
  .next (powerWrite s r 0 p 1)
/-- PAV_REQ with target NAP (R616). -/
def execPavReqNap (r : Requester) (p : Fin 16) (s : State) : Host.Outcome State Fault Refusal :=
  .next (powerWrite s r 0 p 2)
/-- MOD_REQ with target RUN (R619). -/
def execModReqRun (r : Requester) (s : State) : Host.Outcome State Fault Refusal := .next (powerWrite s r 1 0 0)
/-- MOD_REQ with target HOLD (R618). -/
def execModReqHold (r : Requester) (s : State) : Host.Outcome State Fault Refusal := .next (powerWrite s r 1 0 1)
/-- MOD_REQ with target NAP (R618). -/
def execModReqNap (r : Requester) (s : State) : Host.Outcome State Fault Refusal := .next (powerWrite s r 1 0 2)
/-- MOD_REQ with target REST (R618). -/
def execModReqRest (r : Requester) (s : State) : Host.Outcome State Fault Refusal := .next (powerWrite s r 1 0 3)
/-- MOD_REQ with target DORMANT (R618). -/
def execModReqDormant (r : Requester) (s : State) : Host.Outcome State Fault Refusal :=
  .next (powerWrite s r 1 0 4)
/-- AUTO_HOLD (R615): the Pavilion has been idle for IDLE_HOLD µs. -/
def execAutoHold (p : Fin 16) (s : State) : Host.Outcome State Fault Refusal :=
  .next (if s.power.mode = 0 ∧ actN s (pg clsPWR 0) 0x114 ≠ 0 ∧ pavIdle s p then enterHold s p else s)
/-- PAVILION_WAKE (R617, R620). -/
def execPavilionWake (p : Fin 16) (s : State) : Host.Outcome State Fault Refusal :=
  .next (if s.power.mode = 0 then wokenRequests (wakePav s p) p else s)
/-- DIVIDER_CHANGE (R610): the next common root edge. A Pavilion in Hold or Nap changes on exit. -/
def execDividerChange (p : Fin 16) (s : State) : Host.Outcome State Fault Refusal := .next (if pavAsleep s p then s else applyNext s p)

end Sys2Proof.Machine
end

