-- ==== Sys2Proof/Machine/Resets.lean ====
section
/-!
DEFINITION. Domain resets (R400, R437, R583, R587 to R589, R593, R629 to R633): cores, Pavilions, channel groups and block pages.
-/
namespace Sys2Proof.Machine
open Sys2Proof

/-! ### Requests in flight to a domain -/

/-- Complete FENCED the requests in flight that `hit` names (R589 step 2); a journal record is sent again by its home (R590). -/
def fenceSent (s : State) (hit : Req → Bool) : State :=
  (reqList s).foldl (fun s e =>
    match getReq s e.1 with
    | some r =>
      if (r.st = .sent ∨ r.st = .busy) ∧ hit r then
        (match r.kind with
         | .journal => s
         | .rowUpdate => updateAnswer s e.1 r .fenced 0
         | _ => fenceReq (noteFenced s (reqDie r) (gLoc (reqAddr r))) e.1 r)
      else s
    | none => s) s

/-- Is the request one to this module's memory at an address that `p` names? -/
def reqAt (s : State) (p : Nat → Bool) (r : Req) : Bool :=
  (match r.kind with | .rowFetch | .rowCheck | .rowUpdate | .journal | .carried | .signal => false | _ => true) &&
  isOwn s (reqAddr r) && p (gLoc (reqAddr r))

/-- A row request to the homes behind Pavilion p. -/
def reqRow (p : Nat) (r : Req) : Bool := (r.kind == .rowFetch || r.kind == .rowCheck || r.kind == .rowUpdate) && r.home == dPav p

/-! ### Resets -/

/-- A domain stops serving and its epoch advances; `none` where it resets already (R633) or is fenced. -/
def beginReset (s : State) (k : Nat) : Option State :=
  if (dom s k).service = .inService then some (updDom s k (fun d => { d with service := .resetting, epoch := d.epoch + 1 })) else none

/-- A domain that is reset in Hold or Nap is woken first (R620). -/
def wakeFor (s : State) (p : Option Nat) : State :=
  let s := if s.power.mode = 1 ∨ s.power.mode = 2 then wakeHold s else s
  match p with
  | some p => wakePav s p
  | none => s

/-- Does the module's power let its domains reset? -/
def resetsRun (s : State) : Bool := decide (s.power.mode ≤ 2 ∨ s.power.mode = 5)

/-- What a core loses when it resets, or its Pavilion does (R437, R629): its resident tasks fault with the resource given. -/
def coreLoses (s : State) (c res : Nat) : State :=
  let s := flushWaiters { s with tags := s.tags.keep (fun g _ => g / 65536 != c) } c .fenced
  let s := fenceSent s (reqAt s (fun a => isSp a && (a - spBase) / 2 ^ 22 == c))
  let s := faultTasks s (residents s (c / 32) (c % 32)) { code := fDomainReset, detail := res }
  bump { s with dense := s.dense.put {} c {} } (pg clsPAV (c / 32)) 0x44

/-- Reset a core (R437); a Pavilion's reset includes it (R633). -/
def coreReset (s : State) (c : Nat) (inj : Bool := false) : State :=
  let p := c / 32
  if !resetsRun s || (dom s (dPav p)).service != .inService then s
  else match beginReset s (dCore c) with
    | none => s
    | some s => occur (coreLoses (wakeFor s (some p)) c (resource p 0 (c % 32))) (resource p 0 (c % 32)) inj

/-- Answer FENCED the row requests held at the homes behind Pavilion p. -/
def fenceHeldRows (s : State) (p : Nat) : State :=
  let own (x : Option Nat × Msg) : Bool := match x.1 with | some t => (match getReq s t with | some r => r.home == dPav p | none => true) | none => false
  let other (x : Option Nat × Msg) : Bool :=
    x.1.isNone && resolver s (bitsOf (x.2.pl 0) 40 8) (x.2.pl 0 % 2 ^ 40) == p
  let l := (s.heldRows.filter other).map (·.2)
  let s := { s with heldRows := s.heldRows.filter (fun x => !own x && !other x) }
  l.foldl (fun s m => reply (carryFenced s (16 + m.axis) p) m 0x40 1 (dom s (dPav p)).epoch []) s

/-- What a Pavilion loses when it resets (R631). -/
def pavLoses (s : State) (p : Nat) : State :=
  let res := resource p 9 0
  let s := faultTasks s (tasksIn s p (fun st => st != .free && st != .faulted)) { code := fDomainReset, detail := res }
  let s := (List.range 32).foldl (fun s i => coreLoses s (32 * p + i) res) s
  let s := { s with
    slots := s.slots.mapAll {} (fun k t => if k / 4096 = p ∧ t.st = .free then { t with flags := 0 } else t)
    aflows := s.aflows.keep (fun k _ => k / 4096 != p)
    oflows := s.oflows.keep (fun _ f => match f with | some f => f.pav != p | none => false)
    heads := s.heads.put none p none
    hubs := s.hubs.keep (fun _ h => match h with | some h => h.pav != p | none => false)
    ops := s.ops.mapAll none (fun _ o => o.map (fun o => { o with joined := o.joined.filter (fun x => x / 2 != p) })) }
  let s := faultUnit s (fun u => euPav u == some p) { code := fDomainReset, detail := res }
  -- open merge windows are discarded, and the steps with contributions in them are tainted
  let par (i : Nat) : Bool := s.mwins.any (fun e => e.1 / 512 == p && e.1 % 2 == i && e.2 != [])
  let hit := s.steps.filter (fun x => par (x.num.toNat % 2))
  let s := { s with mwins := s.mwins.keep (fun k _ => k / 512 != p) }
  let s := hit.foldl (fun s x => taint s x.num) s
  let s := fenceHeldRows s p
  dropUnits (fenceSent s (fun r => reqRow p r || reqAt s (fun a => isNear a && a / 2 ^ 36 == p) r)) p

/-- A core's domain as its Pavilion resets: its own reset is part of the Pavilion's, and one in service starts its next epoch. -/
def coreWithPav (p : Nat) (s : State) (i : Nat) : State :=
  updDom s (dCore (32 * p + i)) (fun d => match d.service with
    | .fenced => d
    | .resetting => { d with service := .inService }
    | .inService => { d with epoch := d.epoch + 1 })

/-- Reset a Pavilion (R631): a core reset under way is merged into it (R633). -/
def pavReset (s : State) (p : Nat) (inj : Bool := false) : State :=
  if !resetsRun s then s
  else match beginReset s (dPav p) with
    | none => s
    | some s =>
      let s := wakeFor s (some p)
      let s := (List.range 32).foldl (coreWithPav p) s
      occur (bump (pavLoses s p) (pg clsPAV p) 0x40) (resource p 9 0) inj

/-- Reset a channel group of an Orangery (R400). -/
def groupReset (s : State) (o g : Nat) (inj : Bool := false) : State :=
  if !resetsRun s then s
  else match beginReset s (dGroup o g) with
    | none => s
    | some s =>
      let s := wakeFor s none
      occur (fenceSent s (reqAt s (fun a => isFar s a && farOrang a == o && dataChan s a / 16 == g))) (resource (16 + o) 7 g) inj

/-- Die that a page's block lies on (R584). -/
def pageDie (n : Nat) : Nat :=
  let c := pageCls n
  let i := pageInst n
  if c ≤ 14 then i
  else if c = clsFAR ∨ c = clsCOL then 16 + i
  else if c = clsPE then 16 + i / 2
  else if c = clsLNK then 16 + i / 16
  else 20

/-- Reset the block of a page (R629, R647); the near controllers of a Pavilion restart as R400 has it. -/
def pageReset (s : State) (n : Nat) (inj : Bool := false) : State :=
  let c := pageCls n
  let i := pageInst n
  if !pageImpl n || !pageDomain n then s
  else if c = clsPAV then pavReset s i inj
  else if c = clsLNK then linkReset s i inj
  else if c = clsFAR then (List.range 4).foldl (fun s g => groupReset s i g inj) s
  else if !resetsRun s || (page s n).fenced then s
  else match beginReset s (dPage n) with
    | none => s
    | some s =>
      let s := wakeFor s (if c ≤ 14 then some i else none)
      let res := resource (pageDie n) 8 n
      let s := faultUnit s (fun u => euPage u == n) { code := fDomainReset, detail := res }
      let s := if c = clsNEAR then fenceSent s (reqAt s (fun a => isNear a && a / 2 ^ 36 == i)) else s
      occur s res inj

/-- Reset a domain at the Gatehouse's order: a fault of the dispatcher or the row engine is cleared by its Pavilion's reset (R592, R629). -/
def domReset (s : State) (d : DomRef) (inj : Bool := false) : State :=
  match d with
  | .core c => coreReset s c inj
  | .pav p => pavReset s p inj
  | .link l => linkReset s l inj
  | .group o g => groupReset s o g inj
  | .page n => if pageCls n = clsDSP ∨ pageCls n = clsROW then pavReset s (pageInst n) inj else pageReset s n inj
  | .remote _ => s

/-- Key of a domain, and its resource (R584). -/
def domKey : DomRef → Nat
  | .core c => dCore c | .pav p => dPav p | .link l => dLink l | .group o g => dGroup o g | .page n => pageDom n | .remote m => dRemote m
def domRes : DomRef → Nat
  | .core c => resource (c / 32) 0 (c % 32) | .pav p => resource p 9 0 | .link l => resource (16 + l / 16) 4 l
  | .group o g => resource (16 + o) 7 g | .page n => resource (pageDie n) 8 n | .remote m => resource 20 14 m

/-- A fault of a domain that a reset may clear: one that keeps coming back after RETRY_MAX resets retires its resource (R593, R594). -/
def domFault (s : State) (d : DomRef) (again : Bool) : State :=
  let k := domKey d
  let n := if again then (dom s k).again + 1 else 0
  if n > retryMax s then retireRes s (domRes d) 2 else domReset (updDom s k (fun x => { x with again := n })) d

/-- Does a domain hold queued work? -/
def hasWork (s : State) (d : DomRef) : Bool :=
  match d with
  | .core c => (opList s).any (fun e => match e.2.eu with
      | .thread x | .stm x | .dns x | .sps x | .vec x => x == c.val
      | _ => false) || tagWaiting s c != 0
  | .pav p => (opList s).any (fun e => euPav e.2.eu == some p.val)
  | .link l => hasData s l || (link s l).replay != []
  | .group o g => (reqList s).any (fun e => e.2.unperformed && reqAt s (fun a => isFar s a && farOrang a == o.val && dataChan s a / 16 == g.val) e.2)
  | .page n => (opList s).any (fun e => euPage e.2.eu == n.val)
  | .remote _ => false

/-! ### RESET_DONE (R589, R593) -/

/-- Is what a FENCED request reads served again? -/
def reqServed (s : State) (r : Req) : Bool :=
  match r.kind with
  | .rowFetch | .rowCheck =>
    let p := r.home - dPav 0
    !domResetting s r.home && (match (resolveRow s p r.aop (r.words.getD 0 0 % 2 ^ 40)).2 with
      | .row x => memService s x.addr != .resetting
      | .resetting _ => false
      | .missing | .unlisted | .bad => true)
  | .carried | .signal => false
  | _ => memService s (gLoc (reqAddr r)) != .resetting

/-- Page on which a domain's RESET_DONE shows. -/
def donePage : DomRef → Nat
  | .core c => pg clsCORE (c / 32) | .pav p => pg clsPAV p | .link l => pg clsLNK l | .group o _ => pg clsFAR o | .page n => n
  | .remote _ => pg clsGH 0

/-- Die that gates a domain while its PLL is out of lock (R611). -/
def domDie : DomRef → Nat
  | .core c => c / 32 | .pav p => p | .link l => 16 + l / 16 | .group o _ => 16 + o | .page n => pageDie n | .remote _ => 20

/-- Domain that an injection of kind 4 or 5 resets (R603). -/
def injectDom (n unit : Nat) : DomRef :=
  let i := pageInst n
  if pageCls n = clsCORE then .core (Fin.ofNat 512 (32 * i + unit % 32))
  else if pageCls n = clsFAR then .group (Fin.ofNat 4 i) (Fin.ofNat 4 unit)
  else if pageCls n = clsLNK then .link (Fin.ofNat 64 i)
  else if pageCls n = clsPAV then .pav (Fin.ofNat 16 i)
  else .page (Fin.ofNat 65536 n)

/-- An armed injection of a domain reset or an internal state error takes its path (R602, R604). -/
def fireInjection (s : State) (n : Nat) : State :=
  let v := (page s n).inject.toNat
  let d := injectDom n (bitsOf v 4 8)
  if (bitsOf v 0 4 = 4 ∨ bitsOf v 0 4 = 5) ∧ bitsOf v 12 8 > 0 ∧ (dom s (domKey d)).service = .inService then domReset (injTaken s n) d true else s

/-- The requesters of the module learn that a domain serves again: their reads are due. -/
def wakeRetries (s : State) : State :=
  { s with reqs := s.reqs.map (fun e => (e.1, e.2.map (fun r =>
      if r.st = .fenced false ∧ isOwn s (reqAddr r) ∧ reqServed s r then { r with st := .fenced true } else r))) }

/-- A domain is in service again, its reset epoch done; a Pavilion's cores with it. -/
def domBack (s : State) (d : DomRef) : State :=
  let s := updDom s (domKey d) (fun x => { x with service := .inService, done := x.epoch })
  match d with
  | .pav p => (List.range 32).foldl (fun s i => updDom s (dCore (32 * p + i)) (fun x => if x.service = .inService then { x with done := x.epoch } else x)) s
  | _ => s

/-- RESET_DONE of a domain (R589): it serves again; what waited for it goes on. -/
def resetDone (s : State) (d : DomRef) : State :=
  match d with
  | .remote m =>
    { s with reqs := s.reqs.map (fun e => (e.1, e.2.map (fun r =>
        if r.st = .fenced false ∧ r.home = dRemote m then { r with st := .fenced true } else r))) }
  | _ =>
    let k := domKey d
    if (dom s k).service ≠ .resetting ∨ bitOf s.power.unlocked (domDie d) then s
    else
      let s := wakeRetries (raiseEvt (domBack s d) (donePage d) 30)
      let s := fireInjection s (donePage d)
      serveRequests s s.power.request.length

/-- CORE_RESET (R437). -/
def execCoreReset (c : Fin 512) (s : State) : Host.Outcome State Fault Refusal := .next (coreReset s c)
/-- PAVILION_RESET (R631). -/
def execPavilionReset (p : Fin 16) (s : State) : Host.Outcome State Fault Refusal := .next (pavReset s p)
/-- CHANNEL_GROUP_RESET (R400). -/
def execChannelGroupReset (o g : Fin 4) (s : State) : Host.Outcome State Fault Refusal := .next (groupReset s o g)
/-- BLOCK_PAGE_RESET (R629). -/
def execBlockPageReset (n : Fin 65536) (s : State) : Host.Outcome State Fault Refusal := .next (pageReset s n)
/-- RESET_DONE (R589). -/
def execResetDone (d : DomRef) (s : State) : Host.Outcome State Fault Refusal := .next (resetDone s d)
/-- HANG_DETECT (R583, R593): a unit with queued work makes no progress for 10 ms. -/
def execHangDetect (d : DomRef) (again : Bool) (s : State) : Host.Outcome State Fault Refusal :=
  .next (if hasWork s d then domFault s d again else s)
/-- INTERNAL_STATE_ERROR (R583, R593). -/
def execInternalStateError (d : DomRef) (again : Bool) (s : State) : Host.Outcome State Fault Refusal := .next (domFault s d again)

end Sys2Proof.Machine
end

