-- ==== Sys2Proof/Machine/Ras.lean ====
section
/-!
DEFINITION. Reliability (R390, R394, R396 to R400, R402, R404, R406, R483, R586, R597 to R604): scrub, copies, pins, timeouts, the noise
source, the Gatehouse pair, and the registers that act on them.
-/
namespace Sys2Proof.Machine
open Sys2Proof

/-! ### Writes that have a command of their own (R8, R644) -/

/-- A write of a requester to a page: it waits where the module is not up, and to a page that is not implemented it is only counted. -/
def pageWrite (s : State) (r : Requester) (n : Nat) (act : State → State) : State :=
  let s := wokenBy s r
  if !allowed s r n then s else if !pageImpl n then addCnt s (pg clsBLV 0) 0x68 0 1 else act s

/-- A write that carries a reserved encoding is rejected whole (R8). -/
def rejectWrite (s : State) (n : Nat) : State := raiseErr s n 0

/-- A write to an expert register: ignored while the page is locked (R654). -/
def expertWrite (s : State) (n : Nat) (act : State) : State := if (page s n).expert then act else raiseErr s n 2

/-! ### Scrub and copies (R396 to R398, R402) -/

/-- Patrol scrub reads one atom: clean, corrected, or uncorrectable (R396). An atom that is not served is skipped (R590). -/
def scrubAtom (s : State) (a errs : Nat) : State :=
  let a := a / 64 * 64
  if !(isNear a || isFar s a) || asleep s a || memService s a != .inService then s
  else match errs with
    | 0 => s
    | 1 => countBurst (noteCe s a) a
    | _ => if poisoned s a then s else occur (noteUe (poisonAtom s a) a true) (memResource s a)

/-- PATROL_SCRUB (R396): `last` ends the channel's pass. -/
def execPatrolScrub (a : Nat) (errs : Fin 3) (last : Bool) (s : State) : Host.Outcome State Fault Refusal :=
  .next (
    let s := scrubAtom s a errs
    if !last then s
    else if isNear a then bump s (pg clsNEAR (a / 2 ^ 36)) 0x6C
    else if isFar s a then bump s (pg clsFAR (farOrang a)) 0x84 else s)

/-- RETIRE_COPY_DONE (R397, R398): what waited for the copy to end is retired next. -/
def execRetireCopyDone (k : Nat) (s : State) : Host.Outcome State Fault Refusal :=
  .next (if (chan s k).copying = none then s else serveDue (if k < 4096 then nearCopied s k else farCopied s k))

/-- ZEROING_DONE (R402, R619): with the last controller done, a module that left Rest is ready. -/
def execZeroingDone (p : Fin 16) (c : Fin 64) (s : State) : Host.Outcome State Fault Refusal :=
  .next (
    let k := 64 * p.val + c.val
    if !s.power.zeroing.contains k then s
    else
      let s := updPower s (fun w => { w with zeroing := w.zeroing.filter (· != k) })
      if s.power.zeroing = [] ∧ s.power.mode = 0 ∧ !s.gate.modReady ∧ !s.testMode ∧ s.gate.pairsLost < 2 then modReadyUp s else s)

/-- Pinned lines of a set. -/
def pinnedIn (l : List Line) : Nat := (l.filter (·.pinned)).length

/-- PIN_LOAD (R390): an Orangery loads line l of a pinned range, unless the set has its fill of pinned lines. -/
def execPinLoad (o : Fin 4) (l : Nat) (s : State) : Host.Outcome State Fault Refusal :=
  .next (
    let k := setKey o (256 * l)
    let a := farAddr o (256 * l)
    let set := s.rcache.get [] k
    let mine := set.find? (fun x => x.tag == l)
    if !isFar s a || !pinRange s o a 1 || !bitOf (actN s (pg clsFAR o) 0x110) 0 || asleep s a || memService s a != .inService then s
    else if (mine.map (·.pinned)).getD false then s
    else if pinnedIn set ≥ bitsOf (actN s (pg clsFAR o) 0x408) 0 4 then
      let key := o.val * 2 ^ 32 + l
      if s.pinRefused.get false key then s else bump { s with pinRefused := s.pinRefused.put false key true } (pg clsFAR o) 0x88
    else
      -- the line's missing sectors are read
      let t := putLine s o k { tag := l, valid := 15, dirty := (mine.map (·.dirty)).getD 0, pinned := true }
      if (t.rcache.get [] k).any (fun x => x.tag == l) then bump t (pg clsFAR o) 0x60 (4 - ones ((mine.map (·.valid)).getD 0)) else s)

/-- DIRTY_WRITEBACK (R388, R400): a line's dirty sectors are written back while its channels serve. -/
def execDirtyWriteback (o : Fin 4) (l : Nat) (s : State) : Host.Outcome State Fault Refusal :=
  .next (
    let k := setKey o (256 * l)
    let a := farAddr o (256 * l)
    match (s.rcache.get [] k).find? (fun x => x.tag == l) with
    | some x =>
      if x.dirty = 0 ∨ asleep s a ∨ memService s a ≠ .inService then s
      else bump (updSet s k (fun t => t.map (fun y => if y.tag = l then { y with dirty := 0 } else y))) (pg clsFAR o) 0x70 (ones x.dirty)
    | none => s)

/-- A write of NEAR.RETIRE_CMD. -/
def nearRetireWrite (s : State) (p v : Nat) : State :=
  if !bitOf v 6 || nearCopying s p || (chan s (64 * p + v % 64)).st != 0 then s else retireNear s p (v % 64) 3

/-- A write of FAR.RETIRE_CMD. -/
def farRetireWrite (s : State) (o v : Nat) : State :=
  let f := bitsOf v 6 14
  let (frames, first, spares) := farFrames s
  if bitOf v 20 && f != 0 then rejectWrite s (pg clsFAR o)
  else if !bitOf v 21 || farCopying s o then s
  else if bitOf v 20 then retireFar s o (bitsOf v 0 6) none 3
  else if f ≥ frames ∨ (first ≤ f ∧ f < first + spares) then s
  else retireFar s o (bitsOf v 0 6) (some f) 3

/-- NEAR_RETIRE_CMD (R397, R404). -/
def execNearRetireCmd (r : Requester) (p : Fin 16) (v : Word) (s : State) : Host.Outcome State Fault Refusal :=
  .next (pageWrite s r (pg clsNEAR p) (fun s => expertWrite s (pg clsNEAR p) (nearRetireWrite s p v.toNat)))

/-- FAR_RETIRE_CMD (R398, R406). -/
def execFarRetireCmd (r : Requester) (o : Fin 4) (v : Word) (s : State) : Host.Outcome State Fault Refusal :=
  .next (pageWrite s r (pg clsFAR o) (fun s => expertWrite s (pg clsFAR o) (farRetireWrite s o v.toNat)))

/-- ERR_LATCH_CLEAR (R404, R406): CNT_CLEAR.ERR of a memory page. -/
def execErrLatchClear (r : Requester) (n : Fin 65536) (s : State) : Host.Outcome State Fault Refusal :=
  .next (pageWrite s r n (fun s => if pageCls n = clsNEAR ∨ pageCls n = clsFAR then { s with latches := s.latches.put {} n {} } else s))

/-! ### Request timeout (R586) -/

/-- The page of a request's requester, if the module still knows it. -/
def reqPage (s : State) (r : Req) : Option Nat :=
  match r.thr with
  | some k => if k < 8192 then some (pg clsCORE (k / 16 / 32)) else r.slot.map (fun key => pg clsCORE (key / 4096))
  | none => match r.op.bind (getOp s) with
    | some o => some (euPage o.eu)
    | none => none

/-- The domain, or the remote module, that a request's timeout is counted against. -/
def reqPath (r : Req) : Nat :=
  if r.home ≥ dRemote 0 && r.home < dSmp 0 0 then resource 20 14 (r.home - dRemote 0)
  else if r.home ≥ dPage 0 then resource (pageDie (r.home - dPage 0)) 8 (r.home - dPage 0)
  else if r.home ≥ dGroup 0 0 then resource (16 + (r.home - dGroup 0 0) / 4) 7 ((r.home - dGroup 0 0) % 4)
  else if r.home ≥ dPav 0 then resource (r.home - dPav 0) 9 0
  else resource (r.home / 32) 0 (r.home % 32)

/-- Has no answer to the request been formed? -/
def Req.unanswered (r : Req) : Bool := match r.st with | .sent | .busy | .tagWait | .lost => true | _ => false

/-- A request has waited for 1 ms: it completes FENCED, and is sent again where R590 has it so. -/
def timeOut (s : State) (tag : Nat) (r : Req) : State :=
  let s := addCnt s (pg clsGH 1) 0x4C 0 1
  let s := match reqPage s r with | some n => raiseErr s n 5 | none => s
  let s := occur s (reqPath r)
  let s := { s with tagWait := s.tagWait.mapAll [] (fun _ l => l.filter (· != tag)), heldRows := s.heldRows.filter (fun x => x.1 != some tag) }
  match getReq s tag with
  | none => s
  | some r =>
    match r.kind with
    | .journal => updReq s tag (fun r => { r with st := if isOwn s r.addr then .sent else .busy, tagEpoch := r.tagEpoch + 1 })
    | .rowUpdate => updateAnswer s tag r .fenced 0
    | _ =>
      let s := fenceReq s tag r
      match getReq s tag with
      | some r => if r.st = .fenced false ∧ (!isOwn s (reqAddr r) || reqServed s r) then updReq s tag (fun r => { r with st := .fenced true }) else s
      | none => s

/-- REQUEST_TIMEOUT (R586). -/
def execRequestTimeout (tag : Nat) (s : State) : Host.Outcome State Fault Refusal :=
  .next (match getReq s tag with
    | some r => if r.unanswered then timeOut s tag r else s
    | none => s)

/-! ### The noise source (R483, R598) -/

/-- HEALTH_TEST_FAIL (R483): `expired` of the failures counted so far have left the recurrence window. -/
def execHealthTestFail (p : Fin 16) (apt : Bool) (expired : Nat) (s : State) : Host.Outcome State Fault Refusal :=
  .next (
    let n := pg clsRNG p
    let res := resource p 11 0
    if (rng s p).noise = 3 ∨ unitFenced s n then s
    else
      let s := updRng s p (fun r => { r with noise := 2, pool := [] })
      let s := raiseEvt (bump s n (if apt then 0x58 else 0x54)) n 0
      let s := (noiseWaiting s p).foldl noiseFail s
      occur (updGate s (fun g => { g with occ := g.occ.put 0 res (g.occ.get 0 res - expired) })) res)

/-- The noise source's entry leaves the record, and its start-up test runs again. -/
def clearNoise (s : State) (p : Nat) : State :=
  let res := resource p 11 0
  if !(records s).any (fun e => e.resource == res) then s
  else
    let keep (l : List RetEntry) : List RetEntry := l.filter (fun e => e.resource != res)
    let s := updGate s (fun g =>
      if s.testMode then { g with testRecord := keep g.testRecord, occ := g.occ.put 0 res 0 }
      else { g with record := keep g.record, recordSeq := g.recordSeq + 1, occ := g.occ.put 0 res 0 })
    updRng (updPage s (pg clsRNG p) (fun h => { h with fenced := h.requested, retired := false })) p (fun r =>
      { r with noise := if (page s (pg clsRNG p)).requested then 3 else 0 })

/-- NOISE_CLEAR (R598). -/
def execNoiseClear (p : Fin 16) (s : State) : Host.Outcome State Fault Refusal := .next (clearNoise s p)

/-! ### The Gatehouse pair (R600) -/

/-- GATEHOUSE_TAKEOVER (R600): the standby pair takes over, and the failed pair is retired. -/
def execGatehouseTakeover (s : State) : Host.Outcome State Fault Refusal :=
  .next (if s.gate.pairsLost ≠ 0 then s
    else addRecord (addCnt (updGate s (fun g => { g with standbyActive := true, pairsLost := 1, degraded := true })) (pg clsGH 0) 0x48 0 1)
      (resource 20 13 0) 2 2 0xFFFF)

/-- GATEHOUSE_PAIR_FAILURE (R600): the standby pair is retired, or the last pair is lost and MOD_READY withdrawn. -/
def execGatehousePairFailure (s : State) : Host.Outcome State Fault Refusal :=
  .next (match s.gate.pairsLost with
    | 0 => addRecord (updGate s (fun g => { g with pairsLost := 1, degraded := true })) (resource 20 13 1) 2 2 0xFFFF
    | 1 => notReady (updGate s (fun g => { g with pairsLost := 2 }))
    | _ => s)

/-! ### Injection and soft reset (R602 to R604, R647) -/

/-- Does R603 define this UNIT for the page and KIND? -/
def injectUnitOk (n kind u : Nat) : Bool :=
  let c := pageCls n
  if kind = 0 then true
  else if c = clsCORE then decide (u < 32)
  else if c = clsNEAR then (if kind = 4 ∨ kind = 5 then u == 0 else decide (u ≤ 65))
  else if c = clsFAR then (if kind = 4 ∨ kind = 5 then decide (u < 4) else true)
  else if c = clsLNK then (if kind = 6 then decide (u < 4) else u == 0)
  else if c = clsPE ∧ kind = 3 then decide (u < 8)
  else if c = clsROW ∧ kind = 3 then decide (u ≤ 2)
  else if c = clsSTM ∧ kind = 3 then decide (u < 32)
  else u == 0

/-- A permanent fault injected on a core, near channel or link: retired into the test record (R603, R604). -/
def permanentFault (s : State) (n unit : Nat) : State :=
  let i := pageInst n
  if pageCls n = clsCORE then retireOne (injTaken s n) (resource i 0 unit) 5
  else if pageCls n = clsNEAR then retireOne (injTaken s n) (resource i 1 unit) 5
  else if pageCls n = clsLNK then
    retireOne (injTaken s n) (if bitOf unit 1 then resource (16 + i / 16) 4 i else resource (16 + i / 16) 5 (2 * i + unit % 2)) 5
  else s

/-- A write of ERR_INJECT (R602, R603). -/
def armInjection (s : State) (n : Nat) (v : Word) : State :=
  let kind := bitsOf v.toNat 0 4
  let unit := bitsOf v.toNat 4 8
  if !(page s n).expert || (kind != 0 && !(decide (kind ≤ 6) && bitOf (pageInject n) (kind - 1))) || (kind == 6 && !s.testMode) ||
      !injectUnitOk n kind unit || (kind != 0 && bitsOf v.toNat 12 8 == 0) then rejectWrite s n
  else
    let s := updPage s n (fun p => { p with inject := BitVec.ofNat 32 (v.toNat % 2 ^ 20) })
    if kind = 6 then permanentFault s n unit else fireInjection s n

/-- ERR_INJECT (R602). -/
def execErrInject (r : Requester) (n : Fin 65536) (v : Word) (s : State) : Host.Outcome State Fault Refusal :=
  .next (pageWrite s r n (fun s => armInjection s n v))

/-- SOFT_RESET (R647). -/
def execSoftReset (r : Requester) (n : Fin 65536) (s : State) : Host.Outcome State Fault Refusal :=
  .next (pageWrite s r n (fun s => pageReset s n))

/-- A fault record is acknowledged: the task of a slot and generation leaves FAULTED (R106). -/
def ackFault (s : State) (key : Nat) (gen : BitVec 8) : State :=
  if (slot s key).st = .faulted ∧ (slot s key).gen = gen then freeSlot s key else s

/-- FAULT_ACK (R106, R148). -/
def execFaultAck (r : Requester) (p : Fin 16) (v : Word) (s : State) : Host.Outcome State Fault Refusal :=
  .next (pageWrite s r (pg clsDSP p) (fun s => ackFault s (slotKey p (bitsOf v.toNat 0 12)) (BitVec.ofNat 8 (bitsOf v.toNat 12 8))))

end Sys2Proof.Machine
end

