-- ==== Sys2Proof/Machine/Power.lean ====
section
/-!
DEFINITION. The power stage, the clocks and start-up (R576, R579, R598, R608 to R628, R634, R635, R661 to R663, R672 to R676, R683):
droop, the protections, the thermal and power loops, duty-cycling, lock and reference loss, module wakes and the start-up sequence.
-/
namespace Sys2Proof.Machine
open Sys2Proof

/-! ### Divider and duty in force (R610, R621, R626, R627) -/

/-- PAV_CFG_p: CEIL, PIN_EN and PIN_DIV. -/
def pavCeil (s : State) (p : Nat) : Nat := bitsOf (actN s (pg clsCLK 0) (0x110 + 4 * p)) 0 2
def pavPinned (s : State) (p : Nat) : Bool := bitOf (actN s (pg clsCLK 0) (0x110 + 4 * p)) 2
def pavPin (s : State) (p : Nat) : Nat := bitsOf (actN s (pg clsCLK 0) (0x110 + 4 * p)) 3 2

/-- Divider code that pin, ceiling and loops ask for. -/
def baseDiv (s : State) (p : Nat) : Nat :=
  if pavPinned s p then pavPin s p else max (pavCeil s p) (max (s.power.thermDiv.get 0 p) (s.power.loopDiv.get 0 p))
/-- Duty, in sixteenths, that the loops ask for. -/
def baseDuty (s : State) (p : Nat) : Nat := max (s.power.thermDuty.get 0 p) (s.power.loopDuty.get 0 p)
/-- Divider code and duty with the protections on top (R622). -/
def effDiv (s : State) (p : Nat) : Nat := if s.power.hot.contains p then 3 else min 3 (baseDiv s p + s.power.steps)
def effDuty (s : State) (p : Nat) : Nat := if s.power.hot.contains p then 14 else min 14 (baseDuty s p + 4 * s.power.steps)

/-- Bring a Pavilion's divider and duty up to date. -/
def refresh (s : State) (p : Nat) : State :=
  updPower (orderDiv s p (effDiv s p)) (fun w => { w with duty := w.duty.put 0 p (effDuty s p) })
/-- All Pavilions. -/
def refreshAll (s : State) : State := pavs.foldl refresh s

/-- A protection acts on a Pavilion: on a pinned one the action is counted (R622). -/
def protect (s : State) (p : Nat) : State := refresh (if pavPinned s p then bump s (pg clsPWR 0) 0x58 else s) p

/-- Are the main rails up? -/
def railsUp (s : State) : Bool := decide (s.power.mode ≤ 2 ∨ s.power.mode = 5)

/-- A die's temperature, and its highest since module reset. -/
def setTemp (s : State) (d v : Nat) : State :=
  updPower s (fun w => { w with temp := w.temp.put 0 d v, tmax := w.tmax.upd 0 d (fun m => max m v) })

/-! ### Start-up (R634, R635) -/

/-- What a module reset keeps: the retirement record, the firmware slots and the fuses (R629), and what lies outside the module. -/
def baseState (s : State) : State :=
  { State.reset with
    pending := s.pending, part := s.part, hostMem := s.hostMem, out := s.out, fresh := s.fresh, noiseCount := s.noiseCount
    fw := { slotA := s.fw.slotA, slotB := s.fw.slotB, active := s.fw.active, pending := s.fw.pending, fails := s.fw.fails,
            keys := s.fw.keys, revoked := s.fw.revoked, minSvn := s.fw.minSvn }
    gate := { record := s.gate.record, recordSeq := s.gate.recordSeq }
    power := { temp := s.power.temp, tmax := s.power.temp, watts := s.power.watts, volts := s.power.volts, refOk := s.power.refOk } }

/-- A protective shutdown (R623): the main rails go off; the Gatehouse stays, with its pages and those of power and clocks. -/
def protectiveShutdown (s : State) (cause place : Nat) : State :=
  if s.power.mode = 6 ∨ s.power.mode = 7 then s
  else
    let kept (n : Nat) : Bool := pageCls n == clsGH || pageCls n == clsPWR || pageCls n == clsCLK
    let k (x : Nat) : Bool := kept (x / 65536 / 4096)
    { baseState s with
      regs := { shadow := s.regs.shadow.keep (fun x _ => k x), active := s.regs.active.keep (fun x _ => k x),
                count := s.regs.count.keep (fun x _ => k x), hiLatch := [] }
      pages := s.pages.keep (fun n _ => kept n)
      gate := { s.gate with modReady := false }
      fw := s.fw
      power := { temp := s.power.temp, tmax := s.power.tmax, watts := s.power.watts, volts := s.power.volts, mode := 6, cause, place } }

/-- Apply a retirement-record entry (R598): fences, spares, remapped frames, lanes, and the lost Gatehouse pair. -/
def applyEntry (s : State) (e : RetEntry) : State :=
  let die := e.resource % 32
  let ix := bitsOf e.resource 10 20
  let fence (s : State) (d : Nat) : State := updDom s d (fun x => { x with service := .fenced })
  let show' (s : State) (n : Nat) : State := updPage s n (fun h => { h with fenced := true, retired := true })
  let s := if e.action = 3 ∨ e.action = 4 then degrade s else s
  match bitsOf e.resource 5 5 with
  | 0 => fence s (dCore (32 * die + ix))
  | 1 => match (List.range 64).find? (fun c => physOf s (64 * die + c) == ix) with
    | some c =>
      if e.action = 1 then
        { updChan (markNear s die ix) (64 * die + c) (fun x => { x with st := 2, phys := some e.spare }) with
            spares := s.spares.upd 0 die (fun m => m ||| 1 <<< (e.spare - 64)) }
      else updChan (markNear s die ix) (64 * die + c) (fun x => { x with st := 3 })
    | none => s
  | 2 =>
    let k := 4096 + 64 * (die - 16) + ix
    remapWhole (takeWhole s k) k
  | 3 =>
    let k := 4096 + 64 * (die - 16) + ix / 16384
    let f := ix % 16384
    if e.action = 4 then
      { updChan s k (fun x => { x with frames := f :: x.frames }) with spares := s.spares.upd 0 k (· + 1) }
    else updGate (updChan s k (fun x => { x with fenced := f :: x.fenced, st := 3 })) (fun g => { g with spareExhausted := true })
  | 4 => show' (fence (updLink s ix (fun l => { l with st := 4 })) (dLink ix)) (pg clsLNK ix)
  | 5 => updLink s (ix / 2) (fun l => { l with lanesOut := l.lanesOut ||| 1 <<< (ix % 2) })
  | 6 =>
    let s := fence s (dSmp die ix)
    if domFenced s (dSmp die (1 - ix)) then show' s (pg clsSMP die) else s
  | 7 | 10 => show' (fence s (dOrang (die - 16))) (pg clsFAR (die - 16))
  | 9 => show' (fence s (dPav die)) (pg clsPAV die)
  | 11 => updRng (show' s (pg clsRNG die)) die (fun r => { r with noise := 3 })
  | 12 =>
    if ix = 0 then show' s (pg clsHDG die)
    else if ix = 1 then show' s (pg clsSEL die)
    else show' (fence s (dPav die)) (pg clsPAV die)
  | 13 => updGate s (fun g => { g with degraded := true, pairsLost := g.pairsLost + 1, standbyActive := g.standbyActive || ix == 0 })
  | _ => s

/-- Copies that a retirement of start-up needs are complete before any access is served. -/
def finishCopies (s : State) : Nat → State
  | 0 => s
  | n + 1 =>
    match s.chans.find? (fun e => e.2.copying.isSome) with
    | some e => finishCopies (serveDue (if e.1 < 4096 then nearCopied s e.1 else farCopied s e.1)) n
    | none => s

/-- The firmware's value of an address pair of registers. -/
def fwPair (s : State) (n off a : Nat) : State :=
  setBoth (setBoth s n off 0 (BitVec.ofNat 32 a)) n (off + 4) 0 (BitVec.ofNat 32 (a / 2 ^ 32))

/-- The FW values (R131, R218, R353, R367, R375, R574): module memory areas and translation tables. -/
def firmwareValues (s : State) : State :=
  let s := pavs.foldl (fun s p =>
    let b := nearBase p
    let s := fwPair s (pg clsDSP p) 0x400 (b + 0xFF0000000)
    let s := fwPair s (pg clsROW p) 0x404 (b + 0xFEF000000)
    let s := fwPair s (pg clsROW p) 0x800 (b + 0xF00000000)
    fwPair s (pg clsROW p) 0x808 (b + 0xEC0000000)) s
  let (f, j) := match s.part with | .qxm4T => (0x7E800000000, 0x7F000000000) | .qxm2T => (0x5E800000000, 0x5F000000000)
  let s := setBoth (fwPair (fwPair s (pg clsROW 0) 0x840 f) (pg clsROW 0) 0x848 j) (pg clsROW 0) 0x850 0 4
  fwPair (fwPair s (pg clsHIF 0) 0x400 0x01F80000000) (pg clsHIF 0) 0x408 0x07F80000000

/-- The firmware writes the job's layout and the membership (R527, R532, R534); what is no layout of a torus it leaves at the reset value. -/
def writeLayout (s : State) (b : Boot) : State :=
  if !layoutOk b.topo.toNat then s
  else
    let s := setBoth s (pg clsPE 0) 0x118 0 b.topo
    updGate s (fun g => { g with spares := (List.range (torusSize s)).filter (fun i => b.spares.any (fun x => x.val == i)) })

/-- Memory as the start-up sequence leaves it: nothing listed, nothing poisoned. -/
def emptyMem (s : State) : State := { s with mem := [], lost := [], poison := [], tags := [] }

/-- Steps 7 to 12: the tiers and scratchpads read zero, resources that fail a self-test are retired, the firmware writes its values, and
the module is ready. -/
def startUpEnd (s : State) (b : Boot) : State :=
  let s := cleanChans (finishCopies (b.failed.foldl (fun s r => retireRes s r.toNat 2) (emptyMem s)) 4096)
  let s := pavs.foldl (fun s p => updRng s p (fun r => { r with noise := if r.noise = 3 then 3 else 1 })) s
  let s := writeLayout (firmwareValues s) b
  let (s, x) := takeFree s
  let s := updPower s (fun w => { w with mode := 0, cause := 0, place := 0, pavs := [], zeroing := [], pll := 2 ^ 20 - 1, unlocked := 0, refOk := true,
                                         holdover := false, volts := 400 + x % 201 })
  let s := pavs.foldl (fun s p => applyNext (refresh s p) p) s
  if s.gate.pairsLost < 2 then modReadyUp s else s

/-- Step 3: the slot that the boot ROM boots, if one is accepted, and what the Gatehouse record keeps of a pending slot (R576, R578). -/
def bootSlot (f : Firmware) (b : Boot) : Firmware × Bool :=
  let ok (x : Bool) : Bool := if x then b.slotB else b.slotA
  let first := if f.pending then !f.active else f.active
  if ok first then ({ f with active := first, pending := false, fails := 0, booted := first, recovery := false }, true)
  else
    let f := if !f.pending then f
      else if f.fails + 1 ≥ 3 then { f with pending := false, fails := 0, fallbacks := min 255 (f.fallbacks + 1) }
      else { f with fails := f.fails + 1 }
    if ok (!first) then ({ f with booted := !first, recovery := false }, true) else ({ f with recovery := true }, false)

/-- The start-up sequence from step 2, in a state that `baseState` gives. -/
def startUp (s : State) (b : Boot) : State :=
  let s := updPower s (fun w => { w with mode := 5, cause := 0, place := 0 })
  match b.rail with
  | some r => updPower s (fun w => { w with mode := 6, cause := 4, place := r.val })
  | none =>
    let s := updPower s (fun w => { w with pll := 2 ^ 20 - 1, refOk := true })
    let (f, ok) := bootSlot s.fw b
    let s := { s with fw := f }
    if !ok then s
    else
      let d := (if f.booted then f.slotB else f.slotA).digest
      let s := { s with fw := { s.fw with meas := s.fw.meas.put 0 0 (extendMeas 0 d) } }
      startUpEnd (s.gate.record.foldl applyEntry s) b

/-- Leave TRIPPED (R623): only when every die is below 85 °C and the input within 40–60 V. -/
def leaveTripped (s : State) (b : Boot) : State :=
  if (List.range 20).all (fun d => decide (s.power.temp.get 0 d < 85)) && decide (400 ≤ s.power.volts ∧ s.power.volts ≤ 600) then
    startUp (baseState s) b
  else s

/-- Leave Dormant (R619): steps 7 to 12, without a new boot. -/
def wakeDormant (s : State) (b : Boot) : State := startUpEnd s b

/-- POWER_ON (R634): 48 V is applied. -/
def execPowerOn (b : Boot) (s : State) : Host.Outcome State Fault Refusal := .next (startUp (baseState s) b)

/-- PERST (R619, R623, R629, R634). -/
def execPerst (b : Boot) (s : State) : Host.Outcome State Fault Refusal :=
  .next (match s.power.mode with
    | 3 => wakeRest s
    | 4 => wakeDormant s b
    | 6 => leaveTripped s b
    | 7 => s
    | _ => startUp (baseState s) b)

/-- SUPPLY_REMOVED (R674): what flash does not hold is lost. Mode 7, which PWR.STATE never shows, stands for no supply. -/
def execSupplyRemoved (s : State) : Host.Outcome State Fault Refusal :=
  .next { baseState s with power := { mode := 7 } }

/-! ### Wakes of the module (R619) -/

/-- A wake source reaches the module. -/
def moduleWake (s : State) (w : Wake) (b : Boot) : State :=
  match s.power.mode with
  | 1 | 2 => if w = .perst then s else wakeHold s
  | 3 => if w = .datagram then s else wakeRest s
  | 4 => if w = .smbus ∨ w = .perst then wakeDormant s b else s
  | 6 => if w = .smbus ∨ w = .perst then leaveTripped s b else s
  | _ => s

/-- MODULE_WAKE (R619). -/
def execModuleWake (w : Wake) (b : Boot) (s : State) : Host.Outcome State Fault Refusal := .next (moduleWake s w b)

/-- HOST_STATE (R581). -/
def hostState (s : State) : Nat :=
  b2n s.gate.modReady + 2 * b2n s.fw.recovery + 4 * b2n s.pcie.up0 + 8 * b2n s.pcie.flit0 + 16 * s.pcie.width0 + 128 * s.pcie.rate0 +
  1024 * b2n s.pcie.up1 + 2048 * b2n s.pcie.flit1 + 4096 * s.pcie.width1 + 32768 * s.pcie.rate1 + 262144 * b2n s.fw.booted

/-- Bytes 0 to 43 of the carrier EEPROM (R683). -/
def eepromHead (s : State) : List Byte :=
  let part : List Nat := [0x51, 0x58, 0x4D, 0x31, 0x34, 0x31, 0x36, 0x2D] ++
    (match s.part with | .qxm4T => [0x34] | .qxm2T => [0x32]) ++ [0x54] ++ List.replicate 6 0x20
  part.map (BitVec.ofNat 8) ++ (List.range 12).map (fun i => Config.eepromByte (16 + i)) ++ [0x42, 0x31, 1, 0, 0, 0] ++
    (List.range 10).map (fun i => Config.eepromByte (34 + i))
/-- A byte of the EEPROM. -/
def eeprom (s : State) (a : Nat) : Nat :=
  let h := eepromHead s
  if a < 44 then (h.getD a 0).toNat else if a < 48 then bitsOf (crc32 h) (8 * (a - 44)) 8 else 0

/-- What an SMBus command reads. -/
def smbusAnswer (s : State) : Smbus → List Nat
  | .hostState => [hostState s]
  | .temperature d => [s.power.temp.get 0 d]
  | .power => [s.power.watts, s.power.volts]
  | .replace => [b2n s.gate.replace]
  | .eeprom a => [eeprom s a]

/-- SMBUS_COMMAND (R579, R619, R623, R683): it is answered, and wakes the module; the EEPROM is a device of its own. -/
def execSmbusCommand (c : Smbus) (b : Boot) (s : State) : Host.Outcome State Fault Refusal :=
  .next (match c with
    | .eeprom a => emit s (.answer 0 (smbusAnswer s (.eeprom a)))
    | _ =>
      if s.power.mode = 7 then s
      else
        moduleWake (emit s (.answer 0 (smbusAnswer s c))) .smbus b)

/-! ### Droop and duty (R612, R627) -/

/-- DROOP (R612): n CORE cycles are stretched. -/
def execDroop (p : Fin 16) (n : Fin 1025) (s : State) : Host.Outcome State Fault Refusal :=
  .next (if pavAsleep s p then s else addCnt s (pg clsPWR 0) 0x40 0 n)

/-- DUTY_WINDOW (R627): of each frame of 16 windows D are held, evenly spread. -/
def execDutyWindow (p : Fin 16) (s : State) : Host.Outcome State Fault Refusal :=
  .next (if pavAsleep s p then s
    else
      let w := (s.power.window.get 0 p + 1) % 16
      let d := s.power.duty.get 0 p
      let held := decide ((w + 1) * d / 16 ≠ w * d / 16)
      let s := { updPower s (fun x => { x with window := x.window.put 0 p w }) with dutyHeld := s.dutyHeld.put false p held }
      if held then addCnt s (pg clsDSP p) 0xAC 0 1024 else s)

/-! ### Protections (R622, R623, R673) -/

/-- THERMAL_HOT (R622). -/
def execThermalHot (die : Fin 20) (s : State) : Host.Outcome State Fault Refusal :=
  .next (if !railsUp s || s.power.hot.contains die.val then s
    else
      let (s, x) := takeFree s
      let s := bump (setTemp (updPower s (fun w => { w with hot := die.val :: w.hot })) die (105 + x % 10)) (pg clsPWR 0) 0x64
      if die.val < 16 then protect s die else s)

/-- HOT_RELEASE (R622). -/
def execHotRelease (die : Fin 20) (s : State) : Host.Outcome State Fault Refusal :=
  .next (if !s.power.hot.contains die.val then s
    else
      let (s, x) := takeFree s
      let s := setTemp (updPower s (fun w => { w with hot := w.hot.filter (· != die.val) })) die (x % 100)
      if die.val < 16 then refresh s die else s)

/-- THERMAL_TRIP (R622). -/
def execThermalTrip (die : Fin 20) (s : State) : Host.Outcome State Fault Refusal :=
  .next (
    let (s, x) := takeFree s
    protectiveShutdown (setTemp s die (115 + x % 85)) 1 die)

/-- One step of the electrical protection. -/
def electricalStep (s : State) : State :=
  if s.power.steps ≥ 4 then updPower s (fun w => { w with clear := 0 })
  else pavs.foldl protect (updPower s (fun w => { w with steps := w.steps + 1, clear := 0 }))

/-- ELECTRICAL_OVERLOAD (R622). -/
def execElectricalOverload (s : State) : Host.Outcome State Fault Refusal := .next (if railsUp s then electricalStep s else s)

/-- ELECTRICAL_PROTECTION_PERIOD (R622): 20 µs have passed; fifty clear periods release a step. -/
def execElectricalProtectionPeriod (still : Bool) (s : State) : Host.Outcome State Fault Refusal :=
  .next (if !railsUp s || s.power.steps == 0 then s
    else if still then electricalStep s
    else if s.power.clear + 1 ≥ 50 then refreshAll (updPower s (fun w => { w with steps := w.steps - 1, clear := 0 }))
    else updPower s (fun w => { w with clear := w.clear + 1 }))

/-- INPUT_VOLTAGE_FAULT (R622, R673): a voltage outside 40–60 V. -/
def execInputVoltageFault (s : State) : Host.Outcome State Fault Refusal :=
  .next (if s.power.mode = 4 ∨ s.power.mode ≥ 6 then s
    else
      let (s, x) := takeFree s
      let v := x % 823
      protectiveShutdown (updPower s (fun w => { w with volts := if v < 400 then v else v + 201 })) 2 0)

/-! ### Loops (R624, R625) -/

/-- A Pavilion above the limit: a divider step, or, pinned or at ÷8, duty. -/
def thermalSlow (s : State) (p : Nat) : State :=
  refresh (updPower s (fun w =>
    if pavPinned s p ∨ baseDiv s p = 3 then { w with thermDuty := w.thermDuty.put 0 p (min 14 (baseDuty s p + 1)) }
    else { w with thermDiv := w.thermDiv.put 0 p (baseDiv s p + 1) })) p
/-- A Pavilion that has cooled: a step of duty, or of the divider, is released. -/
def thermalRelease (s : State) (p : Nat) : State :=
  refresh (updPower s (fun w =>
    if w.thermDuty.get 0 p > 0 then { w with thermDuty := w.thermDuty.upd 0 p (· - 1) } else { w with thermDiv := w.thermDiv.upd 0 p (· - 1) })) p

/-- The thermal loop's period for a die. -/
def thermalDie (s : State) (die t : Nat) : State :=
  let s := setTemp s die t
  let lim := bitsOf (actN s (pg clsPWR 0) 0x118) 0 7
  if s.power.mode ≠ 0 then s
  else if t > lim then
    let s := updPower s (fun w => { w with cool := w.cool.put 0 die 0 })
    if die < 16 then thermalSlow s die else updPower s (fun w => { w with throttle := w.throttle.upd 0 (die - 16) (fun n => min 15 (n + 1)) })
  else if t + 3 ≤ lim then
    let n := s.power.cool.get 0 die + 1
    let s := updPower s (fun w => { w with cool := w.cool.put 0 die n })
    if n < 10 then s
    else if die < 16 then thermalRelease s die
    else updPower s (fun w => { w with throttle := w.throttle.upd 0 (die - 16) (· - 1) })
  else updPower s (fun w => { w with cool := w.cool.put 0 die 0 })

/-- MEM cycles of a 1 ms period (R608). -/
def memPeriod : Nat := 1066666

/-- THERMAL_LOOP_PERIOD (R624). -/
def execThermalLoopPeriod (temps : BitVec 160) (s : State) : Host.Outcome State Fault Refusal :=
  .next (if s.power.mode = 7 then s
    else
      let s := (List.range 20).foldl (fun s d => thermalDie s d (bitsOf temps.toNat (8 * d) 8)) s
      if s.power.mode ≠ 0 then s
      else (List.range 4).foldl (fun s o =>
        let n := s.power.throttle.get 0 o
        if n = 0 then s else addCnt s (pg clsPWR 0) 0x48 0 (n * memPeriod / 16)) s)

/-- The Pavilion of the list with the largest (or least) power; among equals the lowest index. -/
def pickPower (pw : Nat → Nat) (most : Bool) : List Nat → Option Nat
  | [] => none
  | p :: r => match pickPower pw most r with
    | none => some p
    | some q => if (if most then pw q > pw p else pw q < pw p) then some q else some p

/-- Slow up to n unpinned Pavilions in descending order of power. -/
def slowPavs (pw : Nat → Nat) : Nat → List Nat → State → State
  | 0, _, s => s
  | n + 1, l, s => match pickPower pw true l with
    | some p => slowPavs pw n (l.filter (· != p)) (refresh (updPower s (fun w => { w with loopDiv := w.loopDiv.put 0 p (baseDiv s p + 1) })) p)
    | none => s

/-- The power loop above the cap by e watts. -/
def powerOver (s : State) (pw : Nat → Nat) (e : Nat) : State :=
  let live := pavs.filter (fun p => !domFenced s (dPav p))
  let free := live.filter (fun p => !pavPinned s p && baseDiv s p != 3)
  let duty := live.filter (fun p => pavPinned s p && decide (baseDuty s p < 14))
  if free ≠ [] then slowPavs pw (ceilDiv e 20) free s
  else if duty ≠ [] then
    duty.foldl (fun s p => bump (refresh (updPower s (fun w => { w with loopDuty := w.loopDuty.put 0 p (baseDuty s p + 1) })) p) (pg clsPWR 0) 0x5C) s
  else bump s (pg clsPWR 0) 0x60

/-- The power loop below 98 % of the cap for ten periods. -/
def powerUnder (s : State) (pw : Nat → Nat) : State :=
  let duty := pavs.filter (fun p => pavPinned s p && s.power.loopDuty.get 0 p != 0)
  let free := pavs.filter (fun p => !pavPinned s p && !domFenced s (dPav p) &&
    decide (s.power.loopDiv.get 0 p > max (pavCeil s p) (s.power.thermDiv.get 0 p)))
  match duty with
  | p :: _ => refresh (updPower s (fun w => { w with loopDuty := w.loopDuty.upd 0 p (· - 1) })) p
  | [] => match pickPower pw false free with
    | some p => refresh (updPower s (fun w => { w with loopDiv := w.loopDiv.upd 0 p (· - 1) })) p
    | none => s

/-- POWER_LOOP_PERIOD (R625): input power averaged over 1 ms, input voltage, and each Pavilion's measured power. -/
def execPowerLoopPeriod (watts : BitVec 13) (dv : BitVec 10) (pw : BitVec 256) (s : State) : Host.Outcome State Fault Refusal :=
  .next (if s.power.mode = 7 then s
    else
      let s := updPower s (fun w => { w with watts := watts.toNat, volts := dv.toNat })
      let cap := 10 * bitsOf (profileWord s) 18 9
      let of (p : Nat) : Nat := bitsOf pw.toNat (16 * p) 16
      if s.power.mode ≠ 0 then s
      else if watts.toNat > cap then powerOver (updPower s (fun w => { w with calm := 0 })) of (watts.toNat - cap)
      else if 100 * watts.toNat < 98 * cap then
        let s := updPower s (fun w => { w with calm := w.calm + 1 })
        if s.power.calm < 10 then s else powerUnder s of
      else updPower s (fun w => { w with calm := 0 }))

/-! ### Clocks (R611) -/

/-- PLL_LOCK_LOSS (R611). -/
def execPllLockLoss (die : Fin 20) (s : State) : Host.Outcome State Fault Refusal :=
  .next (if !railsUp s || !bitOf s.power.pll die then s
    else
      let s := bump s (pg clsCLK 0) 0x40
      let s := updPower s (fun w => { w with pll := w.pll - 1 <<< die.val, unlocked := w.unlocked ||| 1 <<< die.val })
      if die.val < 16 then pavReset s die
      else
        let o := die.val - 16
        let s := (List.range 4).foldl (fun s g => groupReset s o g) s
        (List.range 16).foldl (fun s i => linkReset s (16 * o + i)) s)

/-- PLL_RELOCK (R611): `ok`, or 1 ms has passed without one. -/
def execPllRelock (die : Fin 20) (ok : Bool) (s : State) : Host.Outcome State Fault Refusal :=
  .next (if !bitOf s.power.unlocked die then s
    else if ok then updPower s (fun w => { w with pll := w.pll ||| 1 <<< die.val, unlocked := w.unlocked - 1 <<< die.val })
    else if die.val < 16 then s
    else fenceOrang s (die.val - 16) false false)

/-- REFERENCE_LOSS (R611): the PLLs hold their frequency. -/
def execReferenceLoss (s : State) : Host.Outcome State Fault Refusal :=
  .next (if s.power.refOk then updPower s (fun w => { w with refOk := false, holdover := true }) else s)
/-- REFERENCE_RESTORED (R611). -/
def execReferenceRestored (s : State) : Host.Outcome State Fault Refusal :=
  .next (if s.power.mode = 7 then s else updPower s (fun w => { w with refOk := true, holdover := false }))
/-- REFERENCE_HOLDOVER_EXPIRY (R611). -/
def execReferenceHoldoverExpiry (s : State) : Host.Outcome State Fault Refusal :=
  .next (if s.power.holdover then protectiveShutdown s 3 0 else s)

end Sys2Proof.Machine
end

