-- ==== Sys2Proof/Machine/Host.lean ====
section
/-!
DEFINITION. The host interface (R564 to R582): doorbells, ring fetches, completion queues, function resets, the aperture, host
translation, MSI-X, PCIe configuration and links, and firmware update.
-/
namespace Sys2Proof.Machine
open Sys2Proof

/-- The HIF page. -/
def hif : Nat := pg clsHIF 0

/-- An access to a BAR wakes a module that is in Hold or Nap (R619). -/
def barAccess (s : State) : State := wokenBy s .pf

/-- Change a submission queue. -/
def updSq (s : State) (q : Nat) (f : SQ → SQ) : State := { s with sqs := s.sqs.upd {} q f }
/-- Change a completion queue. -/
def updCq (s : State) (c : Nat) (f : CQ → CQ) : State := { s with cqs := s.cqs.upd {} c f }

/-! ### Doorbells (R565, R567) -/

/-- A doorbell write that is dropped. -/
def dropBell (s : State) : State := raiseEvt (bump s hif 0x64) hif 2
/-- A doorbell write that acts. -/
def bell (s : State) : State := bump s hif 0x60

/-- Do writes of the function to the queue's doorbell page act? -/
def bellActs (s : State) (q f : Nat) : Bool := s.gate.modReady && qOwner s q == f

/-- A tail is judged against the enabled ring, and moves the queue's tail or is dropped. -/
def takeTail (s : State) (q v : Nat) : State :=
  if v ≥ qEntries s q then dropBell s else bell (updSq s q (fun x => { x with tail := BitVec.ofNat 16 v, stalled := false }))

/-- SQ_TAIL (R567, R574). -/
def execSqTail (q : Fin 256) (f : Fin 8) (v : Word) (s : State) : Host.Outcome State Fault Refusal :=
  .next (
    let s := barAccess s
    if !bellActs s q f then dropBell s
    else if qEnabled s q then takeTail s q (v.toNat % 65536)
    else bell (updSq s q (fun x => { x with kept := x.kept ++ [v.setWidth 16] })))

/-- The kept tails are judged, in the order of their writes, when their queue is enabled. -/
def judgeKept (s : State) (q : Nat) : State :=
  (s.sqs.get {} q).kept.foldl (fun s v =>
    if v.toNat ≥ qEntries s q then dropBell s else updSq s q (fun x => { x with tail := v, stalled := false }))
    (updSq s q (fun x => { x with kept := [] }))

/-- The head has passed a record: the FAULTED task that it reports is acknowledged (R106). -/
def ackRecord (s : State) (r : CRec) : State :=
  let n := r.toNat
  let h := bitsOf n 64 36
  let t := slot s (hSlot h)
  if t.code = bitsOf n 32 16 ∧ t.index = bitsOf n 100 16 ∧ sqKey t.queue = bitsOf n 16 8 then ackFault s (hSlot h) (hGen h) else s

/-- CQ_HEAD (R106, R567, R572): frees every record before the new head, which acknowledges the faults that they report; what the ring
was held for is then written. A head that no record of the ring stands before is dropped. -/
def execCqHead (q : Fin 256) (f : Fin 8) (v : Word) (s : State) : Host.Outcome State Fault Refusal :=
  .next (
    let s := barAccess s
    let c := qCq s q
    let x := s.cqs.get {} c
    let e := cqEntries s c
    let h := v.toNat % 65536
    let n := (h + e - x.head.toNat) % e
    if !bellActs s q f || decide (h ≥ e ∨ x.head.toNat ≥ e) then dropBell s
    else
      -- a full ring whose every record has been read is freed by the head that it shows
      let n := if n = 0 ∧ x.posted.length ≥ e then e else n
      if n > x.posted.length then dropBell s
      else
        let s := bell (updCq s c (fun x => { x with head := BitVec.ofNat 16 h, posted := x.posted.drop n, blocked := false }))
        releaseHeld ((x.posted.take n).foldl ackRecord s) c x.held.length)

/-! ### Fetching (R567, R572, R574) -/

/-- May the queue fetch? Not while it is disabled, stopped by a translation failure, its completion queue holds a record, or its oldest
command waits for a slot, a flow entry or a position (R60); nor while the job is halted, the module only forwards, or no Gatehouse pair works
(R553, R554, R600). -/
def mayFetch (s : State) (q : Nat) : Bool :=
  s.gate.modReady && s.power.mode == 0 && qEnabled s q && !(s.sqs.get {} q).stalled && !s.gate.halted && !s.gate.forwardOnly && decide (s.gate.pairsLost < 2) &&
  (s.cqs.get {} (qCq s q)).held == [] && !headStalls s q

/-- An entry of the ring: its word, or false where it stands on an address that cannot be read. -/
def readEntry (s : State) (q i : Nat) : State × Option Cmd :=
  let a := qBase s q + 64 * i
  if bitOf (qReg s q 0x10C) 1 then
    match readLocal (16 + bitsOf (cqReg s (qCq s q) 0x158) 18 1) a 64 3 s with
    | .ok l s => (s, some (BitVec.ofNat 512 (leNat l)))
    | .error _ s => (s, none)
  else match rdHost s a 64 with
    | (s, .ok l) => (bump s hif 0x50 64, some (BitVec.ofNat 512 (leNat l)))
    | (s, .error _) => (raiseEvt s hif 3, none)

/-- Is the ring in memory that does not serve now, or behind a port that carries no traffic, so that its fetch waits? -/
def ringWaits (s : State) (q : Nat) : Bool :=
  let a := qBase s q + 64 * (s.sqs.get {} q).head.toNat
  asleep s a || memService s a == .resetting

/-- Fetch up to n entries from the head. -/
def fetchEntries (s : State) (q : Nat) : Nat → State
  | 0 => s
  | n + 1 =>
    let x := s.sqs.get {} q
    match readEntry s q x.head.toNat with
    | (s, none) => updSq s q (fun x => { x with stalled := true })
    | (s, some w) =>
      let next : BitVec 16 := if x.head.toNat + 1 = qEntries s q then 0 else x.head + 1
      fetchEntries (bump (updSq s q (fun x => { x with head := next, fetched := x.fetched ++ [w] })) hif 0x40) q n

/-- RING_FETCH (R567, R574): one read of up to 64 entries. -/
def execRingFetch (q : Fin 256) (s : State) : Host.Outcome State Fault Refusal :=
  .next (
    let x := s.sqs.get {} q
    let e := qEntries s q
    if !mayFetch s q || ringWaits s q then s
    else fetchEntries s q (min 64 (min ((x.tail.toNat + e - x.head.toNat % e) % e) (e - x.head.toNat))))

/-! ### Completion queues (R572, R573) -/

/-- COMPLETION_RECORD (R572): the oldest held record is written, if it can be. -/
def execCompletionRecord (c : Fin 256) (s : State) : Host.Outcome State Fault Refusal := .next (releaseHeld s c 1)

/-- CQ_COAL_TIMER (R573): TIME µs have passed since the first unsignalled record. -/
def execCqCoalTimer (c : Fin 256) (s : State) : Host.Outcome State Fault Refusal :=
  .next (if bitsOf (cqReg s c 0x164) 8 8 ≠ 0 ∧ (s.cqs.get {} c.val).timer then cqSignal s c true else s)

/-! ### Function resets (R568, R629) -/

/-- What the reset of its function does to a task. -/
def orphanTask (s : State) (key : Nat) : State :=
  let t := slot s key
  match t.st with
  | .free => s
  | .waiting => freeSlot (leaveFlows s key t) key
  | .ready =>
    if t.saved then updSlot s key (fun t => { t with orphan := true })
    else freeSlot { leaveFlows s key t with heads := s.heads.mapAll none (fun _ h => if h.map (·.1) = some key then none else h) } key
  | .running | .preempted | .doneHeld => updSlot s key (fun t => { t with orphan := true })
  | .done => leaveDone s key
  | .faulted => freeSlot s key

/-- Disable a queue or completion queue. -/
def disableCfg (s : State) (off i : Nat) : State :=
  let off1 (v : Word) : Word := v &&& 0xFFFFFFFE#32
  setAct (setSh s hif off i (off1 (getSh s hif off i))) hif off i (off1 (getAct s hif off i))

/-- Slot keys of the tasks accepted from a set of queues. -/
def tasksFrom (s : State) (mine : Nat → Bool) : List Nat :=
  (s.slots.filter (fun e => match e.2.queue with | .host q => e.2.st != .free && !e.2.orphan && mine q.val | .gate => false)).map (·.1)

/-- Reset of the functions of a set. -/
def resetFunctions (s : State) (f : Nat → Bool) : State :=
  let mine (q : Nat) : Bool := f (qOwner s q)
  let mineC (c : Nat) : Bool := f (bitsOf (cqReg s c 0x158) 15 3)
  let s1 := (tasksFrom s mine).foldl orphanTask s
  let s1 := ((List.range 256).filter mine).foldl (fun s q => disableCfg s 0x10C q) s1
  let s1 := ((List.range 256).filter mineC).foldl (fun s c => disableCfg s 0x158 c) s1
  settleJob { s1 with sqs := s1.sqs.keep (fun q _ => !mine q), cqs := s1.cqs.keep (fun c _ => !mineC c),
                      msix := s1.msix.keep (fun k _ => !f (k / 256)) }

/-- FUNCTION_LEVEL_RESET (R568): the PF's resets every function, and with it SR-IOV VF Enable. -/
def execFunctionLevelReset (f : Fin 8) (s : State) : Host.Outcome State Fault Refusal :=
  .next (if f.val = 0 then { resetFunctions s (fun _ => true) with pcie := { s.pcie with vfEnable := false, numVfs := 0 } }
    else resetFunctions s (fun x => x == f.val))

/-- HOT_RESET (R629): the functions, which both ports present (R565). -/
def execHotReset (_port : Fin 2) (s : State) : Host.Outcome State Fault Refusal :=
  .next { resetFunctions s (fun _ => true) with pcie := { s.pcie with vfEnable := false, numVfs := 0 } }

/-! ### The aperture (R569, R570) -/

/-- Local address of an aperture offset. -/
def aptAddr (s : State) (off : Nat) : Nat := bitsOf (actN s hif 0x170) 4 8 * 2 ^ 36 + off

/-- Bytes of an access that are populated memory: those before the end of the scratchpads. -/
def aptLen (s : State) (off len : Nat) : Nat :=
  let a := aptAddr s off
  if a ≥ spBase then min len (512 * 2 ^ 22 - min (512 * 2 ^ 22) (a - spBase)) else len

/-- Does a write touch a range that the aperture may not write (R569)? The translation tables are not among them (R575). -/
def aptForbidden (s : State) (r : Range) : Bool :=
  (stagedRanges s ++ dispAreas s ++ mergeAreas s ++ [spareRange s]).any (overlaps r)

/-- Bytes from an offset to the aperture's end. -/
def aptRoom (off : BitVec 36) : Nat := 2 ^ 36 - off.toNat

/-- APERTURE_READ (R569, R570): answered with its bytes, or with none where the memory cannot give them. -/
def execApertureRead (off : BitVec 36) (len : Nat) (s : State) : Host.Outcome State Fault Refusal :=
  .next (
    let s := barAccess s
    let a := aptAddr s off.toNat
    let len := min len (aptRoom off)
    let n := aptLen s off.toNat len
    if s.power.mode ≠ 0 ∨ (n > 0 ∧ (sleeps s a n ∨ resets s a n)) then s
    else
      let s := if n < len then bump s hif 0x78 else s
      let r := if n = 0 then (s, .ok, []) else serveRead s 16 a n
      emit r.1 (.answer 2 (if r.2.1 = .ok then r.2.2.map BitVec.toNat ++ List.replicate (len - n) 0xFF else [])))

/-- APERTURE_WRITE (R569, R570). -/
def execApertureWrite (off : BitVec 36) (data : List Byte) (s : State) : Host.Outcome State Fault Refusal :=
  .next (
    let s := barAccess s
    let a := aptAddr s off.toNat
    let data := data.take (aptRoom off)
    if s.power.mode ≠ 0 ∨ data = [] ∨ sleeps s a data.length then s
    else if aptLen s off.toNat data.length < data.length ∨ aptForbidden s (a, data.length) then bump s hif 0x78
    else (serveWrite s 16 a data).1)

/-! ### Host translation (R574, R575) -/

/-- Forget the cached entries that a value of XLATE_INV names. -/
def xlateForget (s : State) (v : Nat) : State :=
  let port := bitsOf v 22 1
  { s with xlate := s.xlate.keep (fun k _ => !(k / 2 ^ 20 == port && (bitOf v 23 || k % 2 ^ 20 == v % 2 ^ 20))) }

/-- A write of XLATE_INV. -/
def writeXlateInv (s : State) (v : Nat) : State :=
  if bitOf v 24 then { xlateForget s v with xlateInv := some (BitVec.ofNat 32 v) } else s

/-- XLATE_INV (R575, R581). -/
def execXlateInv (r : Requester) (v : Word) (s : State) : Host.Outcome State Fault Refusal :=
  .next (pageWrite s r hif (fun s => writeXlateInv s v.toNat))

/-- Completion queues that hold records. -/
def cqsHolding (s : State) : List (Nat × Nat) := (s.cqs.filter (fun e => e.2.held != [])).map (fun e => (e.1, e.2.held.length))

/-- XLATE_INV_DONE (R572, R574, R575): stopped fetches and held records are tried again. -/
def execXlateInvDone (s : State) : Host.Outcome State Fault Refusal :=
  .next (match s.xlateInv with
    | none => s
    | some v =>
      let s := { xlateForget s v.toNat with
        xlateInv := none
        sqs := s.sqs.mapAll {} (fun _ q => { q with stalled := false })
        cqs := s.cqs.mapAll {} (fun _ q => { q with blocked := false }) }
      (cqsHolding s).foldl (fun s e => releaseHeld s e.1 e.2) s)

/-! ### Firmware update (R576 to R578, R581) -/

/-- A number of n bytes at an offset of a list (R6). -/
def leAt (l : List Byte) (i n : Nat) : Nat := littleEndian ((l.drop i).take n)

/-- Is an image's header well formed (R576)? -/
def headerOk (h : List Byte) : Bool :=
  h.length == 512 && leAt h 0 4 == 0x31584F51 && leAt h 4 4 == 1 && decide (2 ^ 12 ≤ leAt h 12 4 ∧ leAt h 12 4 ≤ 2 ^ 26) &&
  decide (leAt h 16 4 < 4) && leAt h 20 44 == 0 && leAt h 304 208 == 0

/-- FAIL of an image of header and payload (R577, R581): 0 where it is accepted. -/
def imageFail (f : Firmware) (h p : List Byte) : Nat :=
  let key := leAt h 16 4
  if !headerOk h then 1
  else if sha384 ((h.drop 208).take 96) ≠ f.keys.getD key 0 ∨ bitOf f.revoked key then 2
  else if !ecdsaOk (sha384 (h.take 112)) (leAt h 112 48) (leAt h 160 48) (leAt h 208 48, leAt h 256 48) then 3
  else if (sha384 p).toNat ≠ bigEndian ((h.drop 64).take 48) then 4
  else if leAt h 8 4 < f.minSvn then 5
  else 0

/-- Change the firmware's state. -/
def updFw (s : State) (f : Firmware → Firmware) : State := { s with fw := f s.fw }

/-- A write of FW_CTL with COMMIT_SVN (R578): acts once the running image has reached MOD_READY. -/
def commitSvnNow (s : State) : State :=
  if s.gate.modReady then
    updFw s (fun f => { f with minSvn := max f.minSvn (if f.booted then f.slotB else f.slotA).svn })
  else s

/-- A write of FW_CTL (R578): START naming the active slot, or while an update runs, has no effect. -/
def writeFwCtl (s : State) (v : Nat) : State :=
  let s := if bitOf v 2 then commitSvnNow s else s
  if !bitOf v 0 || bitOf v 1 == s.fw.active || s.fw.state == 1 || s.fw.state == 2 then s
  else updFw s (fun f => { f with state := 1, fail := 0, target := bitOf v 1, stage := shN s hif 0x174 + shN s hif 0x178 * 2 ^ 32 })

/-- FW_START (R578). -/
def execFwStart (r : Requester) (v : Word) (s : State) : Host.Outcome State Fault Refusal :=
  .next (pageWrite s r hif (fun s => writeFwCtl s v.toNat))

/-- COMMIT_SVN (R578). -/
def execCommitSvn (r : Requester) (s : State) : Host.Outcome State Fault Refusal := .next (pageWrite s r hif (fun s => writeFwCtl s 4))

/-- FAIL of the staged image, its SVN, key and measurement. -/
def stagedImage (s : State) : Nat × FwSlot :=
  let a := s.fw.stage
  let h := if popRange s a 512 then rdBytes s a 512 else []
  let n := leAt h 12 4
  if !headerOk h || !popRange s a (512 + n) then (1, {})
  else
    let p := rdBytes s (a + 512) n
    (imageFail s.fw h p, { svn := leAt h 8 4, key := leAt h 16 4, digest := sha384 (h ++ p) })

/-- FW_UPDATE_DONE (R577, R578): `flashOk`, the flash could be written and read back. -/
def execFwUpdateDone (flashOk : Bool) (s : State) : Host.Outcome State Fault Refusal :=
  .next (if s.fw.state ≠ 1 ∧ s.fw.state ≠ 2 then s
    else
      let (fail, img) := stagedImage s
      let fail := if fail = 0 ∧ !flashOk then 6 else fail
      let s := updFw s (fun f =>
        if fail ≠ 0 then { f with state := 4, fail }
        else { f with state := 3, fail := 0, pending := true, fails := 0,
                      slotA := if f.target then f.slotA else img, slotB := if f.target then img else f.slotB })
      raiseEvt s hif 1)

/-! ### PCIe (R564, R565, R573, R581) -/

/-- The port that carries a vector's interrupts: that of the completion queue that names it, else port 0. -/
def vectorPort (s : State) (f v : Nat) : Nat :=
  match (List.range 256).find? (fun c => let r := cqReg s c 0x158; bitOf r 0 && bitsOf r 7 8 == v && bitsOf r 15 3 == f) with
  | some c => bitsOf (cqReg s c 0x158) 18 1
  | none => 0

/-- A write of a word of an MSI-X table entry: the address's halves, the data, the mask; a vector unmasked is pending no more. -/
def msixWord (word : Nat) (x : Word) (e : Msix) : Msix :=
  match word with
  | 0 => { e with addr := BitVec.ofNat 64 (e.addr.toNat / 2 ^ 32 * 2 ^ 32 + x.toNat) }
  | 1 => { e with addr := BitVec.ofNat 64 (e.addr.toNat % 2 ^ 32 + x.toNat * 2 ^ 32) }
  | 2 => { e with data := x }
  | _ => { e with masked := bitOf x.toNat 0, pending := e.pending && bitOf x.toNat 0 }

/-- MSIX_TABLE_WRITE (R573): word 3 is the vector control, whose bit 0 masks; unmasking a pending vector sends its interrupt. -/
def execMsixTableWrite (f : Fin 8) (v : Fin 256) (word : Fin 4) (x : Word) (s : State) : Host.Outcome State Fault Refusal :=
  .next (
    let s := barAccess s
    let k := f.val * 256 + v.val
    let e := s.msix.get {} k
    let s := { s with msix := s.msix.upd {} k (msixWord word x) }
    if word.val = 3 ∧ e.pending ∧ !bitOf x.toNat 0 then interrupt s f v (vectorPort s f v) else s)

/-- CONFIGURATION_REQUEST (R565, R574): answered 0, or 1 with Configuration Request Retry Status until the module has started; the
PF's SR-IOV capability takes VF Enable and NumVFs, of which NumVFs changes only while VF Enable is clear. -/
def execConfigurationRequest (port : Fin 2) (f : Fin 8) (w : Option (Bool × BitVec 16)) (s : State) : Host.Outcome State Fault Refusal :=
  .next (if !(if port.val = 0 then s.pcie.up0 else s.pcie.up1) || decide (s.power.mode ≥ 6) then s
    else if s.power.mode = 3 ∨ s.power.mode = 4 then emit s (.answer 3 [1])
    else
      let s := match w with
        | some (en, n) =>
          if f.val ≠ 0 then s
          else { s with pcie := { s.pcie with vfEnable := en, numVfs := if s.pcie.vfEnable ∨ n.toNat > 7 then s.pcie.numVfs else n.toNat } }
        | none => s
      emit s (.answer 3 [0]))

/-- PCIE_LINK_CHANGE (R564, R581). -/
def execPcieLinkChange (port : Fin 2) (up flit : Bool) (width : Fin 5) (rate : Fin 6) (s : State) : Host.Outcome State Fault Refusal :=
  .next (if s.power.mode ≥ 6 then s
    else
      let w := if up then width.val else 0
      let r := if up then rate.val else 0
      { s with pcie := if port.val = 0 then { s.pcie with up0 := up, flit0 := up && flit, width0 := w, rate0 := r }
                       else { s.pcie with up1 := up, flit1 := up && flit, width1 := w, rate1 := r } })

end Sys2Proof.Machine
end

