-- ==== Sys2Proof/Machine/Rebuild.lean ====
section
/-!
DEFINITION. The COMMIT record, and the rebuild of a lost role from its buddy's journal (R362, R368, R554): the records sent again,
their replay at the replacement, and JOURNAL itself.
-/
namespace Sys2Proof.Machine
open Sys2Proof

/-! ### The COMMIT record (R368 type 5) -/

/-- Payload of a COMMIT record: c_D, each c_T with its table, and the captured optimizer fields, in a layout of this model's. -/
def commitBytes (x : StepSt) : List Byte :=
  bytesOf x.denseClip 4 ++ bytesOf x.clips.length 4 ++ (x.clips.map (fun e => bytesOf e.1 4 ++ bytesOf e.2 4)).flatten ++
  bytesOf x.opts.length 4 ++ (x.opts.map (fun e => bytesOf e.1 4 ++ bytesOf e.2.length 4 ++ (e.2.map (bytesOf · 8)).flatten)).flatten

/-- A number of n bytes, and the rest. -/
def takeNum (n : Nat) (l : List Byte) : Nat × List Byte := (leNat (l.take n), l.drop n)
/-- n pairs of 4-byte numbers. -/
def takePairs : Nat → List Byte → List (Nat × Nat) × List Byte
  | 0, l => ([], l)
  | n + 1, l =>
    let (a, l) := takeNum 4 l
    let (b, l) := takeNum 4 l
    let (r, l) := takePairs n l
    ((a, b) :: r, l)
/-- n groups of captured fields. -/
def takeOpts : Nat → List Byte → List (Nat × List Nat)
  | 0, _ => []
  | n + 1, l =>
    let (k, l) := takeNum 4 l
    let (c, l) := takeNum 4 l
    (k, (chunks 8 (c + 1) (l.take (8 * c))).map leNat) :: takeOpts n (l.drop (8 * c))

/-- What a COMMIT record carries. -/
def commitOf (num : BitVec 32) (l : List Byte) : StepSt :=
  let (cd, l) := takeNum 4 l
  let (n, l) := takeNum 4 l
  let (clips, l) := takePairs n l
  let (m, l) := takeNum 4 l
  { num, phase := .applying, clips, denseClip := cd, opts := takeOpts m l }

/-! ### The buddy's part (R554 step 7) -/

/-- Bytes of a ring from an offset on. -/
def ringRead (s : State) (base size off n : Nat) : List Byte := (List.range n).map (fun i => rdB s (base + (off + i) % size))

/-- A lost role's buddy sends that role's records of the steps after c to its replacement, but for those that it cannot read (R394). -/
def sendJournal (s : State) (role : Nat) (c : BitVec 32) : State :=
  let (base, size) := journalArea s
  (s.journal.filter (fun r => r.src == role && !serialGe c r.step)).foldl (fun s r =>
    let spans := ringSpans base size r.off r.len
    let (s, bad) := spans.foldl (fun (x : State × Bool) p => let y := meets x.1 p.1 p.2 false; (y.1, x.2 || y.2)) (s, false)
    if bad then s
    else
    let bytes := ringRead s base size r.off r.len
    let (s, tag) := addReq (spans.foldl (fun s p => countMem s 19 p.1 p.2 false 2) s)
      { kind := .journal, home := dRemote role, addr := role * 2 ^ 44, cls := 2, aop := r.kind, words := [19, r.step.toNat, r.len, leNat bytes, 6] }
    journalOut s 19 tag bytes) s

/-- Are records of a rebuild still to be confirmed? -/
def rebuildOpen (s : State) : Bool := (reqList s).any (fun e => e.2.kind == .journal && e.2.words.drop 4 == [6])

/-! ### The replacement's part (R368) -/

/-- Fields of a record's header. -/
def recKind (l : List Byte) : Nat := leNat (l.take 1)
def recStep (l : List Byte) : BitVec 32 := BitVec.ofNat 32 (leNat ((l.drop 4).take 4))
def recOwn (l : List Byte) : Nat := leNat ((l.drop 24).take 40)
def recPayload (l : List Byte) : List Byte := (l.drop 64).take (leNat ((l.drop 8).take 8))

/-- The rows of a step's UPDATE records, combined as at the seal, in the order of R362. -/
def rebuildRows (l : List (List Byte)) : List StageRec :=
  combineFrom none (((l.filter (fun r => recKind r == 1)).map (fun r =>
    let p := recPayload r
    recOf (recOwn r % 2 ^ 192) (leNat p) (p.length / 4))).mergeSort recLe)

/-- Replay a MOVE record's blocks, each from its MOVE_VALUES record of the step where there is one (R368). A rebuilt move is journalled by
no record of its own. -/
def rebuildMove (s : State) (x : StepSt) (vals : List (Nat × List Byte)) (l : List Byte) : State × Bool :=
  let w := leNat (recPayload l) * 2 ^ 128
  let id := s.nextOp
  let s1 := { s with ops := s.ops.put none id (some { opcode := 0x74, eu := .row 0, cmd := BitVec.ofNat 512 w, waits := 2 })
                     moves := s.moves.put none id (some { left := cf w 7 0 17 + 1 }), nextOp := id + 1 }
  let r := applyList (fun s b => moveBlock s (unitOf (entryBase (blockEntry s (table s 0 (cf w 4 0 8)) 0 b))) x
      ((vals.find? (fun v => v.1 == moveOwn (cf w 4 0 8) b)).map (·.2)) id b)
    ((List.range (cf w 7 0 17)).map (cf w 5 0 34 + ·)) s1
  ({ dropOp r.1 id with reqs := s.reqs, nextReq := s.nextReq, jseq := s.jseq, txq := s.txq }, r.2.1 != [])

/-- The moves of a replayed step, each with the MOVE_VALUES records at hand. -/
def rebuildMoves (x : StepSt) (vals : List (Nat × List Byte)) : List (List Byte) → State × Bool → State × Bool
  | [], y => y
  | r :: l, y =>
    let m := rebuildMove y.1 x vals r
    rebuildMoves x vals l (m.1, y.2 || m.2)

/-- The region contributions of a replayed step, written back to their slots. -/
def rebuildGrads (s : State) (l : List (List Byte)) : State :=
  l.foldl (fun s r => let o := recOwn r; wrBytes s ((region s (o % 256)).grad + 4 * (o / 2 ^ 64 % 2 ^ 64)) (recPayload r)) s

/-- The moves of a replayed step, after its regions. -/
def rebuildAfter (x : StepSt) (l : List (List Byte)) (stop : Bool) (b : State × List Nat × List Nat) : State × Bool :=
  rebuildMoves x ((l.filter (fun r => recKind r == 4)).map (fun r => (recOwn r, recPayload r))) (l.filter (fun r => recKind r == 3)) (b.1, stop || b.2.1 != [])

/-- The regions of a replayed step, after its rows. -/
def rebuildRegions (x : StepSt) (l : List (List Byte)) (a : State × List StageRec × List StageRec) : State × Bool :=
  let dense := l.filter (fun r => recKind r == 2)
  rebuildAfter x l (a.2.1 != []) (applyList (fun s => applyRegion s x) ((dense.map (fun r => recOwn r % 256)).eraseDups) (rebuildGrads a.1 dense))

/-- A row of a replayed step is applied by its unit. -/
def rebuildRow (x : StepSt) (r : StageRec) (v : State × Nat × Found) : State × Applied := applyRow v.1 v.2.1 x r

/-- Replay a step that has a COMMIT record (R360, R361); `true` where a domain under reset stops it. -/
def rebuildStep (s : State) (x : StepSt) (l : List (List Byte)) : State × Bool :=
  rebuildRegions x l (applyList (fun s r => rebuildRow x r (updateUnit s r.tbl r.id)) (rebuildRows l) s)

/-- A record of a rebuild arrives at the replacement: kept until its step's COMMIT record, which applies them, or its ABORT record;
`none` while a domain under reset stops the replay. -/
def rebuildRecord (s : State) (l : List Byte) : Option State :=
  let mine (r : List Byte) : Bool := recStep r == recStep l
  let rest (s : State) : State := updGate s (fun g => { g with rebuild := g.rebuild.filter (fun r => !mine r) })
  match recKind l with
  | 5 =>
    match rebuildStep s (commitOf (recStep l) (recPayload l)) (s.gate.rebuild.filter mine) with
    | (_, true) => none
    | (s, false) => some (rest s)
  | 6 => some (rest s)
  | _ => some (updGate s (fun g => { g with rebuild := g.rebuild ++ [l] }))

/-! ### JOURNAL (R367, R368, R370) -/

/-- The bytes of words. -/
def wordBytes (l : List DWord) : List Byte := (l.map (fun w => bytesOf w.toNat 8)).flatten

/-- A record sent again for a rebuild, once whole, takes its place here and is confirmed (R554); `old` is the state in which its last
piece has not arrived. -/
def rebuildArrived (old s : State) (m : Msg) (ep : BitVec 8) : Option (List DWord) → State
  | none => s
  | some l =>
    match rebuildRecord s (wordBytes l) with
    | some s' => reply s' m 0x41 0 ep [0]
    | none => old

/-- A buddy's record is confirmed where it was written, and answered that there is no room where it was not (R367, R370). -/
def recordAnswer (s : State) (m : Msg) (ep : BitVec 8) : Option State → State
  | some s' => reply s' m 0x41 0 ep [0]
  | none => reply s m 0x41 0 ep [3]

/-- A buddy's record, once whole, is written to the journal area and answered. -/
def recordArrived (s : State) (m : Msg) (ep : BitVec 8) : Option (List DWord) → State
  | none => s
  | some l => recordAnswer s m ep (journalWrite s (roleOf s m.src) (wordBytes l))

/-- A record of another module is written here and confirmed, or, in a rebuild, taken; a confirmation's word is 3 where the area lacks
room. -/
def journalArrived (s : State) (i : Nat) (m : Msg) : State :=
  let ep := (dom s (dGroup 3 0)).epoch
  let j := joinParts (takeArrival s i) m
  if bitOf (m.pl 0) 1 then rebuildArrived s j.1 m ep j.2
  else if journalService s = .resetting then reply (takeArrival s i) m 0x41 1 ep []
  else if journalService s = .fenced then reply (takeArrival s i) m 0x41 2 ep []
  else recordArrived j.1 m ep j.2

/-- JOURNAL (R367, R368, R370): a record of this module, or of another. -/
def execJournal (r : HomeReq) (s : State) : Host.Outcome State Fault Refusal :=
  .next (match r with
    | .own tag => journalOwn s tag
    | .arrived i =>
      match arrival s i with
      | some m => if forMe s m 8 ∧ s.power.mode = 0 then onArrival s i m (journalArrived s i m) else s
      | none => s)

end Sys2Proof.Machine
end

