-- ==== Sys2Proof/Machine/Managers.lean ====
section
/-!
DEFINITION. Manager messages (R95, R536 to R541, R692, R693): how one is sent by a queue, taken, answered and sent again; the casts of the
system manager; and what a member, a group manager, the system manager and the standby do on each (R25, R549 to R560).
-/
namespace Sys2Proof.Machine
open Sys2Proof

/- Codes of R563. -/
def mgrProfileMismatch : Nat := 0x0190
def mgrStepOrder : Nat := 0x0191
def mgrHalted : Nat := 0x0192
def mgrNoMirror : Nat := 0x0193
def mgrIncomplete : Nat := 0x0194
def mgrTainted : Nat := 0x0195
def mgrDecided : Nat := 0x0196

/-! ### MGR_MSG (R95, R692) -/

/-- TYPEs that a host may send. -/
def hostTypes : List Nat := [1, 2, 3, 4, 6, 7, 0x0A, 0x0E, 0x10]

/-- The offences of R692 in words 4 to 15 of a host request; its numbers are read through `f` word, bit, width. -/
def hostBad (f : Nat → Nat → Nat → Nat) : List (Nat × Bool) :=
  let ty := f 4 0 8
  let note := f 4 10 1 == 1
  let rsv (w lo n : Nat) : Nat × Bool := (at_ w lo + (lowBit (f w lo n)).getD 0, f w lo n != 0)
  [(at_ 4 0, !hostTypes.contains ty), (at_ 4 8, f 4 8 1 != 0), (at_ 4 9, ty != 4 && f 4 9 1 != 0),
   (at_ 4 10, !([3, 4, 6, 7].contains ty) && note), (at_ 4 11, !(ty == 0x0A || ty == 0x10) && f 4 11 12 != 0), rsv 4 23 9,
   (at_ 5 0, ty == 1 && f 5 0 32 != 0), (at_ 6 0, !note && (f 6 0 32 != 0 || f 7 0 4 != 0)), (at_ 7 4, !note && f 7 4 6 != 0),
   (at_ 7 4, note && decide (f 7 4 6 ≥ 62)), rsv 7 10 22,
   (at_ 8 0 + (lowBit (f 8 0 32)).getD 0, !(ty == 1 || ty == 3) && f 8 0 32 != 0)] ++ (List.range 7).map (fun i => rsv (9 + i) 0 32)

/-- Operand words of MGR_MSG. -/
def mgrSpec : CmdSpec := { fields := (List.range 12).map (fun i => (4 + i, 0, 32)), bad := fun w => hostBad (cf w) }

/-- MGR_MSG (R95): a queue's request is sent to the system manager, and is outstanding until it replies. -/
def execMgrMsg (q : QRef) (b : Body) (s : State) : Host.Outcome State Fault Refusal :=
  .next (queueCmd q 0xA5 b mgrSpec (fun w s =>
    if (match q with | .host n => qOwner s n.val != 0 | .gate => false) then (s, .error { code := fNotPermitted })
    else ((mgrSend s (systemManager s) ((List.range 12).map (fun i => cf w (4 + i) 0 32)) [] (some s.nextOp)).1, .ok 1)) s)

/-! ### Messages that have reached this module (R536, R541) -/

/-- The manager message that a reference names. -/
def mgrAt (s : State) (r : MgrRef) : Option MMsg :=
  match r with
  | .held i => s.gate.inq[i]?
  | .arrived i => (arrival s i).bind (fun m => if forMe s m 0x0A then some (mgrOf m) else none)

/-- The manager messages that came before it. -/
def mgrBefore (s : State) (r : MgrRef) : List MMsg :=
  match r with
  | .held i =>
    let old := ((s.gate.inq[i]?).map (·.behind)).getD []
    s.gate.inq.take i ++ (arrivedMgr s.inbox (ownId s)).filter (fun x => old.contains (x.src, x.num))
  | .arrived i =>
    let key := ((arrival s i).map (fun m => (m.src, m.tag))).getD (0, 0)
    arrivedMgr (s.inbox.take i) (ownId s) ++ s.gate.inq.filter (fun x => !x.behind.contains key)

/-- Types of R539. -/
def mgrKnown (m : MMsg) : Bool := decide (1 ≤ m.type ∧ m.type ≤ 0x12)
/-- Is a message a request of a host, rather than a message of the system manager itself, or its OPEN prepare, which carries a compatibility
level, from a group manager? -/
def isRequest (s : State) (m : MMsg) : Bool := isSm s && (m.src != ownId s || m.req.isSome) && !(m.type == 3 && m.w 10 != 0)
/-- Does the system manager take it as a host's request? -/
def hostAsked (s : State) (m : MMsg) : Bool := isRequest s m && hostTypes.contains m.type
/-- Does the system manager take it in that role: a host's request, or a message of the members to it? -/
def smTakes (s : State) (m : MMsg) : Bool := isSm s && (hostAsked s m || [5, 8, 9, 0x0B, 0x0C].contains m.type)
/-- The system manager's OPEN of a step is under way. -/
def openCast (s : State) : Bool := s.gate.casts.any (fun c => c.type == 3 && !c.relay)
/-- Does a loss wait to be taken? -/
def lossWaits (s : State) : Bool := (s.gate.inq ++ arrivedMgr s.inbox (ownId s)).any (fun x => x.type == 0x0C)

/-- Is it the message's turn? A member takes one sender's messages in order. The system manager takes requests and members' messages in the
order in which they came, but a loss ahead of every request that waits; a request waits while an OPEN is under way (R541). -/
def mgrTurn (s : State) (r : MgrRef) (m : MMsg) : Bool :=
  let ahead := (mgrBefore s r).filter mgrKnown
  if !smTakes s m then ahead.all (fun x => smTakes s x || x.src != m.src)
  else if m.type = 0x0C then ((ahead.filter (smTakes s)).takeWhile (fun x => !hostAsked s x)).isEmpty
  else ahead.all (fun x => !smTakes s x) && !(hostAsked s m && (openCast s || lossWaits s))

/-- Take the message. -/
def takeMgr (s : State) (r : MgrRef) : State :=
  match r with
  | .held i => updGate s (fun g => { g with inq := g.inq.eraseIdx i })
  | .arrived i => takeArrival s i

/-- Reply to a message with a code, 0 for success: in-band, or over management Ethernet as a message of TYPE 0, in this model's layout. -/
def mgrReply (s : State) (m : MMsg) (code : Nat := 0) : State :=
  if m.ether then emit s (.ethernet m.src m.num (mgrWords 0 0 [code]) [])
  else
    let a := mkMsg s { dst := m.src, cls := 0, mtype := 0x41, die := m.die, stream := 3587, tag := m.num, tagEpoch := m.tagEpoch }
      [BitVec.ofNat 64 code]
    if m.src = ownId s then { s with inbox := s.inbox ++ [(64, 0, a)] } else (sendMsg s a).1

/-- Take a message of a row's type in its turn, discard a duplicate (R536), and act on it. -/
def onMgr (s : State) (r : MgrRef) (ok : MMsg → Bool) (act : State → MMsg → State) : State :=
  match mgrAt s r with
  | some m =>
    if !(ok m && mgrTurn s r m) then s
    else if s.gate.forwardOnly then
      (match r with
       | .arrived i => (match arrival s i with | some x => refuseMsg (takeMgr s r) x 3 0 | none => s)
       | .held _ => takeMgr s r)
    else
      let s := bump (takeMgr s r) (pg clsGH 0) 0x40
      if s.gate.seen.contains (m.src, m.num) then s
      else act (updGate s (fun g => { g with seen := ((m.src, m.num) :: g.seen).take 64 })) m
  | none => s

/-- A message of the system manager to a member: acted on and answered. One that this module must take as a host's request is not. -/
def onMember (s : State) (m : MMsg) (act : State → State × Nat) : State :=
  let (s, code) := act s
  mgrReply s m code

/-! ### Casts (R541, R559) -/

/-- Send a message's words and lists to several modules, as one cast. -/
def mgrCast (s : State) (c : MCast) (lists : List (List Nat)) (dsts : List Nat) : State :=
  let (s, nums) := dsts.foldl (fun (y : State × List Nat) d =>
    lists.foldl (fun (y : State × List Nat) l => let (s, n) := mgrSend y.1 d c.words l; (s, n :: y.2)) y) (s, [])
  updGate s (fun g => { g with casts := g.casts ++ [{ c with left := nums }] })

/-- A message without a list. -/
def noList : List (List Nat) := [[]]
/-- Every module of the job in service, spares included. -/
def everyone (s : State) : List Nat := members s ++ s.gate.spares.filter (fun x => !s.gate.gone.contains x)
/-- The spares that may take a lost module's place, ascending: in service, under their own id, and given to no other (R555). -/
def freeSpares (s : State) : List Nat :=
  (s.gate.spares.filter (fun x => !s.gate.gone.contains x && !s.gate.aliases.any (fun a => a.1 == x) &&
    !s.gate.casts.any (fun c => c.type == 0x0F && bitsOf (c.words.getD 4 0) 12 12 == x))).mergeSort (fun a b => decide (a ≤ b))

/-- Cast a message to the standby first, and to the others once it has confirmed it (R559). -/
def castFirst (s : State) (c : MCast) (dsts : List Nat) : State :=
  match standbyManager s with
  | some b => mgrCast s { c with next := dsts.filter (· != b) } noList [b]
  | none => mgrCast s c noList dsts

/-- Signal a task that a request names (R552). -/
def notify (s : State) (t : Option (BitVec 42)) : State := match t with | some t => sendTarget s t 16 0 | none => s
/-- Answer the request that a cast serves. -/
def answerCast (s : State) (c : MCast) (code : Nat := 0) : State := match c.req with | some m => mgrReply s m code | none => s

/-- Change the system manager's entry of a step. -/
def updSm (s : State) (n : BitVec 32) (f : SmStep → SmStep) : State :=
  updGate s (fun g => { g with steps := g.steps.map (fun x => if x.num = n then f x else x) })
/-- The system manager's entry of a step. -/
def smStep (s : State) (n : BitVec 32) : Option SmStep := s.gate.steps.find? (fun x => x.num = n)

/-! ### Opening a step (R549, R550) -/

/-- Send OPEN prepare to the members, through the group managers. -/
def startOpen (s : State) (m : MMsg) : State :=
  mgrCast s { left := [], type := 3, step := m.step, req := some m, words := mgrWords 3 m.step [m.w 8, profileWord s, 1] } noList
    ((groups s).filterMap (groupManager s))

/-- Is an OPEN held or under way? -/
def opening (s : State) : Bool := s.gate.heldOpen.isSome || openCast s

/-- Accept, hold or refuse an OPEN that no other OPEN precedes. -/
def acceptOpen (s : State) (m : MMsg) : State :=
  if m.step ≠ s.lastOpen + 1 then mgrReply s m mgrStepOrder
  else if s.gate.halted then mgrReply s m mgrHalted
  else if s.gate.noMirror ≠ [] then mgrReply s m mgrNoMirror
  else if s.gate.steps.any (fun x => x.num = m.step - 2) then updGate s (fun g => { g with heldOpen := some m })
  else startOpen s m

/-- A step has ended at every member: a held OPEN may go on. -/
def stepGone (s : State) (n : BitVec 32) : State :=
  let s := updGate s (fun g => { g with steps := g.steps.filter (fun x => x.num != n) })
  match s.gate.heldOpen with
  | some m => acceptOpen (updGate s (fun g => { g with heldOpen := none })) m
  | none => s

/-! ### Deciding a step (R359, R548, R551, R552) -/

/-- A clip factor from a squared norm and its threshold (R359). -/
def clipOf (sum norm : Nat) : Nat :=
  let n := sqrt32 (to32 (ofFa40 sum))
  if (of32 norm).isZero || (of32 n).le (of32 norm) then 0x3F800000 else div32 norm n

/-- The tree over the groups of the torus (R540). -/
def overGroups (s : State) (f : Nat → Nat) : Nat := (treeRoot addFa40 7 ((List.range (torusSize s / 64 + 1)).map f)).headD 0
/-- The acknowledgement of a group. -/
def ackOf (l : List Ack) (k : Nat) : Option Ack := l.find? (fun a => a.mod == k)

/-- The tables that a list of acknowledgements names, ascending. -/
def ackTables (l : List Ack) : List Nat := ((l.flatMap (fun a => a.sums.map (·.1))).eraseDups).mergeSort (fun a b => decide (a ≤ b))
/-- A table's sum in an acknowledgement; +0.0 without one. -/
def ackSum (l : List Ack) (k t : Nat) : Nat := (((ackOf l k).bind (fun a => a.sums.find? (fun e => e.1 == t))).map (·.2)).getD 0

/-- c_D, and the list of c_T entries (R539 type 6). -/
def factorsOf (s : State) (x : SmStep) : Nat × List Nat :=
  (clipOf (overGroups s (fun k => ((ackOf x.acks k).map (·.dense)).getD 0)) x.clip,
   (ackTables x.acks).map (fun t => clipOf (overGroups s (fun k => ackSum x.acks k t)) (actN s (pg clsROW 0) 0x220 t) + t * 2 ^ 32))

/-- COMMIT's or DECISION's lists, 26 entries to a message. -/
def listsOf (l : List Nat) : List (List Nat) := if l = [] then noList else chunks 26 (l.length / 26 + 1) l

/-- Send the decision to the members: COMMIT with its factors, or ABORT. -/
def sendDecision (s : State) (x : SmStep) : State :=
  let s := updSm s x.num (fun x => { x with confirmed := true, left := members s })
  if x.decision = 1 then
    mgrCast s { left := [], type := 6, step := x.num, words := mgrWords 6 x.num [x.cD, x.factors.length] } (listsOf x.factors) (members s)
  else mgrCast s { left := [], type := 7, step := x.num, words := mgrWords 7 x.num } noList (members s)

/-- The commit point: the standby has confirmed the decision, or there is none. -/
def decided (s : State) (n : BitVec 32) : State :=
  match smStep s n with
  | some x => sendDecision (match x.req with | some m => mgrReply s m | none => s) x
  | none => s

/-- Signal the task that SEAL names, once (R552). -/
def noteSeal (s : State) (n : BitVec 32) : State :=
  match smStep s n with
  | some x => updSm (notify s x.sealNote) n (fun x => { x with sealNote := none })
  | none => s

/-- Decide a step: 1 COMMIT, 2 ABORT, of which SEAL's task is told. -/
def decide' (s : State) (x : SmStep) (d : Nat) (req : Option MMsg) : State :=
  let s := if d = 2 then noteSeal s x.num else s
  let (cD, factors) := if d = 1 then factorsOf s x else (0, [])
  let s := updSm s x.num (fun x => { x with decision := d, req, cD, factors, endNote := req.bind MMsg.notify })
  match standbyManager s with
  | some b => mgrCast s { left := [], type := 0x12, step := x.num, words := mgrWords 0x12 x.num [d, factors.length, cD] } (listsOf factors) [b]
  | none => decided s x.num

/-- Every acknowledgement is in, or the step is tainted: SEAL's task is told, and AUTO acts (R552). -/
def allAcked (s : State) (x : SmStep) : Bool := (groups s).all (fun k => (ackOf x.acks k).isSome)
def smTainted (x : SmStep) : Bool := x.tainted || x.acks.any (fun a => bitsOf a.flags 0 2 != 0)
def ackedAll (s : State) (n : BitVec 32) : State :=
  match smStep s n with
  | some x =>
    if x.phase = 1 ∧ allAcked s x ∧ x.decision = 0 then
      let s := noteSeal s n
      if x.auto then decide' s x (if smTainted x then 2 else 1) none else s
    else s
  | none => s

/-! ### The members' part -/

/-- The pending profile becomes the active one (R25). -/
def activateProfile (s : State) : State :=
  match s.gate.profile with
  | some w => bump (updGate (setAct s (pg clsGH 0) 0x10C 0 (BitVec.ofNat 32 w)) (fun g => { g with profile := none })) (pg clsGH 0) 0x4C
  | none => s

/-- A commit of the GH[0] page: HEARTBEAT becomes active, PROFILE becomes the pending profile (R25, R653). -/
def commitGh (s : State) : State :=
  updGate (setAct s (pg clsGH 0) 0x118 0 (getSh s (pg clsGH 0) 0x118 0)) (fun g => { g with profile := some (shN s (pg clsGH 0) 0x10C) })

/-- Would GH[0].PROFILE reject the word (R657)? -/
def profileBad (w : Nat) : Bool :=
  (bitOf w 0 && bitOf w 1) || bitsOf w 2 4 == 0 || bitsOf w 6 4 == 0 || bitsOf w 10 4 == 0 || bitsOf w 14 4 == 0 ||
  decide (bitsOf w 18 9 < 100 ∨ bitsOf w 18 9 > 320)

/-- Whom a stage acknowledgement goes to. -/
def ackTo (s : State) : Nat := (groupManager s (roleId s / 64)).getD (systemManager s)

/-- Send a stage acknowledgement, 26 entries to a message (R540). -/
def sendAck (s : State) (dst : Nat) (a : Ack) : State :=
  let words := mgrWords 5 a.step [a.rows, a.flags, a.mask % 2 ^ 32, a.mask / 2 ^ 32, a.missing, a.dense % 2 ^ 32, a.dense / 2 ^ 32, a.sums.length] false a.mod
  (listsOf (a.sums.map (fun e => e.2 + e.1))).foldl (fun s l => (mgrSend s dst words l).1) s

/-- A sealed step whose every record is mirrored is acknowledged (R356, R358). -/
def tryAck (s : State) : State :=
  s.steps.foldl (fun s x =>
    let waits := (reqList s).any (fun e => e.2.kind == .journal && (e.2.aop == 1 || e.2.aop == 2) && e.2.words.getD 1 0 == x.num.toNat)
    if x.phase = .sealed ∧ !x.acked ∧ !waits then
      let a : Ack := { mod := roleId s, step := x.num, rows := min x.rows (2 ^ 32 - 1), flags := b2n x.overflow + 2 * b2n x.tainted,
                       mask := x.regions.foldl (fun m r => m ||| 1 <<< r) 0, missing := min x.missing (2 ^ 32 - 1), dense := x.dense,
                       sums := x.sums }
      sendAck (updStep s x.num (fun x => { x with acked := true })) (ackTo s) a
    else s) s

/-- A member seals a step (R357): windows never flushed are discarded and taint it. -/
def memberSeal (s : State) (step : BitVec 32) : State :=
  if !stepOpen s step then s
  else
    let par := step.toNat % 2
    let s := if s.mwins.any (fun e => e.1 % 2 == par && e.2 != []) then taint { s with mwins := s.mwins.keep (fun k _ => k % 2 != par) } step else s
    let s := sealHomes s step
    let dense := (List.range 256).foldl (fun a k => addFa40 a ((s.sqSlots.get none (par * 256 + k)).getD 0)) 0
    tryAck (updStep s step (fun x => { x with phase := .sealed, dense }))

/-- What ends with a step at the module, besides the step: the profile's boundary and the job (R25, R657). -/
def stepEnded (s : State) : State := settleJob (activateProfile s)

/-- A member receives COMMIT: once every entry is there, the optimizer fields are captured and the COMMIT record is journalled (R360,
R362). One already applied is reported again. -/
def memberCommit (s : State) (m : MMsg) : State :=
  match stepOf s m.step with
  | some x =>
    if x.phase ≠ .sealed then s
    else
      let clips := x.clips ++ m.list.map (fun v => (bitsOf v 32 8, bitsOf v 0 32))
      let x := { x with clips, denseClip := m.w 8 }
      if clips.length < m.w 9 then updStep s m.step (fun _ => x)
      else
        let x := { x with opts := captureOpts s x, phase := .applying }
        journal (updStep s m.step (fun _ => x)) 19 5 m.step 0 (commitBytes x) [3]
  | none => if serialGe s.applied m.step then (mgrSend s (systemManager s) (mgrWords 8 m.step)).1 else s

/-- A member receives ABORT: the step is discarded, unless it is committed or gone (R364, R551). -/
def memberAbort (s : State) (step : BitVec 32) : State :=
  match stepOf s step with
  | some x => if x.phase = .applying then s else stepEnded (journal (stepDiscard s step) 19 6 step 0 [] [5])
  | none => s

/-- The module's step is applied: told to the system manager (R363, R550). -/
def reportApplied (s : State) (x : StepSt) : State :=
  stepEnded (mgrSend (stepApplied s x) (systemManager s) (mgrWords 8 x.num)).1

/-- A_m, and every A_h, become a step. -/
def setApplied (s : State) (n : BitVec 32) : State :=
  (List.range 20).foldl (fun s u => updHome s u (fun h => { h with applied := n })) { s with applied := n }

/-- A_m is moved to a step: bit 63 is set of the tasks whose step it has reached, and what waited for it goes on (R37). -/
def reachStep (s : State) (n : BitVec 32) : State :=
  let s := setApplied s n
  let s := s.slots.foldl (fun s e => if e.2.st = .free ∨ !serialGe n e.2.step then s else applySet s e.1 e.2.gen (1#64 <<< 63)) s
  pavs.foldl rowPump (releaseRows s)

/-- JOB_START at a module (R539): the group manager of group 0 is system manager (R535), and the alias table is cleared (R556). -/
def memberStart (s : State) (n : BitVec 32) : State :=
  reachStep (updGate { s with lastOpen := n } (fun g => { g with started := true, halted := false, reason := 0, aliases := [], sm := none })) n

/-- Free the journal records of a CHECKPOINT (R370, R557): of every module, or of one. -/
def memberCheckpoint (s : State) (role : Nat) (c : BitVec 32) : State :=
  if role = 0xFFF then { s with journal := s.journal.filter (fun r => !serialGe c r.step), jckpt := c }
  else updGate (journalFree s role c) (fun g => { g with noMirror := g.noMirror.filter (· != role) })

/-- Module W's journal is restarted: what awaited the lost mirror goes on without it (R369, R557). -/
def memberMirror (s : State) : State :=
  let s := updGate { s with jseq := 0 } (fun g => { g with noMirror := (roleId s :: g.noMirror).eraseDups })
  tryAck (((reqList s).filter (fun e => e.2.kind == .journal)).foldl (fun s e => journalDone s e.1) s)

/-- Segments of the axes that lie beside a module on this module's rings: axis and segment (R520). -/
def besideSegs (s : State) (x : Nat) : List (Nat × Nat) :=
  (List.range 4).filterMap (fun a =>
    let (o, c, n) := (ownCoord s a, idCoord s x a, axisLen s a)
    if (List.range 4).all (fun b => b == a || ownCoord s b == idCoord s x b) ∧ o ≠ c then
      (if (c + 1) % n = o then some (a, c) else if (o + 1) % n = c then some (a, o) else none)
    else none)
/-- Write RING_DOWN of the segments beside a module: marked, or cleared. -/
def ringMark (s : State) (x : Nat) (down : Bool) : State :=
  (besideSegs s x).foldl (fun s e =>
    let p := pg clsPE (2 * e.1)
    let v := actN s p 0x114
    setBoth s p 0x114 0 (BitVec.ofNat 32 (if down then v ||| 1 <<< e.2 else v - v &&& (1 <<< e.2)))) s

/-- Manager messages to a module that has left are dropped; a stage acknowledgement goes to who has its group now (R559). -/
def dropOut (s : State) (x : Nat) : State :=
  let gone := s.gate.outq.filter (fun o => o.dst == x)
  let nums := gone.map (fun o => o.msg.num)
  let s := updGate s (fun g =>
    { g with outq := g.outq.filter (fun o => o.dst != x), casts := g.casts.map (fun c => { c with left := c.left.filter (!nums.contains ·) }) })
  (gone.filter (fun o => o.msg.type == 5)).foldl (fun s o => (mgrSend s (if o.msg.module = 0xFFF then systemManager s else ackTo s) o.msg.words o.msg.list).1) s

/-- HALT at a module (R553, R554), with its host event (DESIGN CHOICE, log entry 76: bit 0 of GH[0]): the loss of a module is held in the
membership and in the record; the lost module itself only forwards from now on. -/
def memberHalt (s : State) (m : MMsg) : State :=
  let x := m.module
  let s := raiseEvt (updGate s (fun g => { g with halted := true, reason := m.w 8 })) (pg clsGH 0) 0
  if x = 0xFFF then s
  else if x = roleId s then updGate s (fun g => { g with forwardOnly := true })
  else if s.gate.gone.contains x then s
  else
    let wasSm := x == systemManager s
    let s := updGate s (fun g => { g with gone := g.gone ++ [x], sm := if wasSm then some (roleOf s m.src) else g.sm })
    let s := addRecord (collLost (dropOut s x) x) (resource 20 14 x) 2 2 0xFFFF
    if m.w 8 = 3 then ringMark s x true else s

/-- REMAP at a module (R555, R556). -/
def memberRemap (s : State) (m : MMsg) : State :=
  let (x, t, same) := (bitsOf (m.w 8) 0 12, bitsOf (m.w 8) 12 12, bitOf (m.w 8) 24)
  let s := updGate s (fun g => { g with gone := g.gone.filter (· != x) ++ (if same then [] else [t]), spares := g.spares.filter (· != t) })
  if same then ringMark s x false
  else
    let old := s.gate.aliases
    let new := if old.any (fun a => a.1 == x) then old.map (fun a => if a.1 = x then (x, t) else a) else old ++ [(x, t)]
    updGate s (fun g => { g with aliases := new })

/-- RESUME at a module (R554, R558); a replacement's shards stand at the base step. -/
def memberResume (s : State) (n : BitVec 32) : State :=
  let s := updGate { s with replay := true, lastOpen := n } (fun g => { g with halted := false, reason := 0 })
  if roleId s ≠ ownId s ∧ !serialGe s.applied n then reachStep s n else s

/-! ### Losing a module (R553 to R560) -/

/-- The buddy of a role (R367). -/
def buddyOf (s : State) (x : Nat) : Option Nat :=
  let (d, m, p, g) := (idCoord s x 0, idCoord s x 1, idCoord s x 2, idCoord s x 3)
  if axisLen s 3 ≥ 2 then some (coordId s d m p ((g + 1) % axisLen s 3))
  else if axisLen s 0 ≥ 2 then some (coordId s ((d + 1) % axisLen s 0) m p g)
  else none

/-- Is the journal of a lost role, this one or an earlier one, gone with its buddy (R560)? -/
def journalGone (s : State) (x : Nat) : Bool :=
  s.gate.lost.any (fun l => buddyOf s l.1 == some x || buddyOf s x == some l.1)

/-- A COMMIT that the standby has not confirmed is given up: its request is refused as decided otherwise (R551). -/
def withdrawCommit (s : State) (x : SmStep) : State :=
  let s := updGate s (fun g => { g with casts := g.casts.filter (fun c => !(c.type == 0x12 && c.step == x.num)) })
  match x.req with | some m => mgrReply s m mgrDecided | none => s

/-- Abort the steps that have not reached their commit point (R551). -/
def abortOpen (s : State) : State :=
  s.gate.steps.foldl (fun s x =>
    if x.decision = 0 then decide' s x 2 none
    else if x.decision = 1 ∧ !x.confirmed then decide' (withdrawCommit s x) x 2 none
    else s) s

/-- Must another module stand in for a lost one: a role, or a spare that is a role's buddy (R534, R554)? -/
def needsStandIn (s : State) (x : Nat) : Bool := !s.gate.spares.contains x || (members s).any (fun w => buddyOf s w == some x)

/-- The HALT reason of a loss: 1, or why no replacement can be named (R554, R556, R560). -/
def haltReason (s : State) (x : Nat) (total : Bool) : Nat :=
  if journalGone s x then 4
  else if total then 3
  else if !needsStandIn s x then 1
  else if (freeSpares s).filter (· != x) = [] then 2
  else if s.gate.aliases.length ≥ 64 ∧ !(s.gate.aliases.any (fun a => a.1 == x)) then 5
  else 1

/-- Send REMAP for a lost module (R555). -/
def sendRemap (s : State) (x t : Nat) (same : Bool) : State :=
  castFirst s { left := [], type := 0x0F, words := mgrWords 0x0F 0 [x + t * 2 ^ 12 + b2n same * 2 ^ 24] false x }
    (everyone s ++ (if same then [x] else []))
/-- Send HALT for a lost module to the standby, then to the others (R554, R559). -/
def sendHalt (s : State) (x reason : Nat) (dsts : List Nat) : State :=
  let c : MCast := { left := [], type := 0x0D, words := mgrWords 0x0D 0 [reason] false x }
  match standbyManager (updGate s (fun g => { g with gone := x :: g.gone })) with
  | some b => mgrCast s { c with next := dsts.filter (· != b) } noList [b]
  | none => mgrCast s c noList dsts

/-- Committed steps that every member left has applied end: COMMIT's task is told (R549, R552). -/
def settleApplied (s : State) : State :=
  s.gate.steps.foldl (fun s x => if x.decision = 1 ∧ x.confirmed ∧ x.left = [] then stepGone (notify s x.endNote) x.num else s) s

/-- The system manager declares a loss, of a role or of a spare: undecided steps are aborted, the job is halted (R551, R553, R554). A total
loss is told with reason 3 before the reason that keeps the job from going on. -/
def declareLost (s : State) (x : Nat) (total : Bool) : State :=
  if !(everyone s).contains x ∨ s.gate.lost.any (fun l => l.1 == x && l.2.isNone) then s
  else if x = roleId s then updGate s (fun g => { g with forwardOnly := true })
  else
    let reason := haltReason s x total
    let all := everyone s
    let s := match s.gate.heldOpen with | some m => mgrReply (updGate s (fun g => { g with heldOpen := none })) m mgrHalted | none => s
    let s := updGate s (fun g => { g with lost := g.lost ++ [(x, none)], gone := g.gone ++ [x],
                                          steps := g.steps.map (fun y => { y with left := y.left.filter (· != x) }) })
    let s := settleApplied (abortOpen (dropOut s x))
    -- the module itself learns of a role loss from the HALT
    let s := updGate s (fun g => { g with gone := g.gone.filter (· != x) })
    (if total ∧ reason ≠ 3 then [3, reason] else [reason]).foldl (fun s why => sendHalt s x why (all.filter (fun d => !(total && d == x)))) s

/-- HALT has reached everyone: a role loss is followed by REMAP to the lowest free spare; with none, the job stays halted (R554, R555). -/
def haltDone (s : State) (x reason : Nat) : State :=
  if reason ≠ 1 then s
  else if !needsStandIn s x then updGate s (fun g => { g with lost := g.lost.filter (fun l => l.1 != x) })
  else match freeSpares s with
    | t :: _ => sendRemap s x t false
    | [] => sendHalt s x 2 (everyone s)

/-- REMAP has reached everyone: the replacement is noted, of a role until its rebuild, and the module whose buddy was lost restarts its
journal (R557). -/
def remapped (s : State) (x t : Nat) : State :=
  let lost := if s.gate.spares.contains x then s.gate.lost.filter (fun l => l.1 != x)
    else s.gate.lost.map (fun l => if l.1 = x then (x, some t) else l)
  let s := updGate s (fun g => { g with lost })
  match (members s).find? (fun w => buddyOf s w == some x && w != x) with
  | some w => mgrCast (updGate s (fun g => { g with noMirror := (w :: g.noMirror).eraseDups })) { left := [], type := 0x11, words := mgrWords 0x11 0 } noList [w]
  | none => s

/-! ### The ends of casts -/

/-- A cast that every module has answered. -/
def castDone (s : State) (c : MCast) : State :=
  if c.next ≠ [] then mgrCast s { c with next := [] } noList c.next
  else if c.relay then answerCast s c c.code
  else match c.type with
  | 3 =>
    if bitOf (c.words.headD 0) 8 then
      (match c.req with | some m => mgrReply (notify s m.notify) m | none => s)
    else if c.code ≠ 0 then answerCast s c mgrProfileMismatch
    else if s.gate.halted ∨ s.gate.lost.any (fun l => l.2.isNone) then answerCast s c mgrHalted
    else
      let clip := c.words.getD 4 0
      mgrCast (updGate s (fun g => { g with steps := g.steps ++ [{ num := c.step, clip }] }))
        { c with left := [], code := 0, words := mgrWords 3 c.step [clip, c.words.getD 5 0, c.words.getD 6 0] true } noList (members s)
  | 0x12 => decided s c.step
  | 7 =>
    match smStep s c.step with
    | some x => stepGone (notify s x.endNote) c.step
    | none => s
  | 0x0D => haltDone s (bitsOf (c.words.headD 0) 11 12) (c.words.getD 4 0)
  | 0x0F => remapped s (bitsOf (c.words.getD 4 0) 0 12) (bitsOf (c.words.getD 4 0) 12 12)
  | 0x10 => answerCast (updGate s (fun g => { g with lost := g.lost.filter (fun l => l.1 != bitsOf (c.words.headD 0) 11 12 || l.2.isNone) })) c
  | _ => answerCast s c

/-- Finish the casts that nothing is left of. -/
def castsSettle (s : State) : Nat → State
  | 0 => s
  | n + 1 =>
    match s.gate.casts.find? (fun c => c.left == []) with
    | some c => castsSettle (castDone (updGate s (fun g => { g with casts := g.casts.eraseP (fun c => c.left == []) })) c) n
    | none => s

/-- What the system manager has begun goes on as far as it can. -/
def smSettle (s : State) : State := castsSettle s 64

/-- FIELD_POS of a request that the system manager refuses as reserved (R74): the lowest bad bit of a profile word, or DENSE_CLIP. -/
def refusedPos (m : MMsg) : Nat :=
  let w := m.w 8
  let bad : List (Nat × Bool) := [(0, bitOf w 0 && bitOf w 1), (2, bitsOf w 2 4 == 0), (6, bitsOf w 6 4 == 0), (10, bitsOf w 10 4 == 0),
    (14, bitsOf w 14 4 == 0), (18, decide (bitsOf w 18 9 < 100 ∨ bitsOf w 18 9 > 320)), (27 + (lowBit (bitsOf w 27 5)).getD 0, bitsOf w 27 5 != 0)]
  at_ 8 (if m.type = 1 then ((bad.find? (·.2)).map (·.1)).getD 0 else 0)

/-- A manager message is answered (R536): a host request completes or faults, a cast loses one of its numbers. -/
def mgrReplied (s : State) (num code : Nat) : State :=
  match s.gate.outq.find? (fun o => o.msg.num == num) with
  | none => s
  | some o =>
    let s := bump (updGate s (fun g => { g with outq := g.outq.filter (fun o => o.msg.num != num) })) (pg clsGH 0) 0x40
    match o.msg.req with
    | some id =>
      (match getOp s id with
       | some op =>
         if code = 0 then opAnswered s id
         else
           let q := match op.iss with | .queue q => q | .thread _ => .gate
           qFault (dropOp s id) q op.cursor 0xA5 { code, pos := if code = fReservedField then refusedPos o.msg else 0 }
       | none => s)
    | none =>
      smSettle (updGate s (fun g => { g with casts := g.casts.map (fun c =>
        if c.left.contains num then { c with left := c.left.filter (· != num), code := max c.code code } else c) }))

/-! ### The rows: requests of hosts and messages of the system manager -/

/-- A type whose host request the system manager checks and casts. -/
def hostCast (s : State) (m : MMsg) (refuse : Nat) (c : MCast) (dsts : List Nat) : State :=
  if refuse ≠ 0 then mgrReply s m refuse else smSettle (mgrCast s { c with req := some m } noList dsts)

/-- PROFILE (R25, R539, R693). -/
def execProfile (r : MgrRef) (s : State) : Host.Outcome State Fault Refusal :=
  .next (onMgr s r (fun m => m.type == 1) (fun s m =>
    if isRequest s m then
      hostCast s m (if profileBad (m.w 8) || bitsOf (m.w 8) 27 5 != 0 then fReservedField else 0)
        { left := [], type := 1, words := mgrWords 1 0 [m.w 8] } (everyone s)
    else onMember s m (fun s =>
      (raiseEvt (updPage (commitGh (setSh s (pg clsGH 0) 0x10C 0 (BitVec.ofNat 32 (m.w 8)))) (pg clsGH 0) (fun p => { p with result := 1 })) (pg clsGH 0) 31, 0))))

/-- No job runs in test mode (R70): a module then neither starts a job nor opens a step. DESIGN CHOICE (log entry 83): it answers the code
of a request out of order. -/
def unlessTest (f : State → State × Nat) (s : State) : State × Nat := if s.testMode then (s, mgrStepOrder) else f s

/-- JOB_START (R539). -/
def execJobStart (r : MgrRef) (s : State) : Host.Outcome State Fault Refusal :=
  .next (onMgr s r (fun m => m.type == 2) (fun s m =>
    if isRequest s m then
      if s.gate.steps ≠ [] ∨ opening s ∨ s.testMode then mgrReply s m mgrStepOrder
      else
        let s := updGate s (fun g => { g with lost := [], noMirror := [], decisions := [] })
        hostCast s m 0 { left := [], type := 2, step := m.step, words := mgrWords 2 m.step } (everyone s)
    else onMember s m (unlessTest (fun s => (memberStart s m.step, 0)))))

/-- STEP_OPEN (R549, R693): a host's OPEN is accepted, held or refused. -/
def execStepOpen (r : MgrRef) (s : State) : Host.Outcome State Fault Refusal :=
  .next (onMgr s r (fun m => m.type == 3 && isRequest s m) (fun s m =>
    if bitsOf (m.w 8) 23 8 = 255 ∨ (bitOf (m.w 8) 31 ∧ bitsOf (m.w 8) 0 31 ≠ 0) then mgrReply s m fReservedField
    else if opening s ∨ s.testMode then mgrReply s m mgrStepOrder
    else smSettle (acceptOpen s m)))

/-- A member's answer to OPEN prepare (R550 steps 2 and 3). -/
def prepareCode (s : State) (m : MMsg) : Nat :=
  if s.testMode then mgrStepOrder else if m.w 9 ≠ profileWord s ∨ (deterministic s ∧ m.w 10 ≠ 1) then mgrProfileMismatch else 0
/-- The members to whom a group manager passes the system manager's OPEN prepare on. -/
def prepareNext (s : State) (m : MMsg) : List Nat :=
  if isGm s ∧ roleOf s m.src = systemManager s then (groupMembers s (roleId s / 64)).filter (· != roleId s) else []

/-- OPEN_PREPARE (R550 step 2): a group manager answers for its group once its members have answered it. -/
def execOpenPrepare (r : MgrRef) (s : State) : Host.Outcome State Fault Refusal :=
  .next (onMgr s r (fun m => m.type == 3 && !m.phase && !isRequest s m) (fun s m =>
    if prepareNext s m = [] then mgrReply s m (prepareCode s m)
    else smSettle (mgrCast s { left := [], type := 3, step := m.step, words := m.words, req := some m, code := prepareCode s m, relay := true } noList
      (prepareNext s m))))

/-- OPEN_GO (R550 step 4). -/
def execOpenGo (r : MgrRef) (s : State) : Host.Outcome State Fault Refusal :=
  .next (onMgr s r (fun m => m.type == 3 && m.phase && !isRequest s m) (fun s m =>
    onMember s m (unlessTest (fun s => ({ s with lastOpen := m.step, steps := s.steps ++ [{ num := m.step }] }, 0)))))

/-- STEP_SEAL (R357, R550 steps 6 and 7). -/
def execStepSeal (r : MgrRef) (s : State) : Host.Outcome State Fault Refusal :=
  .next (onMgr s r (fun m => m.type == 4) (fun s m =>
    if isRequest s m then
      match smStep s m.step with
      | some x =>
        if x.phase ≠ 0 ∨ x.decision ≠ 0 then mgrReply s m mgrStepOrder
        else hostCast (updSm s m.step (fun x => { x with phase := 1, auto := m.auto, sealNote := m.notify })) m 0
          { left := [], type := 4, step := m.step, words := mgrWords 4 m.step } (members s)
      | none => mgrReply s m mgrStepOrder
    else onMember s m (fun s => (memberSeal s m.step, 0))))

/-- STAGE_ACK's fields, with the list of this message. -/
def ackFields (m : MMsg) (mod : Nat) : Ack :=
  { mod, step := m.step, rows := m.w 8, flags := m.w 9, mask := m.w 10 + m.w 11 * 2 ^ 32, missing := m.w 12, dense := m.w 13 + m.w 14 * 2 ^ 32,
    sums := m.list.map (fun v => (v % 256, v - v % 256)) }

/-- Acknowledgements of a group combined (R540). -/
def combineAcks (l : List Ack) (g : Nat) (step : BitVec 32) : Ack :=
  let leaf (f : Nat → Nat) : Nat := (treeRoot addFa40 7 ((List.range 64).map (fun i => f (64 * g + i)))).headD 0
  { mod := 0xFFF, step, rows := min (l.foldl (fun n a => n + a.rows) 0) (2 ^ 32 - 1), flags := l.foldl (fun n a => n ||| a.flags) 0,
    mask := l.foldl (fun n a => n ||| a.mask) 0, missing := min (l.foldl (fun n a => n + a.missing) 0) (2 ^ 32 - 1),
    dense := leaf (fun i => ((ackOf l i).map (·.dense)).getD 0),
    sums := (ackTables l).map (fun t => (t, leaf (fun i => ackSum l i t))) }

/-- A whole acknowledgement has come: of a member to its group manager, or of a group to the system manager. -/
def takeStageAck (s : State) (a : Ack) (group : Bool) : State :=
  if group then
    smSettle (ackedAll (updSm s a.step (fun x => { x with acks := x.acks.filter (fun b => b.mod != a.mod) ++ [a] })) a.step)
  else
    let acks := s.gate.acks.filter (fun b => !(b.mod == a.mod && b.step == a.step)) ++ [a]
    let mine := acks.filter (fun b => b.step == a.step)
    let g := roleId s / 64
    if (groupMembers s g).all (fun i => (ackOf mine i).isSome) then
      sendAck (updGate s (fun gt => { gt with acks := acks.filter (fun b => b.step != a.step) })) (systemManager s) (combineAcks mine g a.step)
    else updGate s (fun gt => { gt with acks })

/-- The module whose checksums an acknowledgement brings: a column's manager speaks for its column. -/
def ackMod (s : State) (m : MMsg) : Nat := if m.module == 0xFFF then roleOf s m.src / 64 else m.module
/-- An acknowledgement that belongs to the message's module and step. -/
def sameAck (s : State) (m : MMsg) (b : Ack) : Bool := b.mod == ackMod s m && b.step == m.step
/-- The message's acknowledgement with the checksums that its earlier messages brought. -/
def ackSoFar (s : State) (m : MMsg) : Ack :=
  let new := ackFields m (ackMod s m)
  match s.gate.partAcks.find? (sameAck s m) with
  | some b => { new with sums := b.sums ++ new.sums }
  | none => new

/-- STAGE_ACK (R540): its messages are joined, then taken. -/
def execStageAck (r : MgrRef) (s : State) : Host.Outcome State Fault Refusal :=
  .next (onMgr s r (fun m => m.type == 5) (fun s m =>
    let a := ackSoFar s m
    let others := s.gate.partAcks.filter (fun b => !sameAck s m b)
    let s := mgrReply s m
    if a.sums.length < m.w 15 then updGate s (fun g => { g with partAcks := others ++ [a] })
    else takeStageAck (updGate s (fun g => { g with partAcks := others })) a (m.module == 0xFFF)))

/-- STEP_COMMIT (R551). -/
def execStepCommit (r : MgrRef) (s : State) : Host.Outcome State Fault Refusal :=
  .next (onMgr s r (fun m => m.type == 6) (fun s m =>
    if isRequest s m then
      match smStep s m.step with
      | some x =>
        if x.decision ≠ 0 then mgrReply s m mgrDecided
        else if !allAcked s x then mgrReply (noteSeal s m.step) m mgrIncomplete
        else if smTainted x then mgrReply (noteSeal s m.step) m mgrTainted
        else smSettle (decide' s x 1 (some m))
      | none => mgrReply s m (if serialGe s.lastOpen m.step then mgrDecided else mgrStepOrder)
    else onMember s m (fun s => (memberCommit s m, 0))))

/-- STEP_ABORT (R364, R551): also of a step whose COMMIT the standby has not confirmed. -/
def execStepAbort (r : MgrRef) (s : State) : Host.Outcome State Fault Refusal :=
  .next (onMgr s r (fun m => m.type == 7) (fun s m =>
    if isRequest s m then
      match smStep s m.step with
      | some x =>
        if x.decision = 0 then smSettle (decide' s x 2 (some m))
        else if x.decision = 1 ∧ !x.confirmed then smSettle (decide' (withdrawCommit s x) x 2 (some m))
        else mgrReply s m mgrDecided
      | none => mgrReply s m (if serialGe s.lastOpen m.step then mgrDecided else mgrStepOrder)
    else onMember s m (fun s => (memberAbort s m.step, 0))))

/-- APPLIED (R550 steps 12 and 13). -/
def execApplied (r : MgrRef) (s : State) : Host.Outcome State Fault Refusal :=
  .next (onMgr s r (fun m => m.type == 8) (fun s m =>
    let role := roleOf s m.src
    let s := updSm (mgrReply s m) m.step (fun x => { x with left := x.left.filter (· != role) })
    match smStep s m.step with
    | some x => if x.decision = 1 ∧ x.confirmed ∧ x.left = [] then smSettle (stepGone (notify s x.endNote) m.step) else s
    | none => s))

/-- TAINT (R57). -/
def execTaint (r : MgrRef) (s : State) : Host.Outcome State Fault Refusal :=
  .next (onMgr s r (fun m => m.type == 9) (fun s m => updSm (mgrReply s m) m.step (fun x => { x with tainted := true })))

/-- CHECKPOINT (R370, R557). -/
def execCheckpoint (r : MgrRef) (s : State) : Host.Outcome State Fault Refusal :=
  .next (onMgr s r (fun m => m.type == 0x0A) (fun s m =>
    if isRequest s m then hostCast s m 0 { left := [], type := 0x0A, step := m.step, words := mgrWords 0x0A m.step [] false m.module } (everyone s)
    else onMember s m (fun s => (memberCheckpoint s m.module m.step, 0))))

/-- HEARTBEAT (R536). One from a module whose place was left empty means that its replacement has started (R554 step 4): the system
manager remaps it to its own position; a group manager passes it on. -/
def execHeartbeat (r : MgrRef) (s : State) : Host.Outcome State Fault Refusal :=
  .next (onMgr s r (fun m => m.type == 0x0B) (fun s m =>
    let x := if m.w 9 = 1 then m.module else roleOf s m.src
    let s := mgrReply s m
    if !s.gate.gone.contains x then s
    else if isSm s then
      (if s.gate.lost.contains (x, none) ∧ (s.gate.reason = 3 ∨ s.gate.reason = 4) then smSettle (sendRemap s x x true) else s)
    else if isGm s then (mgrSend s (systemManager s) (mgrWords 0x0B 0 [m.w 8, 1] false x)).1
    else s))

/-- HEARTBEAT_TICK (R536): the interval has passed. -/
def execHeartbeatTick (s : State) : Host.Outcome State Fault Refusal :=
  .next (
    let s := updGate s (fun g => { g with beats := g.beats + 1 })
    if s.gate.forwardOnly then s
    else
      let words := mgrWords 0x0B 0 [s.gate.beats % 2 ^ 32]
      if isSm s then (match standbyManager s with | some b => (mgrSend s b words).1 | none => s)
      else (mgrSend s (manager s) words).1)

/-- HEARTBEAT_MISS (R536, R553): a manager hears nothing from a module for three intervals; `alive`: its links are up and its Gatehouse
answers on management Ethernet. A group manager reports it, a total loss with reason 3, which is this model's. -/
def execHeartbeatMiss (id : Fin 4096) (alive : Bool) (s : State) : Host.Outcome State Fault Refusal :=
  .next (if isSm s then smSettle (declareLost s id.val (!alive))
    else if isGm s then (mgrSend s (systemManager s) (mgrWords 0x0C 0 [if alive then 1 else 3] false id.val)).1
    else s)

/-- LOST (R553). -/
def execLost (r : MgrRef) (s : State) : Host.Outcome State Fault Refusal :=
  .next (onMgr s r (fun m => m.type == 0x0C) (fun s m =>
    let s := mgrReply s m
    if isSm s then smSettle (declareLost s m.module (m.w 8 == 3))
    else (mgrSend s (systemManager s) m.words).1))

/-- HALT (R554). -/
def execHalt (r : MgrRef) (s : State) : Host.Outcome State Fault Refusal :=
  .next (onMgr s r (fun m => m.type == 0x0D) (fun s m => smSettle (mgrReply (memberHalt s m) m)))

/-- RESUME (R554, R558): refused while a lost role has no replacement, or the job can go on only from its last checkpoint. -/
def execResume (r : MgrRef) (s : State) : Host.Outcome State Fault Refusal :=
  .next (onMgr s r (fun m => m.type == 0x0E) (fun s m =>
    if isRequest s m then
      hostCast s m (if s.gate.reason ≥ 4 ∨ s.gate.lost.any (fun l => l.2.isNone) then mgrHalted else 0)
        { left := [], type := 0x0E, step := m.step, words := mgrWords 0x0E m.step } (everyone s)
    else onMember s m (fun s => (memberResume s m.step, 0))))

/-- REMAP (R555, R556). -/
def execRemap (r : MgrRef) (s : State) : Host.Outcome State Fault Refusal :=
  .next (onMgr s r (fun m => m.type == 0x0F) (fun s m => onMember s m (fun s => (memberRemap s m, 0))))

/-- The buddy answers REBUILD once every record has been confirmed. -/
def rebuildSettle (s : State) : State :=
  match s.gate.rebuildReq with
  | some m => if rebuildOpen s then s else mgrReply (updGate s (fun g => { g with rebuildReq := none })) m
  | none => s

/-- REBUILD (R554 step 7): passed to the lost role's buddy, which sends its journal. -/
def execRebuild (r : MgrRef) (s : State) : Host.Outcome State Fault Refusal :=
  .next (onMgr s r (fun m => m.type == 0x10) (fun s m =>
    if isRequest s m then
      hostCast s m 0 { left := [], type := 0x10, step := m.step, words := mgrWords 0x10 m.step [] false m.module } ((buddyOf s m.module).toList)
    else rebuildSettle (updGate (sendJournal s m.module m.step) (fun g => { g with rebuildReq := some m }))))

/-- MIRROR_RESET (R557). -/
def execMirrorReset (r : MgrRef) (s : State) : Host.Outcome State Fault Refusal :=
  .next (onMgr s r (fun m => m.type == 0x11) (fun s m => onMember s m (fun s => (memberMirror s, 0))))

/-- The standby keeps a decision; a decision in several messages gathers their factors (R559). -/
def keepDecision (s : State) (m : MMsg) : State :=
  let old := ((s.gate.decisions.find? (fun d => d.1 == m.step)).map (·.2.2.2)).getD []
  updGate s (fun g => { g with decisions := (g.decisions.filter (fun d => d.1 != m.step) ++ [(m.step, m.w 8, m.w 10, old ++ m.list)]) })

/-- DECISION (R551, R559): the standby records it. -/
def execDecision (r : MgrRef) (s : State) : Host.Outcome State Fault Refusal :=
  .next (onMgr s r (fun m => m.type == 0x12) (fun s m => onMember s m (fun s =>
    (keepDecision s m, 0))))

/-- MGR_RESEND_TIMEOUT (R536): a message unanswered for 50 µs goes over management Ethernet. -/
def execMgrResendTimeout (num : Nat) (s : State) : Host.Outcome State Fault Refusal :=
  .next (match s.gate.outq.find? (fun o => o.msg.num == num) with | some o => if o.ether then s else overEthernet s num | none => s)

/-- The standby takes up a step of its own record as the system manager: one whose commit it knows is decided again. -/
def takeOverStep (s : State) (x : StepSt) : State :=
  let x' : SmStep := { num := x.num, phase := if x.phase = .opened then 0 else 1 }
  match s.gate.decisions.find? (fun d => d.1 == x.num) with
  | some (_, 1, cD, factors) =>
    let y := { x' with decision := 1, cD, factors }
    sendDecision (updGate s (fun g => { g with steps := g.steps ++ [y] })) y
  | _ => updGate s (fun g => { g with steps := g.steps ++ [x'] })

/-- STANDBY_TAKEOVER (R559): the standby has missed three of the system manager's heartbeats: it completes the steps with a COMMIT
decision, aborts the others, and declares the old system manager lost. -/
def execStandbyTakeover (s : State) : Host.Outcome State Fault Refusal :=
  .next (if standbyManager s ≠ some (roleId s) ∨ s.gate.forwardOnly then s
    else
      let old := systemManager s
      let s := updGate s (fun g => { g with sm := some (roleId s) })
      let s := s.steps.foldl takeOverStep s
      smSettle (declareLost s old false))

/-- PROFILE_ACTIVATION (R25): with no step open, the pending profile becomes active within 1 µs. -/
def execProfileActivation (s : State) : Host.Outcome State Fault Refusal := .next (if s.steps = [] then activateProfile s else s)

end Sys2Proof.Machine
end

