-- ==== Sys2Proof/Machine/Monitor.lean ====
section
/-!
DEFINITION. The numerics monitors (R329 to R334): tensor slots, group summaries, NUM_BIND.
-/
namespace Sys2Proof.Machine
open Sys2Proof

/-- Tensor slot k, if bound (R329). -/
def numSlot (s : State) (k : Nat) : Option NumSlot := s.numSlots.get none k

/-- A count of n bits saturates. -/
def satAdd (n a b : Nat) : Nat := min (a + b) (2 ^ n - 1)

/-- A way absorbs a group (R330, R331). -/
def Way.absorb (w : Way) (g : Summary) : Way :=
  let w := { w with seen := satAdd 64 w.seen g.seen, ovf := satAdd 32 w.ovf g.ovf, unf := satAdd 32 w.unf g.unf }
  match g.top with
  | none => { w with zeroGroups := satAdd 32 w.zeroGroups 1 }
  | some e =>
    let i := min (w.href - e).toNat 31
    { w with hist := w.hist.set i (satAdd 32 (w.hist.getD i 0) 1) }

/-- A slot absorbs a group: its way's counts, or UNBOUND_FMT (R330). -/
def NumSlot.absorb (b : NumSlot) (g : Summary) : NumSlot :=
  if b.ways.any (fun w => match w with | some w => w.fmt == g.fmt | none => false) then
    { b with ways := b.ways.map (fun w => w.map (fun w => if w.fmt = g.fmt then w.absorb g else w)) }
  else { b with unboundFmt := satAdd 32 b.unboundFmt g.seen }

/-- A monitor absorbs one summary (R330, R331). -/
def absorb (s : State) (g : Summary) : State :=
  let page := pg clsNUM (g.slot / 256)
  let s := bump s page 0x40
  match numSlot s g.slot with
  | none => bump s page 0x50 g.seen
  | some b => { s with numSlots := s.numSlots.put none g.slot (some (b.absorb g)) }

/-- Absorb every summary of a slot that is on its way. -/
def absorbSlot (s : State) (k : Nat) : State :=
  (s.sums.filter (fun g => g.slot == k)).foldl absorb { s with sums := s.sums.filter (fun g => g.slot != k) }

/-- GROUP_SUMMARY (R330, R334): the i-th summary on its way is absorbed. -/
def execGroupSummary (j : Nat) (s : State) : Host.Outcome State Fault Refusal :=
  .next (match s.sums[j]? with
    | some g => if euServes s (.num (g.slot / 256)) then absorb { s with sums := s.sums.eraseIdx j } g else s
    | none => s)

/-! ### NUM_BIND (R332, R333) -/

/-- Byte w of an operand word. -/
def byteOf (v w : Nat) : Nat := bitsOf v (8 * w) 8

/-- The lowest offending bit of FMT0 to FMT3 (R332): a code that is not 0x00–0x0E, or named twice. -/
def fmtsBad (v : Nat) : List (Nat × Bool) :=
  (List.range 4).map (fun w => (at_ 5 (8 * w), decide (byteOf v w > 0x0E) ||
    (byteOf v w != 0 && (List.range w).any (fun u => byteOf v u == byteOf v w))))

/-- Operand words of NUM_BIND. -/
def bindSpec : CmdSpec :=
  { fields := [(4, 0, 15), (5, 0, 32), (6, 0, 32), (7, 0, 32), (8, 0, 56)],
    bad := fun w =>
      let op := cf w 4 12 2
      let f := cf w 5 0 32
      [(at_ 4 12, op == 3), (at_ 4 14, op != 1 && cf w 4 14 1 != 0), (at_ 5 0, op != 0 && f != 0), (at_ 6 0, op != 0 && cf w 6 0 32 != 0),
       (at_ 7 0, op != 0 && cf w 7 0 32 != 0), (at_ 8 0, op != 1 && cf w 8 0 56 != 0)] ++
      (if op = 0 then fmtsBad f ++ (List.range 4).map (fun i => (at_ 6 (8 * i), byteOf (cf w 6 0 32) i == 0x80 || byteOf (cf w 6 0 32) i == 0x81))
       else []) }

/-- 64 bytes of counts and names, then the histogram, of a way; zero where the way is unused (R333). -/
def wayBytes : Option Way → List Byte
  | none => List.replicate 192 0
  | some w =>
    bytesOf w.seen 8 ++ bytesOf w.ovf 4 ++ bytesOf w.unf 4 ++ bytesOf w.zeroGroups 4 ++ [BitVec.ofNat 8 w.fmt, BitVec.ofNat 8 (toBits 8 w.href)] ++
    List.replicate 42 0 ++ (w.hist.map (fun h => bytesOf h 4)).flatten

/-- The record of SNAPSHOT (R333). -/
def snapshotBytes (k : Nat) (b : Option NumSlot) : List Byte :=
  match b with
  | none => bytesOf k 4 ++ List.replicate 828 0
  | some b => bytesOf k 4 ++ bytesOf b.tag.toNat 4 ++ bytesOf b.unboundFmt 4 ++ bytesOf 1 1 ++ List.replicate 51 0 ++ (b.ways.map wayBytes).flatten

/-- A slot with every count zero. -/
def NumSlot.cleared (b : NumSlot) : NumSlot :=
  { b with unboundFmt := 0, ways := b.ways.map (fun w => w.map (fun w => { fmt := w.fmt, href := w.href })) }

/-- NUM_BIND's effect: the summaries of completed commands are in what it reads or clears (R333). -/
def bindRun (c : Ctx) : Cm Stand := do
  let s ← get
  let k := c.f 4 0 12
  holdIf (!euServes s (.num (k / 256)))
  let out := c.f 8 0 56
  if c.f 4 12 2 = 1 then do
    faultIf (out % 64 ≠ 0) { code := fMisaligned, addr := out }
    access c out 832 1
  modify (fun s => absorbSlot s k)
  let s ← get
  match c.f 4 12 2 with
  | 0 => do
    let ways := (List.range 4).map (fun w =>
      if byteOf (c.f 5 0 32) w = 0 then none else some ({ fmt := byteOf (c.f 5 0 32) w, href := signExt 8 (byteOf (c.f 6 0 32) w) } : Way))
    modify (fun s => { s with numSlots := s.numSlots.put none k (some { tag := BitVec.ofNat 32 (c.f 7 0 32), ways }) })
  | 1 => do
    writeT c out (snapshotBytes k (numSlot s k))
    count (pg clsNUM (k / 256)) 0x54
    if c.b 4 14 then modify (fun s => { s with numSlots := s.numSlots.put none k ((numSlot s k).map NumSlot.cleared) })
  | _ => modify (fun s => { s with numSlots := s.numSlots.put none k none })
  pure (.later 0)

def bindDef : CmdDef :=
  { opc := 0x56, spec := bindSpec, eu := fun core => .num (core / 32), run := bindRun,
    touch := fun c => pure (if c.f 4 12 2 = 1 then [(c.f 8 0 56, 832, true)] else []) }

/-- NUM_BIND (R332). -/
def execNumBind (t : Thr) (b : Body) (s : State) : Host.Outcome State Fault Refusal := .next (issueCmd t b bindDef s)

end Sys2Proof.Machine
end

