-- ==== Sys2Proof/Machine/Views.lean ====
section
/-!
DEFINITION. What a read of a register returns (R7, R9, R138 to R148, R190 to R192, R226, R227, R264 to R266, R307 to R310, R337 to R340,
R372, R373, R403 to R406, R438 to R441, R464, R465, R496 to R499, R526 to R530, R561, R562, R580, R581, R643 to R665).
-/
namespace Sys2Proof.Machine
open Sys2Proof

/-! ### Selectors and pairs -/

/-- Index that a register of a bank is shown for: by HIF.Q_SEL or CQ_SEL, or by the ROW page's TBL_SEL or PRM_SEL. -/
def bankIdx (s : State) (n : Nat) (b : RBank) : Nat :=
  match b with
  | .none => 0
  | .q => shN s hif 0x108
  | .cq => shN s hif 0x154
  | .tbl => shN s n 0x110
  | .prm => shN s n 0x280

/-- Offsets of the _LO registers of a class whose pair is no counter. -/
def loOffs (cls : Nat) : List Nat :=
  match cls with
  | 3 => [0x64, 0x6C, 0x118, 0x120, 0x12C, 0x400]
  | 8 => [0x110]
  | 9 => (List.range 4).flatMap (fun g => (List.range 9).map (fun i => 0x200 + 0x50 * g + 8 * i))
  | 10 => [0x114, 0x11C, 0x128, 0x224, 0x22C, 0x288, 0x290, 0x298, 0x2A0, 0x2C8, 0x404, 0x800, 0x808, 0x840, 0x848]
  | 12 => [0x110]
  | 14 => [0x118]
  | 15 => [0x11C]
  | 16 => [0x40, 0x48, 0x50]
  | 18 => [0x58]
  | 19 => [0x10C]
  | 23 => [0x110, 0x15C, 0x174, 0x400, 0x408]
  | 24 => [0x100]
  | _ => []

/-- Is the register the low half of a 64-bit quantity (R9)? -/
def isLo (n off : Nat) : Bool :=
  (loOffs (pageCls n)).contains off || (match regRow n off with | some r => r.kind == .cnt64 && (pageMap n).any (fun r => r.kind == .cnt64 && r.off == off) | none => false)

/-- Counters of clock cycles and of physical events that no command brings. The model has no clock: each counts a free number of them
between two reads while its page works, from 0 after a reset or a clear, and saturates (R137; DESIGN CHOICE, log entry 67). -/
def timedOffs (cls : Nat) : List Nat :=
  match cls with
  | 2 => [0x48, 0x58, 0x60, 0x68, 0x6C]
  | 3 => [0x64, 0xB0]
  | 4 => [0x50, 0x58]
  | 5 => [0x48, 0x60]
  | 6 => [0x58]
  | 7 => [0x58, 0x68]
  | 8 => [0x48]
  | 9 => [0x58]
  | 10 => [0x60, 0xB0, 0xB8]
  | 11 => [0x58, 0x68, 0x6C]
  | 12 => [0x5C]
  | 13 => [0x48]
  | 14 => [0x50]
  | 15 => [0x50, 0x68, 0x7C]
  | 16 => [0x48, 0x50]
  | 17 => [0x50, 0x58, 0x108]
  | _ => []

/-- Is the register no counter, but a measure of a link (R561) that each read leaves free? -/
def isFree (n off : Nat) : Bool := pageCls n == clsLNK && off == 0x108

/-! ### Engines -/

/-- The slot of page instance p that holds an engine of local core c: a resident task that declared it. -/
def engHolder (s : State) (p c : Nat) (dns : Bool) : Option Nat :=
  (s.slots.find? (fun e => e.1 / 4096 == p && e.2.st == .running && e.2.core == c && (if dns then e.2.engDns else e.2.engSps))).map (·.1 % 4096)

/-- Commands a unit holds, queued or in service. -/
def unitHeld (s : State) (u : EUnit) : Nat := euCount s u
/-- Is a command of the unit in service? -/
def unitBusy (s : State) (u : EUnit) : Bool := (unitOps s u).any (·.2.inService) && unitHeld s u != 0

/-- Low or high half of a 64-bit value. -/
def half (v : Nat) (hi : Bool) : Nat := if hi then bitsOf v 32 32 else v % 2 ^ 32

/-- A named offset and its value, packed from fields: (value, width) from bit 0 up. -/
def pack : List (Nat × Nat) → Nat
  | [] => 0
  | (v, n) :: r => v % 2 ^ n + 2 ^ n * pack r

/-! ### DSP (R138, R140, R144 to R148) -/

/-- Kind and index of the object that CNT_SEL shows. -/
def objSel (s : State) (n : Nat) : Nat × Nat := let v := shN s n 0x13C; (v % 4, bitsOf v 2 16)

/-- The flow of the object window, where it is active at this Pavilion. -/
def objFlow (s : State) (n : Nat) : Option OFlow :=
  match s.oflows.get none (objSel s n).2 with
  | some f => if f.pav = pageInst n then some f else none
  | none => none

/-- OBJ_STATUS.VALID. -/
def objValid (s : State) (n : Nat) : Bool := match (objSel s n).1 with | 0 => false | 3 => (objFlow s n).isSome | _ => true

/-- OBJ_DEPTH (R136). -/
def objDepth (s : State) (n : Nat) : Nat :=
  let p := pageInst n
  let i := (objSel s n).2
  match (objSel s n).1 with
  | 1 => (s.slots.filter (fun e => e.1 / 4096 == p && e.2.st == .running && e.2.core == i)).length
  | 2 => (s.slots.filter (fun e => e.1 / 4096 == p && (e.2.st == .waiting || e.2.st == .ready) &&
      (match e.2.queue with | .host q => q.val == i | .gate => false))).length
  | 3 => (match objFlow s n with | some f => f.next - f.oldest | none => 0)
  | _ => 0

/-- SLOT_STATE (R144). -/
def slotView (s : State) (key : Nat) : Nat :=
  let t := slot s key
  let at' := t.st == .running || t.st == .preempted
  let used := t.st != .free
  pack [(t.st.code, 3), (t.gen.toNat, 8), (t.prio, 3), (b2n (used && decide (effPrio s key > t.prio)), 1), (if at' then t.core else 0, 5),
        (b2n (used && wPresent t.wSp.toNat && wPin t.wSp.toNat), 1), (if used then t.threads else 0, 5), (t.flowKind, 2), (b2n t.engDns, 1),
        (b2n t.engSps, 1), (b2n t.syncMode, 1), (b2n t.cooling, 1)]

/-- DSP (R138 to R148). DESIGN CHOICE (log entry 82): POS of an item whose position is released while it still holds its slot. -/
def viewDSP (s : State) (n off : Nat) : Nat :=
  let p := pageInst n
  let key := slotKey p (shN s n 0x110)
  let t := slot s key
  let o := s.objs.get {} (objKey p (objSel s n).1 (objSel s n).2)
  if off < 0x78 then
    if !objValid s n then 0
    else if off = 0x40 then objDepth s n
    else if off = 0x64 ∨ off = 0x68 then half o.busy (off == 0x68)
    else if off = 0x6C ∨ off = 0x70 then half o.loads (off == 0x70)
    else if off = 0x74 then 1
    else o.hist.getD ((off - 0x44) / 4) 0
  else match off with
    | 0x114 => slotView s key
    | 0x118 => half t.flags.toNat false
    | 0x11C => half t.flags.toNat true
    | 0x120 => half t.mask.toNat false
    | 0x124 => half t.mask.toNat true
    | 0x128 => pack [(t.flowId, 16), (match (if t.flowKind = 1 ∧ t.st ≠ .faulted then s.oflows.get none t.flowId else none) with | some f => t.pos - f.oldest | none => 0, 8)]
    | 0x12C => half t.accept false
    | 0x130 => half t.accept true
    | 0x138 =>
      let a := s.aflows.get {} (aflowKey p (shN s n 0x134))
      pack [(b2n a.holder.isSome, 1), (a.holder.getD 0 % 4096, 12), (a.queue.length, 13)]
    | 0x148 =>
      let hubs := s.hubs.filterMap (fun e => e.2.filter (fun h => h.pav == p))
      pack [((s.slots.filter (fun e => e.1 / 4096 == p && e.2.st != .free)).length, 13),
            ((s.oflows.filter (fun e => match e.2 with | some f => f.pav == p | none => false)).length, 11),
            (hubs.foldl (fun k h => k + (h.placed - h.added)) 0, 7)]
    | 0x14C => (s.hubs.filterMap (fun e => e.2.filter (fun h => h.pav == p))).length
    | _ => 0

/-! ### Compute pages -/

/-- Do shadow and active copy of any of these registers differ? -/
def differs (s : State) (n idx : Nat) (offs : List Nat) : Bool := offs.any (fun o => getSh s n o idx != getAct s n o idx)

/-- Registers of graph descriptor g. -/
def gdOffs (g : Nat) : List Nat := (List.range 19).map (fun i => 0x200 + 0x50 * g + 4 * i)

/-- Does an engine serve a command or a chunk (R192)? -/
def smpBusy (s : State) (p e : Nat) : Bool := (opList s).any (fun x => x.2.joined.contains (2 * p + e) && smpServed s x.1 x.2)

def viewSMP (s : State) (n off : Nat) : Nat :=
  let p := pageInst n
  match off with
  | 0x100 => pack [(b2n (smpBusy s p 0), 1), (b2n (smpBusy s p 1), 1), (smpQueue s p 0, 4), (smpQueue s p 1, 4)]
  | 0x108 => pack ((List.range 4).map (fun g => (b2n (bitOf (actN s n (0x248 + 0x50 * g)) 0), 1)) ++
      (List.range 4).map (fun g => (b2n (differs s n 0 (gdOffs g)), 1)))
  | _ => 0

/-- A tile's status word and chain counter (R266). -/
def tileStatus (t : Tile) : Nat := pack [(b2n t.int, 1), (b2n t.sat, 1), (b2n t.accLong, 1), (0, 13), (min 65535 t.satCount, 16)]

def viewDNS (s : State) (n off : Nat) : Nat :=
  let p := pageInst n
  let c := shN s n 0x100
  let d := dense s (32 * p + c)
  match off with
  | 0x104 =>
    let h := engHolder s p c true
    pack [(b2n (unitBusy s (.dns (32 * p + c))), 1), (unitHeld s (.dns (32 * p + c)), 4), (b2n d.bank0.isSome, 1), (b2n d.bank1.isSome, 1),
          (b2n h.isSome, 1), (h.getD 0, 12)]
  | 0x108 => tileStatus d.a
  | 0x10C => d.a.chain
  | 0x110 => tileStatus d.b
  | 0x114 => d.b.chain
  | _ => 0

def viewSPS (s : State) (n off : Nat) : Nat :=
  let p := pageInst n
  let c := 32 * p + shN s n 0x100
  let h := engHolder s p (shN s n 0x100) false
  if off = 0x104 then
    pack [(b2n (unitBusy s (.sps c)), 1), (unitHeld s (.sps c), 3), (b2n h.isSome, 1), (h.getD 0, 12),
          (b2n (s.hubs.any (fun e => match e.2 with
            | some x => x.parts.any (fun p => match p.2 with | some y => decide (32 * x.pav + y.core = c) | none => false) | none => false)), 1)]
  else 0

def viewHDG (s : State) (n off : Nat) : Nat :=
  let h := hslot s (pageInst n) (shN s n 0x100)
  match off with
  | 0x104 => pack [(b2n h.loaded, 1), (b2n h.loading.isSome, 1), (b2n h.stale, 1), (b2n h.fallback, 1), (if h.loaded then h.neurons else 0, 17),
                   (if h.loaded then h.rank else 0, 7)]
  | 0x108 => h.audits
  | 0x10C => h.misses
  | _ => 0

def viewVEC (s : State) (n off : Nat) : Nat :=
  let u := EUnit.vec (32 * pageInst n + shN s n 0x100)
  let core := 32 * pageInst n + shN s n 0x100
  -- the PARTIAL_ADDs in service: each the oldest command of its task
  let adds := (vecHeads s core).filterMap (fun e => if e.2.opcode = 0x54 then vworkOf s e.1 else none)
  if off = 0x104 then
    pack [(b2n (vecNext s core).isSome, 1), (unitHeld s u, 4), (b2n (adds != []), 1), (b2n (adds.any (·.tree)), 1)]
  else 0

def viewNUM (s : State) (n off : Nat) : Nat :=
  let sel := shN s n 0x100
  match numSlot s (256 * pageInst n + sel % 256) with
  | none => 0
  | some b =>
    let w := (b.ways.getD (bitsOf sel 8 2) none)
    let g (f : Way → Nat) : Nat := (w.map f).getD 0
    match off with
    | 0x104 => pack [(1, 1), (0, 7), (g (fun w => ((w.href + 256) % 256).toNat), 8)]
    | 0x108 => b.tag.toNat
    | 0x10C => pack ((List.range 4).map (fun i => (((b.ways.getD i none).map (·.fmt)).getD 0, 8)))
    | 0x110 => g (fun w => half w.seen false)
    | 0x114 => g (fun w => half w.seen true)
    | 0x118 => g (·.ovf)
    | 0x11C => g (·.unf)
    | 0x120 => g (·.zeroGroups)
    | 0x124 => g (fun w => w.hist.getD (bitsOf sel 10 5) 0)
    | 0x128 => b.unboundFmt
    | _ => 0

/-- Are updates to a table staged (R227, R373)? -/
def tblStaged (s : State) (t : Nat) : Bool := s.homes.any (fun e => e.2.recs.any (fun r => r.tbl == t))
/-- Registers of a table's directory entry, and of its optimizer (R372). -/
def tblOffs : List Nat := [0x114, 0x118, 0x11C, 0x120, 0x124, 0x128, 0x12C]
def optOffs : List Nat := [0x208, 0x20C, 0x210, 0x214, 0x218, 0x21C, 0x220, 0x224, 0x228, 0x22C, 0x230]
/-- Registers of a dense region. -/
def prmOffs : List Nat := [0x284, 0x288, 0x28C, 0x290, 0x294, 0x298, 0x29C, 0x2A0, 0x2A4, 0x2A8, 0x2AC, 0x2B0, 0x2B4, 0x2B8]

/-- PHASE of an unapplied step (R373). -/
def Phase.code : Phase → Nat | .opened => 1 | .sealed => 2 | .applying => 3

def viewROW (s : State) (n off : Nat) : Nat :=
  let p := pageInst n
  let t := shN s n 0x110
  let r := shN s n 0x280
  let ops := rowOps s p
  match off with
  | 0x100 => pack [(b2n (ops.any (·.2.inService)), 1), (ops.length, 5), (gatherTags s p, 15)]
  | 0x10C => s.applied.toNat
  | 0x130 => pack [(b2n (bitOf (actN s n 0x124 t) 0), 1), (b2n (differs s n t tblOffs), 1), (b2n (tblStaged s t), 1)]
  | 0x134 => s.cfgFail.get 0 n
  | 0x200 => pack [(b2n (grantBusy s p), 1), ((s.mwins.filter (fun e => e.1 / 512 == p && e.2 != [])).length, 10)]
  | 0x204 => (logUsed s p).1
  | 0x234 => pack [(b2n (differs s n t optOffs), 1), (b2n (tblStaged s t), 1)]
  | _ =>
    if p ≠ 0 then 0
    else match off with
      | 0x2BC => pack [(b2n (differs s n r prmOffs), 1), (b2n (s.steps.any (fun x => x.regions.contains r && !x.regionsDone.contains r)), 1)]
      | 0x2C0 => s.lastOpen.toNat
      | 0x2C4 =>
        let a := s.steps[0]?
        let b := s.steps[1]?
        let ph (x : Option StepSt) : Nat := (x.map (·.phase.code)).getD 0
        let fl (x : Option StepSt) (f : StepSt → Bool) : Nat := b2n ((x.map f).getD false)
        pack [(ph a, 2), (ph b, 2), (fl a (·.tainted), 1), (fl a (·.overflow), 1), (b2n (buddy s).isNone, 1), (fl b (·.tainted), 1), (fl b (·.overflow), 1)]
      | 0x2C8 => half (s.journal.foldl (fun k j => k + j.len) 0) false
      | 0x2CC => half (s.journal.foldl (fun k j => k + j.len) 0) true
      | 0x2D0 => s.jckpt.toNat
      | _ => 0

def viewSTM (s : State) (n off : Nat) : Nat :=
  let c := 32 * pageInst n + shN s n 0x100
  if off = 0x104 then
    pack [(b2n (unitBusy s (.stm c)), 1), (unitHeld s (.stm c), 5), (bulkTags s c, 11), (lightTags s c, 7)]
  else 0

def viewRNG (s : State) (n off : Nat) : Nat :=
  let p := pageInst n
  let u := rng s p
  let has (op : Nat) : Nat := b2n ((unitOps s (.rng p)).any (fun e => e.2.opcode == op))
  let lite := u.lite.get none (shN s n 0x118)
  match off with
  | 0x100 => pack [(has 0x90, 1), (has 0x91, 1), (has 0x92, 1), (unitHeld s (.rng p), 5)]
  | 0x108 => pack [(u.noise, 2), (u.pool.length, 7), (min 3 (s.gate.occ.get 0 (resource p 11 0)), 2), (b2n u.seedOk, 1)]
  | 0x114 => u.seedHi.toNat
  | 0x11C => match lite with | some l => pack [(1, 1), (l.stream, 16)] | none => 0
  | _ => 0

def viewSEL (s : State) (n off : Nat) : Nat :=
  let ops := unitOps s (.sel (pageInst n))
  if off = 0x100 then
    let held := (unitOps (selEnd s (pageInst n)) (.sel (pageInst n))).filter (·.2.inService)
    pack [(b2n (!held.isEmpty), 1), (ops.length, 4), (b2n (held.any (fun e => e.2.opcode == 0x94 && cf e.2.cmd.toNat 4 0 1 == 1)), 1)]
  else 0

/-! ### Memory, cores, fabric -/

def viewNEAR (s : State) (n off : Nat) : Nat :=
  let p := pageInst n
  let c := shN s n 0x100
  let ch := chan s (64 * p + c)
  let l := s.latches.get {} n
  match off with
  | 0x104 => pack [(ch.st, 2), ((ch.copying.bind id).getD (physOf s (64 * p + c)), 7)]
  | 0x108 => ch.ce
  | 0x114 => pack [((sparesFree s p).length, 2), (b2n (nearCopying s p), 1), (b2n (s.power.zeroing.any (fun k => k / 64 == p)), 1)]
  | 0x118 => half l.addr false
  | 0x11C => half l.addr true
  | 0x120 => l.info
  | _ => 0

def viewFAR (s : State) (n off : Nat) : Nat :=
  let o := pageInst n
  let ch := chan s (4096 + 64 * o + shN s n 0x100)
  let l := s.latches.get {} n
  match off with
  | 0x104 => pack [(if ch.copying.isSome then 1 else farSt ch, 2), (framesMoved s (4096 + 64 * o + shN s n 0x100), 15)]
  | 0x114 => (s.pops.get [] o).length
  | 0x118 => spareFree s o
  | 0x11C => half l.addr false
  | 0x120 => half l.addr true
  | 0x124 => l.info
  | _ => 0

def viewCORE (s : State) (n off : Nat) : Nat :=
  let c := 32 * pageInst n + shN s n 0x100
  let g := c * 65536 + shN s n 0x108
  let mine (o : Op) : Bool := match o.iss with | .thread t => t.core.val == c | _ => false
  match off with
  | 0x104 => pack [((s.thrs.filter (fun e => e.1 / 16 == c && e.2.slot.isSome)).length, 5), (missCore s c, 10),
      (((opList s).filter (fun e => e.2.spans != [] && mine e.2)).length, 7), (tagWaiting s c, 9), (b2n (domFenced s (dCore c)), 1)]
  | 0x10C => pack [(b2n (s.tags.get false g), 1), ((s.tagWait.get [] g).length, 9)]
  | _ => 0

def viewPE (s : State) (n off : Nat) : Nat :=
  let e := pageInst n
  let mask (f : Link → Bool) : Nat := pack ((List.range 8).map (fun i => (b2n (f (link s (8 * e + i))), 1)))
  match off with
  | 0x58 => half (cnt s n 0x58 (shN s n 0x100 % 8 * 4 + shN s n 0x100 / 8)) false
  | 0x5C => half (cnt s n 0x58 (shN s n 0x100 % 8 * 4 + shN s n 0x100 / 8)) true
  | 0x104 => mask (fun l => l.st == 2) + mask (fun l => l.st == 2 && (l.lanes == 1 || l.lanes == 2)) * 2 ^ 8 + mask (fun l => l.st == 3 || l.st == 4) * 2 ^ 16
  | 0x11C => b2n (deterministic s)
  | _ => 0

def viewLNK (s : State) (n off : Nat) : Nat :=
  let l := link s (pageInst n)
  if off = 0x100 then
    pack [(l.st, 3), (if l.st = 2 then l.lanes else 0, 2), (l.partner, 12), (l.partnerLink, 3), (0, 4), ((dom s (dLink (pageInst n))).epoch.toNat, 8)]
  else 0

def viewCOL (s : State) (n off : Nat) : Nat :=
  let a := pageInst n
  let mine := (opList s).filter (fun e => e.2.eu == .col a)
  -- SQ_LO and SQ_HI show the slot of the oldest unsealed step (R545)
  let par := match s.steps.find? (fun x => x.phase == .opened) with | some x => x.num.toNat % 2 | none => (s.lastOpen + 1).toNat % 2
  let v := ((s.sqSlots.get none (par * 256 + shN s n 0x108)).getD 0)
  match off with
  | 0x100 => pack [(mine.length, 9), (b2n (mine.any (·.2.inService)), 1)]
  | 0x10C => if a = 0 then half v false else 0
  | 0x110 => if a = 0 then half v true else 0
  | _ => 0

/-! ### HIF, PAV, GH, PWR, CLK, BLV -/

def viewHIF (s : State) (off : Nat) : Nat :=
  match off with
  | 0x100 => hostState s
  | 0x104 => s.cfgFail.get 0 hif
  | 0x150 =>
    let q := shN s hif 0x108
    let x := s.sqs.get {} q
    let e := qEntries s q
    pack [((x.head.toNat + e - x.fetched.length % e) % e, 16), (b2n (qEnabled s q), 1)]
  | 0x168 =>
    let c := shN s hif 0x154
    let x := s.cqs.get {} c
    pack [(x.tail.toNat, 16), (b2n x.phase, 1), (b2n (cqEnabled s c), 1)]
  | 0x180 => pack [(s.fw.state, 3), (b2n s.fw.active, 1), (b2n s.fw.pending, 1), (s.fw.fail, 3), (s.fw.fallbacks, 8)]
  | 0x188 => b2n s.xlateInv.isSome
  | _ => 0

/-- Mask of a Pavilion's fenced cores. -/
def coreMask (s : State) (p : Nat) : Nat := pack ((List.range 32).map (fun c => (b2n (domFenced s (dCore (32 * p + c))), 1)))

def viewPAV (s : State) (n off : Nat) : Nat :=
  let p := pageInst n
  match off with
  | 0x100 => pack [(b2n (domFenced s (dPav p)), 1), (coresFenced s p, 6), (b2n (pavBelow s p), 1), ((dom s (dPav p)).epoch.toNat, 8),
                   (if s.power.mode = 1 ∨ s.power.mode = 2 then s.power.mode else s.power.pavs.get 0 p, 2)]
  | 0x104 => coreMask s p
  | _ => 0

/-- PROFILE_ACTIVE (R25): the active profile. -/
def viewGH0 (s : State) (off : Nat) : Nat :=
  match off with
  | 0x100 => 1
  | 0x104 => 0xB1
  | 0x108 => pack [(jobState s, 2), (if s.gate.halted then s.gate.reason else 0, 3), (b2n s.gate.replace, 1), (b2n s.gate.degraded, 1),
      (b2n s.gate.standbyActive, 1), (b2n s.gate.modReady, 1), (b2n (isGm s), 1), (b2n (isSm s), 1), (b2n (standbyManager s == some (roleId s)), 1),
      (b2n s.gate.forwardOnly, 1)]
  | 0x110 => profileWord s
  | 0x114 => pack [(ownId s, 12), (b2n (s.gate.spares.contains (ownId s)), 1), (b2n !(s.gate.gone.contains (ownId s)), 1)]
  | 0x11C => evtSummary s
  | 0x130 =>
    (match s.gate.aliases[shN s (pg clsGH 0) 0x12C]? with
     | some a => pack [(a.1, 12), (a.2, 12), (1, 1)]
     | none => 0)
  | _ =>
    if 0x138 ≤ off ∧ off < 0x168 then
      let v := s.fw.meas.get 0 (shN s (pg clsGH 0) 0x134)
      littleEndian (((beBytes 48 v.toNat).drop (off - 0x138)).take 4)
    else 0

/-- The largest of a list. -/
def maxOf (l : List Nat) : Nat := l.foldl max 0

def viewGH1 (s : State) (off : Nat) : Nat :=
  let r := records s
  let sel := shN s (pg clsGH 1) 0x104
  match off with
  | 0x100 => pack [(maxOf (pavs.map (coresFenced s)), 6), (maxOf (pavs.map (nearLost s)), 7), (linksLost s, 7), (b2n (belowFloor s), 1),
                   (b2n s.gate.spareExhausted, 1)]
  | 0x118 => pack [(r.length, 13), (b2n (decide (r.length ≥ 4096)), 1), (b2n s.testMode, 1)]
  | _ =>
    if 0x108 ≤ off ∧ off < 0x118 then
      match r[sel]? with | some e => bitsOf e.bits (8 * (off - 0x108)) 32 | none => 0
    else 0

def viewPWR (s : State) (off : Nat) : Nat :=
  match off with
  | 0x100 => pack [(s.power.mode, 3), (s.power.cause, 3), (s.power.place, 5)]
  | 0x104 => pack (pavs.map (fun p => (if domFenced s (dPav p) then 3 else s.power.pavs.get 0 p, 2)))
  | 0x110 => pack [(s.power.result, 3), (s.power.source, 1), (s.power.who, 4)]
  | 0x120 => let d := shN s (pg clsPWR 0) 0x11C; pack [(s.power.temp.get 0 d, 8), (s.power.tmax.get 0 d, 8)]
  | 0x124 => pack [(s.power.watts, 13), (s.power.volts, 10)]
  | _ => 0

def viewCLK (s : State) (off : Nat) : Nat :=
  match off with
  | 0x100 => pack (pavs.map (fun p => (if s.power.mode = 5 then 3 else divOf s p, 2)))
  | 0x104 => pack [(s.power.pll, 20), (b2n s.power.refOk, 1)]
  | _ => 0

/-- Has the page worked since its counters were cleared: has it counted, or has a unit of it a command or a thread in service? -/
def pageActive (s : State) (n : Nat) : Bool :=
  s.regs.count.any (fun e => decide (e.1 / (4096 * 65536) = n)) || s.ops.any (fun e => match e.2 with | some o => euPage o.eu == n | none => false) ||
  (pageCls n == clsCORE && s.thrs.any (fun e => e.2.slot.isSome && decide (e.1 / 16 / 32 = pageInst n)))

/-- Time passes at the object that DSP.CNT_SEL shows (R136), where it has been loaded. -/
def elapseObject (s : State) (n : Nat) : State :=
  let k := objKey (pageInst n) (objSel s n).1 (objSel s n).2
  if (s.objs.get {} k).loads = 0 then s
  else
    let (s, x) := takeFree s
    { s with objs := s.objs.upd {} k (fun o => { o with busy := min (o.busy + x) (2 ^ 64 - 1) }) }

/-- Time passes at a Pavilion's copy of a near channel: a free number of the atoms still to come are copied (R397). -/
def elapseCopy (s : State) (n : Nat) : State :=
  match (List.range 64).find? (fun c => (chan s (64 * pageInst n + c)).st == 1) with
  | none => s
  | some c =>
    let k := 64 * pageInst n + c
    let (s, x) := takeFree s
    let m := x % (2 ^ 24 + 1 - (chan s k).copied)
    bump (updChan s k (fun c => { c with copied := c.copied + m })) n 0x74 m

/-- Time passes at one counter of a page that works. -/
def elapse (s : State) (n off : Nat) : State :=
  if pageCls n = clsDSP ∧ off = 0x64 then elapseObject s n
  else if pageCls n = clsNEAR ∧ off = 0x74 then elapseCopy s n
  else if (timedOffs (pageCls n)).contains off && !isFree n off && pageActive s n then
    let (s, x) := takeFree s
    if pageCls n = clsPROM then addCnt s n off (if off = 0x48 then shN s n 0x100 % 128 else shN s n 0x100) x else bump s n off x
  else s

/-- The counters that BLV sums over their pages (R386, R664): those of FAR, DNS or CORE pages. -/
def summed (off : Nat) : Option (Nat × Nat) :=
  if off = 0x40 then some (clsFAR, 0x68) else if off = 0x48 then some (clsDNS, 0x40) else if off = 0x50 then some (clsCORE, 0x48) else none

/-- Time passes before a read of a register: at it, and at the counters of which it is the sum. -/
def elapseFor (s : State) (n off : Nat) : State :=
  match (if pageCls n = clsBLV then summed off else none) with
  | some (c, o) => (List.range (clsCount c)).foldl (fun s i => elapse s (pageNo c i) o) s
  | none => elapse s n off

/-- PROM: the counts of the link, direction and class that LINK_SEL selects; a busy link is one of every class (R440, R441). -/
def viewPROM (s : State) (n off : Nat) : Nat :=
  let sel := shN s n 0x100
  let c (o i : Nat) := half (cnt s n o i) (off != o)
  if off < 0x48 then c 0x40 sel else if off < 0x50 then c 0x48 (sel % 128) else c 0x50 sel

/-- Value of a register computed from the state of the units. -/
def viewReg (s : State) (n off free : Nat) : Nat :=
  match pageCls n with
  | 1 => viewPAV s n off | 2 => viewCORE s n off | 3 => viewDSP s n off | 4 => viewDNS s n off | 5 => viewSPS s n off | 6 => viewHDG s n off
  | 7 => viewVEC s n off | 8 => viewNUM s n off | 9 => viewSMP s n off | 10 => viewROW s n off | 11 => viewSTM s n off | 12 => viewRNG s n off
  | 13 => viewSEL s n off | 14 => viewNEAR s n off | 15 => viewFAR s n off | 16 => viewPROM s n off | 17 => viewLNK s n off
  | 18 => viewPE s n off | 19 => viewCOL s n off | 20 => (if pageInst n = 0 then viewGH0 s off else viewGH1 s off) | 21 => viewPWR s off
  | 22 => viewCLK s off | 23 => viewHIF s off | 24 => (if off = 0x110 then pack [(0, 1), (s.snapSeq, 31)] else 0)
  | _ => 0

/-! ### The common header (R646 to R648) -/

/-- RETIRE map of a page. -/
def retireMap (s : State) (n : Nat) : Nat :=
  let i := pageInst n
  match pageCls n with
  | 1 => coreMask s i + pack [(b2n (domFenced s (dSmp i 0)), 1), (b2n (domFenced s (dSmp i 1)), 1), (b2n (page s (pg clsHDG i)).fenced, 1),
           (b2n (page s (pg clsSEL i)).fenced, 1), (b2n (page s (pg clsRNG i)).fenced, 1)] * 2 ^ 32
  | 14 => s.nearRetired.get 0 i
  | 15 => pack ((List.range 64).map (fun c => (b2n ((chan s (4096 + 64 * i + c)).st == 2), 1)))
  | 17 => (link s i).lanesOut ||| (link s i).failed
  | 18 => pack ((List.range 8).map (fun k => (b2n ((link s (8 * i + k)).st == 3 || (link s (8 * i + k)).st == 4), 1)))
  | _ => 0

/-- Does the page's domain reset? An Orangery's page stands for its four channel groups. -/
def pageResetting (s : State) (n : Nat) : Bool :=
  domResetting s (pageDom n) || (pageCls n == clsFAR && (List.range 4).any (fun g => domResetting s (dGroup (pageInst n) g)))

/-- STATE.SERVICE of a page. -/
def pageService (s : State) (n : Nat) : Nat :=
  if (page s n).fenced || domFenced s (pageDom n) then 2
  else if pageResetting s n then 1
  else if (page s n).enable then 0 else 3

/-- A register of the common header. -/
def viewHeader (s : State) (n off : Nat) : Nat :=
  let p := page s n
  match off with
  | 0x000 => pack [(pageInst n, 8), (pageCls n, 8), (1, 8)]
  | 0x004 => pageCaps n
  | 0x008 => pack [(b2n p.enable, 1), (b2n p.requested, 1), (b2n p.expert, 1)]
  | 0x00C => pack [(pageService s n, 2), (b2n p.commitPending, 1), (b2n p.expert, 1), (if pageDomain n then (dom s (pageDom n)).epoch.toNat else 0, 8)]
  | 0x010 => p.evt.toNat
  | 0x014 => p.evtEn.toNat
  | 0x018 => p.err.toNat
  | 0x01C => p.errEn.toNat
  | 0x020 => p.inject.toNat
  | 0x028 => p.result.toNat
  | 0x02C => pack [(b2n p.fenced, 1), (b2n p.retired, 1), (b2n p.requested, 1)]
  | _ => if 0x30 ≤ off ∧ off < 0x40 then bitsOf (retireMap s n) (8 * (off - 0x30)) 32 else 0

/-! ### Reading -/

/-- The current value of the register at an aligned offset; `free` stands for a value that the model does not determine. -/
def regValue (s : State) (n off free : Nat) : Nat :=
  if !pageImpl n then 0
  else if off < 0x40 then viewHeader s n off
  else match regRow n off with
    | none => 0
    | some r =>
      if r.kind = .wo then 0
      else if pageCls n = clsLNK ∧ off = 0x108 then (if link s (pageInst n) = {} then 0 else free % 2 ^ 32)
      else match r.kind with
        | .cnt64 => half (cnt s n r.off) (off != r.off)
        | .cnt32 => cnt s n off
        | .rw | .rws => (getSh s n off (bankIdx s n r.bank)).toNat
        | .ro => if r.reset ≠ 0 ∧ pageCls n ≠ clsGH then r.reset else viewReg s n off free
        | .wo => 0

/-- Read one register (R9, R644): a _LO register latches the _HI half for the next read of _HI. A read of a page that is not implemented
is counted. -/
def readReg (s : State) (n off : Nat) : State × Nat :=
  let off := off / 4 * 4
  if !pageImpl n then (addCnt s (pg clsBLV 0) 0x68 0 1, 0)
  else
    let k := rkey n off 0
    match s.regs.hiLatch.get none k with
    | some v => ({ s with regs := { s.regs with hiLatch := s.regs.hiLatch.put none k none } }, v.toNat)
    | none =>
      let s := elapseFor s n off
      let (s, free) := if isFree n off then takeFree s else (s, 0)
      let v := regValue s n off free
      if isLo n off then
        ({ s with regs := { s.regs with hiLatch := s.regs.hiLatch.put none (rkey n (off + 4) 0) (some (BitVec.ofNat 32 (regValue s n (off + 4) free))) } }, v)
      else (s, v)

end Sys2Proof.Machine
end

