-- ==== Sys2Proof/Machine/Commits.lean ====
section
/-!
DEFINITION. Shadow copies and commits (R650 to R654): each page's checks, in the order of its chapter, its safe point, and what a commit
that is applied brings about.
-/
namespace Sys2Proof.Machine
open Sys2Proof

/-- What refuses a commit: the offset of the register named, and the page's CFG_FAIL. -/
abbrev Refuse := Option (Nat × Nat)

/-- The register named where a check fails. -/
def named (off : Nat) (bad : Bool) : Refuse := if bad then some (off, 0) else none
/-- The first check that fails. -/
def firstFail (l : List Refuse) : Refuse := l.findSome? id
/-- The checks of an item that CFG_FAIL names. -/
def blame (cf : Nat) (r : Refuse) : Refuse := r.map (fun x => (x.1, cf))

/-- Does a span lie wholly in the near tier, or wholly in the populated far tier? -/
def inTier (s : State) (a len : Nat) : Bool :=
  len == 0 || (isNear a && isNear (a + len - 1)) || (isFar s a && isFar s (a + len - 1))

/-! ### Dispatcher and sampler (R150, R161) -/

/-- R150: the area does not move while it holds a saved context or a buffered partial. -/
def checkDSP (s : State) (n : Nat) : Refuse :=
  let p := pageInst n
  named 0x400 (differs s n 0 [0x400, 0x404] &&
    (s.slots.any (fun e => e.1 / 4096 == p && e.2.st == .preempted) ||
     s.hubs.any (fun e => match e.2 with | some h => h.pav == p && decide (h.placed > h.added) | none => false)))

/-- R161 for one descriptor. -/
def checkGraph (s : State) (n g : Nat) : Refuse :=
  let b := 0x200 + 0x50 * g
  let adr (i : Nat) : Nat := shAddr s n (b + 8 * i)
  let c := shN s n (b + 0x48)
  let (wfmt, part, edges, aliasN) := (bitsOf c 1 2, adr 6, adr 7, adr 8)
  if !bitOf c 0 then none
  else firstFail [
    named b !(inTier s (adr 0) (16 * part)),
    named (b + 8) !(inTier s (adr 1) (8 * edges)),
    named (b + 16) (wfmt != 0 && !inTier s (adr 2) ((if wfmt = 1 then 2 else 4) * edges)),
    named (b + 24) (bitOf c 3 && !inTier s (adr 3) (8 * edges)),
    named (b + 32) (aliasN != 0 && !(wfmt != 0 && inTier s (adr 4) (8 * aliasN))),
    named (b + 48) (part == 0 || decide (adr 5 + (bitsOf c 7 4 + 1) * part > 2 ^ 40)),
    named (b + 72) (decide (bitsOf c 7 4 + 1 > axisLen s 3))]

/-- R161: the descriptors in order. -/
def checkSMP (s : State) (n : Nat) : Refuse := firstFail ((List.range 4).map (checkGraph s n))

/-! ### Row engine and merge (R228, R229, R374, R375) -/

/-- Do the registers differ in VALID alone, being withdrawn? -/
def onlyOff (s : State) (n idx cfg : Nat) (offs : List Nat) : Bool :=
  !differs s n idx (offs.filter (· != cfg)) && getSh s n cfg idx == (getAct s n cfg idx &&& 0xFFFFFFFE#32) && bitOf (actN s n cfg idx) 0

/-- R228 for one table. -/
def checkTable (s : State) (n t : Nat) : Refuse :=
  let tb := tableSh s (pageInst n) t
  let len := 8 * tb.blocks
  blame (t + 256) (firstFail [
    named 0x124 (bitOf (actN s n 0x124 t) 0 && !(onlyOff s n t 0x124 tblOffs && s.steps == [])),
    if tb.valid then firstFail [
      named 0x11C (tb.partSize == 0 || decide (tb.idFirst + tb.gCount * tb.partSize > 2 ^ 40)),
      named 0x124 (decide (tb.gCount > axisLen s 3) || tb.shift == 0),
      named 0x128 (decide (tb.bmap + len > 2 ^ 36) || pavs.any (fun p =>
        [dispArea s p, raArea s p, mergeArea s p, nstageArea s p, httArea s 0, httArea s 1].any (overlaps (nearBase p + tb.bmap, len))))]
    else none])

/-- R229: the run-ahead area. -/
def checkRunAhead (s : State) (n : Nat) : Refuse :=
  let p := pageInst n
  named 0x404 (differs s n 0 [0x404, 0x408] && (overlaps (shAddr s n 0x404, 2 ^ 24) (dispArea s p) || raHeld s p != 0))

/-- An FP32 number that is finite and not below 0; finite and above 0; in [0, 1). -/
def notNegative (v : Nat) : Bool := v % 2 ^ 31 == 0 || decide (v < 0x7F800000)
def aboveZero (v : Nat) : Bool := decide (0 < v ∧ v < 0x7F800000)
def belowOne (v : Nat) : Bool := v == 2 ^ 31 || decide (v < 0x3F800000)

/-- The first hyperparameter that R374 refuses: LR, B1, B2, EPS and WD from an offset on, for a table CLIP_NORM behind them. -/
def checkHyper (rd : Nat → Nat) (opt off : Nat) (clip : Bool) : Refuse :=
  firstFail [
    named off !(notNegative (rd off)), named (off + 4) (opt == 2 && !belowOne (rd (off + 4))), named (off + 8) (opt == 2 && !belowOne (rd (off + 8))),
    named (off + 12) !(aboveZero (rd (off + 12))), named (off + 16) !(notNegative (rd (off + 16))),
    named (off + 20) (clip && !notNegative (rd (off + 20)))]

/-- A span of state: populated near or far memory, outside the areas of R371. -/
def spanOk (s : State) (a len : Nat) : Bool := inTier s a len && !(mergeAreas s).any (overlaps (a, len))

/-- R374 for one table. -/
def checkOptTable (s : State) (n t : Nat) : Refuse :=
  let opt := bitsOf (shN s n 0x208 t) 0 2
  let tb := tableSh s (pageInst n) t
  let len := match opt with | 1 => 4 * tb.partSize | 2 => ceilDiv (8 * tb.elems + 4) 64 * 64 * tb.partSize | _ => 0
  let base := shAddr s n 0x224 t
  let moved := opt != bitsOf (actN s n 0x208 t) 0 2 || base != actAddr s n 0x224 t
  blame (t + 256) <| firstFail [
    named 0x208 (moved && bitOf (actN s n 0x124 t) 0), checkHyper (fun o => shN s n o t) opt 0x20C true,
    named 0x224 !(spanOk s base len), named 0x224 (opt == 0 && base != 0)]

/-- R374 for one dense region. -/
def checkRegion (s : State) (n r : Nat) : Refuse :=
  let g := regionOf (fun o => shN s n o r)
  let len := match g.opt with | 1 => 4 | 2 => 8 * g.elems + 4 | _ => 0
  let moved := g.opt != (region s r).opt || g.state != (region s r).state
  firstFail [
    named 0x284 (moved && (region s r).valid), checkHyper (fun o => shN s n o r) g.opt 0x2A8 false,
    named 0x288 (g.valid && g.elems == 0),
    named 0x290 !(spanOk s g.state len && spanOk s g.base g.span.2 && spanOk s g.grad (4 * g.elems))]

/-- R375: the merge, stage and journal areas. -/
def checkAreas (s : State) (n : Nat) : Refuse :=
  let p := pageInst n
  let held := s.mwins.any (fun e => e.2 != []) || s.homes.any (fun e => e.2.recs != []) || s.journal != []
  let m := (shAddr s n 0x800, 2 ^ 31)
  let t := (shAddr s n 0x808, 2 ^ 30)
  let near := [dispArea s p, raArea s p]
  firstFail [
    named 0x800 (differs s n 0 [0x800, 0x804] && (held || (t :: near).any (overlaps m))),
    named 0x808 (differs s n 0 [0x808, 0x80C] && (held || (m :: near).any (overlaps t))),
    named 0x840 (differs s n 0 [0x840, 0x844] && held),
    named 0x848 (differs s n 0 [0x848, 0x84C, 0x850] && held)]

/-- The checks of a ROW page. -/
def checkROW (s : State) (n : Nat) : Refuse :=
  firstFail (
    ((List.range 256).filter (fun t => differs s n t tblOffs)).map (checkTable s n) ++ [checkRunAhead s n] ++
    ((List.range 256).filter (fun t => differs s n t optOffs)).map (checkOptTable s n) ++
    (if pageInst n = 0 then ((List.range 64).filter (fun r => differs s n r prmOffs)).map (checkRegion s n) else []) ++ [checkAreas s n])

/-! ### Memory tiers (R380, R381, R407) -/

/-- Interleave register i of a page: bits of BASE, first unit, last unit, in the shadow. -/
def ilRange (v w : Nat) : Nat × Nat := (bitsOf v 0 w, bitsOf v 0 w + bitsOf v 8 w)

/-- The pairs of 0 to n − 1 in order. -/
def pairsOf (n : Nat) : List (Nat × Nat) := (List.range n).flatMap (fun i => ((List.range n).filter (fun j => i < j)).map (fun j => (i, j)))

/-- The interleave registers of a page: offset of IL0, width of BASE, units, and the address and length of a unit. -/
def ilOf (n : Nat) : Nat × Nat × Nat × (Nat → Range) :=
  if pageCls n = clsNEAR then (0x140, 8, 256, fun u => (nearBase (pageInst n) + u * 2 ^ 28, 2 ^ 28))
  else (0x1B0, 7, 128, fun u => (farBase + u * 2 ^ 35, 2 ^ 35))

/-- Granule exponent of a unit by the active copy, or by the shadow. -/
def unitGran (s : State) (n u : Nat) (sh : Bool) : Nat :=
  let (b, w, _, _) := ilOf n
  ilGran (fun o => if sh then shN s n (b + o) else actN s n (b + o)) w u

/-- Units whose mapping the commit changes (R381). -/
def ilChanged (s : State) (n : Nat) : List Nat :=
  let (b, _, k, _) := ilOf n
  if differs s n 0 ((List.range 8).map (fun i => b + 4 * i)) then (List.range k).filter (fun u => unitGran s n u false != unitGran s n u true) else []

/-- R380 and R381. -/
def checkIL (s : State) (n : Nat) : Refuse :=
  let (b, w, _, rg) := ilOf n
  let sh (i : Nat) : Nat := shN s n (b + 4 * i)
  let meet (i j : Nat) : Bool := bitOf (sh i) 18 && bitOf (sh j) 18 &&
    decide ((ilRange (sh i) w).1 ≤ (ilRange (sh j) w).2 ∧ (ilRange (sh j) w).1 ≤ (ilRange (sh i) w).2)
  let holds (v u : Nat) : Bool := bitOf v 18 && decide ((ilRange v w).1 ≤ u ∧ u ≤ (ilRange v w).2)
  let areas := pavs.flatMap (fun p => [dispArea s p, raArea s p]) ++ mergeAreas s ++ [spareRange s]
  let changed := (ilChanged s n).filter (fun u => areas.any (overlaps (rg u)))
  firstFail (
    (pairsOf 8).map (fun x => named (b + 4 * x.2) (meet x.1 x.2)) ++
    (List.range 8).map (fun i => named (b + 4 * i) (changed.any (fun u => holds (sh i) u || holds (actN s n (b + 4 * i)) u))))

/-- Pin range k as the shadow holds it: its mode and its span. -/
def pinSh (s : State) (n k : Nat) : Nat × Range :=
  let c := shN s n (0x134 + 8 * k)
  (bitsOf c 24 2, (farBase + shN s n (0x130 + 8 * k) * 4096, (bitsOf c 0 24 + 1) * 4096))

/-- R407. -/
def checkFAR (s : State) (n : Nat) : Refuse :=
  let areas := [spareRange s, fstageArea s, journalArea s]
  firstFail ([if pageInst n = 0 then checkIL s n else none] ++
    (List.range 16).map (fun k => let x := pinSh s n k
      named (0x130 + 8 * k) (x.1 != 0 && (!inTier s x.2.1 x.2.2 || areas.any (overlaps x.2)))) ++
    (pairsOf 16).map (fun i => let x := pinSh s n i.1
      let y := pinSh s n i.2
      named (0x134 + 8 * i.2) (x.1 != 0 && y.1 != 0 && x.1 != y.1 && overlaps x.2 y.2)))

/-! ### Fabric, clocks and counters (R527, R528, R626, R663, R665) -/

/-- R527 and R528: in ascending order, the first CREDIT register that breaks the rule is the one that gives a virtual channel less than
8, or the last where their sum is above 768. -/
def checkPE (s : State) (n : Nat) : Refuse :=
  let t := shN s n 0x118
  let cr (i : Nat) : Nat := shN s n (0x400 + 4 * i)
  let small (i : Nat) : Bool := decide (bitsOf (cr i) 0 10 < 8 ∨ bitsOf (cr i) 10 10 < 8)
  let upTo (i : Nat) : Nat := ((List.range (i + 1)).map (fun j => bitsOf (cr j) 0 10 + bitsOf (cr j) 10 10)).sum
  firstFail (
    [named 0x118 (pageInst n == 0 && !layoutOk t)] ++
    (List.range 4).map (fun i => named (0x400 + 4 * i) (small i || decide (upTo i > 768))))

/-- R626 and R663. -/
def checkCLK (s : State) (n : Nat) : Refuse :=
  firstFail (pavs.map (fun p => let v := shN s n (0x110 + 4 * p)
    named (0x110 + 4 * p) (bitOf v 2 && decide (bitsOf v 3 2 < bitsOf v 0 2))))

/-- R665. -/
def checkBLV (s : State) (n : Nat) : Refuse :=
  let r : Range := (shAddr s n 0x100, 80 * 1024)
  named 0x100 (differs s n 0 [0x100, 0x104] && (!inTier s r.1 r.2 || (moduleAreas s).any (overlaps r)))

/-! ### Host interface (R582) -/

/-- The attribute registers of a queue and of a completion queue; CQ_COAL stands outside the checks. -/
def qOffs : List Nat := [0x10C, 0x110, 0x114, 0x118, 0x11C] ++ (List.range 12).map (fun i => 0x120 + 4 * i)
def cqOffs : List Nat := [0x158, 0x15C, 0x160]

/-- The range of a window kind: near, far, host, scratchpads (R12, R43). -/
def kindRange (s : State) : Nat → Range
  | 0 => (0, 2 ^ 40) | 1 => (farBase, farSize s) | 2 => (0x80000000000, 2 ^ 42) | _ => (spBase, 512 * 2 ^ 22)

/-- Check 3 of R582 for the limit of a kind: does it fail? -/
def limitBad (s : State) (q k : Nat) : Bool :=
  let o := 0x120 + 12 * k
  let (base, bound, c) := (shN s hif o q * 4096, shN s hif (o + 4) q * 4096, shN s hif (o + 8) q)
  bitOf c 27 && (decide (base ≥ bound) || decide (bitsOf c 0 12 > bitsOf c 12 12) || !inside (base, bound - base) (kindRange s k) ||
    (moduleAreas s).any (overlaps (base, bound - base)))

/-- Does a ring lie where LOC says? -/
def ringOk (s : State) (loc : Bool) (a len : Nat) : Bool :=
  popRange s a len && (if loc then isMem s a else isHost a)

/-- R582 for one queue. -/
def checkQueue (s : State) (q : Nat) : Refuse :=
  let c := shN s hif 0x10C q
  let z := shN s hif 0x11C q
  let on := bitOf c 0
  let k := shN s hif 0x158 (bitsOf c 14 8)
  blame (q + 512) (firstFail (
    [named 0x10C (bitOf (actN s hif 0x10C q) 0 && !onlyOff s hif q 0x10C qOffs),
     named 0x10C (on && bitsOf c 2 5 == 0), named 0x118 (on && shN s hif 0x118 q == 0),
     named 0x11C (on && (bitsOf z 12 13 == 0 || decide (bitsOf z 0 12 + bitsOf z 12 13 > 4096)))] ++
    (List.range 4).map (fun k => named (0x120 + 12 * k) (limitBad s q k)) ++
    [named 0x110 (on && !ringOk s (bitOf c 1) (shAddr s hif 0x110 q) (64 * 2 ^ bitsOf c 2 5)),
     named 0x10C (on && (!bitOf k 0 || bitsOf k 15 3 != bitsOf c 7 3 || bitsOf k 18 1 != bitsOf c 10 1))]))

/-- R582 for one completion queue. -/
def checkCq (s : State) (i : Nat) : Refuse :=
  let c := shN s hif 0x158 i
  let on := bitOf c 0
  let x := s.cqs.get {} i
  let used := (List.range 256).any (fun q => let v := shN s hif 0x10C q; bitOf v 0 && bitsOf v 14 8 == i)
  blame (i + 256 + 512) (firstFail [
    named 0x158 (bitOf (actN s hif 0x158 i) 0 && !onlyOff s hif i 0x158 cqOffs),
    named 0x158 (on && bitsOf c 2 5 == 0),
    named 0x15C (on && !ringOk s (bitOf c 1) (shAddr s hif 0x15C i) (32 * 2 ^ bitsOf c 2 5)),
    named 0x158 ((!on && used) || x.posted != [] || x.held != [])])

/-- R582: each queue whose shadow differs, and then each completion queue. -/
def checkHIF (s : State) : Refuse :=
  firstFail (((List.range 256).filter (fun q => differs s hif q qOffs)).map (checkQueue s) ++
    ((List.range 256).filter (fun c => differs s hif c cqOffs)).map (checkCq s))

/-- The checks of a page's chapter. -/
def commitCheck (s : State) (n : Nat) : Refuse :=
  match pageCls n with
  | 3 => checkDSP s n | 9 => checkSMP s n | 10 => checkROW s n | 14 => checkIL s n | 15 => checkFAR s n | 18 => checkPE s n
  | 22 => checkCLK s n | 23 => checkHIF s | 24 => checkBLV s n | _ => none

/-! ### Safe points (R160, R228) -/

/-- Is the page at its safe point? The sampler's and the row engine's await the commands in service that name what changes, Hedge's and the
selection unit's the end of the grant in service (R310, R499). -/
def commitPoint (s : State) (n : Nat) : Bool :=
  let p := pageInst n
  match pageCls n with
  | 6 => (unitOps s (.hdg p)).all (fun e => !((s.hworks.get none e.1).map (·.split)).getD false)
  | 13 => (unitOps s (.sel p)).all (fun e => !e.2.inService)
  | 9 => (smpNamed s p).all (fun g => !graphPending s p g)
  | 10 => (rowNamed s p).all (fun t => !tblPending s p t)
  | _ => true

/-! ### Applying -/

/-- Keys of a page's shadowed registers that differ from Reset in either copy, from an offset on. -/
def shadowKeys (s : State) (n from' : Nat) : List Nat :=
  ((s.regs.shadow ++ s.regs.active).map (·.1)).filter (fun k => k / 65536 / 4096 == n && decide (k / 65536 % 4096 ≥ from') &&
    (match regRow n (k / 65536 % 4096) with | some r => r.kind == .rws | none => false))

/-- Every shadowed field becomes active (R650). -/
def copyShadow (s : State) (n : Nat) : State :=
  (shadowKeys s n 0).foldl (fun s k => { s with regs := { s.regs with active := s.regs.active.put none k (s.regs.shadow.get none k) } }) s

/-- A relock: the expert shadow fields take their active values (R654). -/
def relock (s : State) (n : Nat) : State :=
  let s := (shadowKeys s n 0x400).foldl (fun s k => { s with regs := { s.regs with shadow := s.regs.shadow.put none k (s.regs.active.get none k) } }) s
  updPage s n (fun p => { p with expert := false, relockPending := false })

/-- The lines of an Orangery's sets that `out` names are written back and dropped. -/
def dropLines (s : State) (o : Nat) (out : Line → Bool) : State :=
  let mine (k : Nat) : Bool := k / 65536 == o
  let n := ((s.rcache.filter (fun e => mine e.1)).flatMap (·.2)).foldl (fun n l => if out l then n + ones l.dirty else n) 0
  bump { s with rcache := s.rcache.mapAll [] (fun k l => if mine k then l.filter (fun x => !out x) else l) } (pg clsFAR o) 0x70 n

/-- The pinned lines of a set kept within a limit: the most recently used keep their pins. -/
def unpinExcess (limit : Nat) : List Line → Nat → List Line × Nat
  | [], _ => ([], 0)
  | l :: r, k =>
    let (r', n) := unpinExcess limit r (if l.pinned then k + 1 else k)
    if l.pinned ∧ k ≥ limit then ({ l with pinned := false } :: r', n + 1) else (l :: r', n)

/-- What a commit of a FAR page does to its Orangery's row cache (R390, R407). -/
def commitCache (s : State) (o : Nat) : State :=
  let at' (l : Line) : Nat := farAddr o (256 * l.tag)
  let s := if bitOf (actN s (pg clsFAR o) 0x110) 0 then dropLines s o (fun l => pinRange s o (at' l) 2) else dropLines s o (fun _ => true)
  let ways := bitsOf (actN s (pg clsFAR o) 0x408) 0 4
  let fix (l : List Line) : List Line × Nat := unpinExcess ways (l.map (fun x => { x with pinned := x.pinned && pinRange s o (at' x) 1 })) 0
  let n := ((s.rcache.filter (fun e => e.1 / 65536 == o)).map (fun e => (fix e.2).2)).sum
  let s' := { s with rcache := s.rcache.mapAll [] (fun k l => if k / 65536 = o then (fix l).1 else l)
                     pinRefused := s.pinRefused.keep (fun k _ => !(k / 2 ^ 32 == o && !pinRange s o (farAddr o (256 * (k % 2 ^ 32))) 1)) }
  bump s' (pg clsFAR o) 0x88 n

/-- What a commit of the HIF page does (R567, R572, R573, R582); `s0` is the state before it. -/
def commitHIF (s0 s : State) : State :=
  let port (s : State) (k : Nat) : State :=
    if differs s0 hif 0 [0x400 + 8 * k, 0x404 + 8 * k] then { s with xlate := s.xlate.keep (fun x _ => x / 2 ^ 20 != k) } else s
  let s := port (port s 0) 1
  let s := ((List.range 256).filter (fun c => differs s0 hif c (0x164 :: cqOffs))).foldl (fun s c =>
    cqSignal (releaseHeld s c (s.cqs.get {} c).held.length) c false) s
  settleJob (((List.range 256).filter (fun q => qEnabled s q && !qEnabled s0 q)).foldl judgeKept s)

/-- What a page's commit brings about beside its active copies. -/
def commitEffect (s0 s : State) (n : Nat) : State :=
  let p := pageInst n
  let lost (s : State) : State := (ilChanged s0 n).foldl (fun s u => let r := (ilOf n).2.2.2 u; lose s r.1 r.2) s
  match pageCls n with
  | 10 =>
    let ts := (List.range 256).filter (fun t => differs s0 n t tblOffs)
    { s with bcache := s.bcache.upd [] p (fun l => l.filter (fun e => !ts.contains (e.1 / 2 ^ 34))) }
  | 14 => lost s
  | 15 => commitCache (if p = 0 then lost s else s) p
  | 22 => refreshAll s
  | 23 => commitHIF s0 s
  | _ => s

/-- The page's commit meets its safe point (R650): the checks, the outcome, and a relock that waited for it (R654). -/
def applyCommit (s : State) (n : Nat) : State :=
  let s := match commitCheck s n with
    | some (off, cf) =>
      raiseErr (updPage { s with cfgFail := if cf = 0 then s.cfgFail else s.cfgFail.put 0 n cf } n (fun p =>
        { p with commitPending := false, result := BitVec.ofNat 32 (2 + off / 4 * 4) })) n 1
    | none =>
      let s' := updPage { s with cfgFail := s.cfgFail.put 0 n 0 } n (fun p => { p with commitPending := false, result := 1 })
      if n = pg clsGH 0 then commitGh s' else commitEffect s (copyShadow s' n) n
  let s := raiseEvt s n 31
  let s := if (page s n).relockPending then relock s n else s
  if pageCls n = clsSMP then smpPump s (pageInst n) else if pageCls n = clsROW then rowPump s (pageInst n)
  else if pageCls n = clsSEL then selTurn s (pageInst n) else s

/-- A write of COMMIT.GO (R650, R651): on a page without shadowed fields it is done at once. -/
def requestCommit (s : State) (n : Nat) : State :=
  if pageShadowed n then updPage s n (fun p => { p with commitPending := true, result := 0 })
  else raiseEvt (updPage s n (fun p => { p with result := 1 })) n 31

/-- COMMIT (R650). -/
def execCommit (r : Requester) (n : Fin 65536) (s : State) : Host.Outcome State Fault Refusal := .next (pageWrite s r n (fun s => requestCommit s n))

/-- COMMIT_APPLY (R650, R652): a page under reset waits for RESET_DONE; a fenced one awaits no safe point. -/
def execCommitApply (n : Fin 65536) (s : State) : Host.Outcome State Fault Refusal :=
  .next (if (page s n).commitPending && (pageService s n == 2 || (!pageResetting s n && commitPoint s n)) then applyCommit s n else s)

end Sys2Proof.Machine
end

