-- ==== Sys2Proof/Machine/Registers.lean ====
section
/-!
DEFINITION. Register accesses (R7 to R9, R579, R643 to R649, R654, R659, R664, R665, R687): reserved encodings, writes by access type,
the CTRL operations, counter clears, test mode and snapshots.
-/
namespace Sys2Proof.Machine
open Sys2Proof

/-! ### Reserved encodings (R8, R50) -/

/-- Is the value outside a range? -/
def outside (lo hi v : Nat) : Bool := decide (v < lo ∨ v > hi)

/-- Address bits [43:32] that name neither the near tier nor the populated far tier. -/
def hiBad (s : State) (v : Nat) : Bool := !(decide (v < 0x100) || isFar s (v * 2 ^ 32))

/-- Would the window limit that a write of a BASE or BOUND register leaves reach into the unpopulated far tier (R3)? The write is judged with
the limit's other register as it stands. One whose BASE is still 0 is not yet a window of the host or of the scratchpads (DEDUCED, log
entry 93). -/
def limReaches (s : State) (off v : Nat) : Bool :=
  let top := farBase + farSize s
  let k := (off - 0x120) / 12
  let o := 0x120 + 12 * k
  let q := shN s (pg clsHIF 0) 0x108
  let base := (if off = o then v else shN s (pg clsHIF 0) o q) * 4096
  let bound := (if off = o then shN s (pg clsHIF 0) (o + 4) q else v) * 4096
  decide (top < 2 ^ 43) &&
    ((if off = o then decide (top ≤ v * 4096 ∧ v * 4096 < 2 ^ 43) else decide (top < v * 4096 ∧ v * 4096 ≤ 2 ^ 43)) ||
     (decide (base < bound ∧ base < 2 ^ 43 ∧ top < bound) && (decide (k < 2) || base != 0)))

/-- An interleave register: GRAN 3, or an end beyond the last unit (R404, R406). -/
def ilBad (v w last : Nat) : Bool := bitsOf v 16 2 == 3 || decide (bitsOf v 0 w + bitsOf v 8 w > last)

/-- Is the write of a value to a basic or expert register a reserved encoding? -/
def encBad (s : State) (n off v : Nat) : Bool :=
  let i := pageInst n
  let far64 := s.part == .qxm4T
  match pageCls n, off with
  | 2, 0x400 => outside 8 512 v
  | 3, 0x100 => outside 1024 65536 v
  | 3, 0x104 => bitsOf v 8 8 == 0
  | 3, 0x108 => v == 0
  | 3, 0x13C => (match bitsOf v 0 2 with | 0 => bitsOf v 2 16 != 0 | 1 => decide (bitsOf v 2 16 > 31) | 2 => decide (bitsOf v 2 16 > 255) | _ => false)
  | 3, 0x404 => v / 16 != i
  | 3, 0x40C => outside 1 64 v
  | 5, 0x10C => decide (bitsOf v 24 8 < 6)
  | 6, 0x114 => outside 256 2048 v
  | 9, 0x400 => outside 1 8192 v
  | 9, 0x404 => !([16, 32, 64, 128, 256, 512, 1024].contains v)
  | 9, o =>
    let g := (o - 0x200) % 0x50
    if o < 0x200 ∨ o ≥ 0x340 then false
    else if g = 0x48 then bitsOf v 1 2 == 3 || (bitOf v 5 && bitOf v 6)
    else if g < 0x28 ∧ g % 8 = 4 then hiBad s v else false
  | 10, 0x108 => outside 10 16 (bitsOf v 1 5)
  | 10, 0x124 => bitsOf v 18 5 != 0 && outside 6 20 (bitsOf v 18 5)
  | 10, 0x208 => bitsOf v 0 2 == 3
  | 10, 0x284 => bitsOf v 2 2 == 3
  | 10, 0x228 | 10, 0x294 | 10, 0x29C | 10, 0x2A4 => hiBad s v
  | 10, 0x400 => outside 1 16384 v
  | 10, 0x408 | 10, 0x804 | 10, 0x80C => v / 16 != i
  | 10, 0x810 => outside 1024 65536 v
  | 10, 0x844 => v % 8 != 0 || !isFar s (v * 2 ^ 32)
  | 10, 0x84C => v % 4 != 0 || !isFar s (v * 2 ^ 32)
  | 10, 0x850 => outside 1 16 v
  | 11, 0x10C => v % 64 != 0 || outside 64 1024 v
  | 11, 0x110 => outside 1 64 v
  | 11, 0x400 => outside 64 1472 (bitsOf v 0 11) || outside 64 1472 (bitsOf v 11 11)
  | 13, 0x108 => outside 256 2048 v
  | 14, 0x110 => outside 1 168 v
  | 14, 0x404 => false
  | 14, o => decide (0x140 ≤ o ∧ o < 0x160) && ilBad v 8 255
  | 15, 0x10C => outside 1 168 v
  | 15, 0x404 => v == 0
  | 15, 0x408 => outside 1 12 v
  | 15, o =>
    if 0x1B0 ≤ o then ilBad v 7 (if far64 then 127 else 63)
    else o % 8 == 4 && decide (0x134 ≤ o) && bitsOf v 24 2 == 3
  | 16, 0x100 => decide (bitsOf v 0 6 > 39)
  | 16, 0x400 => outside 1 16 v
  | 17, 0x400 => v == 0
  | 18, 0x10C => outside 1 16 (bitsOf v 0 6) || decide (bitsOf v 8 6 > 32)
  | 18, 0x110 => outside 1 64 v
  | 18, 0x114 => v >>> axisLen s (i / 2) != 0
  | 18, 0x118 => s.steps != []
  | 18, 0x410 => decide (bitsOf v 0 4 < 2) || outside 1 64 (bitsOf v 4 8) || outside 1 100 (bitsOf v 12 8)
  | 20, 0x10C => profileBad v
  | 20, 0x118 => i == 0 && outside 10 1000 v
  | 20, 0x400 | 20, 0x404 => v == 0
  | 20, 0x408 => outside 24 168 v
  | 20, 0x40C => outside 1 64 v
  | 21, 0x118 => outside 60 95 v
  | 21, 0x11C => decide (v > 19)
  | 23, 0x10C => (bitsOf v 2 5 != 0 && outside 6 16 (bitsOf v 2 5)) || bitsOf v 11 3 == 7
  | 23, 0x11C => decide (bitsOf v 12 13 > 4096)
  | 23, 0x158 => bitsOf v 2 5 != 0 && outside 6 16 (bitsOf v 2 5)
  | 23, 0x164 => bitsOf v 0 8 == 0
  | 23, 0x170 => let b := bitsOf v 4 8
    !(decide (b < 0x10) || b == 0xC0 || isFar s (b * 2 ^ 36))
  | 23, 0x178 => hiBad s v
  | 23, 0x404 | 23, 0x40C => decide (v ≥ 0x100)
  | 23, 0x120 | 23, 0x12C | 23, 0x138 | 23, 0x144 | 23, 0x124 | 23, 0x130 | 23, 0x13C | 23, 0x148 => limReaches s off v
  | 24, 0x108 => v != 0 && outside 1000 1000000 v
  | _, _ => false

/-! ### The common header (R646 to R649, R654, R687) -/

/-- Bits of EVT_ENABLE: the page's block events (R302, R483, R525, R580; of GH[0] HALT and REPLACE, log entry 76), and the three of every
page. -/
def evtMask (n : Nat) : Nat :=
  (if pageCls n = clsHIF then 31 else if n = pg clsGH 0 then 3 else if [clsHDG, clsRNG, clsLNK].contains (pageCls n) then 1 else 0) + 7 * 2 ^ 29

/-- ENABLE of a page: read-only 1 where R647 has it so. What waited for the block goes on with it. -/
def setEnable (s : State) (n : Nat) (on : Bool) : State :=
  if pageAlwaysEnabled n || (page s n).enable == on then s
  else
    let s := updPage s n (fun p => { p with enable := on })
    if !on then s else if pageCls n = clsSMP then smpPump s (pageInst n) else if pageCls n = clsROW then rowPump s (pageInst n) else s

/-- FENCE_REQ (R687): the fence, after which a commit that is pending awaits no safe point (R652). -/
def fenceRequest (s : State) (n : Nat) : State :=
  let i := pageInst n
  let s := match pageCls n with
    | 1 => fencePav s i false true
    | 2 => fenceCore s (32 * i + shN s n 0x100 % 32)
    | 6 => fenceUnit s clsHDG i false true
    | 9 => fenceSmp (fenceSmp s i 0 false true) i 1 false true
    | 12 => fenceUnit s clsRNG i false true
    | 13 => fenceUnit s clsSEL i false true
    | 15 => fenceOrang s i false true
    | 17 => fenceLink s i 3 true
    | _ => s
  if (page s n).commitPending && pageService s n == 2 then applyCommit s n else s

/-- Unlock the expert level: KEY must be 0xA5, and management Ethernet may not (R654, R656). -/
def unlock (s : State) (r : Requester) (n key : Nat) : State :=
  if (page s n).expert then s
  else if r = .ethernet ∨ key ≠ 0xA5 then rejectWrite s n
  else updPage s n (fun p => { p with expert := true })
/-- Relock it, or, while a commit is pending, once its outcome is recorded. -/
def lock (s : State) (n : Nat) : State :=
  if !(page s n).expert then s else if (page s n).commitPending then updPage s n (fun p => { p with relockPending := true }) else relock s n

/-- A write of CTRL. -/
def writeCtrl (s : State) (r : Requester) (n v : Nat) : State :=
  if bitOf v 2 && !(page s n).expert && (r == .ethernet || bitsOf v 8 8 != 0xA5) then rejectWrite s n
  else
    let s := setEnable s n (bitOf v 0)
    let s := if bitOf v 2 then unlock s r n (bitsOf v 8 8) else lock s n
    if bitOf v 1 then (if pageFenceable n then fenceRequest s n else s) else if bitOf v 3 then pageReset s n else s

/-- A write of a register of the common header; those that are read-only ignore it. -/
def writeHeader (s : State) (r : Requester) (n off : Nat) (v : Word) : State :=
  match off with
  | 0x008 => writeCtrl s r n v.toNat
  | 0x010 => raisePage s n (fun p => { p with evt := p.evt &&& ~~~v })
  | 0x014 => raisePage s n (fun p => { p with evtEn := v &&& BitVec.ofNat 32 (evtMask n) })
  | 0x018 => raisePage s n (fun p => { p with err := p.err &&& ~~~v })
  | 0x01C => raisePage s n (fun p => { p with errEn := v &&& 0x7F })
  | 0x020 => armInjection s n v
  | 0x024 => if bitOf v.toNat 0 then requestCommit s n else s
  | _ => s

/-! ### Counter clears (R137, R139, R147, R404) -/

/-- Clear a page's counts in a range of offsets. -/
def clearCounts (s : State) (n lo hi : Nat) : State :=
  { s with regs := { s.regs with count := s.regs.count.keep (fun k _ => !(k / 65536 / 4096 == n && decide (lo ≤ k / 65536 % 4096 ∧ k / 65536 % 4096 ≤ hi))) } }

/-- Clear the object counters of the object that DSP.CNT_SEL names. -/
def clearObject (s : State) (n : Nat) : State :=
  let (kind, i) := objSel s n
  { s with objs := s.objs.put {} ((pageInst n * 4 + kind) * 65536 + i) {} }

/-- A write of CNT_CLEAR. -/
def clearWrite (s : State) (n v : Nat) : State :=
  let c := pageCls n
  let clear (s : State) (b : Nat) : State :=
    if bitOf v b then (match clearRange c b with | some (lo, hi) => clearCounts s n lo hi | none => s) else s
  let s := clear (clear s 0) 1
  let s := if c = clsDSP ∧ bitOf v 0 then clearObject s n else s
  let s := if c = clsNEAR ∧ bitOf v 0 then { s with chans := s.chans.mapAll {} (fun k x => if k / 64 = pageInst n then { x with ce := 0 } else x) } else s
  if (c = clsNEAR ∨ c = clsFAR) ∧ bitOf v 1 then { s with latches := s.latches.put {} n {} } else s

/-! ### Test mode (R601, R659) -/

/-- May the sequence act? -/
def testAllowed (s : State) (r : Requester) : Bool := r == .pf && s.steps == [] && queuesOff s

/-- Enter test mode: MOD_READY is withdrawn, and retirements go to the test record. -/
def enterTest (s : State) : State :=
  if s.testMode then s else notReady { updGate s (fun g => { g with testRecord := [], testKey := false }) with testMode := true }

/-- Leave test mode, which resets the module. -/
def leaveTest (s : State) (b : Boot) : State := if s.testMode then startUp (baseState s) b else s

/-- A write of TEST_CTL. -/
def writeTest (s : State) (r : Requester) (v : Nat) : State :=
  let again (s : State) : State := updGate s (fun g => { g with testKey := false })
  match v % 256 with
  | 0xC3 => if testAllowed s r then updGate s (fun g => { g with testKey := true }) else again (addCnt s (pg clsBLV 0) 0x68 0 1)
  | 0x3C => if !s.gate.testKey then s else if testAllowed s r then enterTest s else again (addCnt s (pg clsBLV 0) 0x68 0 1)
  | 0x5A => leaveTest s {}
  | _ => rejectWrite s (pg clsGH 0)

/-! ### Snapshots (R665) -/

/-- The counter window of a page, at offset 0x40 + 4i; `n` registers are left. -/
def windowBytes (s : State) (n i : Nat) : Nat → State × List Byte
  | 0 => (s, [])
  | k + 1 =>
    let off := 0x40 + 4 * i
    let (s, free) := if isFree n off then takeFree s else (s, 0)
    let r := windowBytes s n (i + 1) k
    (r.1, bytesOf (regValue s n off free) 4 ++ r.2)

/-- Clear a page's counter window. -/
def clearWindow (s : State) (n : Nat) : State :=
  let s := clearCounts s n 0x40 0xFF
  if pageCls n = clsDSP then clearObject s n else s

/-- The records of the pages of a list, each read, and cleared where asked, at one moment. -/
def snapRecords (s : State) (clear : Bool) : List Nat → State × List Byte
  | [] => (s, [])
  | n :: rest =>
    let s := (List.range 48).foldl (fun s i => elapseFor s n (0x40 + 4 * i)) s
    let w := windowBytes s n 0 48
    let s := if clear then clearWindow w.1 n else w.1
    let r := snapRecords s clear rest
    (r.1, bytesOf (viewHeader s n 0) 4 ++ List.replicate 60 0 ++ w.2 ++ r.2)

/-- A snapshot is written, where the memory at SNAP_BASE serves; its count of CTL cycles is free. -/
def snapshot (s : State) (clear : Bool) : State :=
  let a := actAddr s (pg clsBLV 0) 0x100
  if asleep s a || memService s a != .inService then s
  else
    let cyc := takeFree s
    let seq := s.snapSeq + 1
    let recs := snapRecords cyc.1 clear allPages
    let n := allPages.length
    let s := wrBytes recs.1 a (bytesOf seq 8 ++ bytesOf cyc.2 8 ++ bytesOf n 4 ++ List.replicate 44 0 ++ recs.2)
    let s := clearPoison (countMem s (memDie a) a (64 + 256 * n) true) a (64 + 256 * n)
    addCnt { s with snapSeq := seq } (pg clsBLV 0) 0x6C 0 1

/-! ### Writes (R7, R8, R644) -/

/-- A write-only register other than a CNT_CLEAR. -/
def writeCommand (s : State) (r : Requester) (n off v : Nat) : State :=
  let i := pageInst n
  match pageCls n, off with
  | 3, 0x144 => ackFault s (slotKey i (bitsOf v 0 12)) (BitVec.ofNat 8 (bitsOf v 12 8))
  | 14, 0x400 => nearRetireWrite s i v
  | 15, 0x400 => farRetireWrite s i v
  | 20, 0x124 => writeTest s r v
  | 20, 0x11C => if bitOf v 0 then clearNoise s (bitsOf v 1 4) else s
  | 21, 0x108 => if bitsOf v 4 2 = 3 then rejectWrite s n else powerRequest s 0 (bitsOf v 0 4) (bitsOf v 4 2)
  | 21, 0x10C => if bitsOf v 0 3 > 4 then rejectWrite s n else powerRequest s 1 0 (bitsOf v 0 3)
  | 23, 0x17C => writeFwCtl s v
  | 23, 0x184 => writeXlateInv s v
  | 24, 0x10C => if bitOf v 0 then snapshot s (bitOf v 1) else s
  | _, _ => clearWrite s n v

/-- Write one register: by its access type, unless the value is a reserved encoding or the page is locked. -/
def writeReg (s : State) (r : Requester) (n off : Nat) (v : Word) : State :=
  if off < 0x40 then writeHeader s r n off v
  else match regRow n off with
    | none => s
    | some row =>
      let act (s : State) : State :=
        let x := v &&& BitVec.ofNat 32 row.mask
        match row.kind with
        | .wo => writeCommand s r n off x.toNat
        | .rw | .rws => if encBad s n off x.toNat then rejectWrite s n else setSh s n off (bankIdx s n row.bank) x
        | _ => s
      if off ≥ 0x400 then expertWrite s n (act s) else act s

/-- A register write of a size in bytes: 4, or 8 as two, the lower offset first; every other is rejected whole. -/
def writeSized (s : State) (r : Requester) (n off size : Nat) (v : DWord) : State :=
  if size = 4 ∧ off % 4 = 0 then writeReg s r n off (v.setWidth 32)
  else if size = 8 ∧ off % 8 = 0 then writeReg (writeReg s r n off (v.setWidth 32)) r n (off + 4) (BitVec.ofNat 32 (v.toNat / 2 ^ 32))
  else rejectWrite s n

/-- REGISTER_WRITE (R7, R8, R644). -/
def execRegisterWrite (r : Requester) (n : Fin 65536) (off : Fin 4096) (size : Fin 9) (v : DWord) (s : State) :
    Host.Outcome State Fault Refusal :=
  .next (pageWrite s r n (fun s => writeSized s r n off size v))

/-! ### Reads (R9, R579, R644) -/

/-- May this requester read the page? Management Ethernet reads GH, PWR, CLK and BLV pages. -/
def readable (s : State) (r : Requester) (n : Nat) : Bool :=
  served s r && (!s.fw.recovery || n == hif) && (r != .ethernet || [clsGH, clsPWR, clsCLK, clsBLV].contains (pageCls n))

/-- Read one register; the draw of a seed is an effect of its own (R485). -/
def readOne (s : State) (n off : Nat) : State × Nat :=
  if pageCls n = clsRNG ∧ off / 4 * 4 = 0x110 ∧ pageImpl n then seedDraw s (pageInst n) else readReg s n off

/-- A read of a size in bytes: an aligned 8 bytes are two reads; every other reads the whole containing word. -/
def readSized (s : State) (n off size : Nat) : State :=
  let (s, v) := readOne s n off
  if size = 8 ∧ off % 8 = 0 then
    let (s, w) := readOne s n (off + 4)
    emit s (.answer 1 [n, off, v, w])
  else emit s (.answer 1 [n, off / 4 * 4, v])

/-- REGISTER_LO_READ (R9, R644): any register read, of which that of a _LO register latches its other half. -/
def execRegisterLoRead (r : Requester) (n : Fin 65536) (off : Fin 4096) (size : Fin 9) (s : State) : Host.Outcome State Fault Refusal :=
  .next (let s := wokenBy s r
    if readable s r n then readSized s n off size else s)

/-! ### Rows of single fields -/

/-- CTRL_ENABLE (R647). -/
def execCtrlEnable (r : Requester) (n : Fin 65536) (on : Bool) (s : State) : Host.Outcome State Fault Refusal :=
  .next (pageWrite s r n (fun s => setEnable s n on))
/-- FENCE_REQ (R647, R687): reserved on a page that cannot be fenced. -/
def execFenceReq (r : Requester) (n : Fin 65536) (s : State) : Host.Outcome State Fault Refusal :=
  .next (pageWrite s r n (fun s => if pageFenceable n then fenceRequest s n else s))
/-- EXPERT_UNLOCK (R654). -/
def execExpertUnlock (r : Requester) (n : Fin 65536) (key : BitVec 8) (s : State) : Host.Outcome State Fault Refusal :=
  .next (pageWrite s r n (fun s => unlock s r n key.toNat))
/-- EXPERT_RELOCK (R654). -/
def execExpertRelock (r : Requester) (n : Fin 65536) (s : State) : Host.Outcome State Fault Refusal := .next (pageWrite s r n (fun s => lock s n))
/-- CNT_CLEAR (R137, R139). -/
def execCntClear (r : Requester) (n : Fin 65536) (v : Word) (s : State) : Host.Outcome State Fault Refusal :=
  .next (pageWrite s r n (fun s => clearWrite s n v.toNat))
/-- TEST_MODE_ENTER (R601, R659): the whole sequence. -/
def execTestModeEnter (r : Requester) (s : State) : Host.Outcome State Fault Refusal :=
  .next (pageWrite s r (pg clsGH 0) (fun s => writeTest (writeTest s r 0xC3) r 0x3C))
/-- TEST_MODE_EXIT (R601, R659). -/
def execTestModeExit (r : Requester) (b : Boot) (s : State) : Host.Outcome State Fault Refusal :=
  .next (pageWrite s r (pg clsGH 0) (fun s => leaveTest s b))
/-- BLV_SNAPSHOT (R665). -/
def execBlvSnapshot (r : Requester) (clear : Bool) (s : State) : Host.Outcome State Fault Refusal :=
  .next (pageWrite s r (pg clsBLV 0) (fun s => snapshot s clear))
/-- SNAP_PERIOD_TICK (R665). -/
def execSnapPeriodTick (s : State) : Host.Outcome State Fault Refusal :=
  .next (if actN s (pg clsBLV 0) 0x108 ≠ 0 ∧ s.power.mode = 0 then snapshot s false else s)

/-! ### Management Ethernet (R536, R579) -/

/-- MGMT_DATAGRAM (R536, R579): a manager message, or the reply to one (TYPE 0, its code in word 8), or a register access. -/
def execMgmtDatagram (d : Datagram) (s : State) : Host.Outcome State Fault Refusal :=
  .next (match d with
    | .manager src num words list =>
      let s := wokenBy s .ethernet
      let w := (List.range 12).map (fun i => bitsOf words.toNat (32 * i) 32)
      if !served s .gatehouse || s.power.mode == 7 then s
      else if bitsOf (w.getD 0 0) 0 8 = 0 then mgrReplied s num.toNat (w.getD 4 0)
      else updGate s (fun g => { g with inq := g.inq ++ [{ src := src, num := num.toNat, words := w, list := list.map BitVec.toNat, ether := true }] })
    | .read n off => if readable (wokenBy s .ethernet) .ethernet n then readSized (wokenBy s .ethernet) n off 4 else wokenBy s .ethernet
    | .write n off size v => pageWrite s .ethernet n (fun s => writeSized s .ethernet n off size v))

end Sys2Proof.Machine
end

