-- ==== Sys2Proof/Machine/Replies.lean ====
section
/-!
DEFINITION. Requests at their homes, and the replies to them (R427, R508, R586 to R593).
-/
namespace Sys2Proof.Machine
open Sys2Proof

/-- Page and unit whose injection of kind 3 discards the reply to a request (R603). -/
def dropUnit (s : State) (r : Req) : Option (Nat × Nat) :=
  let pav := match r.op.bind (getOp s) with | some o => (euPav o.eu).getD 0 | none => 0
  match r.kind with
  | .rowFetch => some (pg clsROW pav, 0)
  | .rowCheck => some (pg clsROW pav, 1)
  | .rowUpdate => some (pg clsROW (updatePav r), 2)
  | .piece => if r.mode ≠ 0 then none else
    (match r.op.bind (getOp s) with | some o => (match o.eu with | .stm c => some (pg clsSTM (c / 32), c % 32) | _ => none) | none => none)
  | _ => none
/-- A reply that an injection discards: its request is left to its timeout (R603, R604). -/
def dropped (s : State) (id : Nat) (r : Req) : Option State :=
  match dropUnit s r with
  | some (n, u) => if injKind s n u = 3 then some (injTaken (updReq s id (fun r => { r with st := .lost })) n) else none
  | none => none

/-- A piece's request is performed at a home of this module: its read, or its write once it holds data (R446). -/
def homePiece (s : State) (id mode : Nat) : State :=
  match getReq s id with
  | some r =>
    if r.kind = .piece ∧ r.st = .sent ∧ !portAhead s id r ∧ r.mode = mode ∧ isOwn s (if mode = 0 then r.addr else r.words.getD 0 0) then
      (if mode = 0 then (dropped s id r).getD (pieceRead s id r) else pieceWrite s id r)
    else s
  | none => s

/-- The request moves a piece of an engine's list. -/
def isPiece (s : State) (id : Nat) : Bool := ((getReq s id).map (fun r => decide (r.kind = .piece))).getD false

/-- READ (R508, R427): of a thread, a stream, or an arrived message. -/
def execRead (r : HomeReq) (s : State) : Host.Outcome State Fault Refusal :=
  .next (match r with
    | .own id => if isPiece s id then homePiece s id 0 else homeOwn s id .load
    | .arrived i => homeArrived s i 1)
/-- WRITE (R508, R427). -/
def execWrite (r : HomeReq) (s : State) : Host.Outcome State Fault Refusal :=
  .next (match r with
    | .own id => if isPiece s id then homePiece s id 1 else homeOwn s id .store
    | .arrived i => homeArrived s i 2)

/-! ### Replies (R506, R508, R587, R590, R603) -/

/-- STATUS of R506. -/
def statusOf : Nat → Status | 0 => .ok | 1 => .fenced | 2 => .uncorrectable | _ => .unreachable

/-- The request that a reply from another module answers: in flight, under its tag and that tag's epoch (R587), in its class (R508). -/
def replyReq (s : State) (m : Msg) : Option (Nat × Req) :=
  (reqList s).find? (fun e => e.1 % 65536 == m.tag && (e.2.st == .sent) && e.2.tagEpoch == m.tagEpoch && e.2.cls == m.cls &&
    !isOwn s (if e.2.kind = .piece ∧ e.2.mode ≠ 0 then e.2.words.getD 0 0 else e.2.addr))

/-- A journal record's confirmation: what it was for goes on; a record that found no room, or a home under reset, is sent again (R356,
R370, R590). -/
def journalAnswer (s : State) (id : Nat) (r : Req) (st : Status) (code : Nat) : State :=
  let again (s : State) : State := updReq s id (fun r => { r with st := if isOwn s r.addr then .sent else .busy })
  match st, code with
  | .ok, 0 => rebuildSettle (tryAck (journalDone s id))
  | .ok, _ => again (journalWaits s r)
  | _, _ => again s

/-- A row request's answer of this module's own home: its first word and the row. -/
def rowOwn (s : State) (id : Nat) (r : Req) (st : Status) : State := rowAnswered s id r st (r.words.getD 3 0) (r.words.getD 4 0)

/-- The answer of a home of this module lands. -/
def ownReply (s : State) (id : Nat) (r : Req) (st : Status) (v : DWord) : State :=
  (dropped s id r).getD (match r.kind with
    | .rowFetch | .rowCheck => rowOwn s id r st
    | .rowUpdate => updateAnswer s id r st v.toNat
    | .journal => journalAnswer s id r st v.toNat
    | _ => answerReq s id r st v)

/-- Another module's answer lands (R508, R590). -/
def farReply (s : State) (id : Nat) (r : Req) (m : Msg) : State :=
  let st := statusOf m.status
  (dropped s id r).getD (match r.kind with
    | .rowFetch | .rowCheck =>
      let p := match r.op.bind (getOp s) with | some o => (euPav o.eu).getD 0 | none => 0
      rowPump (rowPiece s id r m) p
    | .rowUpdate => updateAnswer s id r st (m.pl 0)
    | .journal => journalAnswer s id r st (m.pl 0)
    | .coll => if st = .unreachable then collLose s id r else answerReq s id r st 0
    | .piece =>
      if r.mode = 0 then (if st = .ok then pieceData s id r ((m.bytesFrom 0).take r.len) else answerReq s id r st 0)
      else (match st with
        | .ok => pieceDone s id r
        | .fenced => faultReq s id r { code := fWriteFenced, addr := r.words.getD 0 0 }
        | .uncorrectable => faultReq s id r { code := fUncorrectable, detail := resource 20 14 (gMod (r.words.getD 0 0)) }
        | .unreachable => faultReq s id r { code := fUnreachable, detail := resource 20 14 (gMod (r.words.getD 0 0)) })
    | .engine =>
      if r.aop = 0 ∧ st = .ok then farData s id r ((m.bytesFrom 0).take r.len) else answerReq s id r st 0
    | _ => answerReq s id r st (BitVec.ofNat 64 (m.pl 0 % 2 ^ (8 * r.len))))

/-- A reply message is taken: it answers a request, or, stale, nothing, counted with the core whose request table it was for (R414, R587); the reply to a manager message goes to the Gatehouse. -/
def takeReply (s : State) (i : Nat) (m : Msg) : State :=
  let s := takeArrival s i
  if m.stream = 3587 then
    (if m.status = 3 then (if s.gate.outq.any (fun o => o.msg.num == m.tag && !o.ether) then overEthernet s m.tag else s)
     else mgrReplied s m.tag (m.pl 0))
  else match replyReq s m with
    | some (id, r) =>
      -- it crosses the Promenade from the Orangery that it came to (R440)
      let s := landMsg s m m.die
      farReply (if m.status = 1 then carryFenced s m.die (16 + m.axis) else s) id r m
    | none => if m.stream < 1536 then bump s (pg clsCORE m.die) 0x80 else s

/-- Does a request of this kind get data back? -/
def Req.wantsData (r : Req) : Bool :=
  match r.kind with
  | .load | .rowFetch | .rowCheck => true
  | .atomic => r.reg.isSome
  | _ => false

/-- MODULE_STEP_APPLIED (R363): A_m reaches a step that is applied at every home unit. -/
def execModuleStepApplied (s : State) : Host.Outcome State Fault Refusal :=
  .next (match stepReady s with | some x => reportApplied s x | none => s)

end Sys2Proof.Machine
end

