-- ==== Sys2Proof/Machine/Retry.lean ====
section
/-!
DEFINITION. READ_RETRY (R58, R590, R593): a read that completed FENCED is made again, by a request or by an engine's command.
-/
namespace Sys2Proof.Machine
open Sys2Proof

/-- The counter of a unit's retried reads. -/
def retryOff : EUnit → Option Nat
  | .dns _ => some 0x78 | .sps _ => some 0x74 | .vec _ => some 0x74 | .num _ => some 0x74 | .hdg _ => some 0x78 | .sel _ => some 0x68 | .smp _ => some 0x94
  | .row _ => some 0x90 | .stm _ => some 0x70 | _ => none
/-- The page that counts them: a monitor's reads count with the vector engine (R336). -/
def retryPage : EUnit → Nat
  | .num p => pg clsVEC p
  | u => euPage u
/-- Count a retried read of a unit. -/
def countRetry (s : State) (u : EUnit) : State := match retryOff u with | some o => bump s (retryPage u) o | none => s

/-- The effect of a command whose issue was FENCED (R593). -/
def retryRun (opc : Nat) : Option (Ctx → Cm Stand) :=
  match opc with
  | 0x01 => some copyDef.run | 0x02 => some loadDef.run | 0x03 => some storeDef.run | 0x04 => some encDef.run | 0x05 => some sfillDef.run
  | 0x20 => some loadWDef.run | 0x21 => some mmDef.run | 0x22 => some drainDef.run | 0x23 => some scoreDef.run | 0x24 => some valueDef.run
  | 0x25 => some tileSaveDef.run | 0x26 => some tileRestoreDef.run
  | 0x40 | 0x41 | 0x42 | 0x43 => some (spsDef opc).run
  | 0x50 => some mapDef.run | 0x51 => some softmaxDef.run | 0x52 => some normDef.run | 0x53 => some vcastDef.run | 0x54 => some padDef.run
  | 0x55 => some reduceDef.run | 0x56 => some bindDef.run
  | 0x60 | 0x61 | 0x62 | 0x63 | 0x64 | 0x65 => some (smpDef opc).run | 0x66 => some aliasDef.run
  | 0x70 => some (gatherDef false).run | 0x71 => some (gatherDef true).run | 0x72 => some scatterDef.run | 0x73 => some flushDef.run
  | 0x74 => some moveDef.run | 0x75 => some popDef.run
  | 0x80 | 0x81 | 0x82 | 0x83 => some (collDef opc 0).run
  | 0x90 => some fillDef.run | 0x91 => some liteDef.run | 0x92 => some noiseDef.run | 0x93 => some scanDef.run | 0x94 => some drawDef.run
  | 0x98 => some hloadDef.run | 0x99 => some predictDef.run | 0x9A => some auditDef.run
  | _ => none

/-- A command whose issue completed FENCED makes its effect, from the start. -/
def runAgain (s : State) (id : Nat) (o : Op) : State :=
  match retryRun o.opcode with
  | none => s
  | some run =>
    let s0 := updOp s id (fun o => { o with waits := 0, unrun := false, far := { o.far with st := 0 } })
    match catchAwait (run (opCtx id o)) s0 with
    | .ok (.fenced a) s' => fencedOp (updOp s' id (fun _ => o)) s' id o a
    | .ok (.await g len eng) s' => askFar (updOp s' id (fun _ => o)) (opCtx id o) g len eng
    | .ok st s' =>
      let n := match st with | .later n => n | .posted n => n | _ => 0
      updOp s' id (fun e =>
        { e with opcode := o.opcode, iss := o.iss, slot := o.slot, gen := o.gen, eu := o.eu, cmd := o.cmd, async := o.async, cpl := o.cpl,
                 spans := o.spans, thrIdx := o.thrIdx, cmdIdx := o.cmdIdx, parked := o.parked, rec' := o.rec', outs := o.outs
                 waits := e.waits + n + remoteOf s' id, tries := 0, due := false, far := {} })
    | .error f s' =>
      if f.code = holdCode then s
      else if f.code = fencedCode then fencedOp s s' id o f.addr
      else engineFault s' (o.slot.getD 0) o.opcode f (some id)

/-- Let a unit go on with what a retried read held up. -/
def goOn (s : State) (id : Nat) (u : EUnit) : State :=
  match u with
  | .dns c => pumpTiles (tileStep s id 1) c 32
  | .sps c => pumpTiles (tileStep s id (tileSteps s id)) c 32
  | .stm _ => strmSettle (updStrm s id (fun x => { x with stalled := false })) id
  | .row p => rowPump s p
  | .smp p => smpPump s p
  | .vec c => vecPump s c
  | _ => s

/-- May the engine of a command of a PREEMPTED task serve it (R128, R495)? -/
def parkedOut (o : Op) : Bool := o.parked && (match o.eu with | .dns _ | .sps _ | .vec _ => true | _ => false)

/-- A command whose bytes of other modules have come goes on: it begins anew, or its unit serves it. -/
def goFurther (s : State) (id : Nat) : State :=
  match getOp s id with
  | some o =>
    if o.far.st ≠ 2 ∨ parkedOut o ∨ !euServes s o.eu then s
    else
      let s := updOp s id (fun o => { o with far := { o.far with st := 0 } })
      goOn (if o.unrun then runAgain s id o else s) id o.eu
  | none => s
/-- The message of a read that is sent again to another module, under its tag's new epoch. -/
def againMsg (s : State) (id : Nat) (r : Req) : Msg :=
  let o := r.op.bind (getOp s)
  let prio := match r.slot with | some k => effPrio s k | none => 0
  let info (die stream mtype : Nat) : MsgInfo :=
    { dst := gMod r.addr, cls := r.cls, prio, mtype, die, stream, tag := id % 65536, tagEpoch := r.tagEpoch.toNat }
  let eu := match o with | some o => o.eu | none => .mgr
  let pav := (euPav eu).getD (match eu with | .col a => 16 + a | _ => 16)
  let k := r.words.getD 0 0
  match r.kind with
  | .load => threadMsg s id r
  | .rowFetch | .rowCheck =>
    let check := r.kind == .rowCheck
    mkMsg s (info pav (1536 + b2n check) (if check then 6 else 5))
      [BitVec.ofNat 64 (k % 2 ^ 40 + r.aop * 2 ^ 40 + bitsOf (r.words.getD 1 0) 0 1 * 2 ^ 48), BitVec.ofNat 64 (r.words.getD 2 0)]
  | .engine => engineMsg s id r
  | _ => pieceMsg s id r

/-- A check, an update, a record or a fragment that had to wait for an entry of a reorder table leaves, if it may now (R387). -/
def sendLate (s : State) (e : Nat × Req) : State :=
  let r := { e.2 with st := .sent }
  if e.2.st ≠ .held ∨ !e.2.later' ∨ !mayLeave s r then s
  else
    let s := updReq s e.1 (fun _ => r)
    match r.kind with
    | .coll => (match sendMsg s (collMsg s e.1 r) with
      | (s, true) => s
      | (s, false) => collLose s e.1 r)
    | .journal => journalOut s (r.words.getD 0 0) e.1 (bytesOf (r.words.getD 3 0) (r.words.getD 2 0))
    | _ =>
      if isOwn s r.addr then s
      else match (if r.kind = .rowUpdate then
          updateOut s e.1 (gMod r.addr) ((r.slot.map (effPrio s)).getD 0) r.cls (updatePav r)
            (recOf (r.words.getD 0 0) (r.words.getD 1 0) (r.words.getD 2 0))
        else sendMsg s (againMsg s e.1 r)) with
        | (s, true) => s
        | (s, false) => faultReq s e.1 r { code := fUnreachable, detail := resource 20 14 (gMod r.addr) }

/-- What waited for a reply goes on: requests for its tag or entry, and for the bytes it brought the commands, and the banks that are filled
again. -/
def replyDone (s : State) : State :=
  let s := (reqList (pumpHeld s)).foldl sendLate (pumpHeld s)
  let s := (opList s).foldl (fun s e => goFurther s e.1) s
  s.dense.foldl (fun s e => if (dense s e.1).refills.any (fun r => r.far.st == 2) then runRefills s e.1 2 else s) s

/-- A reply to a request of this module, or one that has arrived; what waited for it goes on. -/
def anyReply (s : State) (r : ReplyRef) (data : Bool) : State :=
  replyDone <| match r with
  | .own id =>
    match getReq s id with
    | some q => (match q.st with | .answered st v => if q.wantsData = data then ownReply s id q st v else s | _ => s)
    | none => s
  | .arrived i =>
    match arrival s i with
    | some m => if forMe s m (if data then 0x40 else 0x41) then takeReply s i m else s
    | none => s

/-- REPLY_DATA (R587). -/
def execReplyData (r : ReplyRef) (s : State) : Host.Outcome State Fault Refusal := .next (anyReply s r true)
/-- REPLY_ACK (R587, R590, R591). -/
def execReplyAck (r : ReplyRef) (s : State) : Host.Outcome State Fault Refusal := .next (anyReply s r false)

/-- An engine's command makes its read again, once what it reads has signalled RESET_DONE. A retry that must wait for something else is
due, and is tried again. -/
def retryOp (s : State) (id : Nat) : State :=
  match getOp s id with
  | some o =>
    if o.far.st = 2 then goFurther s id
    else if o.tries = 0 ∨ o.far.st ≠ 0 ∨ parkedOut o ∨ memService s o.fencedAt = .resetting ∨ !euServes s o.eu then s
    else
      let s := if o.due then s else countRetry (updOp s id (fun o => { o with due := true })) o.eu
      goOn (if o.unrun then runAgain s id o else s) id o.eu
  | none => s

/-- Does a read that is to be made again find a fresh tag, and an entry of a reorder table (R387, R446, R462)? -/
def tagFree (s : State) (r : Req) : Bool :=
  match r.kind, r.eu with
  | .piece, some (.stm c) =>
    mayLeave s r && (if r.words.getD 3 0 = 1 then decide (lightTags s c < 64) else bulkFree s c (r.op.getD 0))
  | .engine, _ => mayEngine s r
  | .load, _ | .rowFetch, _ | .rowCheck, _ => mayLeave s r
  | _, _ => true

/-- A request whose retry is due is sent again: to its home in this module, by a message, or, a SIGNAL, CANCEL or PRIO_SET, as it was sent. -/
def retryReq (s : State) (id : Nat) : State :=
  match getReq s id with
  | some r =>
    if r.st ≠ .fenced true ∨ !tagFree s r then s
    else
      let s := match r.op.bind (getOp s) with | some o => countRetry s o.eu | none => s
      let r := { r with st := .sent, words := if r.kind = .rowFetch ∨ r.kind = .rowCheck then r.words.take 3 else r.words }
      let s := updReq s id (fun _ => r)
      if r.kind = .signal then
        (match sendMsg s (signalMsg s id r) with
         | (s, true) => s
         | (s, false) => faultReq s id r { code := fUnreachable, detail := resource 20 14 (gMod r.addr) })
      else if r.kind = .coll then
        (match sendMsg s (collMsg s id r) with
         | (s, true) => s
         | (s, false) => collLose s id r)
      else if r.kind = .carried then emit s (.dispatch (r.words.getD 0 0) (standHandle s (r.words.getD 1 0)) (r.words.getD 2 0) (r.words.getD 3 0) id)
      else if isOwn s r.addr then sendOwn s id r
      else match sendMsg s (againMsg s id r) with
        | (s, true) => s
        | (s, false) => faultReq s id r { code := fUnreachable, detail := resource 20 14 (gMod r.addr) }
  | none => s

/-- The work that an engine has left to do for a command that it serves: a sampler command's is done as it completes (R187). -/
def finishWork (s : State) (id : Nat) : State :=
  match getOp s id with
  | some o => (match o.eu with
    | .smp _ => smpFinish s id
    | .dns c | .sps c => tileWork s c id
    | .row p => rowPump s p
    | .sel p => selFinish s p id
    | .merge _ => mergeFinish s id
    | _ => s)
  | none => s

/-- A command has completed; one of a row or vector engine makes room for those that wait (R222, R226, R313), and one of a selection unit
ends its grant (R494). -/
def afterOp (s : State) (o : Op) : State := match o.eu with | .row _ => pavs.foldl rowPump s | .vec c => vecPump s c | .sel p => selEnd s p | _ => s

/-- COMMAND_COMPLETION (R79): its engine has done what was left of a command, and a command that waits for nothing more completes. -/
def execCommandCompletion (id : Nat) (s : State) : Host.Outcome State Fault Refusal :=
  .next (
    let s := finishWork s id
    match getOp s id with
    | some o => if opReady s id o then afterOp (completeOp s id o) o else s
    | none => s)

/-- READ_RETRY (R593). -/
def execReadRetry (r : RetryRef) (s : State) : Host.Outcome State Fault Refusal :=
  .next (match r with | .req tag => retryReq s tag | .op id => retryOp s id | .refill c => retryRefill s c)

end Sys2Proof.Machine
end

