-- ==== Sys2Proof/Machine/Dispatch.lean ====
section
/-!
DEFINITION. The effect of a command on everything but the queue of waiting commands: one arm for each row.
-/
namespace Sys2Proof.Machine
open Sys2Proof

/-- The effect of command `i` on `s`. -/
def exec (i : Instr) (s : State) : Host.Outcome State Fault Refusal :=
  match i with
  | .nop iss b => Sys2Proof.Machine.execNop iss b s
  | .stmCopy t b => Sys2Proof.Machine.execStmCopy t b s
  | .stmLoad t b => Sys2Proof.Machine.execStmLoad t b s
  | .stmStore t b => Sys2Proof.Machine.execStmStore t b s
  | .stmStoreEnc t b => Sys2Proof.Machine.execStmStoreEnc t b s
  | .stmFill t b => Sys2Proof.Machine.execStmFill t b s
  | .stmLoadreg t b => Sys2Proof.Machine.execStmLoadreg t b s
  | .stmStorereg t b => Sys2Proof.Machine.execStmStorereg t b s
  | .dnsLoadW t b => Sys2Proof.Machine.execDnsLoadW t b s
  | .dnsMm t b => Sys2Proof.Machine.execDnsMm t b s
  | .dnsDrain t b => Sys2Proof.Machine.execDnsDrain t b s
  | .dnsAttnScore t b => Sys2Proof.Machine.execDnsAttnScore t b s
  | .dnsAttnValue t b => Sys2Proof.Machine.execDnsAttnValue t b s
  | .dnsTileSave t b => Sys2Proof.Machine.execDnsTileSave t b s
  | .dnsTileRestore t b => Sys2Proof.Machine.execDnsTileRestore t b s
  | .spsBm64 t b => Sys2Proof.Machine.execSpsBm64 t b s
  | .spsCoo16 t b => Sys2Proof.Machine.execSpsCoo16 t b s
  | .spsSegment t b => Sys2Proof.Machine.execSpsSegment t b s
  | .spsAuto t b => Sys2Proof.Machine.execSpsAuto t b s
  | .vecMap t b => Sys2Proof.Machine.execVecMap t b s
  | .vecSoftmax t b => Sys2Proof.Machine.execVecSoftmax t b s
  | .vecNorm t b => Sys2Proof.Machine.execVecNorm t b s
  | .vecCast t b => Sys2Proof.Machine.execVecCast t b s
  | .vecPartialAdd t b => Sys2Proof.Machine.execVecPartialAdd t b s
  | .vecReduce t b => Sys2Proof.Machine.execVecReduce t b s
  | .numBind t b => Sys2Proof.Machine.execNumBind t b s
  | .smpUniform t b => Sys2Proof.Machine.execSmpUniform t b s
  | .smpAlias t b => Sys2Proof.Machine.execSmpAlias t b s
  | .smpReservoir t b => Sys2Proof.Machine.execSmpReservoir t b s
  | .smpLayerwise t b => Sys2Proof.Machine.execSmpLayerwise t b s
  | .smpWalk2 t b => Sys2Proof.Machine.execSmpWalk2 t b s
  | .smpTemporal t b => Sys2Proof.Machine.execSmpTemporal t b s
  | .smpAliasBuild t b => Sys2Proof.Machine.execSmpAliasBuild t b s
  | .rowGather t b => Sys2Proof.Machine.execRowGather t b s
  | .rowGatherPool t b => Sys2Proof.Machine.execRowGatherPool t b s
  | .rowScatter t b => Sys2Proof.Machine.execRowScatter t b s
  | .rowMergeFlush t b => Sys2Proof.Machine.execRowMergeFlush t b s
  | .rowMove t b => Sys2Proof.Machine.execRowMove t b s
  | .rowPopRead t b => Sys2Proof.Machine.execRowPopRead t b s
  | .colReduce t b => Sys2Proof.Machine.execColReduce t b s
  | .colAllreduce t b => Sys2Proof.Machine.execColAllreduce t b s
  | .colReduceScatter t b => Sys2Proof.Machine.execColReduceScatter t b s
  | .colAllgather t b => Sys2Proof.Machine.execColAllgather t b s
  | .rngFill t b => Sys2Proof.Machine.execRngFill t b s
  | .rngLiteFill t b => Sys2Proof.Machine.execRngLiteFill t b s
  | .rngNoiseRead t b => Sys2Proof.Machine.execRngNoiseRead t b s
  | .selScan t b => Sys2Proof.Machine.execSelScan t b s
  | .selDraw t b => Sys2Proof.Machine.execSelDraw t b s
  | .hdgLoad t b => Sys2Proof.Machine.execHdgLoad t b s
  | .hdgPredict t b => Sys2Proof.Machine.execHdgPredict t b s
  | .hdgAuditRead t b => Sys2Proof.Machine.execHdgAuditRead t b s
  | .task q b => Sys2Proof.Machine.execTask q b s
  | .signal iss b => Sys2Proof.Machine.execSignal iss b s
  | .fence t b => Sys2Proof.Machine.execFence t b s
  | .atomic t b => Sys2Proof.Machine.execAtomic t b s
  | .cancel iss b => Sys2Proof.Machine.execCancel iss b s
  | .mgrMsg q b => Sys2Proof.Machine.execMgrMsg q b s
  | .endThread t b => Sys2Proof.Machine.execEndThread t b s
  | .prioSet iss b => Sys2Proof.Machine.execPrioSet iss b s
  | .flagSet j => Sys2Proof.Machine.execFlagSet j s
  | .placement p bucket => Sys2Proof.Machine.execPlacement p bucket s
  | .preemptionCheck p => Sys2Proof.Machine.execPreemptionCheck p s
  | .quantumEnd t => Sys2Proof.Machine.execQuantumEnd t s
  | .headReserve t => Sys2Proof.Machine.execHeadReserve t s
  | .contextSave t => Sys2Proof.Machine.execContextSave t s
  | .taskDone t => Sys2Proof.Machine.execTaskDone t s
  | .orderedRelease t => Sys2Proof.Machine.execOrderedRelease t s
  | .coolingEnd t => Sys2Proof.Machine.execCoolingEnd t s
  | .hubSegmentPlace h core => Sys2Proof.Machine.execHubSegmentPlace h core s
  | .hubPartialAdd h => Sys2Proof.Machine.execHubPartialAdd h s
  | .profile m => Sys2Proof.Machine.execProfile m s
  | .jobStart m => Sys2Proof.Machine.execJobStart m s
  | .stepOpen m => Sys2Proof.Machine.execStepOpen m s
  | .openPrepare m => Sys2Proof.Machine.execOpenPrepare m s
  | .openGo m => Sys2Proof.Machine.execOpenGo m s
  | .stepSeal m => Sys2Proof.Machine.execStepSeal m s
  | .stageAck m => Sys2Proof.Machine.execStageAck m s
  | .stepCommit m => Sys2Proof.Machine.execStepCommit m s
  | .stepAbort m => Sys2Proof.Machine.execStepAbort m s
  | .applied m => Sys2Proof.Machine.execApplied m s
  | .taint m => Sys2Proof.Machine.execTaint m s
  | .checkpoint m => Sys2Proof.Machine.execCheckpoint m s
  | .heartbeat m => Sys2Proof.Machine.execHeartbeat m s
  | .heartbeatTick => Sys2Proof.Machine.execHeartbeatTick s
  | .heartbeatMiss id alive => Sys2Proof.Machine.execHeartbeatMiss id alive s
  | .lost m => Sys2Proof.Machine.execLost m s
  | .halt m => Sys2Proof.Machine.execHalt m s
  | .resume m => Sys2Proof.Machine.execResume m s
  | .remap m => Sys2Proof.Machine.execRemap m s
  | .rebuild m => Sys2Proof.Machine.execRebuild m s
  | .mirrorReset m => Sys2Proof.Machine.execMirrorReset m s
  | .decision m => Sys2Proof.Machine.execDecision m s
  | .mgrResendTimeout num => Sys2Proof.Machine.execMgrResendTimeout num s
  | .standbyTakeover => Sys2Proof.Machine.execStandbyTakeover s
  | .profileActivation => Sys2Proof.Machine.execProfileActivation s
  | .dataFlit l f => Sys2Proof.Machine.execDataFlit l f s
  | .idleFlit l f => Sys2Proof.Machine.execIdleFlit l f s
  | .nak l f => Sys2Proof.Machine.execNak l f s
  | .nakRepeat l => Sys2Proof.Machine.execNakRepeat l s
  | .ackInterval l => Sys2Proof.Machine.execAckInterval l s
  | .flitSlot l => Sys2Proof.Machine.execFlitSlot l s
  | .forward j => Sys2Proof.Machine.execForward j s
  | .read r => Sys2Proof.Machine.execRead r s
  | .write r => Sys2Proof.Machine.execWrite r s
  | .fabricAtomic r => Sys2Proof.Machine.execFabricAtomic r s
  | .fabricSignal j => Sys2Proof.Machine.execFabricSignal j s
  | .rowFetch r => Sys2Proof.Machine.execRowFetch r s
  | .rowCheck r => Sys2Proof.Machine.execRowCheck r s
  | .rowUpdate r => Sys2Proof.Machine.execRowUpdate r s
  | .journal r => Sys2Proof.Machine.execJournal r s
  | .coll c => Sys2Proof.Machine.execColl c s
  | .replyData r => Sys2Proof.Machine.execReplyData r s
  | .replyAck r => Sys2Proof.Machine.execReplyAck r s
  | .linkTrained l t => Sys2Proof.Machine.execLinkTrained l t s
  | .linkReset l => Sys2Proof.Machine.execLinkReset l s
  | .sqTail q f v => Sys2Proof.Machine.execSqTail q f v s
  | .cqHead q f v => Sys2Proof.Machine.execCqHead q f v s
  | .ringFetch q => Sys2Proof.Machine.execRingFetch q s
  | .completionRecord c => Sys2Proof.Machine.execCompletionRecord c s
  | .cqCoalTimer c => Sys2Proof.Machine.execCqCoalTimer c s
  | .functionLevelReset f => Sys2Proof.Machine.execFunctionLevelReset f s
  | .hotReset port => Sys2Proof.Machine.execHotReset port s
  | .apertureRead off len => Sys2Proof.Machine.execApertureRead off len s
  | .apertureWrite off data => Sys2Proof.Machine.execApertureWrite off data s
  | .xlateInv r v => Sys2Proof.Machine.execXlateInv r v s
  | .xlateInvDone => Sys2Proof.Machine.execXlateInvDone s
  | .fwStart r v => Sys2Proof.Machine.execFwStart r v s
  | .fwUpdateDone flashOk => Sys2Proof.Machine.execFwUpdateDone flashOk s
  | .commitSvn r => Sys2Proof.Machine.execCommitSvn r s
  | .commit r n => Sys2Proof.Machine.execCommit r n s
  | .commitApply n => Sys2Proof.Machine.execCommitApply n s
  | .ctrlEnable r n on => Sys2Proof.Machine.execCtrlEnable r n on s
  | .fenceReq r n => Sys2Proof.Machine.execFenceReq r n s
  | .expertUnlock r n key => Sys2Proof.Machine.execExpertUnlock r n key s
  | .expertRelock r n => Sys2Proof.Machine.execExpertRelock r n s
  | .softReset r n => Sys2Proof.Machine.execSoftReset r n s
  | .errInject r n v => Sys2Proof.Machine.execErrInject r n v s
  | .cntClear r n v => Sys2Proof.Machine.execCntClear r n v s
  | .errLatchClear r n => Sys2Proof.Machine.execErrLatchClear r n s
  | .faultAck r p v => Sys2Proof.Machine.execFaultAck r p v s
  | .registerLoRead r n off size => Sys2Proof.Machine.execRegisterLoRead r n off size s
  | .seedDrawLo p => Sys2Proof.Machine.execSeedDrawLo p s
  | .nearRetireCmd r p v => Sys2Proof.Machine.execNearRetireCmd r p v s
  | .farRetireCmd r o v => Sys2Proof.Machine.execFarRetireCmd r o v s
  | .pavReqRun r p => Sys2Proof.Machine.execPavReqRun r p s
  | .pavReqHold r p => Sys2Proof.Machine.execPavReqHold r p s
  | .pavReqNap r p => Sys2Proof.Machine.execPavReqNap r p s
  | .modReqRun r => Sys2Proof.Machine.execModReqRun r s
  | .modReqHold r => Sys2Proof.Machine.execModReqHold r s
  | .modReqNap r => Sys2Proof.Machine.execModReqNap r s
  | .modReqRest r => Sys2Proof.Machine.execModReqRest r s
  | .modReqDormant r => Sys2Proof.Machine.execModReqDormant r s
  | .testModeEnter r => Sys2Proof.Machine.execTestModeEnter r s
  | .testModeExit r b => Sys2Proof.Machine.execTestModeExit r b s
  | .noiseClear p => Sys2Proof.Machine.execNoiseClear p s
  | .blvSnapshot r clear => Sys2Proof.Machine.execBlvSnapshot r clear s
  | .snapPeriodTick => Sys2Proof.Machine.execSnapPeriodTick s
  | .registerWrite r n off size v => Sys2Proof.Machine.execRegisterWrite r n off size v s
  | .tagBusyRetry tag => Sys2Proof.Machine.execTagBusyRetry tag s
  | .stmPieceIssue id => Sys2Proof.Machine.execStmPieceIssue id s
  | .gatePoll id => Sys2Proof.Machine.execGatePoll id s
  | .partialArrival id j => Sys2Proof.Machine.execPartialArrival id j s
  | .vecOperation core => Sys2Proof.Machine.execVecOperation core s
  | .groupSummary j => Sys2Proof.Machine.execGroupSummary j s
  | .smpGangJoin id p e => Sys2Proof.Machine.execSmpGangJoin id p e s
  | .homeApplied u => Sys2Proof.Machine.execHomeApplied u s
  | .moduleStepApplied => Sys2Proof.Machine.execModuleStepApplied s
  | .applyStart u => Sys2Proof.Machine.execApplyStart u s
  | .applyResume u => Sys2Proof.Machine.execApplyResume u s
  | .stagedUpdateRelease tag => Sys2Proof.Machine.execStagedUpdateRelease tag s
  | .hdgGrant p => Sys2Proof.Machine.execHdgGrant p s
  | .hdgGrantSplit p => Sys2Proof.Machine.execHdgGrantSplit p s
  | .selGrantSplit p => Sys2Proof.Machine.execSelGrantSplit p s
  | .mergeGrantSplit p => Sys2Proof.Machine.execMergeGrantSplit p s
  | .patrolScrub a errs last => Sys2Proof.Machine.execPatrolScrub a errs last s
  | .retireCopyDone k => Sys2Proof.Machine.execRetireCopyDone k s
  | .zeroingDone p c => Sys2Proof.Machine.execZeroingDone p c s
  | .pinLoad o l => Sys2Proof.Machine.execPinLoad o l s
  | .dirtyWriteback o l => Sys2Proof.Machine.execDirtyWriteback o l s
  | .channelGroupReset o g => Sys2Proof.Machine.execChannelGroupReset o g s
  | .coreReset c => Sys2Proof.Machine.execCoreReset c s
  | .pavilionReset p => Sys2Proof.Machine.execPavilionReset p s
  | .blockPageReset n => Sys2Proof.Machine.execBlockPageReset n s
  | .resetDone d => Sys2Proof.Machine.execResetDone d s
  | .readRetry r => Sys2Proof.Machine.execReadRetry r s
  | .requestTimeout tag => Sys2Proof.Machine.execRequestTimeout tag s
  | .hangDetect d again => Sys2Proof.Machine.execHangDetect d again s
  | .internalStateError d again => Sys2Proof.Machine.execInternalStateError d again s
  | .gatehouseTakeover => Sys2Proof.Machine.execGatehouseTakeover s
  | .droop p n => Sys2Proof.Machine.execDroop p n s
  | .thermalHot die => Sys2Proof.Machine.execThermalHot die s
  | .thermalTrip die => Sys2Proof.Machine.execThermalTrip die s
  | .electricalOverload => Sys2Proof.Machine.execElectricalOverload s
  | .inputVoltageFault => Sys2Proof.Machine.execInputVoltageFault s
  | .thermalLoopPeriod temps => Sys2Proof.Machine.execThermalLoopPeriod temps s
  | .powerLoopPeriod watts dv pw => Sys2Proof.Machine.execPowerLoopPeriod watts dv pw s
  | .autoHold p => Sys2Proof.Machine.execAutoHold p s
  | .pavilionWake p => Sys2Proof.Machine.execPavilionWake p s
  | .moduleWake w b => Sys2Proof.Machine.execModuleWake w b s
  | .dutyWindow p => Sys2Proof.Machine.execDutyWindow p s
  | .dividerChange p => Sys2Proof.Machine.execDividerChange p s
  | .pllLockLoss die => Sys2Proof.Machine.execPllLockLoss die s
  | .pllRelock die ok => Sys2Proof.Machine.execPllRelock die ok s
  | .referenceLoss => Sys2Proof.Machine.execReferenceLoss s
  | .referenceHoldoverExpiry => Sys2Proof.Machine.execReferenceHoldoverExpiry s
  | .powerOn b => Sys2Proof.Machine.execPowerOn b s
  | .perst b => Sys2Proof.Machine.execPerst b s
  | .smbusCommand c b => Sys2Proof.Machine.execSmbusCommand c b s
  | .mgmtDatagram d => Sys2Proof.Machine.execMgmtDatagram d s
  | .noiseBlock p => Sys2Proof.Machine.execNoiseBlock p s
  | .healthTestFail p apt expired => Sys2Proof.Machine.execHealthTestFail p apt expired s
  | .noiseRestart p => Sys2Proof.Machine.execNoiseRestart p s
  | .startupTestPass p => Sys2Proof.Machine.execStartupTestPass p s
  | .commandCompletion id => Sys2Proof.Machine.execCommandCompletion id s
  | .undefinedOpcode iss w => Sys2Proof.Machine.execUndefinedOpcode iss w s
  | .configurationRequest port f w => Sys2Proof.Machine.execConfigurationRequest port f w s
  | .msixTableWrite f v word x => Sys2Proof.Machine.execMsixTableWrite f v word x s
  | .pcieLinkChange port up flit width rate => Sys2Proof.Machine.execPcieLinkChange port up flit width rate s
  | .hotRelease die => Sys2Proof.Machine.execHotRelease die s
  | .electricalProtectionPeriod still => Sys2Proof.Machine.execElectricalProtectionPeriod still s
  | .referenceRestored => Sys2Proof.Machine.execReferenceRestored s
  | .supplyRemoved => Sys2Proof.Machine.execSupplyRemoved s
  | .gatehousePairFailure => Sys2Proof.Machine.execGatehousePairFailure s

end Sys2Proof.Machine
end

