-- ==== Sys2Proof/Safety.lean ====
section
/-!
DEFINITION. What counts as a safe run, the invariant that every step keeps, and the words in which the statements speak of commands that
threads issue and of messages that are taken.
-/
namespace Sys2Proof.Machine
open Sys2Proof

/-- The memory is in its canonical form. -/
abbrev Memory.wf (m : Memory) : Bool := Tab.wf 0 m

/-- The outcome is a next state, not a stop. -/
def Outcome.goesOn (o : Host.Outcome State Fault Refusal) : Bool :=
  match o with
  | .next _ => true
  | _ => false

/-- A run of `n` steps meets no fault and no refusal. -/
def runsOn : Nat → State → Bool
  | 0, _ => true
  | n + 1, s =>
    match step s with
    | .next t => runsOn n t
    | _ => false

/-- The block's invariant: module memory and host memory are in canonical form, and no noise pool exceeds its 64 blocks (R482). -/
structure State.Inv (s : State) : Prop where
  mem : Memory.wf s.mem = true
  host : Memory.wf s.hostMem = true
  pools : ∀ e ∈ s.rngs, e.2.pool.length ≤ 64

/-! ### Commands that threads issue -/

/-- The context in which a thread's command takes effect: its registers are substituted (R77). -/
def issuedCtx (t : Thr) (b : Body) (d : CmdDef) (s : State) : Ctx :=
  { issueCtx t b d s with w := substitute s (thrKey t) (cmdOf d.opc b).toNat }

/-- The thread may issue, and its command passes the checks of R71 that come before its own operands': the fetch, word 0, a busy
register, the fields, the completion target, the engine; and the thread's scoreboard does not hold it. -/
def accepts (t : Thr) (b : Body) (d : CmdDef) (s : State) : Bool :=
  let c := issueCtx t b d s
  let c' := issuedCtx t b d s
  canIssue s t (d.eu t.core.val) &&
  (fetchFault s (fetchAddr (slot s c.key) (thr s c.thr) (thrIndex s c.thr c.key))).2 == none &&
  word0Bad c.w d.opc false == none &&
  !(bitsOf c.w 20 4 != 0 && regBusy s c.thr (bitsOf c.w 24 6)) &&
  wordFault s d c' == none &&
  !sbHolds s c' (slot s c.key) (cmdSpans s d c')

/-- The effect of an accepted command whose operands raise no fault and whose task still runs after it: how it stands, and the state. -/
def effectOf (t : Thr) (b : Body) (d : CmdDef) (s : State) : Option (Stand × State) :=
  let c := issuedCtx t b d s
  match catchAwait (d.run c) s with
  | .ok f s' => if (slot s' c.key).st = .running then some (f, s') else none
  | .error _ _ => none

/-- The spans that the thread's scoreboard keeps of the command (R422). -/
def heldSpans (t : Thr) (b : Body) (d : CmdDef) (s : State) : List (Nat × Nat × Bool) :=
  let c := issuedCtx t b d s
  if (slot s c.key).syncMode && bitOf c.w 17 then cmdSpans s d c else []

/-- The state after a thread's command: its effect made and its thread moved on. A command that stays outstanding keeps the ranges of its
outputs; one of which a read completed FENCED is outstanding to make that read again (R593), and one that has asked for another module's
bytes to go on with them. -/
def issued (t : Thr) (b : Body) (d : CmdDef) (s : State) (f : Stand) (s' : State) : State :=
  let c := issuedCtx t b d s
  match f with
  | .fenced a => fencedIssue s' s' d c (heldSpans t b d s) a
  | .await g len eng => noteOuts s (awaitIssue s' d c (heldSpans t b d s) g len eng) d c
  | .later n => noteOuts s (retire s' c d.opc (d.eu t.core.val) (heldSpans t b d s) (.later n)) d c
  | f => retire s' c d.opc (d.eu t.core.val) (heldSpans t b d s) f

/-- The state after a thread's command was issued or faulted: the vector engine of a VEC_PARTIAL_ADD goes on with the commands it holds. -/
def afterIssue (i : Instr) (t : Thr) (s : State) : State := match i with | .vecPartialAdd _ _ => vecPump s t.core | _ => s

/-- Stream, register and atomic accesses. -/
def streamCmd : Instr → Option (Thr × Body × CmdDef)
  | .stmCopy t b => some (t, b, copyDef)
  | .stmLoad t b => some (t, b, loadDef)
  | .stmStore t b => some (t, b, storeDef)
  | .stmStoreEnc t b => some (t, b, encDef)
  | .stmFill t b => some (t, b, sfillDef)
  | .stmLoadreg t b => some (t, b, loadRegDef)
  | .stmStorereg t b => some (t, b, storeRegDef)
  | .atomic t b => some (t, b, atomicDef)
  | _ => none

/-- Commands of the dense engine. -/
def denseCmd : Instr → Option (Thr × Body × CmdDef)
  | .dnsLoadW t b => some (t, b, loadWDef)
  | .dnsMm t b => some (t, b, mmDef)
  | .dnsDrain t b => some (t, b, drainDef)
  | .dnsAttnScore t b => some (t, b, scoreDef)
  | .dnsAttnValue t b => some (t, b, valueDef)
  | .dnsTileSave t b => some (t, b, tileSaveDef)
  | .dnsTileRestore t b => some (t, b, tileRestoreDef)
  | _ => none

/-- Commands of the sparse engine and of Hedge. -/
def sparseCmd : Instr → Option (Thr × Body × CmdDef)
  | .spsBm64 t b => some (t, b, spsDef 0x40)
  | .spsCoo16 t b => some (t, b, spsDef 0x41)
  | .spsSegment t b => some (t, b, spsDef 0x42)
  | .spsAuto t b => some (t, b, spsDef 0x43)
  | .hdgLoad t b => some (t, b, hloadDef)
  | .hdgPredict t b => some (t, b, predictDef)
  | .hdgAuditRead t b => some (t, b, auditDef)
  | _ => none

/-- Commands of the vector engine and the numerics monitor. -/
def vectorCmd : Instr → Option (Thr × Body × CmdDef)
  | .vecMap t b => some (t, b, mapDef)
  | .vecSoftmax t b => some (t, b, softmaxDef)
  | .vecNorm t b => some (t, b, normDef)
  | .vecCast t b => some (t, b, vcastDef)
  | .vecPartialAdd t b => some (t, b, padDef)
  | .vecReduce t b => some (t, b, reduceDef)
  | .numBind t b => some (t, b, bindDef)
  | _ => none

/-- Commands of the sampler. -/
def samplerCmd : Instr → Option (Thr × Body × CmdDef)
  | .smpUniform t b => some (t, b, smpDef 0x60)
  | .smpAlias t b => some (t, b, smpDef 0x61)
  | .smpReservoir t b => some (t, b, smpDef 0x62)
  | .smpLayerwise t b => some (t, b, smpDef 0x63)
  | .smpWalk2 t b => some (t, b, smpDef 0x64)
  | .smpTemporal t b => some (t, b, smpDef 0x65)
  | .smpAliasBuild t b => some (t, b, aliasDef)
  | _ => none

/-- Commands of the row engine and the merge unit. -/
def rowCmd : Instr → Option (Thr × Body × CmdDef)
  | .rowGather t b => some (t, b, gatherDef false)
  | .rowGatherPool t b => some (t, b, gatherDef true)
  | .rowScatter t b => some (t, b, scatterDef)
  | .rowMergeFlush t b => some (t, b, flushDef)
  | .rowMove t b => some (t, b, moveDef)
  | .rowPopRead t b => some (t, b, popDef)
  | _ => none

/-- Collectives, whose engine depends on the axis that their words name (R543). -/
def collCmd (s : State) : Instr → Option (Thr × Body × CmdDef)
  | .colReduce t b => some (t, b, collDef 0x80 (cf (substitute s (thrKey t) (cmdOf 0x80 b).toNat) 4 0 2))
  | .colAllreduce t b => some (t, b, collDef 0x81 (cf (substitute s (thrKey t) (cmdOf 0x81 b).toNat) 4 0 2))
  | .colReduceScatter t b => some (t, b, collDef 0x82 (cf (substitute s (thrKey t) (cmdOf 0x82 b).toNat) 4 0 2))
  | .colAllgather t b => some (t, b, collDef 0x83 (cf (substitute s (thrKey t) (cmdOf 0x83 b).toNat) 4 0 2))
  | _ => none

/-- Commands of the random unit and the selection unit. -/
def randomCmd : Instr → Option (Thr × Body × CmdDef)
  | .rngFill t b => some (t, b, fillDef)
  | .rngLiteFill t b => some (t, b, liteDef)
  | .rngNoiseRead t b => some (t, b, noiseDef)
  | .selScan t b => some (t, b, scanDef)
  | .selDraw t b => some (t, b, drawDef)
  | _ => none

/-- Commands that every thread may issue without an engine. -/
def threadCmd : Instr → Option (Thr × Body × CmdDef)
  | .nop (.thread t) b => some (t, b, nopDef)
  | .signal (.thread t) b => some (t, b, signalDef)
  | .fence t b => some (t, b, fenceDef)
  | .cancel (.thread t) b => some (t, b, cancelDef)
  | .endThread t b => some (t, b, endDef)
  | .prioSet (.thread t) b => some (t, b, prioDef)
  | _ => none

/-- Every command that a thread issues. -/
def anyThreadCmd (s : State) (i : Instr) : Option (Thr × Body × CmdDef) :=
  (streamCmd i).or <| (denseCmd i).or <| (sparseCmd i).or <| (vectorCmd i).or <| (samplerCmd i).or <| (rowCmd i).or <|
    (collCmd s i).or <| (randomCmd i).or (threadCmd i)

/-! ### Events of engines -/

/-- A command outstanding at an engine is served by a computation: it is not waiting for a retry or for another module's
bytes, and its operands raise no fault. -/
def serves (s : State) (id : Nat) (act : Ctx → Op → Cm Unit) (s' : State) : Prop :=
  ∃ o, getOp s id = some o ∧ (o.tries = 0 ∨ o.due = true) ∧ o.far.st = 0 ∧ act (opCtx id o) o s = .ok () s'

/-- The state after a command was served: what it made, the events that it waits for, and no retry owed. -/
def servedOp (s : State) (id : Nat) (s' : State) : State :=
  updOp (addWaits s s' id) id (fun o => { o with tries := 0, due := false, far := {} })

/-- A stream command is served, the same way. -/
def servesStream (s : State) (id : Nat) (act : Ctx → Strm → Cm Unit) (s' : State) : Prop :=
  ∃ o x, getOp s id = some o ∧ strm s id = some x ∧ act (opCtx id o) x s = .ok () s'

/-! ### Manager messages -/

/-- The message is a manager message of a type, whose turn has come, that this module takes and has not seen before (R536, R541). -/
def mgrComes (s : State) (r : MgrRef) (m : MMsg) (type : Nat) : Bool :=
  mgrAt s r == some m && m.type == type && mgrTurn s r m && !s.gate.forwardOnly && !(takeMgr s r).gate.seen.contains (m.src, m.num)

/-- The state in which such a message acts: it is taken, counted and remembered. -/
def mgrTaken (s : State) (r : MgrRef) (m : MMsg) : State :=
  updGate (bump (takeMgr s r) (pg clsGH 0) 0x40) (fun g => { g with seen := ((m.src, m.num) :: g.seen).take 64 })

/-! ### Register accesses -/

/-- The state in which a register access of a requester acts: the module has left Hold or Nap for it (R619). -/
def accessed (s : State) (r : Requester) : State := wokenBy s r

/-- A register access of the requester is served on an implemented page. -/
def pageTaken (s : State) (r : Requester) (n : Nat) : Bool := allowed (accessed s r) r n && pageImpl n

end Sys2Proof.Machine
end

