-- ==== Sys2Proof/Certificates/Slice0/Obligations.lean ====
section
/-!
DEFINITION. The statements for the provers: steps and outcomes, the invariant, commands that threads and queues issue, tasks, the engines'
events, the step managers, the fabric, homes and steps, the host interface, registers, containment, power, and rules of the spec.
-/
open Sys2Proof Sys2Proof.Machine

/-! ### Steps and outcomes -/

/-- A step performs the command at the front of the queue on the state with the queue's rest. -/
def Obligations.StepRunsFront : Prop :=
  ∀ (c : Instr) (rest : List Instr) (s : State), step { s with pending := c :: rest } = exec c { s with pending := rest }

/-- With no command waiting the block idles (the model's choice, log entry 1). -/
def Obligations.StepIdlesOnEmptyQueue : Prop := ∀ s : State, s.pending = [] → step s = .next s

/-- No command adds to the queue, takes from it, or changes which part the module is. -/
def execLeavesQueue : Prop :=
  ∀ (i : Instr) (s t : State), exec i s = .next t → t.pending = s.pending ∧ t.part = s.part

/-- Every step that goes on uses up exactly the command at the front. -/
def stepUsesOneCommand : Prop :=
  ∀ (s t : State), step s = .next t → t.pending = s.pending.tail

/-- A step uses up exactly one command, and no command touches the queue or which part the module is. -/
def Obligations.CommandsUseTheQueue : Prop := execLeavesQueue ∧ stepUsesOneCommand


/-- The invariant holds right after reset. -/
def Obligations.ResetKeepsTables : Prop := State.reset.Inv

/-- Every step keeps the invariant: module memory and host memory in canonical form, and no noise pool above 64 blocks. -/
def Obligations.StepKeepsTables : Prop :=
  ∀ (s t : State), s.Inv → step s = .next t → t.Inv

/-- No command but UNDEFINED_OPCODE stops the block, whatever its operands and whatever the state. -/
def onlyUndefinedOpcodeStops : Prop :=
  ∀ (i : Instr) (s : State), (∀ iss w, i ≠ .undefinedOpcode iss w) → ∃ t, exec i s = .next t

/-- UNDEFINED_OPCODE: from a thread that may issue, its task faults with ILLEGAL_OPCODE; from a queue, its entry is used up and its
record posted. A word whose opcode is defined at its level is no such command, and a production-test opcode in test mode is outside
the contract. -/
def undefinedOpcodeFaults : Prop :=
  (∀ (t : Thr) (w : Cmd) (s : State), permittedAt (w.toNat % 256) (.thread t) = false → ¬(s.testMode = true ∧ w.toNat % 256 ≥ 0xF0) →
    canIssue s t (.thread t.core.val) = true →
    exec (.undefinedOpcode (.thread t) w) s =
      .next (faultTask s (((thr s (thrKey t)).slot).getD 0) (w.toNat % 256) { code := fIllegalOpcode })) ∧
  (∀ (q : QRef) (w : Cmd) (s : State) (index : Nat), permittedAt (w.toNat % 256) (.queue q) = false →
    ¬(s.testMode = true ∧ w.toNat % 256 ≥ 0xF0) → qHead s q w = some index →
    exec (.undefinedOpcode (.queue q) w) s = .next (qFault (qPop s q) q index (w.toNat % 256) { code := fIllegalOpcode })) ∧
  (∀ (iss : Issuer) (w : Cmd) (s : State), permittedAt (w.toNat % 256) iss = true →
    exec (.undefinedOpcode iss w) s = .fault .illFormed) ∧
  (∀ (iss : Issuer) (w : Cmd) (s : State), permittedAt (w.toNat % 256) iss = false → s.testMode = true → w.toNat % 256 ≥ 0xF0 →
    exec (.undefinedOpcode iss w) s = .refused .productionTest)

/-- Every command but UNDEFINED_OPCODE goes on from every state; UNDEFINED_OPCODE faults its task or its entry, and stops only where it is no such command or outside the contract. -/
def Obligations.OnlyUndefinedOpcodesStop : Prop := onlyUndefinedOpcodeStops ∧ undefinedOpcodeFaults


/-- Right after reset: every slot is FREE with generation 0, no thread is bound, nothing is outstanding or on its way, every page is
locked and has no event or error, and the tiles of every core hold +0.0. -/
def Obligations.ResetState : Prop :=
  (∀ k, (slot State.reset k).st = .free ∧ (slot State.reset k).gen = 0 ∧ (slot State.reset k).flags = 0) ∧
  (∀ k, (thr State.reset k).slot = none) ∧ opList State.reset = [] ∧ reqList State.reset = [] ∧ State.reset.sets = [] ∧
  State.reset.pending = [] ∧ State.reset.steps = [] ∧
  (∀ n, (page State.reset n).expert = false ∧ (page State.reset n).evt = 0 ∧ (page State.reset n).err = 0) ∧
  (∀ c, (dense State.reset c) = {})

/-! ### Commands that threads issue -/

/-- A table of commands issues: where the thread may issue, the checks of R71 pass and the operands raise no fault, the command's effect is
made, it is retired, and its thread moves on. -/
def issues (tbl : State → Instr → Option (Thr × Body × CmdDef)) : Prop :=
  ∀ (i : Instr) (t : Thr) (b : Body) (d : CmdDef) (s s' : State) (f : Stand), tbl s i = some (t, b, d) → accepts t b d s = true →
    effectOf t b d s = some (f, s') → exec i s = .next (afterIssue i t (issued t b d s f s'))

/-- Streams, register accesses and atomics: STM_COPY, STM_LOAD, STM_STORE, STM_STORE_ENC, STM_FILL, STM_LOADREG, STM_STOREREG, ATOMIC. -/
def streamCommandsIssue : Prop := issues (fun _ => streamCmd)
/-- DNS_LOAD_W, DNS_MM, DNS_DRAIN, DNS_ATTN_SCORE, DNS_ATTN_VALUE, DNS_TILE_SAVE, DNS_TILE_RESTORE. -/
def denseCommandsIssue : Prop := issues (fun _ => denseCmd)

/-- Commands of the streams and of the dense engine issue. -/
def Obligations.StreamAndDenseCommandsIssue : Prop := streamCommandsIssue ∧ denseCommandsIssue

/-- SPS_BM64, SPS_COO16, SPS_SEGMENT, SPS_AUTO, HDG_LOAD, HDG_PREDICT, HDG_AUDIT_READ. -/
def sparseCommandsIssue : Prop := issues (fun _ => sparseCmd)
/-- VEC_MAP, VEC_SOFTMAX, VEC_NORM, VEC_CAST, VEC_PARTIAL_ADD, VEC_REDUCE, NUM_BIND. -/
def vectorCommandsIssue : Prop := issues (fun _ => vectorCmd)

/-- Commands of the sparse engine, of Hedge, of the vector engine and of the numerics monitor issue. -/
def Obligations.SparseAndVectorCommandsIssue : Prop := sparseCommandsIssue ∧ vectorCommandsIssue

/-- SMP_UNIFORM, SMP_ALIAS, SMP_RESERVOIR, SMP_LAYERWISE, SMP_WALK2, SMP_TEMPORAL, SMP_ALIAS_BUILD. -/
def samplerCommandsIssue : Prop := issues (fun _ => samplerCmd)
/-- ROW_GATHER, ROW_GATHER_POOL, ROW_SCATTER, ROW_MERGE_FLUSH, ROW_MOVE, ROW_POP_READ. -/
def rowCommandsIssue : Prop := issues (fun _ => rowCmd)
/-- COL_REDUCE, COL_ALLREDUCE, COL_REDUCE_SCATTER, COL_ALLGATHER. -/
def collectiveCommandsIssue : Prop := issues collCmd

/-- Commands of the sampler, of the row engine, and collectives issue. -/
def Obligations.GraphCommandsIssue : Prop := samplerCommandsIssue ∧ rowCommandsIssue ∧ collectiveCommandsIssue

/-- RNG_FILL, RNG_LITE_FILL, RNG_NOISE_READ, SEL_SCAN, SEL_DRAW. -/
def randomCommandsIssue : Prop := issues (fun _ => randomCmd)
/-- NOP, SIGNAL, FENCE, CANCEL, END and PRIO_SET at program level. -/
def threadCommandsIssue : Prop := issues (fun _ => threadCmd)

/-- Commands of the random and the selection unit, and those that need no engine, issue. -/
def Obligations.RandomAndThreadCommandsIssue : Prop := randomCommandsIssue ∧ threadCommandsIssue


/-- The effects of NOP, END, FENCE and SIGNAL, once accepted: NOP has none; END ends its thread; FENCE is outstanding with no event to
wait for but its conditions; SIGNAL sends the set, behind the thread's earlier commands and writes (R38). -/
def Obligations.ThreadCommandEffects : Prop :=
  (∀ (t : Thr) (b : Body) (s : State), (slot s (issuedCtx t b nopDef s).key).st = .running → effectOf t b nopDef s = some (.now, s)) ∧
  (∀ (t : Thr) (b : Body) (s : State), (slot s (issuedCtx t b endDef s).key).st = .running →
    effectOf t b endDef s = some (.now, updThr s (thrKey t) (fun x => { x with ended := true }))) ∧
  (∀ (t : Thr) (b : Body) (s : State), (slot s (issuedCtx t b fenceDef s).key).st = .running → effectOf t b fenceDef s = some (.later 0, s)) ∧
  (∀ (t : Thr) (b : Body) (s : State), let c := issuedCtx t b signalDef s
    (slot s c.key).st = .running → targetBad s (slot s c.key) (hMod (c.f 4 0 36)) = none →
    effectOf t b signalDef s = some (.later 1, sendSet s (c.f 4 0 36) (BitVec.ofNat 64 (c.f 6 0 62))
      (((opList s).filter (fun e => e.2.ofThr c.thr && !e.2.posted)).map (·.1)) (openWrites s c.thr) (some c.op)))

/-- A thread that may not issue leaves everything as it was, whichever command it has come to. -/
def Obligations.BlockedThreadChangesNothing : Prop :=
  ∀ (i : Instr) (t : Thr) (b : Body) (d : CmdDef) (s : State), anyThreadCmd s i = some (t, b, d) →
    canIssue s t (d.eu t.core.val) = false → exec i s = .next s

/-- What every thread command does as it retires, and what it leaves: its thread's next index rises by one; a command that is not ASYNC
holds the thread until it completes; the command is outstanding with its opcode, unit and word; no other thread, no slot, no memory
and no tag changes. -/
def Obligations.RetireMovesThreadOn : Prop :=
  ∀ (s : State) (c : Ctx) (opc : Nat) (u : EUnit) (spans : List (Nat × Nat × Bool)) (f : Stand), let t := retire s c opc u spans f
    (thr t c.thr).next = (thr s c.thr).next + 1 ∧
    (∀ n, f = .later n → (thr t c.thr).waits = (if bitOf c.w 17 then (thr s c.thr).waits else some c.op) ∧
      ∃ o, getOp t c.op = some o ∧ o.opcode = opc ∧ o.eu = u ∧ o.cmd = BitVec.ofNat 512 c.w ∧ o.slot = some c.key ∧
        o.async = bitOf c.w 17 ∧ o.cpl = cplTarget c.w ∧ t.nextOp = s.nextOp + 1) ∧
    (f = .now → t.ops = s.ops ∧ t.nextOp = s.nextOp) ∧
    (∀ k, k ≠ c.thr → thr t k = thr s k) ∧
    t.slots = s.slots ∧ t.mem = s.mem ∧ t.tags = s.tags ∧ t.sets = s.sets ∧ t.reqs = s.reqs ∧ t.dense = s.dense

/-- A thread command whose words are wrong after substitution faults its task and nothing else of it happens; the vector engine of a
VEC_PARTIAL_ADD goes on with what it holds. -/
def Obligations.BadWordsFaultTask : Prop :=
  ∀ (i : Instr) (t : Thr) (b : Body) (d : CmdDef) (s : State) (f : FaultInfo), anyThreadCmd s i = some (t, b, d) →
    let c := issueCtx t b d s
    canIssue s t (d.eu t.core.val) = true → (fetchFault s (fetchAddr (slot s c.key) (thr s c.thr) (thrIndex s c.thr c.key))).2 = none →
    word0Bad c.w d.opc false = none → ¬(bitsOf c.w 20 4 ≠ 0 ∧ regBusy s c.thr (bitsOf c.w 24 6) = true) →
    wordFault s d (issuedCtx t b d s) = some f → exec i s = .next (afterIssue i t (faultTask s c.key d.opc f))

/-- A fault fences its task: the slot is FAULTED with the code, unless the task's function has been reset, and then its slot is freed. -/
def Obligations.FaultFencesTask : Prop :=
  ∀ (s : State) (key opc : Nat) (f : FaultInfo),
    ((slot s key).orphan = false → (slot (faultTask s key opc f) key).st = .faulted ∧ (slot (faultTask s key opc f) key).code = f.code) ∧
    ((slot s key).orphan = true → (slot (faultTask s key opc f) key).st = .free)

/-- COMMAND_COMPLETION: a command that waits for nothing completes; one of a sampler, a row, dense, sparse or vector
engine, a selection or a merge unit once its unit has done what was left of it, and the unit goes on. Its entry goes, its thread may issue again, and its completion target is set. -/
def Obligations.CommandCompletes : Prop :=
  (∀ (id : Nat) (o : Op) (s : State), getOp s id = some o → opReady s id o = true →
    (∀ p, o.eu ≠ .smp p ∧ o.eu ≠ .row p ∧ o.eu ≠ .dns p ∧ o.eu ≠ .sps p ∧ o.eu ≠ .vec p ∧ o.eu ≠ .sel p ∧ o.eu ≠ .merge p) → exec (.commandCompletion id) s = .next (completeOp s id o)) ∧
  (∀ (id : Nat) (o : Op) (s : State), getOp (finishWork s id) id = some o → opReady (finishWork s id) id o = true →
    exec (.commandCompletion id) s = .next (afterOp (completeOp (finishWork s id) id o) o)) ∧
  ∀ (id : Nat) (o : Op) (s : State),
    (∀ t, o.iss = .thread t → (completeOp s id o).ops = s.ops.put none id none) ∧
    (∀ t, o.iss = .thread t → o.parked = false → (thr s (thrKey t)).slot ≠ none → (thr s (thrKey t)).waits = some id →
      (thr (completeOp s id o) (thrKey t)).waits = none) ∧
    (∀ x, o.cpl = some x → o.iss = .queue .gate → (completeOp s id o).sets = s.sets ++
      [{ target := BitVec.ofNat 36 (x.toNat % 2 ^ 36), bits := 1#64 <<< bitsOf x.toNat 36 6, afterOps := [], afterReqs := [], op := none }])

/-! ### Commands of queues -/

/-- NOP, SIGNAL, CANCEL, PRIO_SET and MGR_MSG at queue level: the entry is used up; NOP posts nothing; SIGNAL sends its set; CANCEL and
PRIO_SET act at the dispatcher of the slot; MGR_MSG sends its words to the system manager. Each but NOP is outstanding until it completes.
A CANCEL or PRIO_SET of another module acts here and is confirmed, by a message of the model's choice (log entry 18). -/
def Obligations.QueueCommandsAct : Prop :=
  ∀ (q : QRef) (b : Body) (s : State) (index : Nat),
    let run (opc : Nat) (sp : CmdSpec) : Prop := qHead s q (cmdOf opc b) = some index ∧
      lowest (word0Bad (cmdOf opc b).toNat opc true) (wordsBad (cmdOf opc b).toNat opc sp) = none ∧
      (cplTarget (cmdOf opc b).toNat).bind (fun x => qTargetBad (qPop s q) q (hMod (x.toNat % 2 ^ 36))) = none
    (run 0 noSpec → exec (.nop (.queue q) b) s = .next (qPop s q)) ∧
    (run 0xA1 signalSpec → qTargetBad (qPop s q) q (hMod (cf (cmdOf 0xA1 b).toNat 4 0 36)) = none →
      exec (.signal (.queue q) b) s = .next (qRetire (sendSet (qPop s q) (cf (cmdOf 0xA1 b).toNat 4 0 36)
        (BitVec.ofNat 64 (cf (cmdOf 0xA1 b).toNat 6 0 62)) [] [] (some (qPop s q).nextOp)) q index 0xA1 (cmdOf 0xA1 b).toNat 1)) ∧
    (run 0xA4 cancelSpec → ∀ t n, dispatchQueue q 0xA4 (cmdOf 0xA4 b).toNat (qPop s q) = (t, .ok n) →
      exec (.cancel (.queue q) b) s = .next (qRetire t q index 0xA4 (cmdOf 0xA4 b).toNat n)) ∧
    (run 0xA7 prioSpec → ∀ t n, dispatchQueue q 0xA7 (cmdOf 0xA7 b).toNat (qPop s q) = (t, .ok n) →
      exec (.prioSet (.queue q) b) s = .next (qRetire t q index 0xA7 (cmdOf 0xA7 b).toNat n)) ∧
    (run 0xA5 mgrSpec → (∀ n, q = .host n → qOwner (qPop s q) n.val = 0) →
      exec (.mgrMsg q b) s = .next (qRetire (mgrSend (qPop s q) (systemManager (qPop s q))
        ((List.range 12).map (fun i => cf (cmdOf 0xA5 b).toNat (4 + i) 0 32)) [] (some (qPop s q).nextOp)).1 q index 0xA5 (cmdOf 0xA5 b).toNat 1)) ∧
    (∀ (src : Fin 4096) (max : Fin 8) (tag : BitVec 16) (epoch : BitVec 8), s.power.mode = 0 → s.gate.forwardOnly = false →
      inTorus s src = true →
      let confirmed (t : State) (h : Nat) : State := (sendMsg t (mkMsg t
        { dst := src, cls := 0, mtype := 0x41, die := hSlot h / 4096, stream := 2560, tag := tag.toNat, tagEpoch := epoch.toNat } [])).1
      (let h := cf (cmdOf 0xA4 b).toNat 4 0 36
       standIn s (hMod h) = ownId s →
        exec (.cancel (.carried src max tag epoch) b) s = .next (confirmed (doCancel s (hSlot h) (hGen h)) h)) ∧
      (let h := cf (cmdOf 0xA7 b).toNat 4 0 36
       standIn s (hMod h) = ownId s → exec (.prioSet (.carried src max tag epoch) b) s =
        .next (confirmed (doPrio s (hSlot h) (hGen h) (cf (cmdOf 0xA7 b).toNat 6 0 3) max) h)))

/-- TASK: an accepted task takes its slot, with the generation, mask, priority, program, threads, windows and targets of its words and
descriptor, READY where the latched signals satisfy its mask and WAITING otherwise, and the next acceptance number of its dispatcher. -/
def Obligations.TaskTakesItsSlot : Prop :=
  ∀ (q : QRef) (b : Body) (s s1 : State) (index v : Nat) (o : OFlow),
    let w := (cmdOf 0xA0 b).toNat
    let p := cf w 4 12 4
    let key := slotKey p (cf w 4 0 12)
    qHead s q (cmdOf 0xA0 b) = some index → lowest (word0Bad w 0xA0 true) (wordsBad w 0xA0 taskSpec) = none →
    qSlotOk s q key = true →
    spanBad s q (cf w 8 0 44) (64 * ((cf w 4 24 5 - 1) * cf w 10 0 16 + cf w 10 16 16)) = none → spanBad s q (cf w 11 0 44) 128 = none →
    (slot s key).st = .free → (slot s key).cooling = false → euServes s (.dsp p) = true → (dom s (dPav p)).service = .inService →
    domFenced s (dPav p) = false → BitVec.ofNat 8 (cf w 4 16 8) = (slot s key).gen + 1 →
    (if bitsOf w 10 2 = 1 then flowAdmit s p (cf w 1 0 16) else .ok (none, {})) = .ok (none, o) →
    readTaskDesc s (cf w 4 12 4) (cf w 11 0 44) = (s1, some (.ok v)) → firstBad ((List.range 8).flatMap (targetWordBad v)) = none →
    let t := enterTask s1 q index w v (slot s key) (decide (bitsOf w 12 3 > qPrioMax s q)) o
    exec (.task q b) s = .next t ∧
      slot t key = slotOf s1 q w v index (min (bitsOf w 12 3) (qPrioMax s1 q)) (decide (bitsOf w 12 3 > qPrioMax s q)) (slot s key)
        (s1.accepts.get 0 p) o.next ∧
      t.accepts.get 0 p = s1.accepts.get 0 p + 1 ∧ t.mem = s1.mem ∧ t.thrs = s1.thrs ∧ (∀ k, k ≠ key → slot t k = slot s1 k)

/-! ### Flags and tasks -/

/-- FLAG_SET and FABRIC_SIGNAL: a set whose earlier writes and commands are done reaches its dispatcher, and the command that sent it has
one event less to wait for; a set for another module leaves in a message, and one from another module is applied as it arrives, which its
sender is told, where no message that must go before it waits; a module that only forwards applies none, and answers UNREACHABLE. -/
def Obligations.FlagSetsAreDelivered : Prop :=
  (∀ (j : Nat) (f : FlagSet) (s : State), s.sets[j]? = some f → setReady s f = true →
    let s1 := { s with sets := s.sets.eraseIdx j }
    let t := applySet s1 (hSlot f.target.toNat) (hGen f.target.toNat) f.bits
    (standIn s1 (hMod f.target.toNat) = ownId s1 →
      (f.op = none → exec (.flagSet j) s = .next t) ∧ (∀ o, f.op = some o → exec (.flagSet j) s = .next (opAnswered t o))) ∧
    (standIn s1 (hMod f.target.toNat) ≠ ownId s1 → exec (.flagSet j) s = .next (pumpHeld (carrySet s1 f)))) ∧
  (∀ (j : Nat) (m : Msg) (s : State), arrival s j = some m → forMe s m 4 = true →
    (inTurn s j = true → s.gate.forwardOnly = true → exec (.fabricSignal j) s = .next (reply (takeArrival s j) m 0x41 3 0 [])) ∧
    (inTurn s j = true → s.gate.forwardOnly = false → exec (.fabricSignal j) s = .next
      (reply (applySet (landMsg (takeArrival s j) m (hSlot (m.pl 0) / 4096)) (hSlot (m.pl 0)) (hGen (m.pl 0)) (m.getD 3 0)) m 0x41 0 0 [])) ∧
    (inTurn s j = false → exec (.fabricSignal j) s = .next s))

/-- Signals at a slot: a set for the current generation is ORed into FLAGS and, in a WAITING slot whose mask is then satisfied, makes the
task READY; a set for the next generation of a FREE slot is ORed into its latch, unless its Pavilion is under reset; any other set leaves
every slot as it was and is counted. -/
def Obligations.SignalsReachFlags : Prop :=
  ∀ (s : State) (key : Nat) (gen : BitVec 8) (bits : DWord), let x := slot s key
    let t := applySet s key gen bits
    (x.st ≠ .free → gen = x.gen → (slot t key).flags = x.flags ||| bits ∧
      (slot t key).st = (if x.st = .waiting ∧ (x.flags ||| bits) &&& x.mask = x.mask then .ready else x.st)) ∧
    (x.st = .free → gen = x.gen + 1 → domResetting s (dPav (key / 4096)) = false →
      (slot t key).flags = x.flags ||| bits ∧ (slot t key).st = .free) ∧
    (x.st = .free → gen ≠ x.gen + 1 → t = bump s (dspPage key) 0x80) ∧
    (x.st ≠ .free → gen ≠ x.gen → t = bump s (dspPage key) 0x80) ∧
    (∀ k, k ≠ key → slot t k = slot s k)

/-- PLACEMENT, HEAD_RESERVE and PREEMPTION_CHECK at a dispatcher that serves: the ranked tasks are considered in order; a skipped task
reserves the core with the fewest obstacles; the best victim of the first candidate that only a pre-emption can place is signalled. -/
def dispatcherActs : Prop :=
  (∀ (p : Fin 16) (bucket : Fin 8) (s : State), dispServes s p = true →
    exec (.placement p bucket) s = .next (placeFirst s bucket (ranked s p))) ∧
  (∀ (x : SlotRef) (s : State) (c : Nat), let key := slotKey x.pav x.n
    s.heads.get none x.pav = none → ((slot s key).st = .ready ∨ (slot s key).st = .preempted) → dispServes s x.pav = true →
    coreToReserve s key = some c →
    exec (.headReserve x) s = .next (bump { s with heads := s.heads.put none x.pav (some (key, c)) } (pg clsDSP x.pav) 0xA0)) ∧
  (∀ (p : Fin 16) (s : State) (cand v : Nat), bitOf (actN s (pg clsDSP p) 0x104) 0 = true → dispServes s p = true →
    candidate s p = some cand → victimFor s p cand = some v →
    exec (.preemptionCheck p) s = .next (updSlot s v (fun t => { t with victim := true })))

/-- A task that is placed for the first time: its threads are the hardware threads given, each with its index, the task's handle and ARG in
registers 0 to 2 and every other register 0, at its first command; a task that holds the dense engine finds both tiles at +0.0 and both
banks empty. -/
def Obligations.PlacedTaskStarts : Prop :=
  ∀ (s : State) (key core : Nat) (hws : List Nat), hws.Nodup → let t := startThreads s key core hws
    (slot t key).st = .running ∧ (slot t key).quantumDone = false ∧
    (∀ j hw, hws[j]? = some hw → (thr t (16 * core + hw)).slot = some key ∧ (thr t (16 * core + hw)).next = 0 ∧
      (thr t (16 * core + hw)).ended = false ∧ (thr t (16 * core + hw)).waits = none ∧
      thrReg t (16 * core + hw) 0 = BitVec.ofNat 64 j ∧
      thrReg t (16 * core + hw) 1 = BitVec.ofNat 64 (handle s key (slot s key).gen.toNat) ∧
      thrReg t (16 * core + hw) 2 = (slot s key).arg ∧ ∀ r, 3 ≤ r → thrReg t (16 * core + hw) r = 0) ∧
    t.dense = (if (slot s key).engDns then s.dense.put {} core {} else s.dense) ∧ t.mem = s.mem ∧ t.ops = s.ops

/-- QUANTUM_END, CONTEXT_SAVE, TASK_DONE, ORDERED_RELEASE and COOLING_END. -/
def taskEventsAct : Prop :=
  ∀ (x : SlotRef) (s : State), let key := slotKey x.pav x.n
    ((slot s key).st = .running → exec (.quantumEnd x) s = .next (updSlot s key (fun t => { t with quantumDone := true }))) ∧
    (taskFinished s key = true → exec (.taskDone x) s = .next (
      if (slot s key).flowKind = 1 ∧ !atRelease (dropThreads s key) (slot s key)
      then updSlot (dropThreads s key) key (fun t => { t with st := .doneHeld, core := 0, victim := false })
      else releaseTask (dropThreads s key) key)) ∧
    ((slot s key).st = .doneHeld → atRelease s (slot s key) = true → exec (.orderedRelease x) s = .next (releaseTask s key)) ∧
    ((slot s key).st = .free → exec (.coolingEnd x) s = .next (updSlot s key (fun t => { t with cooling := false }))) ∧
    (∀ s1, let core := 32 * x.pav.val + (slot s key).core
      let a := abandoned (reachBoundary s key core) key core
      let w := withdrawAll a.1 key
      (slot s key).st = .running → (slot s key).victim = true → safePoint s key = true →
      (slot (reachBoundary s key core) key).st = .running →
      each (fun (e : Nat × List Byte) => writeLocal x.pav (frameAddr w x.pav x.n + e.1) e.2) (frameParts w key (32 * x.pav.val + (slot w key).core) a.2) w =
        .ok () s1 →
      ∃ t, exec (.contextSave x) s = .next t ∧ (slot t key).st = .preempted ∧ (slot t key).saved = true ∧ (slot t key).victim = false ∧
        t.mem = s1.mem)


/-- The dispatcher places, reserves and pre-empts, and a task ends its quantum, is saved, is done and is released. -/
def Obligations.TasksArePlacedAndEnd : Prop := dispatcherActs ∧ taskEventsAct


/-! ### Events of engines -/

/-- STM_PIECE_ISSUE, GATE_POLL, VEC_OPERATION, PARTIAL_ARRIVAL, HDG_GRANT, HUB_SEGMENT_PLACE and HUB_PARTIAL_ADD: the unit serves the command
whose turn it is, where nothing stops it. A stream that has not started starts with the piece. -/
def Obligations.EnginesServeCommands : Prop :=
  (∀ (id : Nat) (o : Op) (s s' : State), getOp s id = some o → let s1 := strmStart s id (opCtx id o).core
    let s2 := strmIssue s1 id
    (strmReady s2 id = true → servesStream s2 id (streamStep o.opcode) s' →
      exec (.stmPieceIssue id) s = .next (strmSettle (servedOp s2 id s') id)) ∧
    (strmReady s2 id = false → exec (.stmPieceIssue id) s = .next s2)) ∧
  (∀ (id : Nat) (s s' : State), strmReady s id = true → gateWaits s id = true → servesStream s id gateStep s' →
    exec (.gatePoll id) s = .next (strmSettle (servedOp s id s') id)) ∧
  (∀ (c : Fin 512) (id : Nat) (o : Op) (s s' : State), euServes s (.vec c) = true → vecNext s c = some (id, o) →
    serves s id (vecStep (vworkOf s id) id) s' → exec (.vecOperation c) s = .next (vecPump (servedOp s id s') c)) ∧
  (∀ (id i tag h : Nat) (o : Op) (w : VWork) (s s' : State), getOp s id = some o → vworkOf s id = some w → headerHere s id i = some (tag, h) →
    serves s id (padStep w id i tag h) s' → exec (.partialArrival id i) s = .next (vecPump (servedOp s id s') (opCtx id o).core)) ∧
  (∀ (p : Fin 16) (id : Nat) (o : Op) (s s' : State), euServes s (.hdg p) = true → hdgNext s p = some (id, o) →
    serves s id (hdgStep (hworkOf s id) id o.opcode) s' → exec (.hdgGrant p) s = .next (servedOp s id s')) ∧
  (∀ (h buf : Nat) (core : Fin 32) (hb : Hub) (o : Op) (wk : Walk) (s s' : State), hubRecord s hb.pav = some buf → s.hubs.get none h = some hb → getOp s hb.op = some o →
    walkOf s hb.op = some wk → hubMayPlace s hb wk core = true → serves s hb.op (hubPlace h hb core buf o.opcode wk) s' →
    exec (.hubSegmentPlace h core) s = .next (servedOp s hb.op s')) ∧
  (∀ (h : Nat) (hb : Hub) (part : HubPart) (o : Op) (wk : Walk) (s s' : State), s.hubs.get none h = some hb → getOp s hb.op = some o →
    walkOf s hb.op = some wk → hb.parts.get none hb.added = some part → (slot s (o.slot.getD 0)).st = .running →
    let last : Bool := decide (hb.added + 1 = ceilDiv hb.edges wk.split)
    serves s hb.op (hubAdd h hb part o.opcode wk last) s' →
    exec (.hubPartialAdd h) s = .next (servedOp s hb.op s'))

/-- HDG_GRANT_SPLIT, SEL_GRANT_SPLIT, MERGE_GRANT_SPLIT, SMP_GANG_JOIN, GROUP_SUMMARY and TAG_BUSY_RETRY. -/
def Obligations.EngineEventsAct : Prop :=
  (∀ (p : Fin 16) (e : Nat × Op) (s : State),
    (unitOps s (.hdg p)).find? (fun e => ((hworkOf s e.1).map (·.split)).getD false) = some e →
    exec (.hdgGrantSplit p) s =
      .next (bump { s with hworks := s.hworks.upd none e.1 (fun w => w.map (fun w => { w with split := false })) } (pg clsHDG p) 0x74)) ∧
  (∀ (p : Fin 16) (e : Nat × Op) (s : State), let s1 := selTurn s p
    let grant := actN s1 (pg clsSEL p) 0x108
    (unitOps s1 (.sel p)).find? (fun e => e.2.inService && decide (e.2.cursor > grant)) = some e →
    exec (.selGrantSplit p) s = .next (selEnd (bump (updOp s1 e.1 (fun o => { o with cursor := o.cursor - grant, inService := false }))
      (pg clsSEL p) 0x64) p)) ∧
  (∀ (p : Fin 16) (e : Nat × Op) (s : State), let s1 := mergeTurn s p
    let grant := actN s1 (pg clsROW p) 0x810
    (opList s1).find? (fun e => e.2.holds.contains p.val && decide (e.2.grants.getD p.val 0 > grant)) = some e →
    exec (.mergeGrantSplit p) s = .next (mergeTurn (bump (updOp s1 e.1 (fun o =>
      { o with grants := o.grants.set p.val (o.grants.getD p.val 0 - grant), holds := o.holds.filter (· != p.val) })) (pg clsROW p) 0xEC) p)) ∧
  (∀ (id : Nat) (p : Fin 16) (e : Fin 2) (o : Op) (s : State), getOp s id = some o → 0x60 ≤ o.opcode → o.opcode ≤ 0x65 →
    bitOf (cf o.cmd.toNat 13 0 16) p = true → o.joined.contains (2 * p.val + e.val) = false → smpFree s p e = true → o.inService = true →
    euServes s (.smp p) = true → (dom s (dPav p)).service = .inService →
    exec (.smpGangJoin id p e) s = .next (updOp s id (fun o => { o with joined := o.joined ++ [2 * p.val + e.val] }))) ∧
  (∀ (j : Nat) (g : Summary) (s : State), s.sums[j]? = some g → euServes s (.num (g.slot / 256)) = true →
    ∃ t, exec (.groupSummary j) s = .next t ∧ t.sums = s.sums.eraseIdx j ∧
      (∀ b, numSlot s g.slot = some b → t.numSlots = s.numSlots.put none g.slot (some (b.absorb g))) ∧
      (numSlot s g.slot = none → t.numSlots = s.numSlots)) ∧
  (∀ (id : Nat) (r : Req) (s : State), getReq s id = some r → r.st = .busy →
    let s1 := updReq s id (fun r => { r with st := .sent })
    (r.local' = true → heldBack s1 id r = false → exec (.tagBusyRetry id) s = .next (arriveReq s1 id { r with st := .sent })) ∧
    ((r.local' = false ∨ heldBack s1 id r = true) → exec (.tagBusyRetry id) s = .next s1))

/-! ### The step managers -/

/-- The system manager's cast of a host's request, whose members' answers settle it. -/
def hostAsks (s : State) (m : MMsg) (type : Nat) (words : List Nat) (dsts : List Nat) (step : BitVec 32 := 0) : State :=
  smSettle (mgrCast s { left := [], type, step, req := some m, words } noList dsts)

/-- Requests of a host that the system manager accepts: PROFILE, JOB_START, STEP_OPEN, STEP_SEAL, STEP_COMMIT, STEP_ABORT, CHECKPOINT,
RESUME and REBUILD. -/
def Obligations.HostRequestsAct : Prop :=
  ∀ (r : MgrRef) (m : MMsg) (s : State), let s1 := mgrTaken s r m
    isRequest s1 m = true →
    (mgrComes s r m 1 = true → profileBad (m.w 8) = false → bitsOf (m.w 8) 27 5 = 0 →
      exec (.profile r) s = .next (hostAsks s1 m 1 (mgrWords 1 0 [m.w 8]) (everyone s1))) ∧
    (mgrComes s r m 2 = true → s1.gate.steps = [] → opening s1 = false → s1.testMode = false →
      ∃ s2, s2 = updGate s1 (fun g => { g with lost := [], noMirror := [], decisions := [] }) ∧
        exec (.jobStart r) s = .next (hostAsks s2 m 2 (mgrWords 2 m.step) (everyone s2) m.step)) ∧
    (mgrComes s r m 3 = true → isRequest s m = true → bitsOf (m.w 8) 23 8 ≠ 255 → (bitOf (m.w 8) 31 = true → bitsOf (m.w 8) 0 31 = 0) →
      opening s1 = false → s1.testMode = false → m.step = s1.lastOpen + 1 → s1.gate.halted = false → s1.gate.noMirror = [] →
      exec (.stepOpen r) s = .next (smSettle
        (if s1.gate.steps.any (fun x => x.num = m.step - 2) then updGate s1 (fun g => { g with heldOpen := some m }) else startOpen s1 m))) ∧
    (∀ x, mgrComes s r m 4 = true → smStep s1 m.step = some x → x.phase = 0 → x.decision = 0 →
      ∃ s2, s2 = updSm s1 m.step (fun x => { x with phase := 1, auto := m.auto, sealNote := m.notify }) ∧
        exec (.stepSeal r) s = .next (hostAsks s2 m 4 (mgrWords 4 m.step) (members s2) m.step)) ∧
    (∀ x, mgrComes s r m 6 = true → smStep s1 m.step = some x → x.decision = 0 → allAcked s1 x = true → smTainted x = false →
      exec (.stepCommit r) s = .next (smSettle (decide' s1 x 1 (some m)))) ∧
    (∀ x, mgrComes s r m 7 = true → smStep s1 m.step = some x → x.decision = 0 →
      exec (.stepAbort r) s = .next (smSettle (decide' s1 x 2 (some m)))) ∧
    (∀ x, mgrComes s r m 7 = true → smStep s1 m.step = some x → x.decision = 1 → x.confirmed = false →
      exec (.stepAbort r) s = .next (smSettle (decide' (withdrawCommit s1 x) x 2 (some m)))) ∧
    (mgrComes s r m 0x0A = true →
      exec (.checkpoint r) s = .next (hostAsks s1 m 0x0A (mgrWords 0x0A m.step [] false m.module) (everyone s1) m.step)) ∧
    (mgrComes s r m 0x0E = true → s1.gate.reason < 4 → (∀ l ∈ s1.gate.lost, l.2.isSome = true) →
      exec (.resume r) s = .next (hostAsks s1 m 0x0E (mgrWords 0x0E m.step) (everyone s1) m.step)) ∧
    (mgrComes s r m 0x10 = true →
      exec (.rebuild r) s = .next (hostAsks s1 m 0x10 (mgrWords 0x10 m.step [] false m.module) ((buddyOf s1 m.module).toList) m.step))

/-- Requests of a host that the system manager refuses: each is answered with its code, and does nothing else. The answer to a JOB_START
in test mode is the model's choice (log entry 83). -/
def hostRequestsRefused : Prop :=
  ∀ (r : MgrRef) (m : MMsg) (s : State), let s1 := mgrTaken s r m
    isRequest s1 m = true →
    (mgrComes s r m 1 = true → (profileBad (m.w 8) = true ∨ bitsOf (m.w 8) 27 5 ≠ 0) → exec (.profile r) s = .next (mgrReply s1 m fReservedField)) ∧
    (mgrComes s r m 2 = true → (s1.gate.steps ≠ [] ∨ s1.testMode = true) → exec (.jobStart r) s = .next (mgrReply s1 m mgrStepOrder)) ∧
    (mgrComes s r m 4 = true → smStep s1 m.step = none → exec (.stepSeal r) s = .next (mgrReply s1 m mgrStepOrder)) ∧
    (∀ x, mgrComes s r m 6 = true → smStep s1 m.step = some x → x.decision ≠ 0 →
      exec (.stepCommit r) s = .next (mgrReply s1 m mgrDecided)) ∧
    (∀ x, mgrComes s r m 6 = true → smStep s1 m.step = some x → x.decision = 0 → allAcked s1 x = false →
      exec (.stepCommit r) s = .next (mgrReply (noteSeal s1 m.step) m mgrIncomplete)) ∧
    (∀ x, mgrComes s r m 6 = true → smStep s1 m.step = some x → x.decision = 0 → allAcked s1 x = true → smTainted x = true →
      exec (.stepCommit r) s = .next (mgrReply (noteSeal s1 m.step) m mgrTainted)) ∧
    (∀ x, mgrComes s r m 7 = true → smStep s1 m.step = some x → x.decision ≠ 0 → (x.decision = 1 → x.confirmed = true) →
      exec (.stepAbort r) s = .next (mgrReply s1 m mgrDecided)) ∧
    (mgrComes s r m 0x0E = true → s1.gate.reason ≥ 4 → exec (.resume r) s = .next (mgrReply s1 m mgrHalted))

/-- Messages of the system manager at a member: each acts at the module and is answered. In test mode no job starts and no step opens: the
answer is then the model's choice (log entry 83). -/
def Obligations.MembersAct : Prop :=
  ∀ (r : MgrRef) (m : MMsg) (s : State), let s1 := mgrTaken s r m
    (mgrComes s r m 0x0D = true → exec (.halt r) s = .next (smSettle (mgrReply (memberHalt s1 m) m))) ∧
    (mgrComes s r m 0x0F = true → exec (.remap r) s = .next (mgrReply (memberRemap s1 m) m)) ∧
    (mgrComes s r m 0x11 = true → exec (.mirrorReset r) s = .next (mgrReply (memberMirror s1) m)) ∧
    (mgrComes s r m 0x12 = true → exec (.decision r) s = .next (mgrReply (keepDecision s1 m) m)) ∧
    (mgrComes s r m 3 = true → isRequest s m = false → s1.testMode = true → m.phase = true →
      exec (.openGo r) s = .next (mgrReply s1 m mgrStepOrder)) ∧
    (mgrComes s r m 3 = true → m.phase = true → isRequest s m = false → s1.testMode = false →
      exec (.openGo r) s = .next (mgrReply { s1 with lastOpen := m.step, steps := s1.steps ++ [{ num := m.step }] } m)) ∧
    (mgrComes s r m 3 = true → m.phase = false → isRequest s m = false →
      let code := if s1.testMode then mgrStepOrder else if m.w 9 ≠ profileWord s1 ∨ (deterministic s1 = true ∧ m.w 10 ≠ 1) then mgrProfileMismatch else 0
      (prepareNext s1 m = [] → exec (.openPrepare r) s = .next (mgrReply s1 m code)) ∧
      (prepareNext s1 m ≠ [] → exec (.openPrepare r) s = .next (smSettle (mgrCast s1
        { left := [], type := 3, step := m.step, words := m.words, req := some m, code, relay := true } noList (prepareNext s1 m))))) ∧
    (isRequest s1 m = false →
      (mgrComes s r m 1 = true → ∃ t, exec (.profile r) s = .next (mgrReply t m) ∧ t.gate.profile = some (m.w 8 % 2 ^ 32) ∧
        shN t (pg clsGH 0) 0x10C = m.w 8 % 2 ^ 32 ∧ t.steps = s1.steps ∧ t.mem = s1.mem ∧ t.slots = s1.slots) ∧
      (mgrComes s r m 2 = true → exec (.jobStart r) s = .next
        (if s1.testMode then mgrReply s1 m mgrStepOrder else mgrReply (memberStart s1 m.step) m)) ∧
      (mgrComes s r m 4 = true → exec (.stepSeal r) s = .next (mgrReply (memberSeal s1 m.step) m)) ∧
      (mgrComes s r m 6 = true → exec (.stepCommit r) s = .next (mgrReply (memberCommit s1 m) m)) ∧
      (mgrComes s r m 7 = true → exec (.stepAbort r) s = .next (mgrReply (memberAbort s1 m.step) m)) ∧
      (mgrComes s r m 0x0A = true → exec (.checkpoint r) s = .next (mgrReply (memberCheckpoint s1 m.module m.step) m)) ∧
      (mgrComes s r m 0x0E = true → exec (.resume r) s = .next (mgrReply (memberResume s1 m.step) m)) ∧
      (mgrComes s r m 0x10 = true →
        exec (.rebuild r) s = .next (rebuildSettle (updGate (sendJournal s1 m.module m.step) (fun g => { g with rebuildReq := some m })))))

/-- Messages of members and of column managers: STAGE_ACK, APPLIED, TAINT, HEARTBEAT and LOST are answered, and taken into the system
manager's record of the step or of the members. -/
def managersAreTold : Prop :=
  ∀ (r : MgrRef) (m : MMsg) (s : State), let s1 := mgrTaken s r m
    let a := ackSoFar s1 m
    let others := s1.gate.partAcks.filter (fun b => !sameAck s1 m b)
    (mgrComes s r m 5 = true → exec (.stageAck r) s = .next
      (if a.sums.length < m.w 15 then updGate (mgrReply s1 m) (fun g => { g with partAcks := others ++ [a] })
       else takeStageAck (updGate (mgrReply s1 m) (fun g => { g with partAcks := others })) a (m.module == 0xFFF))) ∧
    (mgrComes s r m 9 = true → exec (.taint r) s = .next (updSm (mgrReply s1 m) m.step (fun x => { x with tainted := true }))) ∧
    (∀ x, mgrComes s r m 8 = true →
      let s2 := updSm (mgrReply s1 m) m.step (fun x => { x with left := x.left.filter (· != roleOf s1 m.src) })
      smStep s2 m.step = some x → exec (.applied r) s = .next
        (if x.decision = 1 ∧ x.confirmed = true ∧ x.left = [] then smSettle (stepGone (notify s2 x.endNote) m.step) else s2)) ∧
    (mgrComes s r m 0x0C = true →
      (isSm (mgrReply s1 m) = true → exec (.lost r) s = .next (smSettle (declareLost (mgrReply s1 m) m.module (m.w 8 == 3)))) ∧
      (isSm (mgrReply s1 m) = false →
        exec (.lost r) s = .next (mgrSend (mgrReply s1 m) (systemManager (mgrReply s1 m)) m.words).1)) ∧
    (mgrComes s r m 0x0B = true → let x := if m.w 9 = 1 then m.module else roleOf s1 m.src
      ((mgrReply s1 m).gate.gone.contains x = false → exec (.heartbeat r) s = .next (mgrReply s1 m)) ∧
      ((mgrReply s1 m).gate.gone.contains x = true → isSm (mgrReply s1 m) = true → (mgrReply s1 m).gate.lost.contains (x, none) = true →
        ((mgrReply s1 m).gate.reason = 3 ∨ (mgrReply s1 m).gate.reason = 4) → exec (.heartbeat r) s = .next (smSettle (sendRemap (mgrReply s1 m) x x true))))

/-- HEARTBEAT_TICK, HEARTBEAT_MISS, MGR_RESEND_TIMEOUT, STANDBY_TAKEOVER and PROFILE_ACTIVATION. -/
def managersKeepTime : Prop :=
  (∀ s : State, s.gate.forwardOnly = false → let s1 := updGate s (fun g => { g with beats := g.beats + 1 })
    let words := mgrWords 0x0B 0 [s1.gate.beats % 2 ^ 32]
    (isSm s1 = false → exec .heartbeatTick s = .next (mgrSend s1 (manager s1) words).1) ∧
    (∀ b, isSm s1 = true → standbyManager s1 = some b → exec .heartbeatTick s = .next (mgrSend s1 b words).1)) ∧
  (∀ (id : Fin 4096) (alive : Bool) (s : State),
    (isSm s = true → exec (.heartbeatMiss id alive) s = .next (smSettle (declareLost s id.val (!alive)))) ∧
    (isSm s = false → isGm s = true → exec (.heartbeatMiss id alive) s =
      .next (mgrSend s (systemManager s) (mgrWords 0x0C 0 [if alive then 1 else 3] false id.val)).1)) ∧
  (∀ (num : Nat) (o : MOut) (s : State), s.gate.outq.find? (fun o => o.msg.num == num) = some o → o.ether = false →
    ∃ t, exec (.mgrResendTimeout num) s = .next t ∧ t.out = .ethernet (standIn s o.dst) num o.msg.words o.msg.list :: s.out) ∧
  (∀ s : State, standbyManager s = some (roleId s) → s.gate.forwardOnly = false → exec .standbyTakeover s = .next
    (smSettle (declareLost (s.steps.foldl takeOverStep (updGate s (fun g => { g with sm := some (roleId s) }))) (systemManager s) false))) ∧
  (∀ (w : Nat) (s : State), s.steps = [] → s.gate.profile = some w → ∃ t, exec .profileActivation s = .next t ∧
    t.gate.profile = none ∧ profileWord t = w % 2 ^ 32 ∧ t.steps = [] ∧ t.mem = s.mem)

/-- Members' messages to the managers, and the managers' own events. -/
def Obligations.ManagersAreToldAndKeepTime : Prop := managersAreTold ∧ managersKeepTime


/-- A manager message that was seen before is taken, counted and discarded, whatever its type (R536). -/
def duplicateMessagesDiscarded : Prop :=
  ∀ (r : MgrRef) (m : MMsg) (s : State), mgrAt s r = some m → mgrTurn s r m = true → s.gate.forwardOnly = false →
    (takeMgr s r).gate.seen.contains (m.src, m.num) = true → let t := bump (takeMgr s r) (pg clsGH 0) 0x40
    (m.type = 1 → exec (.profile r) s = .next t) ∧ (m.type = 2 → exec (.jobStart r) s = .next t) ∧
    (m.type = 4 → exec (.stepSeal r) s = .next t) ∧ (m.type = 5 → exec (.stageAck r) s = .next t) ∧
    (m.type = 6 → exec (.stepCommit r) s = .next t) ∧ (m.type = 7 → exec (.stepAbort r) s = .next t) ∧
    (m.type = 8 → exec (.applied r) s = .next t) ∧ (m.type = 9 → exec (.taint r) s = .next t) ∧
    (m.type = 0x0A → exec (.checkpoint r) s = .next t) ∧ (m.type = 0x0B → exec (.heartbeat r) s = .next t) ∧
    (m.type = 0x0C → exec (.lost r) s = .next t) ∧ (m.type = 0x0D → exec (.halt r) s = .next t) ∧
    (m.type = 0x0E → exec (.resume r) s = .next t) ∧ (m.type = 0x0F → exec (.remap r) s = .next t) ∧
    (m.type = 0x10 → exec (.rebuild r) s = .next t) ∧ (m.type = 0x11 → exec (.mirrorReset r) s = .next t) ∧
    (m.type = 0x12 → exec (.decision r) s = .next t)

/-- Requests that the system manager refuses, and messages seen before. -/
def Obligations.ManagerMessagesTurnedAway : Prop := hostRequestsRefused ∧ duplicateMessagesDiscarded


/-! ### The fabric -/

/-- DATA_FLIT, IDLE_FLIT and NAK at a link in service: a DATA flit in its order is taken, one out of order or with a bad CRC is asked for
again, and one of a wrong form whose CRC is right is counted against the link's partner; an IDLE flit brings its acknowledgement and credits; a NAK of the oldest flit held sends every flit held again, or resets the link
after its last try. At a link out of service nothing happens. -/
def Obligations.FlitsAreTaken : Prop :=
  ∀ (l : Fin 64) (f : Flit) (s : State), let k := link s l
    (k.st ≠ 2 → exec (.dataFlit l f) s = .next s ∧ exec (.idleFlit l f) s = .next s ∧ exec (.nak l f) s = .next s) ∧
    (k.st = 2 → goodFlit s l f = none → let s1 := bump s (pg clsLNK l) 0x5C
      let bad := if crc32 (bytesOf f.toNat 252) = bitsOf f.toNat 2016 32 then occur s1 (resource 20 14 k.partner) else s1
      exec (.dataFlit l f) s = .next (rxGap bad l) ∧ exec (.idleFlit l f) s = .next bad ∧ exec (.nak l f) s = .next bad) ∧
    (∀ segs, k.st = 2 → goodFlit s l f = some segs →
      let t := segs.foldl (fun s g => takeSeg s l g) (takeAck s l (flitAck f))
      (flitKind f = 0 → flitSeq f = k.rxNext → exec (.dataFlit l f) s = .next
        (if (link (takeData s l f segs) l).unsent ≥ ackFlits (takeData s l f segs) (l / 8) ∧ hasData (takeData s l f segs) l = false
         then sendIdle (takeData s l f segs) l else takeData s l f segs)) ∧
      (flitKind f = 0 → flitSeq f ≠ k.rxNext → exec (.dataFlit l f) s = .next (rxGap s l)) ∧
      (flitKind f = 1 → exec (.idleFlit l f) s = .next t) ∧
      (flitKind f = 2 → (link t l).replay.head?.map (·.seq) = some (flitAck f) →
        ((link t l).tries ≥ retryLimit t (l / 8) → exec (.nak l f) s = .next (linkReset t l)) ∧
        ((link t l).tries < retryLimit t (l / 8) →
          exec (.nak l f) s = .next (updLink t l (fun k => { k with resend := k.replay.map (·.seq) })))))

/-- A DATA flit out of order delivers nothing, and asks for the missing one once. -/
def Obligations.OutOfOrderFlitDelivers : Prop :=
  ∀ (l : Fin 64) (f : Flit) (segs : List Seg) (s : State), (link s l).st = 2 → goodFlit s l f = some segs → flitKind f = 0 →
    flitSeq f ≠ (link s l).rxNext → ∃ t, exec (.dataFlit l f) s = .next t ∧ t.inbox = s.inbox ∧ t.txq = s.txq ∧ t.mem = s.mem ∧
      (link t l).rxNext = (link s l).rxNext ∧ (link t l).gap = true ∧
      t.out = (if (link s l).gap then s.out else .flit l (mkFlit 0 (link s l).rxNext 2 []) :: s.out)

/-- NAK_REPEAT, ACK_INTERVAL, FLIT_SLOT, FORWARD, LINK_TRAINED and LINK_RESET. -/
def Obligations.LinksAct : Prop :=
  (∀ (l : Fin 64) (s : State), (link s l).st = 2 →
    ((link s l).gap = true → exec (.nakRepeat l) s = .next (sendNak s l)) ∧
    (hasData s l = false → exec (.ackInterval l) s = .next (sendIdle s l)) ∧
    exec (.linkReset l) s = .next (occur (linkDrop s l 1) (resource (16 + l / 16) 4 l)) ∧
    (let arb := actN s (pg clsPE (l / 8)) 0x10C
     let grant := actN s (pg clsPE (l / 8)) 0x110
     let s1 := if (link s l).slot = 0 then updLink s l (fun k => { k with ctlUsed := 0, colUsed := 0, arb, grant }) else s
     exec (.flitSlot l) s = .next (updLink (fillSlot (countStalls s1 l) l) l (fun k => { k with slot := (k.slot + 1) % 64 })))) ∧
  (∀ (j l vc : Nat) (m : Msg) (s : State), s.inbox[j]? = some (l, vc, m) → m.dst ≠ ownId s →
    (s.inbox.take j).any (fun e => e.2.2.streamKey == m.streamKey) = false →
    let s1 := takeArrival s j
    let n := pg clsPE ((inboxEngine l).getD 0)
    (∀ t, passOn s1 vc m = some t → exec (.forward j) s = .next (bump t n 0x60)) ∧
    (passOn s1 vc m = none → exec (.forward j) s = .next (refuseMsg (bump s1 n 0x7C) m 3 0))) ∧
  (∀ (l : Fin 64) (t : Training) (s : State), ((link s l).st = 0 ∨ (link s l).st = 1 ∨ (link s l).st = 5) → axisLen s (l.val / 16) ≠ 1 →
    linkLost s l = false → s.power.mode = 0 → lanesUp s l t ≠ 0 → lanesFailed s l t = [] → let good := rightPartner s l t
    let s1 := linkChanged (tellPartner (updLink s l (fun k => trainedLink k t good (lanesUp s l t) [])) l) l
    exec (.linkTrained l t) s = .next (if (link s l).st = 1 ∧ good = true then bump s1 (pg clsLNK l) 0x68 else s1))

/-! ### Homes -/

/-- READ, WRITE and FABRIC_ATOMIC: a request of this module that its home may perform is performed; one of another module is performed and
answered. A piece of an engine's list is moved. -/
def Obligations.HomesPerform : Prop :=
  (∀ (id : Nat) (r : Req) (s : State), getReq s id = some r → r.st = .sent → isOwn s r.addr = true →
    heldBack s id r = false → asleep s (gLoc r.addr) = false →
    (r.kind = .load ∨ r.kind = .header → isPiece s id = false → exec (.read (.own id)) s = .next (arriveReq s id r)) ∧
    (r.kind = .store → exec (.write (.own id)) s = .next (arriveReq s id r)) ∧
    (r.kind = .atomic → exec (.fabricAtomic (.own id)) s = .next (arriveReq s id r))) ∧
  (∀ (id : Nat) (r : Req) (s : State), getReq s id = some r → r.kind = .piece → r.st = .sent → portAhead s id r = false →
    (r.mode = 0 → isOwn s r.addr = true → exec (.read (.own id)) s = .next ((dropped s id r).getD (pieceRead s id r))) ∧
    (r.mode = 1 → isOwn s (r.words.getD 0 0) = true → exec (.write (.own id)) s = .next (pieceWrite s id r))) ∧
  (∀ (i : Nat) (m : Msg) (s : State), arrival s i = some m → inTurn s i = true → asleep s (bitsOf (m.pl 0) 0 44) = false → s.gate.forwardOnly = false →
    (forMe s m 1 = true → exec (.read (.arrived i)) s = .next (serveMsg (takeArrival s i) m)) ∧
    (forMe s m 2 = true → exec (.write (.arrived i)) s = .next (serveMsg (takeArrival s i) m)) ∧
    (forMe s m 3 = true → exec (.fabricAtomic (.arrived i)) s = .next (serveMsg (takeArrival s i) m)))

/-- ROW_FETCH, ROW_CHECK, ROW_UPDATE, JOURNAL, COLL and STAGED_UPDATE_RELEASE at their homes. A module that only forwards refuses them. -/
def rowHomesPerform : Prop :=
  (∀ (tag : Nat) (q : Req) (s : State), getReq s tag = some q → q.st = .sent → isOwn s q.addr = true →
    s.heldRows.any (fun x => x.1 == some tag) = false →
    (q.kind = .rowFetch → exec (.rowFetch (.own tag)) s = .next (takeRow s (some tag, []))) ∧
    (q.kind = .rowCheck → exec (.rowCheck (.own tag)) s = .next (takeRow s (some tag, [])))) ∧
  (∀ (tag : Nat) (q : Req) (s : State), getReq s tag = some q → q.st = .sent → isOwn s q.addr = true → q.kind = .rowUpdate →
    exec (.rowUpdate (.own tag)) s = .next (homeUpdate s (updReq s tag (fun q => { q with st := .tagWait }))
      (recOf (q.words.getD 0 0) (q.words.getD 1 0) (q.words.getD 2 0)) [0, tag])) ∧
  (∀ (tag : Nat) (q : Req) (s t : State), getReq s tag = some q → q.kind = .journal → q.st = .sent → isOwn s q.addr = true →
    journalService s = .inService → journalWrite s (roleId s) (bytesOf (q.words.getD 3 0) (q.words.getD 2 0)) = some t →
    exec (.journal (.own tag)) s = .next (updReq t tag (fun q => { q with st := .answered .ok 0 }))) ∧
  (∀ (i : Nat) (m : Msg) (s : State), arrival s i = some m → s.gate.forwardOnly = false →
    let p := resolver s (bitsOf (m.pl 0) 40 8) (m.pl 0 % 2 ^ 40)
    let s1 := landMsg (takeArrival s i) m p
    (forMe s m 5 = true → exec (.rowFetch (.arrived i)) s = .next (takeRow (bump s1 (pg clsROW p) 0x6C) (none, m))) ∧
    (forMe s m 6 = true → exec (.rowCheck (.arrived i)) s = .next (takeRow s1 (none, m))) ∧
    (forMe s m 7 = true → exec (.rowUpdate (.arrived i)) s = .next (updateArrived s i m)) ∧
    (forMe s m 8 = true → s.power.mode = 0 → exec (.journal (.arrived i)) s = .next (journalArrived s i m)) ∧
    (forMe s m 9 = true → euServes s (.col (bitsOf (m.pl 1) 8 2)) = true →
      collAsleep s (bitsOf (m.pl 1) 8 2 * 2 ^ 32 + bitsOf (m.pl 0) 0 32) = false →
      exec (.coll (.arrived i)) s = .next (collArrive s i m))) ∧
  (∀ (i : Nat) (m : Msg) (s : State), arrival s i = some m → s.gate.forwardOnly = true →
    let t := refuseMsg (takeArrival s i) m 3 0
    (forMe s m 5 = true → exec (.rowFetch (.arrived i)) s = .next t) ∧ (forMe s m 6 = true → exec (.rowCheck (.arrived i)) s = .next t) ∧
    (forMe s m 7 = true → exec (.rowUpdate (.arrived i)) s = .next t)) ∧
  (∀ (tag : Nat) (r : Req) (s : State), getReq s tag = some r → r.kind = .rowUpdate → r.st = .busy → firstHeld s tag r = true →
    bankFree s r = true → mayLeave s r = true → let s1 := updReq s tag (fun r => { r with st := .sent })
    (isOwn s1 r.addr = true → exec (.stagedUpdateRelease tag) s = .next s1) ∧
    (isOwn s1 r.addr = false → exec (.stagedUpdateRelease tag) s =
      .next (updateOut s1 tag (gMod r.addr) ((r.slot.map (effPrio s1)).getD 0) r.cls (updatePav r)
        (recOf (r.words.getD 0 0) (r.words.getD 1 0) (r.words.getD 2 0))).1))

/-- REPLY_DATA and REPLY_ACK: an answer of this module's home reaches its request; a reply of another module is taken. Requests that waited
for its tag or its entry of a reorder table are then sent, and commands that waited for its bytes go on. -/
def repliesAreTaken : Prop :=
  (∀ (id : Nat) (q : Req) (st : Status) (v : DWord) (s : State), getReq s id = some q → q.st = .answered st v →
    (q.wantsData = true → exec (.replyData (.own id)) s = .next (replyDone (ownReply s id q st v))) ∧
    (q.wantsData = false → exec (.replyAck (.own id)) s = .next (replyDone (ownReply s id q st v)))) ∧
  (∀ (i : Nat) (m : Msg) (s : State), arrival s i = some m →
    (forMe s m 0x40 = true → exec (.replyData (.arrived i)) s = .next (replyDone (takeReply s i m))) ∧
    (forMe s m 0x41 = true → exec (.replyAck (.arrived i)) s = .next (replyDone (takeReply s i m))))

/-- Rows, updates, journal records and collective pieces at their homes, and the replies of homes. -/
def Obligations.RowHomesAndReplies : Prop := rowHomesPerform ∧ repliesAreTaken


/-- Bytes written are read back, bytes elsewhere keep their values, and nothing but memory changes. -/
def Obligations.WrittenBytesReadBack : Prop :=
  ∀ (s : State) (a : Nat) (l : List Byte),
    rdBytes (wrBytes s a l) a l.length = l ∧ (∀ b, (b < a ∨ b ≥ a + l.length) → rdB (wrBytes s a l) b = rdB s b) ∧
    ({ wrBytes s a l with mem := s.mem } : State) = s

/-- A WRITE that arrives for memory in service stores exactly its bytes: those of its range are the ones that the message carries, and no
other byte changes from what it is once the errors injected there have struck. -/
def Obligations.ArrivedWriteStores : Prop :=
  ∀ (s : State) (die a : Nat) (l : List Byte), isHost a = false → popRange s a l.length = true → unserved s a l.length = none →
    (meets s a l.length true).2 = false → (serveWrite s die a l).2 = .ok ∧ rdBytes (serveWrite s die a l).1 a l.length = l ∧
    ∀ b, (b < a ∨ b ≥ a + l.length) → rdB (serveWrite s die a l).1 b = rdB (meets s a l.length true).1 b

/-- APPLY_START, APPLY_RESUME, HOME_APPLIED and MODULE_STEP_APPLIED: each home applies its rows, regions and moves of the committed step,
after a reset from the row in its redo slot on; one whose part is done and confirmed takes the step as its applied step and gives up the
step's records; the module reports when every home has. -/
def Obligations.StepsAreApplied : Prop :=
  ∀ (s : State) (x : StepSt), applying s = some x →
    (∀ u : Fin 20, (homeUnit s u).work = none → (homeUnit s u).applied ≠ x.num → unitServes s u = true →
      exec (.applyStart u) s = .next (applyGo s u x
        { step := x.num, rows := ((homeUnit s u).recs.filter (fun r => r.step == x.num)).mergeSort recLe,
          regions := x.regions.filter (fun k => unitOf (region s k).base == u.val), moves := unitMoves s u x.num })) ∧
    (∀ (u : Fin 20) (w : Apply), (homeUnit s u).work = some w → w.stopped = true → unitServes s u = true →
      exec (.applyResume u) s = .next (applyGo (redoRow (bumpUnit s u 0xF4 0xB0) u) u x w)) ∧
    (∀ (u : Fin 20) (w : Apply), (homeUnit s u).work = some w → w.step = x.num → w.stopped = false → w.moves = [] →
      movesUnconfirmed s u x.num = false → movesElsewhere s u x.num = false →
      exec (.homeApplied u) s = .next (releaseRows (updHome s u (fun h =>
        { h with applied := x.num, set := w.did, setStep := x.num, recs := h.recs.filter (fun r => r.step != x.num), work := none, redo := none })))) ∧
    ((∀ u, u < 20 → (homeUnit s u).applied = x.num) → (∀ k ∈ x.regions, x.regionsDone.contains k = true) →
      exec .moduleStepApplied s = .next (reportApplied s x))

/-! ### The host interface -/

/-- SQ_TAIL and CQ_HEAD: a doorbell of a function that does not own the queue, or before the module is ready, is dropped; one that acts moves
the tail, or, for a queue not enabled, is kept; a head within the ring and the posted records frees the records before it. -/
def Obligations.DoorbellsAct : Prop :=
  ∀ (q : Fin 256) (f : Fin 8) (v : Word) (s : State), let s1 := barAccess s
    (bellActs s1 q f = false → exec (.sqTail q f v) s = .next (dropBell s1) ∧ exec (.cqHead q f v) s = .next (dropBell s1)) ∧
    (bellActs s1 q f = true →
      (qEnabled s1 q = true → exec (.sqTail q f v) s = .next (takeTail s1 q (v.toNat % 65536))) ∧
      (qEnabled s1 q = false → exec (.sqTail q f v) s = .next (bell (updSq s1 q (fun x => { x with kept := x.kept ++ [v.setWidth 16] })))) ∧
      (let c := qCq s1 q
       let x := s1.cqs.get {} c
       let e := cqEntries s1 c
       let h := v.toNat % 65536
       let n := (h + e - x.head.toNat) % e
       h < e → x.head.toNat < e → n ≠ 0 → n ≤ x.posted.length → exec (.cqHead q f v) s = .next (releaseHeld
        ((x.posted.take n).foldl ackRecord (bell (updCq s1 c (fun x => { x with head := BitVec.ofNat 16 h, posted := x.posted.drop n, blocked := false }))))
        c x.held.length)))

/-- RING_FETCH, COMPLETION_RECORD, CQ_COAL_TIMER, XLATE_INV_DONE and MSIX_TABLE_WRITE. -/
def ringsAct : Prop :=
  (∀ (q : Fin 256) (s : State), mayFetch s q = true → ringWaits s q = false →
    let x := s.sqs.get {} q
    let e := qEntries s q
    exec (.ringFetch q) s = .next (fetchEntries s q (min 64 (min ((x.tail.toNat + e - x.head.toNat % e) % e) (e - x.head.toNat))))) ∧
  (∀ (c : Fin 256) (r : CRec) (rest : List CRec) (s t : State), (s.cqs.get {} c.val).held = r :: rest → writeRec s c r = (t, true) →
    exec (.completionRecord c) s = .next (recordOut (cqSignal { t with cqs := t.cqs.upd {} c.val (fun q => { q with held := rest }) } c false) r)) ∧
  (∀ (c : Fin 256) (s : State), bitsOf (cqReg s c 0x164) 8 8 ≠ 0 → (s.cqs.get {} c.val).timer = true →
    exec (.cqCoalTimer c) s = .next (cqSignal s c true)) ∧
  (∀ (v : Word) (s : State), s.xlateInv = some v →
    let t : State := { xlateForget s v.toNat with
      xlateInv := none
      sqs := (xlateForget s v.toNat).sqs.mapAll {} (fun _ q => { q with stalled := false })
      cqs := (xlateForget s v.toNat).cqs.mapAll {} (fun _ q => { q with blocked := false }) }
    exec .xlateInvDone s = .next ((cqsHolding t).foldl (fun s e => releaseHeld s e.1 e.2) t)) ∧
  (∀ (f : Fin 8) (v : Fin 256) (w : Fin 4) (x : Word) (s : State), let s1 := barAccess s
    let k := f.val * 256 + v.val
    let e := s1.msix.get {} k
    let t : State := { s1 with msix := s1.msix.upd {} k (msixWord w x) }
    exec (.msixTableWrite f v w x) s =
      .next (if w.val = 3 ∧ e.pending = true ∧ bitOf x.toNat 0 = false then interrupt t f v (vectorPort t f v) else t) ∧
      t.msix.get {} k = msixWord w x e ∧ ∀ j, j ≠ k → t.msix.get {} j = s1.msix.get {} j)

/-- FUNCTION_LEVEL_RESET, HOT_RESET, PCIE_LINK_CHANGE and CONFIGURATION_REQUEST. -/
def pcieActs : Prop :=
  (∀ (f : Fin 8) (s : State), f ≠ 0 → exec (.functionLevelReset f) s = .next (resetFunctions s (fun x => x == f.val))) ∧
  (∀ s : State, exec (.functionLevelReset 0) s =
    .next { resetFunctions s (fun _ => true) with pcie := { s.pcie with vfEnable := false, numVfs := 0 } }) ∧
  (∀ (p : Fin 2) (s : State), exec (.hotReset p) s =
    .next { resetFunctions s (fun _ => true) with pcie := { s.pcie with vfEnable := false, numVfs := 0 } }) ∧
  (∀ (p : Fin 2) (up flit : Bool) (w : Fin 5) (r : Fin 6) (s : State), s.power.mode < 6 → ∃ t, exec (.pcieLinkChange p up flit w r) s = .next t ∧
    (p = 0 → t.pcie.up0 = up ∧ t.pcie.width0 = (if up then w.val else 0) ∧ t.pcie.up1 = s.pcie.up1) ∧
    (p = 1 → t.pcie.up1 = up ∧ t.pcie.width1 = (if up then w.val else 0) ∧ t.pcie.up0 = s.pcie.up0) ∧ ({ t with pcie := s.pcie } : State) = s) ∧
  (∀ (p : Fin 2) (f : Fin 8) (w : Option (Bool × BitVec 16)) (s : State), (if p = 0 then s.pcie.up0 else s.pcie.up1) = true →
    (s.power.mode = 3 ∨ s.power.mode = 4 → exec (.configurationRequest p f w) s = .next (emit s (.answer 3 [1]))) ∧
    (s.power.mode < 3 → w = none → exec (.configurationRequest p f w) s = .next (emit s (.answer 3 [0]))) ∧
    (∀ en n, s.power.mode < 3 → w = some (en, n) → f = 0 → ∃ t, exec (.configurationRequest p f w) s = .next t ∧ t.pcie.vfEnable = en ∧
      t.pcie.numVfs = (if s.pcie.vfEnable = true ∨ n.toNat > 7 then s.pcie.numVfs else n.toNat) ∧ t.out = .answer 3 [0] :: s.out))

/-- Rings, completion queues, translations and interrupts, and the events of the PCIe ports. -/
def Obligations.RingsAndPortsAct : Prop := ringsAct ∧ pcieActs


/-- APERTURE_READ and APERTURE_WRITE of memory that the aperture reaches. -/
def aperturesAct : Prop :=
  ∀ (off : BitVec 36) (s : State), let s1 := barAccess s
    let a := aptAddr s1 off.toNat
    s1.power.mode = 0 →
    (∀ (len : Nat) (l : List Byte) (t : State), 0 < len → len ≤ aptRoom off → aptLen s1 off.toNat len = len → sleeps s1 a len = false →
      resets s1 a len = false →
      serveRead s1 16 a len = (t, .ok, l) → exec (.apertureRead off len) s = .next (emit t (.answer 2 (l.map BitVec.toNat)))) ∧
    (∀ (data : List Byte), data ≠ [] → sleeps s1 a data.length = false → data.length ≤ aptRoom off → aptLen s1 off.toNat data.length = data.length →
      aptForbidden s1 (a, data.length) = false → exec (.apertureWrite off data) s = .next (serveWrite s1 16 a data).1)

/-- FW_UPDATE_DONE: an update under way ends, STATE 3 with the staged image in the target slot where nothing fails, STATE 4 with the reason
otherwise, and its event is raised. -/
def firmwareUpdateEnds : Prop :=
  ∀ (ok : Bool) (s : State), (s.fw.state = 1 ∨ s.fw.state = 2) → let i := stagedImage s
    let fail := if i.1 = 0 ∧ ok = false then 6 else i.1
    (fail ≠ 0 → exec (.fwUpdateDone ok) s = .next (raiseEvt (updFw s (fun f => { f with state := 4, fail })) hif 1)) ∧
    (fail = 0 → exec (.fwUpdateDone ok) s = .next (raiseEvt (updFw s (fun f =>
      { f with state := 3, fail := 0, pending := true, fails := 0,
               slotA := if f.target then f.slotA else i.2, slotB := if f.target then i.2 else f.slotB })) hif 1))

/-- Aperture accesses and the end of a firmware update. -/
def Obligations.ApertureAndFirmwareAct : Prop := aperturesAct ∧ firmwareUpdateEnds


/-! ### Register accesses -/

/-- Accesses that an agent may make of a page: COMMIT, CTRL_ENABLE, FENCE_REQ, EXPERT_UNLOCK, EXPERT_RELOCK, SOFT_RESET, ERR_INJECT, CNT_CLEAR,
ERR_LATCH_CLEAR and REGISTER_WRITE. -/
def pageWritesAct : Prop :=
  ∀ (r : Requester) (n : Fin 65536) (s : State), pageTaken s r n = true → let s1 := accessed s r
    exec (.commit r n) s = .next (requestCommit s1 n) ∧
    (∀ on, exec (.ctrlEnable r n on) s = .next (setEnable s1 n on)) ∧
    (pageFenceable n = true → exec (.fenceReq r n) s = .next (fenceRequest s1 n)) ∧
    (∀ k, exec (.expertUnlock r n k) s = .next (unlock s1 r n k.toNat)) ∧
    exec (.expertRelock r n) s = .next (lock s1 n) ∧ exec (.softReset r n) s = .next (pageReset s1 n) ∧
    (∀ v, exec (.errInject r n v) s = .next (armInjection s1 n v)) ∧ (∀ v, exec (.cntClear r n v) s = .next (clearWrite s1 n v.toNat)) ∧
    ((pageCls n = clsNEAR ∨ pageCls n = clsFAR) → exec (.errLatchClear r n) s = .next { s1 with latches := s1.latches.put {} n.val {} }) ∧
    (∀ off size v, exec (.registerWrite r n off size v) s = .next (writeSized s1 r n off size v))

/-- Accesses of one page: FAULT_ACK, NEAR_RETIRE_CMD, FAR_RETIRE_CMD, BLV_SNAPSHOT, XLATE_INV, FW_START, COMMIT_SVN, TEST_MODE_ENTER and
TEST_MODE_EXIT. -/
def unitWritesAct : Prop :=
  ∀ (r : Requester) (s : State), let s1 := accessed s r
    (∀ (p : Fin 16) (v : Word), pageTaken s r (pg clsDSP p) = true → exec (.faultAck r p v) s =
      .next (ackFault s1 (slotKey p (bitsOf v.toNat 0 12)) (BitVec.ofNat 8 (bitsOf v.toNat 12 8)))) ∧
    (∀ (p : Fin 16) (v : Word), pageTaken s r (pg clsNEAR p) = true → (page s1 (pg clsNEAR p)).expert = true →
      exec (.nearRetireCmd r p v) s = .next (nearRetireWrite s1 p v.toNat)) ∧
    (∀ (o : Fin 4) (v : Word), pageTaken s r (pg clsFAR o) = true → (page s1 (pg clsFAR o)).expert = true →
      exec (.farRetireCmd r o v) s = .next (farRetireWrite s1 o v.toNat)) ∧
    (∀ c, pageTaken s r (pg clsBLV 0) = true → exec (.blvSnapshot r c) s = .next (snapshot s1 c)) ∧
    (pageTaken s r hif = true → (∀ v, exec (.xlateInv r v) s = .next (writeXlateInv s1 v.toNat)) ∧
      (∀ v, exec (.fwStart r v) s = .next (writeFwCtl s1 v.toNat)) ∧ exec (.commitSvn r) s = .next (writeFwCtl s1 4)) ∧
    (pageTaken s r (pg clsGH 0) = true →
      (testAllowed s1 r = true → exec (.testModeEnter r) s = .next (enterTest (updGate s1 (fun g => { g with testKey := true })))) ∧
      (∀ b, exec (.testModeExit r b) s = .next (leaveTest s1 b)))

/-- Register accesses that the agent may make take their effect. -/
def Obligations.RegisterWritesAct : Prop := pageWritesAct ∧ unitWritesAct


/-- An access that the agent may not make leaves the state as the access found it; one of a page that is not implemented only counts. -/
def Obligations.RefusedAccessesDoNothing : Prop :=
  ∀ (r : Requester) (n : Fin 65536) (s : State), let s1 := accessed s r
    (allowed s1 r n = false → (∀ off size v, exec (.registerWrite r n off size v) s = .next s1) ∧ exec (.commit r n) s = .next s1 ∧
      exec (.softReset r n) s = .next s1 ∧ (∀ v, exec (.errInject r n v) s = .next s1)) ∧
    (allowed s1 r n = true → pageImpl n = false →
      (∀ off size v, exec (.registerWrite r n off size v) s = .next (addCnt s1 (pg clsBLV 0) 0x68 0 1))) ∧
    (readable s1 r n = false → ∀ off size, exec (.registerLoRead r n off size) s = .next s1)

/-- REGISTER_LO_READ, COMMIT_APPLY, SNAP_PERIOD_TICK and MGMT_DATAGRAM. -/
def Obligations.RegisterEventsAct : Prop :=
  (∀ (r : Requester) (n : Fin 65536) (off : Fin 4096) (size : Fin 9) (s : State), readable (accessed s r) r n = true →
    exec (.registerLoRead r n off size) s = .next (readSized (accessed s r) n off size)) ∧
  (∀ (n : Fin 65536) (s : State), (page s n).commitPending = true → pageResetting s n = false → commitPoint s n = true →
    exec (.commitApply n) s = .next (applyCommit s n)) ∧
  (∀ s : State, actN s (pg clsBLV 0) 0x108 ≠ 0 → s.power.mode = 0 → exec .snapPeriodTick s = .next (snapshot s false)) ∧
  (∀ (src : Fin 4096) (num : BitVec 16) (words : BitVec 384) (list : List DWord) (s : State), let s1 := accessed s .ethernet
    let w := (List.range 12).map (fun i => bitsOf words.toNat (32 * i) 32)
    served s1 .gatehouse = true → s1.power.mode ≠ 7 → bitsOf (w.getD 0 0) 0 8 ≠ 0 → exec (.mgmtDatagram (.manager src num words list)) s =
      .next (updGate s1 (fun g => { g with inq := g.inq ++
        [{ src := src, num := num.toNat, words := w, list := list.map BitVec.toNat, ether := true }] }))) ∧
  (∀ (n : Fin 65536) (off : Fin 4096) (s : State), readable (accessed s .ethernet) .ethernet n = true →
    exec (.mgmtDatagram (.read n off)) s = .next (readSized (accessed s .ethernet) n off 4)) ∧
  (∀ (n : Fin 65536) (off : Fin 4096) (size : Fin 9) (v : DWord) (s : State), pageTaken s .ethernet n = true →
    exec (.mgmtDatagram (.write n off size v)) s = .next (writeSized (accessed s .ethernet) .ethernet n off size v))

/-- EXPERT_UNLOCK opens a page with its key only, and not over management
Ethernet; a wrong key is rejected. -/
def Obligations.UnlockTakesItsKey : Prop :=
  ∀ (r : Requester) (n : Fin 65536) (key : BitVec 8) (s : State), pageTaken s r n = true → (page (accessed s r) n).expert = false →
    (r ≠ .ethernet → key = 0xA5 → ∃ t, exec (.expertUnlock r n key) s = .next t ∧ (page t n).expert = true ∧
      t.regs = (accessed s r).regs ∧ t.mem = (accessed s r).mem ∧ ∀ k, k ≠ n.val → page t k = page (accessed s r) k) ∧
    ((r = .ethernet ∨ key ≠ 0xA5) → exec (.expertUnlock r n key) s = .next (rejectWrite (accessed s r) n))

/-! ### Resets, retries and memory care -/

/-- CORE_RESET, PAVILION_RESET, CHANNEL_GROUP_RESET, BLOCK_PAGE_RESET, RESET_DONE, HANG_DETECT and INTERNAL_STATE_ERROR. A domain that is
not in service does not reset again. -/
def Obligations.ResetsAct : Prop :=
  ∀ s : State,
    (∀ (c : Fin 512) (s1 : State), resetsRun s = true → (dom s (dPav (c.val / 32))).service = .inService → beginReset s (dCore c) = some s1 →
      exec (.coreReset c) s = .next
        (occur (coreLoses (wakeFor s1 (some (c.val / 32))) c (resource (c.val / 32) 0 (c.val % 32))) (resource (c.val / 32) 0 (c.val % 32)))) ∧
    (∀ (c : Fin 512), resetsRun s = true → (dom s (dCore c)).service ≠ .inService → exec (.coreReset c) s = .next s) ∧
    (∀ (p : Fin 16), resetsRun s = true → (dom s (dPav p)).service ≠ .inService → exec (.pavilionReset p) s = .next s) ∧
    (∀ (p : Fin 16), resetsRun s = true → (dom s (dPav p)).service = .inService → ∃ s1, beginReset s (dPav p) = some s1 ∧
      exec (.pavilionReset p) s = .next (occur (bump (pavLoses ((List.range 32).foldl (coreWithPav p) (wakeFor s1 (some p))) p) (pg clsPAV p) 0x40)
        (resource p 9 0))) ∧
    (∀ (o g : Fin 4) (s1 : State), resetsRun s = true → beginReset s (dGroup o g) = some s1 →
      exec (.channelGroupReset o g) s = .next (occur (fenceSent (wakeFor s1 none)
        (reqAt (wakeFor s1 none) (fun a => isFar (wakeFor s1 none) a && farOrang a == o.val && dataChan (wakeFor s1 none) a / 16 == g.val))) (resource (16 + o) 7 g))) ∧
    (∀ (n : Fin 65536), pageImpl n = true → pageDomain n = true → pageCls n = clsPAV →
      exec (.blockPageReset n) s = .next (pavReset s (pageInst n))) ∧
    (∀ (n : Fin 65536), pageImpl n = true → pageDomain n = true → pageCls n = clsLNK →
      exec (.blockPageReset n) s = .next (linkReset s (pageInst n))) ∧
    (∀ (d : DomRef) (again : Bool),
      (hasWork s d = true → exec (.hangDetect d again) s = .next (domFault s d again)) ∧
      (hasWork s d = false → exec (.hangDetect d again) s = .next s) ∧
      exec (.internalStateError d again) s = .next (domFault s d again)) ∧
    (∀ (d : DomRef), (∀ m, d ≠ .remote m) → (dom s (domKey d)).service = .resetting → bitOf s.power.unlocked (domDie d) = false →
      let t := fireInjection (wakeRetries (raiseEvt (domBack s d) (donePage d) 30)) (donePage d)
      exec (.resetDone d) s = .next (serveRequests t t.power.request.length) ∧
      ((∀ p, d ≠ .pav p) → (dom (domBack s d) (domKey d)).service = .inService ∧
        (dom (domBack s d) (domKey d)).done = (dom s (domKey d)).epoch)) ∧
    (∀ (d : DomRef), (∀ m, d ≠ .remote m) → (dom s (domKey d)).service ≠ .resetting → exec (.resetDone d) s = .next s)

/-- A reset that begins takes its domain out of service and starts its next epoch; nothing else changes. -/
def Obligations.ResetsTakeDomainsOut : Prop :=
  ∀ (s t : State) (k : Nat), beginReset s k = some t → (dom s k).service = .inService ∧ (dom t k).service = .resetting ∧
    (dom t k).epoch = (dom s k).epoch + 1 ∧ (∀ j, j ≠ k → dom t j = dom s j) ∧ ({ t with doms := s.doms } : State) = s

/-- READ_RETRY and REQUEST_TIMEOUT. -/
def Obligations.RequestsAreRetried : Prop :=
  ∀ s : State,
    (∀ (id : Nat) (r : Req), getReq s id = some r → r.st = .fenced true → r.op = none → r.kind = .load → isOwn s r.addr = true →
      let t := updReq s id (fun _ => { r with st := .sent })
      let t' := updReq t id (fun r => { r with st := .sent })
      tagFree s r = true →
      ((r.local' = false ∨ heldBack t' id r = true) → exec (.readRetry (.req id)) s = .next t') ∧
      (r.local' = true → heldBack t' id { r with st := .sent } = false →
        exec (.readRetry (.req id)) s = .next (arriveReq t' id { r with st := .sent }))) ∧
    (∀ (id : Nat) (o : Op), getOp s id = some o → o.far.st = 0 → o.tries ≠ 0 → o.due = false → parkedOut o = false → memService s o.fencedAt ≠ .resetting →
      euServes s o.eu = true → let t := countRetry (updOp s id (fun o => { o with due := true })) o.eu
      exec (.readRetry (.op id)) s = .next (goOn (if o.unrun then runAgain t id o else t) id o.eu)) ∧
    (∀ (core : Nat) (r : Refill) (rest : List Refill), (dense s core).refills = r :: rest → (slot s r.key).st = .running → r.tries ≠ 0 →
      memService s r.fencedAt ≠ .resetting → euServes s (.dns core) = true →
      exec (.readRetry (.refill core)) s = .next (runRefills (bump s (pg clsDNS (core / 32)) 0x78) core 2)) ∧
    (∀ (tag : Nat) (r : Req), getReq s tag = some r →
      (r.unanswered = true → exec (.requestTimeout tag) s = .next (timeOut s tag r)) ∧
      (r.unanswered = false → exec (.requestTimeout tag) s = .next s))

/-- PATROL_SCRUB, RETIRE_COPY_DONE, ZEROING_DONE, PIN_LOAD, DIRTY_WRITEBACK, GATEHOUSE_TAKEOVER and GATEHOUSE_PAIR_FAILURE. -/
def Obligations.MemoryIsCaredFor : Prop :=
  ∀ s : State,
    (∀ (a : Nat) (e : Fin 3), exec (.patrolScrub a e false) s = .next (scrubAtom s a e) ∧
      (isNear a = true → exec (.patrolScrub a e true) s = .next (bump (scrubAtom s a e) (pg clsNEAR (a / 2 ^ 36)) 0x6C))) ∧
    (∀ k : Nat, (chan s k).copying ≠ none →
      (k < 4096 → exec (.retireCopyDone k) s = .next (serveDue (nearCopied s k))) ∧
      (k ≥ 4096 → exec (.retireCopyDone k) s = .next (serveDue (farCopied s k)))) ∧
    (∀ (p : Fin 16) (c : Fin 64), let k := 64 * p.val + c.val
      let t := updPower s (fun w => { w with zeroing := w.zeroing.filter (· != k) })
      s.power.zeroing.contains k = true →
      (t.power.zeroing ≠ [] → exec (.zeroingDone p c) s = .next t) ∧
      (t.power.zeroing = [] → t.power.mode = 0 → t.gate.modReady = false → t.testMode = false → t.gate.pairsLost < 2 →
        exec (.zeroingDone p c) s = .next (modReadyUp t))) ∧
    (∀ (o : Fin 4) (l : Nat), let k := setKey o (256 * l)
      let a := farAddr o (256 * l)
      let set := s.rcache.get [] k
      isFar s a = true → pinRange s o a 1 = true → bitOf (actN s (pg clsFAR o) 0x110) 0 = true → asleep s a = false →
      memService s a = .inService → set.find? (fun x => x.tag == l) = none → pinnedIn set < bitsOf (actN s (pg clsFAR o) 0x408) 0 4 →
      let t := putLine s o k { tag := l, valid := 15, dirty := 0, pinned := true }
      exec (.pinLoad o l) s = .next (if (t.rcache.get [] k).any (fun x => x.tag == l) then bump t (pg clsFAR o) 0x60 4 else s)) ∧
    (∀ (o : Fin 4) (l : Nat) (x : Line), let k := setKey o (256 * l)
      let a := farAddr o (256 * l)
      (s.rcache.get [] k).find? (fun x => x.tag == l) = some x → x.dirty ≠ 0 → asleep s a = false → memService s a = .inService →
      exec (.dirtyWriteback o l) s = .next (bump (updSet s k (fun t => t.map (fun y => if y.tag = l then { y with dirty := 0 } else y)))
        (pg clsFAR o) 0x70 (ones x.dirty))) ∧
    (s.gate.pairsLost = 0 →
      exec .gatehouseTakeover s = .next (addRecord (addCnt (updGate s (fun g => { g with standbyActive := true, pairsLost := 1, degraded := true }))
        (pg clsGH 0) 0x48 0 1) (resource 20 13 0) 2 2 0xFFFF) ∧
      exec .gatehousePairFailure s = .next (addRecord (updGate s (fun g => { g with pairsLost := 1, degraded := true })) (resource 20 13 1) 2 2 0xFFFF)) ∧
    (s.gate.pairsLost = 1 → exec .gatehouseTakeover s = .next s ∧
      exec .gatehousePairFailure s = .next (notReady (updGate s (fun g => { g with pairsLost := 2 }))))

/-! ### Noise -/

/-- NOISE_BLOCK, HEALTH_TEST_FAIL, NOISE_RESTART, STARTUP_TEST_PASS and NOISE_CLEAR. -/
def Obligations.NoiseActs : Prop :=
  ∀ (p : Fin 16) (s : State),
    ((rng s p).noise = 1 → (rng s p).pool.length < 64 → let s1 := bump { s with noiseCount := s.noiseCount + 1 } (pg clsRNG p) 0x50
      exec (.noiseBlock p) s = .next (serveNoise (updRng s1 p (fun r => { r with pool := r.pool ++ [Config.noiseBlock s.noiseCount] })) p 16)) ∧
    ((rng s p).pool.length = 64 → exec (.noiseBlock p) s = .next s) ∧
    ((rng s p).noise = 2 → exec (.noiseRestart p) s = .next (updRng s p (fun r => { r with noise := 0 }))) ∧
    ((rng s p).noise = 0 → exec (.startupTestPass p) s = .next (updRng s p (fun r => { r with noise := 1 }))) ∧
    exec (.noiseClear p) s = .next (clearNoise s p) ∧
    (∀ (apt : Bool) (expired : Nat), let n := pg clsRNG p
      let res := resource p 11 0
      (rng s p).noise ≠ 3 → unitFenced s n = false →
      let s1 := raiseEvt (bump (updRng s p (fun r => { r with noise := 2, pool := [] })) n (if apt then 0x58 else 0x54)) n 0
      let s2 := (noiseWaiting s1 p).foldl noiseFail s1
      exec (.healthTestFail p apt expired) s =
        .next (occur (updGate s2 (fun g => { g with occ := g.occ.put 0 res (g.occ.get 0 res - expired) })) res))

/-- SEED_DRAW_LO: a draw takes the pool's oldest block, answers its low word and latches its next one, and no other draw or pool is
touched; on an empty pool it answers 0, latches 0 and counts SEED_EMPTY. That a draw uses up a whole block is the model's choice (log
entry 16). -/
def Obligations.SeedsAreDrawn : Prop :=
  ∀ (p : Fin 16) (s : State),
    (∀ b rest, (rng s p).pool = b :: rest → ∃ t, exec (.seedDrawLo p) s = .next t ∧
      t.out = .answer 1 [pg clsRNG p, 0x110, bitsOf b.toNat 0 32] :: s.out ∧ (rng t p).pool = rest ∧ (rng t p).seedOk = true ∧
      (rng t p).seedHi.toNat = bitsOf b.toNat 32 32 ∧ (∀ k, k ≠ p.val → rng t k = rng s k) ∧ t.mem = s.mem ∧ t.regs = s.regs) ∧
    ((rng s p).pool = [] → ∃ t, exec (.seedDrawLo p) s = .next t ∧
      t.out = .answer 1 [pg clsRNG p, 0x110, 0] :: s.out ∧ (rng t p).pool = [] ∧ (rng t p).seedOk = false ∧ (rng t p).seedHi = 0 ∧
      t.regs = (bump s (pg clsRNG p) 0x64).regs ∧ t.mem = s.mem)

/-! ### Power, clocks and protection -/

/-- Power requests: PAV_REQ_RUN, PAV_REQ_HOLD, PAV_REQ_NAP, MOD_REQ_RUN, MOD_REQ_HOLD, MOD_REQ_NAP, MOD_REQ_REST and MOD_REQ_DORMANT are
queued behind the earlier ones, and served where they may be; AUTO_HOLD, PAVILION_WAKE and MODULE_WAKE. -/
def Obligations.PowerRequestsAct : Prop :=
  (∀ (r : Requester) (s : State), pageTaken s r (pg clsPWR 0) = true → let s1 := accessed s r
    (∀ p, exec (.pavReqRun r p) s = .next (powerRequest s1 0 p 0) ∧ exec (.pavReqHold r p) s = .next (powerRequest s1 0 p 1) ∧
      exec (.pavReqNap r p) s = .next (powerRequest s1 0 p 2)) ∧
    exec (.modReqRun r) s = .next (powerRequest s1 1 0 0) ∧ exec (.modReqHold r) s = .next (powerRequest s1 1 0 1) ∧
    exec (.modReqNap r) s = .next (powerRequest s1 1 0 2) ∧ exec (.modReqRest r) s = .next (powerRequest s1 1 0 3) ∧
    exec (.modReqDormant r) s = .next (powerRequest s1 1 0 4)) ∧
  (∀ (p : Fin 16) (s : State), s.power.mode = 0 →
    (actN s (pg clsPWR 0) 0x114 ≠ 0 → pavIdle s p = true → exec (.autoHold p) s = .next (enterHold s p)) ∧
    (pavIdle s p = false → exec (.autoHold p) s = .next s) ∧
    exec (.pavilionWake p) s = .next (wokenRequests (wakePav s p) p)) ∧
  (∀ (w : Wake) (b : Boot) (s : State),
    ((s.power.mode = 1 ∨ s.power.mode = 2) → w ≠ .perst → exec (.moduleWake w b) s = .next (wakeHold s)) ∧
    (s.power.mode = 3 → w ≠ .datagram → exec (.moduleWake w b) s = .next (wakeRest s)) ∧
    (s.power.mode = 4 → (w = .smbus ∨ w = .perst) → exec (.moduleWake w b) s = .next (wakeDormant s b)) ∧
    (s.power.mode = 0 → exec (.moduleWake w b) s = .next s))

/-- A Pavilion in Run of a module in Run enters Hold, alone, and is counted; one in another state stays as it is. -/
def Obligations.HoldIsEntered : Prop :=
  ∀ (s : State) (p : Nat), let t := enterHold s p
    (s.power.pavs.get 0 p = 0 → t.power.pavs.get 0 p = 1 ∧ (∀ q, q ≠ p → t.power.pavs.get 0 q = s.power.pavs.get 0 q) ∧ t.power.mode = s.power.mode) ∧
    (s.power.pavs.get 0 p ≠ 0 → t = s) ∧ t.mem = s.mem ∧ t.slots = s.slots ∧ t.thrs = s.thrs ∧ t.tags = s.tags

/-- DROOP, DUTY_WINDOW, DIVIDER_CHANGE, THERMAL_LOOP_PERIOD, POWER_LOOP_PERIOD, PLL_LOCK_LOSS, PLL_RELOCK, REFERENCE_LOSS and
REFERENCE_RESTORED. -/
def Obligations.ClocksAct : Prop :=
  ∀ s : State,
    (∀ p : Fin 16, pavAsleep s p = false →
      (∀ n, exec (.droop p n) s = .next (addCnt s (pg clsPWR 0) 0x40 0 n)) ∧ exec (.dividerChange p) s = .next (applyNext s p) ∧
      (let w := (s.power.window.get 0 p + 1) % 16
       let d := s.power.duty.get 0 p
       let held := decide ((w + 1) * d / 16 ≠ w * d / 16)
       let t : State := { updPower s (fun x => { x with window := x.window.put 0 p w }) with dutyHeld := s.dutyHeld.put false p held }
       exec (.dutyWindow p) s = .next (if held then addCnt t (pg clsDSP p) 0xAC 0 1024 else t))) ∧
    (∀ temps : BitVec 160, s.power.mode ≠ 7 →
      let t := (List.range 20).foldl (fun s d => thermalDie s d (bitsOf temps.toNat (8 * d) 8)) s
      (t.power.mode ≠ 0 → exec (.thermalLoopPeriod temps) s = .next t) ∧
      (t.power.mode = 0 → exec (.thermalLoopPeriod temps) s = .next ((List.range 4).foldl (fun s o =>
        if s.power.throttle.get 0 o = 0 then s else addCnt s (pg clsPWR 0) 0x48 0 (s.power.throttle.get 0 o * memPeriod / 16)) t))) ∧
    (∀ (watts : BitVec 13) (dv : BitVec 10) (pw : BitVec 256), s.power.mode ≠ 7 →
      let t := updPower s (fun w => { w with watts := watts.toNat, volts := dv.toNat })
      let cap := 10 * bitsOf (profileWord t) 18 9
      let use := fun p : Nat => bitsOf pw.toNat (16 * p) 16
      (t.power.mode ≠ 0 → exec (.powerLoopPeriod watts dv pw) s = .next t) ∧
      (t.power.mode = 0 → watts.toNat > cap →
        exec (.powerLoopPeriod watts dv pw) s = .next (powerOver (updPower t (fun w => { w with calm := 0 })) use (watts.toNat - cap))) ∧
      (t.power.mode = 0 → watts.toNat ≤ cap → 100 * watts.toNat ≥ 98 * cap →
        exec (.powerLoopPeriod watts dv pw) s = .next (updPower t (fun w => { w with calm := 0 }))) ∧
      (t.power.mode = 0 → 100 * watts.toNat < 98 * cap → let u := updPower t (fun w => { w with calm := w.calm + 1 })
        exec (.powerLoopPeriod watts dv pw) s = .next (if u.power.calm < 10 then u else powerUnder u use))) ∧
    (∀ die : Fin 20, railsUp s = true → bitOf s.power.pll die = true →
      let u := updPower (bump s (pg clsCLK 0) 0x40) (fun w => { w with pll := w.pll - 1 <<< die.val, unlocked := w.unlocked ||| 1 <<< die.val })
      (die.val < 16 → exec (.pllLockLoss die) s = .next (pavReset u die)) ∧
      (die.val ≥ 16 → exec (.pllLockLoss die) s = .next ((List.range 16).foldl (fun s i => linkReset s (16 * (die.val - 16) + i))
        ((List.range 4).foldl (fun s g => groupReset s (die.val - 16) g) u)))) ∧
    (∀ die : Fin 20, bitOf s.power.unlocked die = true →
      exec (.pllRelock die true) s = .next (updPower s (fun w => { w with pll := w.pll ||| 1 <<< die.val, unlocked := w.unlocked - 1 <<< die.val })) ∧
      (die.val ≥ 16 → exec (.pllRelock die false) s = .next (fenceOrang s (die.val - 16) false false))) ∧
    (s.power.refOk = true → exec .referenceLoss s = .next (updPower s (fun w => { w with refOk := false, holdover := true }))) ∧
    (s.power.mode ≠ 7 → exec .referenceRestored s = .next (updPower s (fun w => { w with refOk := true, holdover := false })))

/-- THERMAL_HOT, HOT_RELEASE, THERMAL_TRIP, ELECTRICAL_OVERLOAD, ELECTRICAL_PROTECTION_PERIOD, INPUT_VOLTAGE_FAULT and
REFERENCE_HOLDOVER_EXPIRY. The temperature and the voltage that a protection reads are free values within its bounds: the
model's choice, log entry 73. -/
def Obligations.ProtectionsAct : Prop :=
  ∀ s : State, let f := takeFree s
    (∀ die : Fin 20, railsUp s = true → s.power.hot.contains die.val = false →
      let t := bump (setTemp (updPower f.1 (fun w => { w with hot := die.val :: w.hot })) die (105 + f.2 % 10)) (pg clsPWR 0) 0x64
      exec (.thermalHot die) s = .next (if die.val < 16 then protect t die else t)) ∧
    (∀ die : Fin 20, s.power.hot.contains die.val = true →
      let t := setTemp (updPower f.1 (fun w => { w with hot := w.hot.filter (· != die.val) })) die (f.2 % 100)
      exec (.hotRelease die) s = .next (if die.val < 16 then refresh t die else t)) ∧
    (∀ die : Fin 20, exec (.thermalTrip die) s = .next (protectiveShutdown (setTemp f.1 die (115 + f.2 % 85)) 1 die)) ∧
    (railsUp s = true → exec .electricalOverload s = .next (electricalStep s)) ∧
    (railsUp s = true → s.power.steps ≠ 0 → exec (.electricalProtectionPeriod true) s = .next (electricalStep s) ∧
      (s.power.clear + 1 < 50 → exec (.electricalProtectionPeriod false) s = .next (updPower s (fun w => { w with clear := w.clear + 1 }))) ∧
      (s.power.clear + 1 ≥ 50 → exec (.electricalProtectionPeriod false) s =
        .next (refreshAll (updPower s (fun w => { w with steps := w.steps - 1, clear := 0 }))))) ∧
    (s.power.mode < 4 → exec .inputVoltageFault s = .next (protectiveShutdown (updPower f.1 (fun w =>
      { w with volts := if f.2 % 823 < 400 then f.2 % 823 else f.2 % 823 + 201 })) 2 0)) ∧
    (s.power.holdover = true → exec .referenceHoldoverExpiry s = .next (protectiveShutdown s 3 0))

/-- A protective shutdown leaves Run, records its cause and place, and takes the module out of service; it loses what memory lists and
every slot, thread and outstanding command, and keeps the firmware slots, the temperatures and the voltage. -/
def Obligations.ShutdownLosesState : Prop :=
  ∀ (s : State) (cause place : Nat), s.power.mode < 6 → let t := protectiveShutdown s cause place
    t.power.mode = 6 ∧ t.power.cause = cause ∧ t.power.place = place ∧ t.gate.modReady = false ∧ t.fw = s.fw ∧
    t.power.temp = s.power.temp ∧ t.power.volts = s.power.volts ∧ (∀ k, (slot t k).st = .free) ∧ (∀ k, (thr t k).slot = none) ∧
    opList t = [] ∧ reqList t = [] ∧ t.tags = []

/-- POWER_ON, PERST, SMBUS_COMMAND and SUPPLY_REMOVED. -/
def Obligations.SupplyActs : Prop :=
  ∀ (b : Boot) (s : State),
    exec (.powerOn b) s = .next (startUp (baseState s) b) ∧ exec .supplyRemoved s = .next { baseState s with power := { mode := 7 } } ∧
    (s.power.mode < 3 → exec (.perst b) s = .next (startUp (baseState s) b)) ∧
    (s.power.mode = 3 → exec (.perst b) s = .next (wakeRest s)) ∧ (s.power.mode = 4 → exec (.perst b) s = .next (wakeDormant s b)) ∧
    (s.power.mode = 6 → exec (.perst b) s = .next (leaveTripped s b)) ∧
    (∀ a, exec (.smbusCommand (.eeprom a) b) s = .next (emit s (.answer 0 [eeprom s a]))) ∧
    (∀ c, (∀ a, c ≠ .eeprom a) → s.power.mode ≠ 7 → exec (.smbusCommand c b) s = .next (moduleWake (emit s (.answer 0 (smbusAnswer s c))) .smbus b))

/-! ### Rules of the spec -/

/-- R110: of the cores that an unpinned task fits, and that no reservation keeps from it, the dispatcher takes one with the fewest threads
in use under POLICY 0 and with the most under POLICY 1, the lowest such core. -/
def Obligations.CoreIsChosen : Prop :=
  (∀ p, p < 16 → actN State.reset (pg clsDSP p) 0x408 % 2 = 0) ∧
  ∀ (s : State) (key : Nat), (slot s key).saved = false → (wPresent (slot s key).wSp.toNat && wPin (slot s key).wSp.toNat) = false →
    myTurn s key = true →
    let used (c : Nat) : Nat := 16 - (freeThreads s (key / 4096) c).length
    let may (c : Nat) : Prop := c ∈ coresFor s key ∧ fits s key c = true ∧ headAllows s key c = true
    ((∃ c, may c) → ∃ c, coreFor s key = some c) ∧
    ∀ c, coreFor s key = some c → may c ∧ ∀ x, may x →
      (actN s (pg clsDSP (key / 4096)) 0x408 % 2 = 0 → used c < used x ∨ (used c = used x ∧ c ≤ x)) ∧
      (actN s (pg clsDSP (key / 4096)) 0x408 % 2 = 1 → used c > used x ∨ (used c = used x ∧ c ≤ x))

/-- R532: a module's id and its coordinates give each other, on axes of the lengths in TOPO; with the rule's example. -/
def Obligations.IdsAndCoordinates : Prop :=
  ∀ s : State,
    (∀ d m p g, coordId s d m p g = d + axisLen s 0 * (m + axisLen s 1 * (p + axisLen s 2 * g))) ∧
    (∀ id, idCoord s id 0 = id % axisLen s 0 ∧ idCoord s id 1 = id / axisLen s 0 % axisLen s 1 ∧
      idCoord s id 2 = id / (axisLen s 0 * axisLen s 1) % axisLen s 2 ∧ idCoord s id 3 = id / (axisLen s 0 * axisLen s 1 * axisLen s 2)) ∧
    (∀ d m p g, d < axisLen s 0 → m < axisLen s 1 → p < axisLen s 2 → let id := coordId s d m p g
      idCoord s id 0 = d ∧ idCoord s id 1 = m ∧ idCoord s id 2 = p ∧ idCoord s id 3 = g) ∧
    (∀ id, coordId s (idCoord s id 0) (idCoord s id 1) (idCoord s id 2) (idCoord s id 3) = id) ∧
    (∀ a, a < 4 → axisLen s a = bitsOf (topo s) (4 * a) 4 + 1 ∧ ownCoord s a = bitsOf (topo s) (16 + 4 * a) 4) ∧
    (axisLen s 0 = 8 → axisLen s 1 = 1 → axisLen s 2 = 1 → axisLen s 3 = 16 → coordId s 5 0 0 4 = 37 ∧
      idCoord s 127 0 = 7 ∧ idCoord s 127 3 = 15)

/-- R250: a task first placed holding the dense engine finds both tiles at +0.0 with KIND 0, zero counters and clear flags, and both banks
empty, whatever the engine held before. -/
def Obligations.DenseEngineStartsEmpty : Prop :=
  ∀ (s : State) (key core : Nat) (hws : List Nat), (slot s key).engDns = true → let e := dense (startThreads s key core hws) core
    (∀ t : Tile, t = e.a ∨ t = e.b → t.int = false ∧ (∀ i, ∃ e, tileVal t i = .fin false 0 e) ∧ t.chain = 0 ∧ t.accLong = false ∧ t.sat = false ∧
      t.satCount = 0) ∧
    e.bank0 = none ∧ e.bank1 = none ∧ ∀ d, dense (startThreads { s with dense := d } key core hws) core = e

/-- R90: words 1 to 15 of a NOP must be 0; at queue level it uses up one entry and posts nothing; at program level it issues and completes
with no effect but that its thread moves on. -/
def Obligations.NopDoesNothing : Prop :=
  (∀ (w : Cmd) (queue : Bool), word0Bad w.toNat 0 queue = none → wordsBad w.toNat 0 noSpec = none → ∀ i, 1 ≤ i → i ≤ 15 → cf w.toNat i 0 32 = 0) ∧
  (∀ (n : Fin 256) (b : Body) (s : State) (index : Nat), qHead s (.host n) (cmdOf 0 b) = some index →
    lowest (word0Bad (cmdOf 0 b).toNat 0 true) (wordsBad (cmdOf 0 b).toNat 0 noSpec) = none →
    (cplTarget (cmdOf 0 b).toNat).bind (fun x => qTargetBad (qPop s (.host n)) (.host n) (hMod (x.toNat % 2 ^ 36))) = none →
    ∃ t, exec (.nop (.queue (.host n)) b) s = .next t ∧ (t.sqs.get {} n.val).fetched = (s.sqs.get {} n.val).fetched.drop 1 ∧
      (∀ k, k ≠ n.val → t.sqs.get {} k = s.sqs.get {} k) ∧ ({ t with sqs := s.sqs } : State) = s) ∧
  (∀ (t : Thr) (b : Body) (s : State), accepts t b nopDef s = true → (slot s (issuedCtx t b nopDef s).key).st = .running →
    ∃ u, exec (.nop (.thread t) b) s = .next u ∧ (thr u (thrKey t)).next = (thr s (thrKey t)).next + 1 ∧
      (∀ k, k ≠ thrKey t → thr u k = thr s k) ∧ u.ops = s.ops ∧ u.slots = s.slots ∧ u.mem = s.mem ∧ u.tags = s.tags ∧ u.sets = s.sets ∧
      u.reqs = s.reqs ∧ u.dense = s.dense)
end

