-- ==== Sys2Proof/Laws/Tables.lean ====
section
/-!
SUPPORT. Tables in their canonical form: each update keeps it, and what a key reads as afterwards.
-/
namespace Sys2Proof.Machine

variable {α : Type}

/-- A bound below all keys may be lowered. -/
theorem Tab.rising_weaken {m : Tab α} {lo : Nat} (h : Tab.rising (some lo) m = true) : Tab.rising none m = true := by
  cases m with
  | nil => rfl
  | cons e m => simp [Tab.rising] at h ⊢; exact h.2

theorem Tab.rising_lower {m : Tab α} {lo hi : Nat} (h : Tab.rising (some hi) m = true) (hl : lo ≤ hi) : Tab.rising (some lo) m = true := by
  cases m with
  | nil => rfl
  | cons e m => simp [Tab.rising] at h ⊢; exact ⟨by omega, h.2⟩

/-- Erasing keeps keys rising. -/
theorem Tab.rising_erase {m : Tab α} {k : Nat} : ∀ {lo : Option Nat}, Tab.rising lo m = true → Tab.rising lo (Tab.erase m k) = true := by
  induction m with
  | nil => intro lo h; exact h
  | cons e m ih =>
    intro lo h
    obtain ⟨k', v⟩ := e
    simp only [Tab.rising, Bool.and_eq_true] at h
    unfold Tab.erase
    split
    · refine ih ?_
      cases lo with
      | none => exact Tab.rising_weaken h.2
      | some l => exact Tab.rising_lower h.2 (by have := h.1; simp at this; omega)
    · simp only [Tab.rising, Bool.and_eq_true]; exact ⟨h.1, ih h.2⟩

/-- Inserting keeps keys rising. -/
theorem Tab.rising_insert {m : Tab α} {k : Nat} {v : α} : ∀ {lo : Option Nat}, (∀ l, lo = some l → l < k) → Tab.rising lo m = true →
    Tab.rising lo (Tab.insert m k v) = true := by
  induction m with
  | nil =>
    intro lo hk _
    cases lo with
    | none => rfl
    | some l => simp [Tab.insert, Tab.rising, hk l rfl]
  | cons e m ih =>
    intro lo hk h
    obtain ⟨k', v'⟩ := e
    simp only [Tab.rising, Bool.and_eq_true] at h
    unfold Tab.insert
    split
    · rename_i hkk
      subst hkk
      simp only [Tab.rising, Bool.and_eq_true]; exact h
    · split
      · rename_i hlt
        simp only [Tab.rising, Bool.and_eq_true, decide_eq_true_eq]
        refine ⟨?_, hlt, h.2⟩
        cases lo with
        | none => rfl
        | some l => simpa using hk l rfl
      · simp only [Tab.rising, Bool.and_eq_true]
        exact ⟨h.1, ih (by rintro l ⟨⟩; omega) h.2⟩

theorem Tab.mem_erase {m : Tab α} {k : Nat} {e : Nat × α} (h : e ∈ Tab.erase m k) : e ∈ m := by
  induction m with
  | nil => exact h
  | cons x m ih =>
    obtain ⟨k', v⟩ := x
    unfold Tab.erase at h
    split at h
    · exact List.mem_cons_of_mem _ (ih h)
    · rcases List.mem_cons.mp h with h | h
      · exact h ▸ List.mem_cons_self
      · exact List.mem_cons_of_mem _ (ih h)

theorem Tab.mem_insert {m : Tab α} {k : Nat} {v : α} {e : Nat × α} (h : e ∈ Tab.insert m k v) : e = (k, v) ∨ e ∈ m := by
  induction m with
  | nil => simpa [Tab.insert] using h
  | cons x m ih =>
    obtain ⟨k', v'⟩ := x
    unfold Tab.insert at h
    split at h
    · rcases List.mem_cons.mp h with h | h
      · exact .inl h
      · exact .inr (List.mem_cons_of_mem _ h)
    · split at h
      · rcases List.mem_cons.mp h with h | h
        · exact .inl h
        · exact .inr h
      · rcases List.mem_cons.mp h with h | h
        · exact .inr (h ▸ List.mem_cons_self)
        · rcases ih h with h | h
          · exact .inl h
          · exact .inr (List.mem_cons_of_mem _ h)

variable [DecidableEq α]

theorem Tab.mem_put {d : α} {m : Tab α} {k : Nat} {v : α} {e : Nat × α} (h : e ∈ Tab.put d m k v) : e = (k, v) ∨ e ∈ m := by
  unfold Tab.put at h
  split at h
  · exact .inr (Tab.mem_erase h)
  · exact Tab.mem_insert h

omit [DecidableEq α] in
/-- A value read is the default or a listed one. -/
theorem Tab.get_mem {d : α} {m : Tab α} {k : Nat} : Tab.get d m k = d ∨ ∃ e ∈ m, Tab.get d m k = e.2 := by
  induction m with
  | nil => exact .inl rfl
  | cons x m ih =>
    obtain ⟨k', v⟩ := x
    unfold Tab.get
    split
    · exact .inr ⟨_, List.mem_cons_self, rfl⟩
    · rcases ih with h | ⟨e, he, h⟩
      · exact .inl h
      · exact .inr ⟨e, List.mem_cons_of_mem _ he, h⟩

/-- A write keeps the canonical form. -/
theorem Tab.wf_put {d : α} {m : Tab α} {k : Nat} {v : α} (h : Tab.wf d m = true) : Tab.wf d (Tab.put d m k v) = true := by
  simp only [Tab.wf, Bool.and_eq_true, List.all_eq_true, decide_eq_true_eq] at h ⊢
  refine ⟨?_, ?_⟩
  · unfold Tab.put
    split
    · exact Tab.rising_erase h.1
    · exact Tab.rising_insert (by simp) h.1
  · unfold Tab.put
    split
    · exact fun e he => h.2 e (Tab.mem_erase he)
    · rename_i hv
      intro e he
      rcases Tab.mem_insert he with rfl | he
      · exact hv
      · exact h.2 e he

/-- An update keeps the canonical form. -/
theorem Tab.wf_upd {d : α} {m : Tab α} {k : Nat} {f : α → α} (h : Tab.wf d m = true) : Tab.wf d (Tab.upd d m k f) = true := Tab.wf_put h

omit [DecidableEq α] in
theorem Tab.rising_filter {p : Nat × α → Bool} {m : Tab α} : ∀ {lo : Option Nat}, Tab.rising lo m = true → Tab.rising lo (m.filter p) = true := by
  induction m with
  | nil => intro lo h; exact h
  | cons e m ih =>
    intro lo h
    obtain ⟨k', v⟩ := e
    simp only [Tab.rising, Bool.and_eq_true] at h
    rw [List.filter_cons]
    split
    · simp only [Tab.rising, Bool.and_eq_true]; exact ⟨h.1, ih h.2⟩
    · apply ih
      cases lo with
      | none => exact Tab.rising_weaken h.2
      | some l => exact Tab.rising_lower h.2 (by have := h.1; simp at this; omega)

/-- Dropping entries keeps the canonical form. -/
theorem Tab.wf_keep {d : α} {m : Tab α} {p : Nat → α → Bool} (h : Tab.wf d m = true) : Tab.wf d (Tab.keep p m) = true := by
  simp only [Tab.wf, Bool.and_eq_true, List.all_eq_true, decide_eq_true_eq] at h ⊢
  refine ⟨Tab.rising_filter h.1, fun e he => h.2 e ?_⟩
  exact (List.mem_filter.mp he).1

omit [DecidableEq α] in
/-- What a key reads as after an entry is inserted. -/
theorem Tab.get_insert {d : α} {m : Tab α} {k j : Nat} {v : α} :
    Tab.get d (Tab.insert m k v) j = if j = k then v else Tab.get d m j := by
  by_cases hjk : j = k
  · subst hjk
    rw [if_pos rfl]
    induction m with
    | nil => simp [Tab.insert, Tab.get]
    | cons e m ih =>
      obtain ⟨k', v'⟩ := e
      unfold Tab.insert
      split
      · simp [Tab.get]
      · split
        · simp [Tab.get]
        · rename_i h1 h2
          simp [Tab.get, h1, ih]
  · rw [if_neg hjk]
    induction m with
    | nil => simp [Tab.insert, Tab.get, Ne.symm hjk]
    | cons e m ih =>
      obtain ⟨k', v'⟩ := e
      unfold Tab.insert
      split
      · rename_i h1; subst h1
        simp [Tab.get, Ne.symm hjk]
      · split
        · simp only [Tab.get, if_neg (Ne.symm hjk)]
        · simp only [Tab.get, ih]

omit [DecidableEq α] in
/-- What a key reads as after an entry is erased. -/
theorem Tab.get_erase {d : α} {m : Tab α} {k j : Nat} : Tab.get d (Tab.erase m k) j = if j = k then d else Tab.get d m j := by
  induction m with
  | nil => simp [Tab.erase, Tab.get]
  | cons e m ih =>
    obtain ⟨k', v'⟩ := e
    unfold Tab.erase
    split
    · rename_i hkk
      subst hkk
      rw [ih]
      by_cases hjk : j = k'
      · simp [hjk]
      · simp [Tab.get, hjk, Ne.symm hjk]
    · rename_i hne
      simp only [Tab.get, ih]
      by_cases hjk : j = k
      · subst hjk; simp [hne]
      · simp [hjk]

/-- What a key reads as after a write. -/
theorem Tab.get_put {d : α} {m : Tab α} {k j : Nat} {v : α} :
    Tab.get d (Tab.put d m k v) j = if j = k then v else Tab.get d m j := by
  unfold Tab.put
  split
  · rename_i hv; rw [Tab.get_erase, hv]
  · exact Tab.get_insert

/-- A value written is there. -/
@[simp] theorem Tab.get_put_same {d : α} {m : Tab α} {k : Nat} {v : α} : Tab.get d (Tab.put d m k v) k = v := by
  rw [Tab.get_put, if_pos rfl]

/-- A write leaves every other key as it was. -/
theorem Tab.get_put_other {d : α} {m : Tab α} {k j : Nat} {v : α} (hj : j ≠ k) :
    Tab.get d (Tab.put d m k v) j = Tab.get d m j := by
  rw [Tab.get_put, if_neg hj]

end Sys2Proof.Machine
end

