-- ==== Sys2Proof/Laws/Kept.lean ====
section
/-!
SUPPORT. What every function of the machine leaves alone.
-/
namespace Sys2Proof.Machine
open Sys2Proof

/-- Every noise pool holds at most 64 blocks (R482). -/
def PoolOk (m : Tab Rng) : Prop := ∀ e ∈ m, e.2.pool.length ≤ 64

theorem poolOk_get {m : Tab Rng} (h : PoolOk m) (p : Nat) : (Tab.get {} m p).pool.length ≤ 64 := by
  rcases Tab.get_mem (d := ({} : Rng)) (m := m) (k := p) with e | ⟨x, hx, e⟩ <;> rw [e]
  · exact Nat.zero_le _
  · exact h x hx

/-- What is kept from one state to a later one. -/
structure Pres (a t : State) : Prop where
  mem : Memory.wf a.mem = true → Memory.wf t.mem = true
  host : Memory.wf a.hostMem = true → Memory.wf t.hostMem = true
  pool : PoolOk a.rngs → PoolOk t.rngs
  pending : t.pending = a.pending
  part : t.part = a.part

theorem pres_refl (a : State) : Pres a a := ⟨id, id, id, rfl, rfl⟩

theorem pres_of_eqs {a s t : State} (h : Pres a s) (h1 : t.mem = s.mem) (h2 : t.hostMem = s.hostMem) (h3 : t.rngs = s.rngs)
    (h4 : t.pending = s.pending) (h5 : t.part = s.part) : Pres a t :=
  ⟨fun k => h1 ▸ h.mem k, fun k => h2 ▸ h.host k, fun k => h3 ▸ h.pool k, h4.trans h.pending, h5.trans h.part⟩

theorem pres_absorb {a : State} {q : Prop} (s : State) (h : Pres a s) (k : Pres a s → q) : q := k h

theorem pres_ite {a x y : State} {c : Prop} {_ : Decidable c} (hx : Pres a x) (hy : Pres a y) : Pres a (if c then x else y) := by
  split <;> assumption

theorem pres_foldl {α : Type} {a : State} {g : State → α → State} {l : List α} {s : State} (hs : Pres a s)
    (hg : ∀ s x, Pres a s → Pres a (g s x)) : Pres a (l.foldl g s) := by
  induction l generalizing s with
  | nil => exact hs
  | cons x l ih => exact ih (hg s x hs)

/-- A state with a value beside it. -/
structure PresP {α : Type} (a : State) (p : State × α) : Prop where
  fst : Pres a p.1

theorem presP_fst {α : Type} {a : State} {p : State × α} (h : PresP a p) : Pres a p.1 := h.fst
theorem presP_mk {α : Type} {a s : State} {x : α} (h : Pres a s) : PresP a (s, x) := ⟨h⟩
theorem pres_of_pair {α : Type} {a t : State} {x : α} {p : State × α} (e : p = (t, x)) (h : PresP a p) : Pres a t := by
  subst e; exact h.fst
theorem presP_absorb {α : Type} {a : State} {q : Prop} (p : State × α) (h : PresP a p) (k : PresP a p → q) : q := k h
theorem presP_ite {α : Type} {a : State} {x y : State × α} {c : Prop} {_ : Decidable c} (hx : PresP a x) (hy : PresP a y) :
    PresP a (if c then x else y) := by
  split <;> assumption
theorem presP_foldl {α β : Type} {a : State} {g : State × β → α → State × β} {l : List α} {p : State × β} (hp : PresP a p)
    (hg : ∀ p x, PresP a p → PresP a (g p x)) : PresP a (l.foldl g p) := by
  induction l generalizing p with
  | nil => exact hp
  | cons x l ih => exact ih (hg p x hp)

/-- An optional next state. -/
structure PresO (a : State) (o : Option State) : Prop where
  get : ∀ t, o = some t → Pres a t

theorem presO_none {a : State} : PresO a none := ⟨by simp⟩
theorem presO_some {a t : State} (h : Pres a t) : PresO a (some t) := ⟨by rintro _ ⟨⟩; exact h⟩
theorem presO_of_eq {a t : State} {o : Option State} (e : o = .some t) (h : PresO a o) : Pres a t := h.get t e
theorem presO_of_some {a t : State} (h : PresO a (some t)) : Pres a t := h.get t rfl
theorem presO_getD {a s : State} {o : Option State} (h : PresO a o) (hs : Pres a s) : Pres a (o.getD s) := by
  cases o with
  | none => exact hs
  | some t => exact h.get t rfl

/-- The state that a computation leaves. -/
def resState {α : Type} : EStateM.Result FaultInfo State α → State
  | .ok _ s => s
  | .error _ s => s

/-- A computation that keeps what is kept. -/
structure PresM {α : Type} (a : State) (m : Cm α) : Prop where
  run : ∀ s, Pres a s → Pres a (resState (m s))

theorem pres_resState {α : Type} {a s : State} {m : Cm α} (hm : PresM a m) (hs : Pres a s) : Pres a (resState (m s)) := hm.run s hs
theorem presM_ok {α : Type} {a s t : State} {m : Cm α} {x : α} (e : m s = .ok x t) (hm : PresM a m) (hs : Pres a s) : Pres a t := by
  have h := hm.run s hs; rw [e] at h; exact h
theorem presM_error {α : Type} {a s t : State} {m : Cm α} {x : FaultInfo} (e : m s = .error x t) (hm : PresM a m) (hs : Pres a s) : Pres a t := by
  have h := hm.run s hs; rw [e] at h; exact h
theorem presM_pure {α : Type} {a : State} (x : α) : PresM a (pure x : Cm α) := ⟨fun _ h => h⟩
theorem presM_throw {α : Type} {a : State} (e : FaultInfo) : PresM a (throw e : Cm α) := ⟨fun _ h => h⟩
theorem presM_bind {α β : Type} {a : State} {m : Cm α} {k : α → Cm β} (hm : PresM a m) (hk : ∀ x, PresM a (k x)) : PresM a (m >>= k) := by
  constructor
  intro s hs
  have h1 := hm.run s hs
  show Pres a (resState (EStateM.bind m k s))
  unfold EStateM.bind
  cases e : m s with
  | ok x t => rw [e] at h1; exact (hk x).run t h1
  | error x t => rw [e] at h1; exact h1
theorem presM_map {α β : Type} {a : State} {m : Cm α} {f : α → β} (hm : PresM a m) : PresM a (f <$> m) := by
  constructor
  intro s hs
  have h1 := hm.run s hs
  show Pres a (resState (EStateM.map f m s))
  unfold EStateM.map
  cases e : m s with
  | ok x t => rw [e] at h1; exact h1
  | error x t => rw [e] at h1; exact h1
theorem presM_get {a : State} : PresM a (get : Cm State) := ⟨fun _ h => h⟩
theorem presM_get_bind {β : Type} {a : State} {k : State → Cm β} (hk : ∀ s, Pres a s → PresM a (k s)) : PresM a (get >>= k) :=
  ⟨fun s hs => (hk s hs).run s hs⟩
theorem presM_set {a t : State} (h : Pres a t) : PresM a (set t : Cm PUnit) := ⟨fun _ _ => h⟩
theorem presM_modify {a : State} {f : State → State} (hf : ∀ s, Pres a s → Pres a (f s)) : PresM a (modify f : Cm PUnit) :=
  ⟨fun s hs => hf s hs⟩
theorem presM_ite {α : Type} {a : State} {m n : Cm α} {c : Prop} {_ : Decidable c} (hm : PresM a m) (hn : PresM a n) :
    PresM a (if c then m else n) := by
  split <;> assumption

theorem presM_iota {α β γ : Type} {a : State} {x : α} {y : β} {k : α → β → Cm γ} (h : PresM a (k x y)) :
    PresM a (Prod.casesOn (motive := fun _ => Cm γ) (x, y) k) := h
theorem presM_prod {α β γ : Type} {a : State} {p : α × β} {k : α → β → Cm γ} (h : ∀ x y, p = (x, y) → PresM a (k x y)) :
    PresM a (Prod.casesOn (motive := fun _ => Cm γ) p k) := by cases p; exact h _ _ rfl
theorem presO_prod {α β : Type} {a : State} {p : α × β} {k : α → β → Option State} (h : ∀ x y, p = (x, y) → PresO a (k x y)) :
    PresO a (Prod.casesOn (motive := fun _ => Option State) p k) := by cases p; exact h _ _ rfl

theorem presM_fun {α : Type} {a : State} {m : State → EStateM.Result FaultInfo State α} (h : ∀ s, Pres a s → Pres a (resState (m s))) :
    PresM a (m : Cm α) := ⟨h⟩
theorem presM_foldlM {α β : Type} {a : State} {g : β → α → Cm β} {l : List α} {b : β} (hg : ∀ b x, PresM a (g b x)) :
    PresM a (l.foldlM g b) := by
  induction l generalizing b with
  | nil => exact presM_pure _
  | cons x l ih => exact presM_bind (hg b x) (fun b => ih)
theorem presO_bind {α : Type} {a : State} {o : Option α} {f : α → Option State} (h : ∀ x, o = some x → PresO a (f x)) : PresO a (o.bind f) := by
  cases o with
  | none => exact presO_none
  | some x => exact h x rfl

/-- The next state of an outcome, where there is one. -/
structure PresX (a : State) (o : Host.Outcome State Fault Refusal) : Prop where
  get : ∀ t, o = .next t → Pres a t

theorem presX_next {a t : State} (h : Pres a t) : PresX a (.next t) := ⟨by rintro _ ⟨⟩; exact h⟩
theorem presX_fault {a : State} (f : Fault) : PresX a (.fault f) := ⟨by simp⟩
theorem presX_refused {a : State} (f : Refusal) : PresX a (.refused f) := ⟨by simp⟩

theorem pres_mk_of {a s : State} {v0 v1 v2 v3 v4 v5 v6 v7 v8 v9 v10 v11 v12 v13 v14 v15 v16 v17 v18 v19 v20 v21 v22 v23 v24 v25 v26 v27 v28 v29 v30 v31 v32 v33 v34 v35 v36 v37 v38 v39 v40 v41 v42 v43 v44 v45 v46 v47 v48 v49 v50 v51 v52 v53 v54 v55 v56 v57 v58 v59 v60 v61 v62 v63 v64 v65 v66 v67 v68 v69 v70 v71 v72 v73 v74 v75 v76 v77 v78 v79 v80 v81 v82 v83} (h : Pres a s) (e0 : v2 = s.mem) (e1 : v3 = s.hostMem) (e2 : v37 = s.rngs) (e3 : v0 = s.pending) (e4 : v1 = s.part) :
    Pres a (State.mk v0 v1 v2 v3 v4 v5 v6 v7 v8 v9 v10 v11 v12 v13 v14 v15 v16 v17 v18 v19 v20 v21 v22 v23 v24 v25 v26 v27 v28 v29 v30 v31 v32 v33 v34 v35 v36 v37 v38 v39 v40 v41 v42 v43 v44 v45 v46 v47 v48 v49 v50 v51 v52 v53 v54 v55 v56 v57 v58 v59 v60 v61 v62 v63 v64 v65 v66 v67 v68 v69 v70 v71 v72 v73 v74 v75 v76 v77 v78 v79 v80 v81 v82 v83) := pres_of_eqs h e0 e1 e2 e3 e4

end Sys2Proof.Machine
end

