-- ==== Sys2Proof/Laws/Kept1.lean ====
section
/-!
SUPPORT. What the functions of the machine keep, takeFree to execDnsMm: one lemma a function, each over the lemmas of those it calls.
-/
namespace Sys2Proof.Machine
open Sys2Proof

theorem takeFree_pres {a : State} (x0) (h0 : Pres a x0) : PresP a (takeFree x0) := by
  unfold takeFree
  refine presP_mk ?_
  refine pres_mk_of ?_ rfl rfl rfl rfl rfl
  assumption

theorem xlateRoom_pres {a : State} (x0 x1) (h0 : Pres a x0) : Pres a (xlateRoom x0 x1) := by
  unfold xlateRoom
  extract_lets +onlyGivenNames y5
  clear_value y5
  refine pres_ite ?_ ?_
  · assumption
  · split
    refine pres_mk_of ?_ rfl rfl rfl rfl rfl
    refine pres_of_pair (by assumption) ?_
    apply takeFree_pres
    assumption

theorem addCnt_pres {a : State} (x0 x1 x2 x3 x4) (h0 : Pres a x0) : Pres a (addCnt x0 x1 x2 x3 x4) := by
  unfold addCnt
  dsimp only
  refine pres_mk_of ?_ rfl rfl rfl rfl rfl
  assumption

theorem bump_pres {a : State} (x0 x1 x2 x3) (h0 : Pres a x0) : Pres a (bump x0 x1 x2 x3) := by
  unfold bump
  dsimp only
  split
  · apply addCnt_pres
    apply addCnt_pres
    assumption
  · apply addCnt_pres
    assumption

theorem updSet_pres {a : State} (x0 x1 x2) (h0 : Pres a x0) : Pres a (updSet x0 x1 x2) := by
  unfold updSet
  refine pres_mk_of ?_ rfl rfl rfl rfl rfl
  assumption

theorem cacheWrite_pres {a : State} (x0 x1) (h0 : Pres a x0) : Pres a (cacheWrite x0 x1) := by
  unfold cacheWrite
  dsimp only
  split
  · apply updSet_pres
    assumption
  · assumption

theorem evict_pres {a : State} (x0 x1 x2) (h0 : Pres a x0) : Pres a (evict x0 x1 x2) := by
  unfold evict
  dsimp only
  refine pres_ite ?_ ?_
  · assumption
  · split
    · assumption
    · apply bump_pres
      apply updSet_pres
      assumption

theorem putLine_pres {a : State} (x0 x1 x2 x3) (h0 : Pres a x0) : Pres a (putLine x0 x1 x2 x3) := by
  unfold putLine
  extract_lets +onlyGivenNames y7
  (refine pres_absorb (a := a) y7 ?_ (fun _ => ?_); rotate_left; clear_value y7; rotate_right)
  · dsimp only [y7]
    refine pres_ite ?_ ?_
    · assumption
    · apply evict_pres
      assumption
  · extract_lets +onlyGivenNames y9
    clear_value y9
    refine pres_ite ?_ ?_
    · assumption
    · apply updSet_pres
      assumption

theorem cacheRead_pres {a : State} (x0 x1 x2) (h0 : Pres a x0) : Pres a (cacheRead x0 x1 x2) := by
  unfold cacheRead
  extract_lets +onlyGivenNames y6
  clear_value y6
  extract_lets +onlyGivenNames y7
  clear_value y7
  extract_lets +onlyGivenNames y8
  clear_value y8
  extract_lets +onlyGivenNames y9
  clear_value y9
  extract_lets +onlyGivenNames y10
  clear_value y10
  extract_lets +onlyGivenNames y11
  clear_value y11
  extract_lets +onlyGivenNames y12
  clear_value y12
  extract_lets +onlyGivenNames y13
  clear_value y13
  refine pres_ite ?_ ?_
  · apply bump_pres
    assumption
  · split
    · extract_lets +onlyGivenNames y16
      (refine pres_absorb (a := a) y16 ?_ (fun _ => ?_); rotate_left; clear_value y16; rotate_right)
      · dsimp only [y16]
        apply updSet_pres
        assumption
      · apply bump_pres
        assumption
    · extract_lets +onlyGivenNames y15
      (refine pres_absorb (a := a) y15 ?_ (fun _ => ?_); rotate_left; clear_value y15; rotate_right)
      · dsimp only [y15]
        apply bump_pres
        assumption
      · refine pres_ite ?_ ?_
        · apply putLine_pres
          assumption
        · assumption

theorem countTier_pres {a : State} (x0 x1 x2 x3 x4) (h0 : Pres a x0) : Pres a (countTier x0 x1 x2 x3 x4) := by
  unfold countTier
  extract_lets +onlyGivenNames y8
  clear_value y8
  refine pres_ite ?_ ?_
  · extract_lets +onlyGivenNames y9
    (refine pres_absorb (a := a) y9 ?_ (fun _ => ?_); rotate_left; clear_value y9; rotate_right)
    · dsimp only [y9]
      apply bump_pres
      assumption
    · refine pres_ite ?_ ?_
      · apply bump_pres
        assumption
      · assumption
  · refine pres_ite ?_ ?_
    · extract_lets +onlyGivenNames y9
      (refine pres_absorb (a := a) y9 ?_ (fun _ => ?_); rotate_left; clear_value y9; rotate_right)
      · dsimp only [y9]
        apply bump_pres
        assumption
      · refine pres_foldl ?_ ?_
        · assumption
        · intro _
          intro _
          intro _
          refine pres_ite ?_ ?_
          · apply cacheWrite_pres
            assumption
          · apply cacheRead_pres
            assumption
    · assumption

theorem carry_pres {a : State} (x0 x1 x2 x3 x4) (h0 : Pres a x0) : Pres a (carry x0 x1 x2 x3 x4) := by
  unfold carry
  refine pres_foldl ?_ ?_
  · assumption
  · intro _
    intro _
    intro _
    apply addCnt_pres
    apply addCnt_pres
    assumption

theorem carryAccess_pres {a : State} (x0 x1 x2 x3 x4 x5) (h0 : Pres a x0) : Pres a (carryAccess x0 x1 x2 x3 x4 x5) := by
  unfold carryAccess
  refine pres_ite ?_ ?_
  · assumption
  · apply addCnt_pres
    refine pres_ite ?_ ?_
    · apply carry_pres
      assumption
    · apply carry_pres
      assumption

theorem countMem_pres {a : State} (x0 x1 x2 x3 x4 x5) (h0 : Pres a x0) : Pres a (countMem x0 x1 x2 x3 x4 x5) := by
  unfold countMem
  apply countTier_pres
  apply carryAccess_pres
  assumption

theorem xlateEntry_pres {a : State} (x0 x1) (h0 : Pres a x0) : PresP a (xlateEntry x0 x1) := by
  unfold xlateEntry
  extract_lets +onlyGivenNames y5
  clear_value y5
  extract_lets +onlyGivenNames y6
  clear_value y6
  split
  · refine presP_mk ?_
    assumption
  · extract_lets +onlyGivenNames y11
    clear_value y11
    extract_lets +onlyGivenNames y12
    clear_value y12
    extract_lets +onlyGivenNames y13
    (refine pres_absorb (a := a) y13 ?_ (fun _ => ?_); rotate_left; clear_value y13; rotate_right)
    · dsimp only [y13]
      apply xlateRoom_pres
      apply countMem_pres
      apply bump_pres
      assumption
    · refine presP_mk ?_
      refine pres_mk_of ?_ rfl rfl rfl rfl rfl
      assumption

theorem hostXlate_pres {a : State} (x0 x1 x2) (h0 : Pres a x0) : PresP a (hostXlate x0 x1 x2) := by
  unfold hostXlate
  split
  dsimp only
  refine presP_ite ?_ ?_
  · refine presP_mk ?_
    apply bump_pres
    refine pres_of_pair (by assumption) ?_
    apply xlateEntry_pres
    assumption
  · refine presP_ite ?_ ?_
    · refine presP_mk ?_
      apply bump_pres
      refine pres_of_pair (by assumption) ?_
      apply xlateEntry_pres
      assumption
    · refine presP_mk ?_
      refine pres_of_pair (by assumption) ?_
      apply xlateEntry_pres
      assumption

theorem hostParts_pres {a : State} (x0 x1 x2 x3 x4) (h0 : Pres a x0) : PresP a (hostParts x0 x1 x2 x3 x4) := by
  induction x3 generalizing x0 x1 x2 x4 with
  | zero =>
    unfold hostParts
    refine presP_mk ?_
    assumption
  | succ x ih =>
    unfold hostParts
    refine presP_ite ?_ ?_
    · refine presP_mk ?_
      assumption
    · extract_lets +onlyGivenNames y13
      clear_value y13
      split
      · refine presP_mk ?_
        refine pres_of_pair (by assumption) ?_
        apply hostXlate_pres
        assumption
      · split
        · refine presP_mk ?_
          refine pres_of_pair (by assumption) ?_
          apply ih
          refine pres_of_pair (by assumption) ?_
          apply hostXlate_pres
          assumption
        · apply ih
          refine pres_of_pair (by assumption) ?_
          apply hostXlate_pres
          assumption

theorem rdHost_pres {a : State} (x0 x1 x2) (h0 : Pres a x0) : PresP a (rdHost x0 x1 x2) := by
  unfold rdHost
  split
  · refine presP_mk ?_
    refine pres_of_pair (by assumption) ?_
    apply hostParts_pres
    assumption
  · refine presP_mk ?_
    refine pres_of_pair (by assumption) ?_
    apply hostParts_pres
    assumption

theorem updPage_pres {a : State} (x0 x1 x2) (h0 : Pres a x0) : Pres a (updPage x0 x1 x2) := by
  unfold updPage
  refine pres_mk_of ?_ rfl rfl rfl rfl rfl
  assumption

theorem emit_pres {a : State} (x0 x1) (h0 : Pres a x0) : Pres a (emit x0 x1) := by
  unfold emit
  refine pres_mk_of ?_ rfl rfl rfl rfl rfl
  assumption

theorem interrupt_pres {a : State} (x0 x1 x2 x3) (h0 : Pres a x0) : Pres a (interrupt x0 x1 x2 x3) := by
  unfold interrupt
  dsimp only
  refine pres_ite ?_ ?_
  · refine pres_mk_of ?_ rfl rfl rfl rfl rfl
    assumption
  · apply emit_pres
    apply bump_pres
    assumption

theorem raisePage_pres {a : State} (x0 x1 x2) (h0 : Pres a x0) : Pres a (raisePage x0 x1 x2) := by
  unfold raisePage
  dsimp only
  refine pres_ite ?_ ?_
  · apply interrupt_pres
    apply updPage_pres
    assumption
  · apply updPage_pres
    assumption

theorem raiseErr_pres {a : State} (x0 x1 x2) (h0 : Pres a x0) : Pres a (raiseErr x0 x1 x2) := by
  unfold raiseErr
  apply raisePage_pres
  assumption

theorem injTaken_pres {a : State} (x0 x1) (h0 : Pres a x0) : Pres a (injTaken x0 x1) := by
  unfold injTaken
  apply raiseErr_pres
  apply updPage_pres
  assumption

theorem updChan_pres {a : State} (x0 x1 x2) (h0 : Pres a x0) : Pres a (updChan x0 x1 x2) := by
  unfold updChan
  refine pres_mk_of ?_ rfl rfl rfl rfl rfl
  assumption

theorem noteCe_pres {a : State} (x0 x1) (h0 : Pres a x0) : Pres a (noteCe x0 x1) := by
  unfold noteCe
  dsimp only
  refine pres_ite ?_ ?_
  · apply raiseErr_pres
    apply bump_pres
    refine pres_ite ?_ ?_
    · apply updChan_pres
      assumption
    · assumption
  · refine pres_ite ?_ ?_
    · apply raiseErr_pres
      apply bump_pres
      refine pres_ite ?_ ?_
      · apply updChan_pres
        assumption
      · assumption
    · apply raiseErr_pres
      refine pres_ite ?_ ?_
      · apply updChan_pres
        assumption
      · assumption

theorem latchErr_pres {a : State} (x0 x1 x2 x3 x4) (h0 : Pres a x0) : Pres a (latchErr x0 x1 x2 x3 x4) := by
  unfold latchErr
  refine pres_ite ?_ ?_
  · assumption
  · dsimp only
    refine pres_mk_of ?_ rfl rfl rfl rfl rfl
    assumption

theorem noteUe_pres {a : State} (x0 x1 x2 x3) (h0 : Pres a x0) : Pres a (noteUe x0 x1 x2 x3) := by
  unfold noteUe
  refine pres_ite ?_ ?_
  · extract_lets +onlyGivenNames y7
    clear_value y7
    apply latchErr_pres
    apply raiseErr_pres
    apply bump_pres
    assumption
  · refine pres_ite ?_ ?_
    · extract_lets +onlyGivenNames y7
      clear_value y7
      apply latchErr_pres
      apply raiseErr_pres
      apply bump_pres
      assumption
    · apply raiseErr_pres
      assumption

theorem setPoison_pres {a : State} (x0 x1 x2) (h0 : Pres a x0) : Pres a (setPoison x0 x1 x2) := by
  unfold setPoison
  refine pres_mk_of ?_ rfl rfl rfl rfl rfl
  assumption

theorem updGate_pres {a : State} (x0 x1) (h0 : Pres a x0) : Pres a (updGate x0 x1) := by
  unfold updGate
  refine pres_mk_of ?_ rfl rfl rfl rfl rfl
  assumption

theorem enqueue_pres {a : State} (x0 x1 x2 x3 x4) (h0 : Pres a x0) : Pres a (enqueue x0 x1 x2 x3 x4) := by
  unfold enqueue
  dsimp only
  refine pres_mk_of ?_ rfl rfl rfl rfl rfl
  refine pres_ite ?_ ?_
  · apply bump_pres
    assumption
  · assumption

theorem sendMsg_pres {a : State} (x0 x1 x2) (h0 : Pres a x0) : PresP a (sendMsg x0 x1 x2) := by
  unfold sendMsg
  extract_lets +onlyGivenNames y6
  clear_value y6
  split
  · refine presP_mk ?_
    assumption
  · split
    · refine presP_mk ?_
      apply bump_pres
      assumption
    · refine presP_ite ?_ ?_
      · refine presP_mk ?_
        apply bump_pres
        assumption
      · refine presP_mk ?_
        apply enqueue_pres
        apply carry_pres
        assumption

theorem overEthernet_pres {a : State} (x0 x1) (h0 : Pres a x0) : Pres a (overEthernet x0 x1) := by
  unfold overEthernet
  split
  · dsimp only
    apply emit_pres
    apply bump_pres
    apply updGate_pres
    assumption
  · assumption

theorem mgrSend_pres {a : State} (x0 x1 x2 x3 x4) (h0 : Pres a x0) : PresP a (mgrSend x0 x1 x2 x3 x4) := by
  unfold mgrSend
  dsimp only
  refine presP_ite ?_ ?_
  · refine presP_mk ?_
    apply updGate_pres
    apply bump_pres
    apply updGate_pres
    assumption
  · split
    · refine presP_mk ?_
      refine pres_of_pair (by assumption) ?_
      apply sendMsg_pres
      apply bump_pres
      apply updGate_pres
      assumption
    · refine presP_mk ?_
      apply overEthernet_pres
      refine pres_of_pair (by assumption) ?_
      apply sendMsg_pres
      apply bump_pres
      apply updGate_pres
      assumption

theorem reportLost_pres {a : State} (x0 x1) (h0 : Pres a x0) : Pres a (reportLost x0 x1) := by
  unfold reportLost
  refine pres_ite ?_ ?_
  · refine presP_fst ?_
    apply mgrSend_pres
    assumption
  · assumption

theorem raiseEvt_pres {a : State} (x0 x1 x2) (h0 : Pres a x0) : Pres a (raiseEvt x0 x1 x2) := by
  unfold raiseEvt
  apply raisePage_pres
  assumption

theorem checkFloor_pres {a : State} (x0) (h0 : Pres a x0) : Pres a (checkFloor x0) := by
  unfold checkFloor
  refine pres_ite ?_ ?_
  · apply reportLost_pres
    apply raiseEvt_pres
    apply updGate_pres
    assumption
  · assumption

theorem addRecord_pres {a : State} (x0 x1 x2 x3 x4) (h0 : Pres a x0) : Pres a (addRecord x0 x1 x2 x3 x4) := by
  unfold addRecord
  split
  dsimp only
  refine pres_ite ?_ ?_
  · apply checkFloor_pres
    refine pres_of_pair (by assumption) ?_
    apply takeFree_pres
    assumption
  · apply checkFloor_pres
    apply updGate_pres
    apply bump_pres
    refine pres_of_pair (by assumption) ?_
    apply takeFree_pres
    assumption

theorem updStep_pres {a : State} (x0 x1 x2) (h0 : Pres a x0) : Pres a (updStep x0 x1 x2) := by
  unfold updStep
  refine pres_mk_of ?_ rfl rfl rfl rfl rfl
  assumption

theorem taint_pres {a : State} (x0 x1) (h0 : Pres a x0) : Pres a (taint x0 x1) := by
  unfold taint
  split
  · refine pres_ite ?_ ?_
    · assumption
    · refine presP_fst ?_
      apply mgrSend_pres
      apply updStep_pres
      assumption
  · assumption

theorem loseRows_pres {a : State} (x0 x1) (h0 : Pres a x0) : Pres a (loseRows x0 x1) := by
  unfold loseRows
  refine pres_ite ?_ ?_
  · apply reportLost_pres
    refine pres_foldl ?_ ?_
    · assumption
    · intro _
      intro _
      intro _
      apply taint_pres
      assumption
  · assumption

theorem fenceRest_pres {a : State} (x0 x1 x2) (h2 : PresP a x2) : Pres a (fenceRest x0 x1 x2) := by
  unfold fenceRest
  extract_lets +onlyGivenNames y6
  clear_value y6
  extract_lets +onlyGivenNames y7
  (refine pres_absorb (a := a) y7 ?_ (fun _ => ?_); rotate_left; clear_value y7; rotate_right)
  · dsimp only [y7]
    apply updChan_pres
    refine presP_fst ?_
    assumption
  · refine pres_ite ?_ ?_
    · assumption
    · apply loseRows_pres
      apply updGate_pres
      assumption

theorem takeFrames_pres {a : State} (x0 x1 x2 x3) (h0 : Pres a x0) : PresP a (takeFrames x0 x1 x2 x3) := by
  induction x3 generalizing x0 x1 x2 with
  | nil =>
    unfold takeFrames
    refine presP_mk ?_
    assumption
  | cons x xs ih =>
    unfold takeFrames
    refine presP_ite ?_ ?_
    · apply ih
      assumption
    · extract_lets +onlyGivenNames y13
      clear_value y13
      extract_lets +onlyGivenNames y14
      (refine presP_absorb (a := a) y14 ?_ (fun _ => ?_); rotate_left; clear_value y14; rotate_right)
      · dsimp only [y14]
        apply ih
        refine pres_mk_of ?_ rfl rfl rfl rfl rfl
        assumption
      · refine presP_mk ?_
        refine presP_fst ?_
        assumption

theorem takeWhole_pres {a : State} (x0 x1) (h0 : Pres a x0) : Pres a (takeWhole x0 x1) := by
  unfold takeWhole
  apply fenceRest_pres
  apply takeFrames_pres
  assumption

theorem retireFar_pres {a : State} (x0 x1 x2 x3 x4) (h0 : Pres a x0) : Pres a (retireFar x0 x1 x2 x3 x4) := by
  unfold retireFar
  extract_lets +onlyGivenNames y8
  clear_value y8
  extract_lets +onlyGivenNames y9
  clear_value y9
  extract_lets +onlyGivenNames y10
  clear_value y10
  dsimp only
  refine pres_ite ?_ ?_
  · assumption
  · split
    · refine pres_ite ?_ ?_
      · apply addRecord_pres
        apply loseRows_pres
        apply updGate_pres
        apply updChan_pres
        assumption
      · refine pres_ite ?_ ?_
        · apply updGate_pres
          assumption
        · apply updChan_pres
          refine pres_mk_of ?_ rfl rfl rfl rfl rfl
          assumption
    · refine pres_ite ?_ ?_
      · apply updGate_pres
        assumption
      · apply updChan_pres
        apply takeWhole_pres
        assumption

theorem retireAt_pres {a : State} (x0 x1 x2) (h0 : Pres a x0) : Pres a (retireAt x0 x1 x2) := by
  unfold retireAt
  split
  · apply retireFar_pres
    assumption
  · assumption

theorem poisonAtom_pres {a : State} (x0 x1) (h0 : Pres a x0) : Pres a (poisonAtom x0 x1) := by
  unfold poisonAtom
  extract_lets +onlyGivenNames y5
  clear_value y5
  extract_lets +onlyGivenNames y6
  (refine pres_absorb (a := a) y6 ?_ (fun _ => ?_); rotate_left; clear_value y6; rotate_right)
  · dsimp only [y6]
    apply setPoison_pres
    assumption
  · refine pres_ite ?_ ?_
    · apply retireAt_pres
      assumption
    · assumption

theorem dropSector_pres {a : State} (x0 x1) (h0 : Pres a x0) : Pres a (dropSector x0 x1) := by
  unfold dropSector
  extract_lets +onlyGivenNames y5
  clear_value y5
  extract_lets +onlyGivenNames y6
  clear_value y6
  apply updSet_pres
  assumption

theorem uncorrectable_pres {a : State} (x0 x1) (h0 : Pres a x0) : PresP a (uncorrectable x0 x1) := by
  unfold uncorrectable
  split
  · refine presP_ite ?_ ?_
    · refine presP_mk ?_
      apply noteUe_pres
      apply poisonAtom_pres
      apply dropSector_pres
      assumption
    · refine presP_mk ?_
      apply dropSector_pres
      assumption
  · refine presP_mk ?_
    apply noteUe_pres
    apply poisonAtom_pres
    assumption

theorem strike_pres {a : State} (x0 x1 x2 x3) (h0 : Pres a x0) : PresP a (strike x0 x1 x2 x3) := by
  unfold strike
  extract_lets +onlyGivenNames y7
  clear_value y7
  split
  · refine presP_mk ?_
    assumption
  · extract_lets +onlyGivenNames y13
    clear_value y13
    split
    · refine presP_mk ?_
      apply injTaken_pres
      apply noteCe_pres
      assumption
    · extract_lets +onlyGivenNames y18
      (refine presP_absorb (a := a) y18 ?_ (fun _ => ?_); rotate_left; clear_value y18; rotate_right)
      · dsimp only [y18]
        refine presP_ite ?_ ?_
        · refine presP_mk ?_
          apply noteUe_pres
          apply poisonAtom_pres
          assumption
        · apply uncorrectable_pres
          assumption
      · refine presP_mk ?_
        apply injTaken_pres
        refine pres_ite ?_ ?_
        · apply bump_pres
          refine presP_fst ?_
          assumption
        · refine presP_fst ?_
          assumption
    · refine presP_mk ?_
      apply injTaken_pres
      apply retireAt_pres
      assumption

theorem notePoison_pres {a : State} (x0 x1) (h0 : Pres a x0) : Pres a (notePoison x0 x1) := by
  unfold notePoison
  refine pres_ite ?_ ?_
  · apply latchErr_pres
    apply bump_pres
    assumption
  · refine pres_ite ?_ ?_
    · apply latchErr_pres
      apply bump_pres
      assumption
    · assumption

theorem meets_pres {a : State} (x0 x1 x2 x3) (h0 : Pres a x0) : PresP a (meets x0 x1 x2 x3) := by
  unfold meets
  split
  refine presP_ite ?_ ?_
  · refine presP_mk ?_
    refine pres_of_pair (by assumption) ?_
    apply strike_pres
    assumption
  · extract_lets +onlyGivenNames y13
    clear_value y13
    refine presP_mk ?_
    refine pres_foldl ?_ ?_
    · refine pres_of_pair (by assumption) ?_
      apply strike_pres
      assumption
    · intro _
      intro _
      intro _
      apply notePoison_pres
      assumption

theorem fetchFault_pres {a : State} (x0 x1) (h0 : Pres a x0) : PresP a (fetchFault x0 x1) := by
  unfold fetchFault
  refine presP_ite ?_ ?_
  · split
    · refine presP_mk ?_
      refine pres_of_pair (by assumption) ?_
      apply rdHost_pres
      assumption
    · refine presP_mk ?_
      refine pres_of_pair (by assumption) ?_
      apply rdHost_pres
      assumption
  · split
    · refine presP_mk ?_
      refine pres_of_pair (by assumption) ?_
      apply meets_pres
      assumption
    · refine presP_mk ?_
      refine pres_of_pair (by assumption) ?_
      apply meets_pres
      assumption

theorem wrHostB_pres {a : State} (x0 x1 x2 x3) (h0 : Pres a x0) : Pres a (wrHostB x0 x1 x2 x3) :=
  ⟨h0.mem, fun k => Tab.wf_put (h0.host k), h0.pool, h0.pending, h0.part⟩

theorem wrB_pres {a : State} (x0 x1 x2) (h0 : Pres a x0) : Pres a (wrB x0 x1 x2) :=
  ⟨fun k => Tab.wf_put (h0.mem k), h0.host, h0.pool, h0.pending, h0.part⟩

theorem scramble_pres {a : State} (x0 x1 x2) (h0 : Pres a x0) : Pres a (scramble x0 x1 x2) := by
  induction x2 generalizing x0 x1 with
  | zero =>
    unfold scramble
    assumption
  | succ x ih =>
    unfold scramble
    split
    apply ih
    refine pres_ite ?_ ?_
    · apply wrHostB_pres
      refine pres_of_pair (by assumption) ?_
      apply takeFree_pres
      assumption
    · refine pres_ite ?_ ?_
      · apply wrB_pres
        refine pres_of_pair (by assumption) ?_
        apply takeFree_pres
        assumption
      · refine pres_of_pair (by assumption) ?_
        apply takeFree_pres
        assumption

theorem scrambleAll_pres {a : State} (x0 x1) (h0 : Pres a x0) : Pres a (scrambleAll x0 x1) := by
  unfold scrambleAll
  refine pres_foldl ?_ ?_
  · assumption
  · intro _
    intro _
    intro _
    apply scramble_pres
    assumption

theorem spoilTiles_pres {a : State} (x0 x1 x2 x3) (h0 : Pres a x0) : Pres a (spoilTiles x0 x1 x2 x3) := by
  unfold spoilTiles
  refine pres_ite ?_ ?_
  · assumption
  · extract_lets +onlyGivenNames y7
    clear_value y7
    refine pres_mk_of ?_ rfl rfl rfl rfl rfl
    assumption

theorem sendHeld_pres {a : State} (x0 x1) (h0 : Pres a x0) : Pres a (sendHeld x0 x1) := by
  unfold sendHeld
  refine pres_ite ?_ ?_
  · assumption
  · dsimp only
    split
    · refine pres_mk_of ?_ rfl rfl rfl rfl rfl
      refine pres_of_pair (by assumption) ?_
      apply sendMsg_pres
      assumption
    · refine pres_mk_of ?_ rfl rfl rfl rfl rfl
      refine pres_of_pair (by assumption) ?_
      apply sendMsg_pres
      assumption

theorem pumpHeld_pres {a : State} (x0) (h0 : Pres a x0) : Pres a (pumpHeld x0) := by
  unfold pumpHeld
  refine pres_foldl ?_ ?_
  · assumption
  · intro _
    intro _
    intro _
    apply sendHeld_pres
    assumption

theorem dropWork_pres {a : State} (x0 x1) (h0 : Pres a x0) : Pres a (dropWork x0 x1) := by
  unfold dropWork
  extract_lets +onlyGivenNames y5
  clear_value y5
  apply pumpHeld_pres
  refine pres_mk_of ?_ rfl rfl rfl rfl rfl
  assumption

theorem dropThreads_pres {a : State} (x0 x1) (h0 : Pres a x0) : Pres a (dropThreads x0 x1) := by
  unfold dropThreads
  refine pres_mk_of ?_ rfl rfl rfl rfl rfl
  assumption

theorem spoilSlots_pres {a : State} (x0 x1) (h0 : Pres a x0) : Pres a (spoilSlots x0 x1) := by
  unfold spoilSlots
  refine pres_foldl ?_ ?_
  · assumption
  · intro _
    intro _
    intro _
    refine pres_ite ?_ ?_
    · refine pres_mk_of ?_ rfl rfl rfl rfl rfl
      assumption
    · assumption

theorem aflowLeave_pres {a : State} (x0 x1 x2) (h0 : Pres a x0) : Pres a (aflowLeave x0 x1 x2) := by
  unfold aflowLeave
  refine pres_ite ?_ ?_
  · refine pres_mk_of ?_ rfl rfl rfl rfl rfl
    assumption
  · assumption

theorem flowRelease_pres {a : State} (x0 x1 x2) (h0 : Pres a x0) : Pres a (flowRelease x0 x1 x2) := by
  unfold flowRelease
  split
  · assumption
  · dsimp only
    refine pres_mk_of ?_ rfl rfl rfl rfl rfl
    assumption

theorem leaveFlows_pres {a : State} (x0 x1 x2) (h0 : Pres a x0) : Pres a (leaveFlows x0 x1 x2) := by
  unfold leaveFlows
  dsimp only
  refine pres_ite ?_ ?_
  · apply flowRelease_pres
    apply aflowLeave_pres
    assumption
  · apply aflowLeave_pres
    assumption

theorem clearPoison_pres {a : State} (x0 x1 x2) (h0 : Pres a x0) : Pres a (clearPoison x0 x1 x2) := by
  unfold clearPoison
  refine pres_ite ?_ ?_
  · refine pres_foldl ?_ ?_
    · assumption
    · intro _
      intro _
      intro _
      apply setPoison_pres
      assumption
  · refine pres_mk_of ?_ rfl rfl rfl rfl rfl
    assumption

theorem wrBytes_pres {a : State} (x0 x1 x2) (h0 : Pres a x0) : Pres a (wrBytes x0 x1 x2) := by
  induction x2 generalizing x0 x1 with
  | nil =>
    unfold wrBytes
    assumption
  | cons x xs ih =>
    unfold wrBytes
    apply ih
    apply wrB_pres
    assumption

theorem wrBus_pres {a : State} (x0 x1 x2 x3) (h0 : Pres a x0) : Pres a (wrBus x0 x1 x2 x3) := by
  induction x3 generalizing x0 x1 x2 with
  | nil =>
    unfold wrBus
    assumption
  | cons x xs ih =>
    unfold wrBus
    apply ih
    apply wrHostB_pres
    assumption

theorem wrParts_pres {a : State} (x0 x1 x2) (h0 : Pres a x0) : Pres a (wrParts x0 x1 x2) := by
  induction x1 generalizing x0 x2 with
  | nil =>
    unfold wrParts
    assumption
  | cons x xs ih =>
    unfold wrParts
    apply ih
    apply wrBus_pres
    assumption

theorem wrHost_pres {a : State} (x0 x1 x2) (h0 : Pres a x0) : PresP a (wrHost x0 x1 x2) := by
  unfold wrHost
  split
  · refine presP_mk ?_
    refine pres_of_pair (by assumption) ?_
    apply hostParts_pres
    assumption
  · refine presP_mk ?_
    apply wrParts_pres
    refine pres_of_pair (by assumption) ?_
    apply hostParts_pres
    assumption

theorem writeRec_pres {a : State} (x0 x1 x2) (h0 : Pres a x0) : PresP a (writeRec x0 x1 x2) := by
  unfold writeRec
  extract_lets +onlyGivenNames y6
  clear_value y6
  refine presP_ite ?_ ?_
  · refine presP_mk ?_
    assumption
  · extract_lets +onlyGivenNames y7
    clear_value y7
    extract_lets +onlyGivenNames y8
    clear_value y8
    dsimp only
    refine presP_ite ?_ ?_
    · refine presP_ite ?_ ?_
      · refine presP_mk ?_
        assumption
      · refine presP_mk ?_
        apply bump_pres
        refine pres_mk_of ?_ rfl rfl rfl rfl rfl
        apply clearPoison_pres
        apply wrBytes_pres
        apply countMem_pres
        assumption
    · refine presP_ite ?_ ?_
      · refine presP_mk ?_
        assumption
      · split
        · refine presP_mk ?_
          apply bump_pres
          apply bump_pres
          refine pres_mk_of ?_ rfl rfl rfl rfl rfl
          refine pres_of_pair (by assumption) ?_
          apply wrHost_pres
          assumption
        · refine presP_mk ?_
          apply raiseEvt_pres
          refine pres_mk_of ?_ rfl rfl rfl rfl rfl
          refine pres_of_pair (by assumption) ?_
          apply wrHost_pres
          assumption

theorem cqSignal_pres {a : State} (x0 x1 x2) (h0 : Pres a x0) : Pres a (cqSignal x0 x1 x2) := by
  unfold cqSignal
  dsimp only
  refine pres_ite ?_ ?_
  · apply interrupt_pres
    refine pres_mk_of ?_ rfl rfl rfl rfl rfl
    assumption
  · assumption

theorem postRec_pres {a : State} (x0 x1 x2) (h0 : Pres a x0) : Pres a (postRec x0 x1 x2) := by
  unfold postRec
  dsimp only
  refine pres_ite ?_ ?_
  · refine pres_mk_of ?_ rfl rfl rfl rfl rfl
    apply bump_pres
    apply raiseEvt_pres
    assumption
  · refine pres_ite ?_ ?_
    · refine pres_mk_of ?_ rfl rfl rfl rfl rfl
      assumption
    · split
      · apply cqSignal_pres
        refine pres_of_pair (by assumption) ?_
        apply writeRec_pres
        assumption
      · refine pres_mk_of ?_ rfl rfl rfl rfl rfl
        refine pres_of_pair (by assumption) ?_
        apply writeRec_pres
        assumption

theorem postFor_pres {a : State} (x0 x1 x2) (h0 : Pres a x0) : Pres a (postFor x0 x1 x2) := by
  unfold postFor
  split
  · assumption
  · apply postRec_pres
    assumption

theorem updSlot_pres {a : State} (x0 x1 x2) (h0 : Pres a x0) : Pres a (updSlot x0 x1 x2) := by
  unfold updSlot
  refine pres_mk_of ?_ rfl rfl rfl rfl rfl
  assumption

theorem freeSlot_pres {a : State} (x0 x1) (h0 : Pres a x0) : Pres a (freeSlot x0 x1) := by
  unfold freeSlot
  apply updSlot_pres
  refine pres_mk_of ?_ rfl rfl rfl rfl rfl
  assumption

theorem faultTask_pres {a : State} (x0 x1 x2 x3) (h0 : Pres a x0) : Pres a (faultTask x0 x1 x2 x3) := by
  unfold faultTask
  extract_lets +onlyGivenNames y7
  clear_value y7
  extract_lets +onlyGivenNames y8
  (refine pres_absorb (a := a) y8 ?_ (fun _ => ?_); rotate_left; clear_value y8; rotate_right)
  · dsimp only [y8]
    apply scrambleAll_pres
    assumption
  · extract_lets +onlyGivenNames y10
    (refine pres_absorb (a := a) y10 ?_ (fun _ => ?_); rotate_left; clear_value y10; rotate_right)
    · dsimp only [y10]
      refine pres_ite ?_ ?_
      · apply spoilTiles_pres
        assumption
      · assumption
    · extract_lets +onlyGivenNames y12
      (refine pres_absorb (a := a) y12 ?_ (fun _ => ?_); rotate_left; clear_value y12; rotate_right)
      · dsimp only [y12]
        apply dropWork_pres
        apply dropThreads_pres
        apply spoilSlots_pres
        assumption
      · extract_lets +onlyGivenNames y14
        (refine pres_absorb (a := a) y14 ?_ (fun _ => ?_); rotate_left; clear_value y14; rotate_right)
        · dsimp only [y14]
          apply leaveFlows_pres
          assumption
        · extract_lets +onlyGivenNames y16
          (refine pres_absorb (a := a) y16 ?_ (fun _ => ?_); rotate_left; clear_value y16; rotate_right)
          · dsimp only [y16]
            refine pres_mk_of ?_ rfl rfl rfl rfl rfl
            assumption
          · extract_lets +onlyGivenNames y18
            (refine pres_absorb (a := a) y18 ?_ (fun _ => ?_); rotate_left; clear_value y18; rotate_right)
            · dsimp only [y18]
              refine pres_foldl ?_ ?_
              · assumption
              · intro _
                intro _
                intro _
                apply taint_pres
                assumption
            · extract_lets +onlyGivenNames y20
              (refine pres_absorb (a := a) y20 ?_ (fun _ => ?_); rotate_left; clear_value y20; rotate_right)
              · dsimp only [y20]
                apply postFor_pres
                assumption
              · extract_lets +onlyGivenNames y22
                (refine pres_absorb (a := a) y22 ?_ (fun _ => ?_); rotate_left; clear_value y22; rotate_right)
                · dsimp only [y22]
                  apply updSlot_pres
                  assumption
                · refine pres_ite ?_ ?_
                  · apply freeSlot_pres
                    assumption
                  · assumption

theorem dropOp_pres {a : State} (x0 x1) (h0 : Pres a x0) : Pres a (dropOp x0 x1) := by
  unfold dropOp
  refine pres_mk_of ?_ rfl rfl rfl rfl rfl
  assumption

theorem carryFenced_pres {a : State} (x0 x1 x2) (h0 : Pres a x0) : Pres a (carryFenced x0 x1 x2) := by
  unfold carryFenced
  refine pres_ite ?_ ?_
  · assumption
  · apply addCnt_pres
    assumption

theorem noteFenced_pres {a : State} (x0 x1 x2) (h0 : Pres a x0) : Pres a (noteFenced x0 x1 x2) := by
  unfold noteFenced
  extract_lets +onlyGivenNames y6
  (refine pres_absorb (a := a) y6 ?_ (fun _ => ?_); rotate_left; clear_value y6; rotate_right)
  · dsimp only [y6]
    apply carryFenced_pres
    assumption
  · refine pres_ite ?_ ?_
    · apply bump_pres
      assumption
    · refine pres_ite ?_ ?_
      · apply bump_pres
        assumption
      · refine pres_ite ?_ ?_
        · apply bump_pres
          assumption
        · assumption

theorem updOp_pres {a : State} (x0 x1 x2) (h0 : Pres a x0) : Pres a (updOp x0 x1 x2) := by
  unfold updOp
  split
  · refine pres_mk_of ?_ rfl rfl rfl rfl rfl
    assumption
  · assumption

theorem updThr_pres {a : State} (x0 x1 x2) (h0 : Pres a x0) : Pres a (updThr x0 x1 x2) := by
  unfold updThr
  refine pres_mk_of ?_ rfl rfl rfl rfl rfl
  assumption

theorem retire_pres {a : State} (x0 x1 x2 x3 x4 x5) (h0 : Pres a x0) : Pres a (retire x0 x1 x2 x3 x4 x5) := by
  unfold retire
  extract_lets +onlyGivenNames y9
  (refine pres_absorb (a := a) y9 ?_ (fun _ => ?_); rotate_left; clear_value y9; rotate_right)
  · dsimp only [y9]
    apply bump_pres
    assumption
  · rename_i r11_0
    extract_lets +onlyGivenNames y11
    extract_lets +onlyGivenNames y12
    clear_value y12
    extract_lets +onlyGivenNames y13
    clear_value y13
    extract_lets +onlyGivenNames y14
    (cases x5)
    · dsimp only
      dsimp only [y11]
      apply updThr_pres
      assumption
    · rename_i r15_0
      dsimp only
      dsimp only [y14]
      dsimp only [y11]
      apply updThr_pres
      refine pres_ite ?_ ?_
      · apply updThr_pres
        refine pres_mk_of ?_ rfl rfl rfl rfl rfl
        assumption
      · refine pres_mk_of ?_ rfl rfl rfl rfl rfl
        assumption
    · rename_i r15_0
      dsimp only
      dsimp only [y14]
      dsimp only [y11]
      apply updThr_pres
      refine pres_ite ?_ ?_
      · apply updThr_pres
        refine pres_mk_of ?_ rfl rfl rfl rfl rfl
        assumption
      · refine pres_mk_of ?_ rfl rfl rfl rfl rfl
        assumption
    · rename_i r15_0
      dsimp only
      dsimp only [y14]
      dsimp only [y11]
      apply updThr_pres
      refine pres_ite ?_ ?_
      · apply updThr_pres
        refine pres_mk_of ?_ rfl rfl rfl rfl rfl
        assumption
      · refine pres_mk_of ?_ rfl rfl rfl rfl rfl
        assumption
    · rename_i r15_0
      dsimp only
      dsimp only [y14]
      dsimp only [y11]
      apply updThr_pres
      refine pres_ite ?_ ?_
      · apply updThr_pres
        refine pres_mk_of ?_ rfl rfl rfl rfl rfl
        assumption
      · refine pres_mk_of ?_ rfl rfl rfl rfl rfl
        assumption

theorem fencedIssue_pres {a : State} (x0 x1 x2 x3 x4 x5) (h0 : Pres a x0) (h1 : Pres a x1) : Pres a (fencedIssue x0 x1 x2 x3 x4 x5) := by
  unfold fencedIssue
  refine pres_ite ?_ ?_
  · apply faultTask_pres
    apply dropOp_pres
    apply noteFenced_pres
    assumption
  · apply updOp_pres
    apply retire_pres
    apply noteFenced_pres
    assumption

theorem noteOuts_pres {a : State} (x0 x1 x2 x3) (h0 : Pres a x0) (h1 : Pres a x1) : Pres a (noteOuts x0 x1 x2 x3) := by
  unfold noteOuts
  extract_lets +onlyGivenNames y8
  clear_value y8
  apply updOp_pres
  assumption

theorem addReq_pres {a : State} (x0 x1) (h0 : Pres a x0) : PresP a (addReq x0 x1) := by
  unfold addReq
  refine presP_mk ?_
  refine pres_mk_of ?_ rfl rfl rfl rfl rfl
  assumption

theorem sendEngine_pres {a : State} (x0 x1) (h0 : Pres a x0) : PresP a (sendEngine x0 x1) := by
  unfold sendEngine
  refine presP_ite ?_ ?_
  · refine presP_mk ?_
    refine presP_fst ?_
    apply addReq_pres
    assumption
  · split
    split
    · refine presP_mk ?_
      refine pres_of_pair (by assumption) ?_
      apply sendMsg_pres
      refine pres_of_pair (by assumption) ?_
      apply addReq_pres
      assumption
    · refine presP_mk ?_
      refine pres_mk_of ?_ rfl rfl rfl rfl rfl
      refine pres_of_pair (by assumption) ?_
      apply sendMsg_pres
      refine pres_of_pair (by assumption) ?_
      apply addReq_pres
      assumption

theorem sendReads_pres {a : State} (x0 x1 x2 x3 x4 x5) (h0 : Pres a x0) : Pres a (sendReads x0 x1 x2 x3 x4 x5) := by
  induction x4 generalizing x0 x1 x2 x3 x5 with
  | zero =>
    unfold sendReads
    assumption
  | succ x ih =>
    unfold sendReads
    refine pres_ite ?_ ?_
    · assumption
    · extract_lets +onlyGivenNames y15
      clear_value y15
      apply ih
      refine presP_fst ?_
      apply sendEngine_pres
      assumption

theorem updWanted_pres {a : State} (x0 x1 x2) (h0 : Pres a x0) : Pres a (updWanted x0 x1 x2) := by
  unfold updWanted
  refine pres_ite ?_ ?_
  · refine pres_mk_of ?_ rfl rfl rfl rfl rfl
    assumption
  · apply updOp_pres
    assumption

theorem askFar_pres {a : State} (x0 x1 x2 x3 x4) (h0 : Pres a x0) : Pres a (askFar x0 x1 x2 x3 x4) := by
  unfold askFar
  extract_lets +onlyGivenNames y8
  clear_value y8
  apply sendReads_pres
  apply updWanted_pres
  assumption

theorem awaitIssue_pres {a : State} (x0 x1 x2 x3 x4 x5 x6) (h0 : Pres a x0) : Pres a (awaitIssue x0 x1 x2 x3 x4 x5 x6) := by
  unfold awaitIssue
  apply askFar_pres
  apply updOp_pres
  apply retire_pres
  assumption

theorem concludeCmd_pres {a : State} (x0 x1 x2 x3 x4) (h0 : Pres a x0) (h4 : Pres a (resState x4)) : Pres a (concludeCmd x0 x1 x2 x3 x4) := by
  unfold concludeCmd
  split
  · refine pres_ite ?_ ?_
    · assumption
    · split
      · apply fencedIssue_pres
        · assumption
        · assumption
      · apply noteOuts_pres
        · assumption
        · apply awaitIssue_pres
          assumption
      · apply noteOuts_pres
        · assumption
        · apply retire_pres
          assumption
      · apply retire_pres
        assumption
  · refine pres_ite ?_ ?_
    · assumption
    · refine pres_ite ?_ ?_
      · apply fencedIssue_pres
        · assumption
        · assumption
      · apply faultTask_pres
        apply dropOp_pres
        assumption

theorem catchAwait_pres {a : State} (x0) (h0 : PresM a (x0 )) : PresM a (catchAwait x0) := by
  unfold catchAwait
  refine presM_fun ?_
  intro _
  intro _
  split
  · split
    · dsimp only [resState]
      assumption
    · dsimp only [resState]
      refine presM_error (by assumption) ?_ ?_
      · assumption
      · assumption
  · dsimp only [resState]
    refine presM_ok (by assumption) ?_ ?_
    · assumption
    · assumption

theorem runCmd_pres {a : State} (x0 x1 x2) (h0 : Pres a x0) (h1 : ∀ c, PresM a (x1.run c)) : Pres a (runCmd x0 x1 x2) := by
  unfold runCmd
  split
  · apply faultTask_pres
    assumption
  · extract_lets +onlyGivenNames y11
    clear_value y11
    extract_lets +onlyGivenNames y12
    clear_value y12
    refine pres_ite ?_ ?_
    · assumption
    · apply concludeCmd_pres
      · assumption
      · refine pres_resState ?_ ?_
        · apply catchAwait_pres
          apply_assumption
        · assumption

theorem startCmd_pres {a : State} (x0 x1 x2 x3 x4) (h0 : Pres a x0) (h1 : Pres a x1) (h2 : ∀ c, PresM a (x2.run c)) : Pres a (startCmd x0 x1 x2 x3 x4) := by
  unfold startCmd
  split
  · apply faultTask_pres
    assumption
  · split
    · apply faultTask_pres
      assumption
    · refine pres_ite ?_ ?_
      · assumption
      · apply runCmd_pres
        · assumption
        · intro _
          apply_assumption

theorem issueCmd_pres {a : State} (x0 x1 x2 x3) (h2 : ∀ c, PresM a (x2.run c)) (h3 : Pres a x3) : Pres a (issueCmd x0 x1 x2 x3) := by
  unfold issueCmd
  refine pres_ite ?_ ?_
  · assumption
  · dsimp only
    apply startCmd_pres
    · assumption
    · refine presP_fst ?_
      apply fetchFault_pres
      assumption
    · intro _
      apply_assumption

theorem qPop_pres {a : State} (x0 x1) (h0 : Pres a x0) : Pres a (qPop x0 x1) := by
  unfold qPop
  split
  · assumption
  · refine pres_mk_of ?_ rfl rfl rfl rfl rfl
    assumption

theorem qFault_pres {a : State} (x0 x1 x2 x3 x4 x5 x6) (h0 : Pres a x0) : Pres a (qFault x0 x1 x2 x3 x4 x5 x6) := by
  unfold qFault
  apply postFor_pres
  assumption

theorem qRetire_pres {a : State} (x0 x1 x2 x3 x4 x5) (h0 : Pres a x0) : Pres a (qRetire x0 x1 x2 x3 x4 x5) := by
  unfold qRetire
  refine pres_mk_of ?_ rfl rfl rfl rfl rfl
  assumption

theorem queueCmd_pres {a : State} (x0 x1 x2 x3 x4 x5) (h4 : ∀ y s, Pres a s → PresP a (x4 y s)) (h5 : Pres a x5) : Pres a (queueCmd x0 x1 x2 x3 x4 x5) := by
  unfold queueCmd
  dsimp only
  split
  · assumption
  · split
    · apply qFault_pres
      apply qPop_pres
      assumption
    · split
      · apply qFault_pres
        apply qPop_pres
        assumption
      · split
        · apply qFault_pres
          refine pres_of_pair (by assumption) ?_
          apply_assumption
          apply qPop_pres
          assumption
        · refine pres_ite ?_ ?_
          · refine pres_of_pair (by assumption) ?_
            apply_assumption
            apply qPop_pres
            assumption
          · apply qRetire_pres
            refine pres_of_pair (by assumption) ?_
            apply_assumption
            apply qPop_pres
            assumption

theorem execNop_pres {a : State} (x0 x1 x2) (h2 : Pres a x2) : PresX a (execNop x0 x1 x2) := by
  unfold execNop
  refine presX_next ?_
  split
  · apply issueCmd_pres
    · intro _
      dsimp only [nopDef]
      exact presM_pure _
    · assumption
  · apply queueCmd_pres
    · intro _
      intro _
      intro _
      refine presP_mk ?_
      assumption
    · assumption

theorem winTouch_pres {a : State} (x0 x1)  : PresM a (winTouch x0 x1) := by
  unfold winTouch
  refine presM_get_bind ?_
  intro _
  intro _
  dsimp only
  exact presM_pure _

theorem touchAll_pres {a : State} (x0)  : PresM a (touchAll x0) := by
  unfold touchAll
  refine presM_bind ?_ ?_
  · apply winTouch_pres
  · intro _
    refine presM_bind ?_ ?_
    · apply winTouch_pres
    · intro _
      exact presM_pure _

theorem faultIf_pres {a : State} (x0 x1)  : PresM a (faultIf x0 x1) := by
  unfold faultIf
  refine presM_ite ?_ ?_
  · exact presM_throw _
  · exact presM_pure _

theorem hold_pres {a : State} {α : Type}   : PresM a ((hold : Cm α)) := by
  unfold hold
  exact presM_throw _

theorem holdIf_pres {a : State} (x0)  : PresM a (holdIf x0) := by
  unfold holdIf
  refine presM_ite ?_ ?_
  · apply hold_pres
  · exact presM_pure _

theorem ownOp_pres {a : State} (x0 x1)  : PresM a (ownOp x0 x1) := by
  unfold ownOp
  refine presM_modify ?_
  intro _
  intro _
  refine pres_mk_of ?_ rfl rfl rfl rfl rfl
  assumption

theorem onDone_pres {a : State} (x0 x1 x2 x3)  : PresM a (onDone x0 x1 x2 x3) := by
  unfold onDone
  apply ownOp_pres

theorem strmAccept_pres {a : State} (x0 x1)  : PresM a (strmAccept x0 x1) := by
  unfold strmAccept
  refine presM_get_bind ?_
  intro _
  intro _
  refine presM_bind ?_ ?_
  · apply holdIf_pres
  · intro _
    refine presM_bind ?_ ?_
    · refine presM_modify ?_
      intro _
      intro _
      refine pres_mk_of ?_ rfl rfl rfl rfl rfl
      assumption
    · intro _
      refine presM_bind ?_ ?_
      · apply ownOp_pres
      · intro _
        refine presM_bind ?_ ?_
        · apply onDone_pres
        · intro _
          exact presM_pure _

theorem listRun_pres {a : State} (x0 x1 x2)  : PresM a (listRun x0 x1 x2) := by
  unfold listRun
  dsimp only
  refine presM_bind ?_ ?_
  · apply faultIf_pres
  · intro _
    refine presM_bind ?_ ?_
    · apply faultIf_pres
    · intro _
      refine presM_bind ?_ ?_
      · apply faultIf_pres
      · intro _
        apply strmAccept_pres

theorem execStmCopy_pres {a : State} (x0 x1 x2) (h2 : Pres a x2) : PresX a (execStmCopy x0 x1 x2) := by
  unfold execStmCopy
  refine presX_next ?_
  apply issueCmd_pres
  · intro _
    dsimp only [copyDef]
    apply listRun_pres
  · assumption

theorem execStmLoad_pres {a : State} (x0 x1 x2) (h2 : Pres a x2) : PresX a (execStmLoad x0 x1 x2) := by
  unfold execStmLoad
  refine presX_next ?_
  apply issueCmd_pres
  · intro _
    dsimp only [loadDef]
    apply listRun_pres
  · assumption

theorem execStmStore_pres {a : State} (x0 x1 x2) (h2 : Pres a x2) : PresX a (execStmStore x0 x1 x2) := by
  unfold execStmStore
  refine presX_next ?_
  apply issueCmd_pres
  · intro _
    dsimp only [storeDef]
    apply listRun_pres
  · assumption

theorem failAt_pres {a : State} {α : Type} (x1 : Nat) (x2 : Nat)  : PresM a ((failAt x1 x2 : Cm α)) := by
  unfold failAt
  exact presM_throw _

theorem access_pres {a : State} (x0 x1 x2 x3)  : PresM a (access x0 x1 x2 x3) := by
  unfold access
  refine presM_get_bind ?_
  intro _
  intro _
  refine presM_ite ?_ ?_
  · apply failAt_pres
  · refine presM_ite ?_ ?_
    · apply failAt_pres
    · refine presM_ite ?_ ?_
      · apply failAt_pres
      · exact presM_pure _

theorem readFar_pres {a : State} (x0 x1 x2) : PresM a (readFar x0 x1 x2) := by
  unfold readFar
  refine presM_get_bind ?_
  intro _
  intro _
  extract_lets +onlyGivenNames y7
  clear_value y7
  split
  · exact presM_pure _
  · split
    · exact presM_throw _
    · exact presM_throw _

theorem readLocal_pres {a : State} (x0 x1 x2 x3) : PresM a (readLocal x0 x1 x2 x3) := by
  unfold readLocal
  refine presM_get_bind ?_
  intro _
  intro _
  refine presM_bind ?_ ?_
  · apply holdIf_pres
  · intro _
    split
    · exact presM_throw _
    · split
      refine presM_bind ?_ ?_
      · refine presM_set ?_
        refine pres_of_pair (by assumption) ?_
        apply meets_pres
        assumption
      · intro _
        refine presM_bind ?_ ?_
        · apply faultIf_pres
        · intro _
          refine presM_bind ?_ ?_
          · refine presM_modify ?_
            intro _
            intro _
            apply countMem_pres
            assumption
          · intro _
            exact presM_pure _

theorem remoteIn_pres {a : State} (x0 x1 x2) (h0 : Pres a x0) : Pres a (remoteIn x0 x1 x2) := by
  unfold remoteIn
  refine pres_ite ?_ ?_
  · apply bump_pres
    assumption
  · assumption

theorem readRaw_pres {a : State} (x0 x1 x2)  : PresM a (readRaw x0 x1 x2) := by
  unfold readRaw
  refine presM_get_bind ?_
  intro _
  intro _
  refine presM_bind ?_ ?_
  · apply faultIf_pres
  · intro _
    refine presM_bind ?_ ?_
    · apply holdIf_pres
    · intro _
      refine presM_ite ?_ ?_
      · apply readFar_pres
      · refine presM_ite ?_ ?_
        · refine presM_bind ?_ ?_
          · apply holdIf_pres
          · intro _
            split
            · refine presM_bind ?_ ?_
              · refine presM_set ?_
                apply carryAccess_pres
                apply bump_pres
                refine pres_of_pair (by assumption) ?_
                apply rdHost_pres
                assumption
              · intro _
                exact presM_pure _
            · refine presM_bind ?_ ?_
              · refine presM_set ?_
                refine pres_of_pair (by assumption) ?_
                apply rdHost_pres
                assumption
              · intro _
                apply failAt_pres
        · refine presM_ite ?_ ?_
          · apply failAt_pres
          · refine presM_bind ?_ ?_
            · apply readLocal_pres
            · intro _
              refine presM_bind ?_ ?_
              · refine presM_modify ?_
                intro _
                intro _
                refine pres_ite ?_ ?_
                · assumption
                · apply remoteIn_pres
                  assumption
              · intro _
                exact presM_pure _

theorem readT_pres {a : State} (x0 x1 x2)  : PresM a (readT x0 x1 x2) := by
  unfold readT
  refine presM_bind ?_ ?_
  · apply access_pres
  · intro _
    apply readRaw_pres

theorem readNat_pres {a : State} (x0 x1 x2)  : PresM a (readNat x0 x1 x2) := by
  unfold readNat
  refine presM_bind ?_ ?_
  · apply readT_pres
  · intro _
    exact presM_pure _

theorem descTouch_pres {a : State} (x0 x1 x2)  : PresM a (descTouch x0 x1 x2) := by
  unfold descTouch
  refine presM_bind ?_ ?_
  · apply readNat_pres
  · intro _
    dsimp only
    exact presM_pure _

theorem encTouch_pres {a : State} (x0)  : PresM a (encTouch x0) := by
  unfold encTouch
  refine presM_bind ?_ ?_
  · apply descTouch_pres
  · intro _
    refine presM_bind ?_ ?_
    · apply readNat_pres
    · intro _
      dsimp only
      exact presM_pure _

theorem encRun_pres {a : State} (x0)  : PresM a (encRun x0) := by
  unfold encRun
  refine presM_bind ?_ ?_
  · apply faultIf_pres
  · intro _
    refine presM_bind ?_ ?_
    · apply faultIf_pres
    · intro _
      refine presM_bind ?_ ?_
      · apply faultIf_pres
      · intro _
        apply strmAccept_pres

theorem execStmStoreEnc_pres {a : State} (x0 x1 x2) (h2 : Pres a x2) : PresX a (execStmStoreEnc x0 x1 x2) := by
  unfold execStmStoreEnc
  refine presX_next ?_
  apply issueCmd_pres
  · intro _
    dsimp only [encDef]
    apply encRun_pres
  · assumption

theorem failIf_pres {a : State} (x0 x1)  : PresM a (failIf x0 x1) := by
  unfold failIf
  refine presM_ite ?_ ?_
  · exact presM_throw _
  · exact presM_pure _

theorem sfillRun_pres {a : State} (x0)  : PresM a (sfillRun x0) := by
  unfold sfillRun
  extract_lets +onlyGivenNames y3
  clear_value y3
  extract_lets +onlyGivenNames y4
  clear_value y4
  extract_lets +onlyGivenNames y5
  clear_value y5
  dsimp only
  refine presM_ite ?_ ?_
  · refine presM_bind ?_ ?_
    · apply failIf_pres
    · intro _
      refine presM_bind ?_ ?_
      · apply faultIf_pres
      · intro _
        refine presM_bind ?_ ?_
        · apply access_pres
        · intro _
          apply strmAccept_pres
  · refine presM_bind ?_ ?_
    · apply access_pres
    · intro _
      apply strmAccept_pres

theorem execStmFill_pres {a : State} (x0 x1 x2) (h2 : Pres a x2) : PresX a (execStmFill x0 x1 x2) := by
  unfold execStmFill
  refine presX_next ?_
  apply issueCmd_pres
  · intro _
    dsimp only [sfillDef]
    apply sfillRun_pres
  · assumption

theorem regTouch_pres {a : State} (x0 x1)  : PresM a (regTouch x0 x1) := by
  unfold regTouch
  exact presM_pure _

theorem regChecks_pres {a : State} (x0 x1 x2 x3 x4)  : PresM a (regChecks x0 x1 x2 x3 x4) := by
  unfold regChecks
  refine presM_get_bind ?_
  intro _
  intro _
  refine presM_bind ?_ ?_
  · apply failIf_pres
  · intro _
    refine presM_bind ?_ ?_
    · apply faultIf_pres
    · intro _
      refine presM_bind ?_ ?_
      · apply failIf_pres
      · intro _
        refine presM_bind ?_ ?_
        · apply access_pres
        · intro _
          refine presM_ite ?_ ?_
          · apply access_pres
          · exact presM_pure _

theorem updReq_pres {a : State} (x0 x1 x2) (h0 : Pres a x0) : Pres a (updReq x0 x1 x2) := by
  unfold updReq
  split
  · refine pres_mk_of ?_ rfl rfl rfl rfl rfl
    assumption
  · assumption

theorem wrN_pres {a : State} (x0 x1 x2 x3) (h0 : Pres a x0) : Pres a (wrN x0 x1 x2 x3) := by
  induction x2 generalizing x0 x1 x3 with
  | zero =>
    unfold wrN
    assumption
  | succ x ih =>
    unfold wrN
    apply ih
    apply wrB_pres
    assumption

theorem performPlain_pres {a : State} (x0 x1 x2 x3 x4 x5 x6 x7 x8) (h0 : Pres a x0) : PresP a (performPlain x0 x1 x2 x3 x4 x5 x6 x7 x8) := by
  unfold performPlain
  split
  · refine presP_mk ?_
    apply noteFenced_pres
    assumption
  · refine presP_mk ?_
    assumption
  · split
    refine presP_ite ?_ ?_
    · refine presP_mk ?_
      refine pres_of_pair (by assumption) ?_
      apply meets_pres
      assumption
    · extract_lets +onlyGivenNames y22
      (refine pres_absorb (a := a) y22 ?_ (fun _ => ?_); rotate_left; clear_value y22; rotate_right)
      · dsimp only [y22]
        refine pres_ite ?_ ?_
        · apply countTier_pres
          refine pres_of_pair (by assumption) ?_
          apply meets_pres
          assumption
        · refine pres_of_pair (by assumption) ?_
          apply meets_pres
          assumption
      · extract_lets +onlyGivenNames y24
        (refine pres_absorb (a := a) y24 ?_ (fun _ => ?_); rotate_left; clear_value y24; rotate_right)
        · dsimp only [y24]
          apply countMem_pres
          assumption
        · split
          · refine presP_mk ?_
            assumption
          · refine presP_mk ?_
            apply clearPoison_pres
            apply wrN_pres
            assumption
          · extract_lets +onlyGivenNames y29
            clear_value y29
            extract_lets +onlyGivenNames y30
            (refine pres_absorb (a := a) y30 ?_ (fun _ => ?_); rotate_left; clear_value y30; rotate_right)
            · dsimp only [y30]
              refine pres_ite ?_ ?_
              · apply bump_pres
                assumption
              · refine pres_ite ?_ ?_
                · apply bump_pres
                  assumption
                · assumption
            · refine presP_mk ?_
              apply wrN_pres
              assumption

theorem setTag_pres {a : State} (x0 x1 x2) (h0 : Pres a x0) : Pres a (setTag x0 x1 x2) := by
  unfold setTag
  refine pres_mk_of ?_ rfl rfl rfl rfl rfl
  assumption

theorem performReq_pres {a : State} (x0 x1) (h0 : Pres a x0) : PresP a (performReq x0 x1) := by
  unfold performReq
  extract_lets +onlyGivenNames y5
  clear_value y5
  split
  · refine presP_ite ?_ ?_
    · refine presP_mk ?_
      apply carryAccess_pres
      apply bump_pres
      assumption
    · refine presP_mk ?_
      apply carryAccess_pres
      apply bump_pres
      refine pres_foldl ?_ ?_
      · assumption
      · intro _
        intro _
        intro _
        apply wrHostB_pres
        assumption
  · split
    extract_lets +onlyGivenNames y17
    (refine pres_absorb (a := a) y17 ?_ (fun _ => ?_); rotate_left; clear_value y17; rotate_right)
    · dsimp only [y17]
      refine pres_ite ?_ ?_
      · apply remoteIn_pres
        refine pres_of_pair (by assumption) ?_
        apply performPlain_pres
        assumption
      · refine pres_of_pair (by assumption) ?_
        apply performPlain_pres
        assumption
    · refine presP_mk ?_
      refine pres_ite ?_ ?_
      · split
        · apply setTag_pres
          assumption
        · apply setTag_pres
          assumption
        · assumption
      · assumption

theorem dropReq_pres {a : State} (x0 x1) (h0 : Pres a x0) : Pres a (dropReq x0 x1) := by
  unfold dropReq
  refine pres_mk_of ?_ rfl rfl rfl rfl rfl
  assumption

theorem opAnswered_pres {a : State} (x0 x1) (h0 : Pres a x0) : Pres a (opAnswered x0 x1) := by
  unfold opAnswered
  split
  · refine pres_ite ?_ ?_
    · apply dropOp_pres
      assumption
    · apply updOp_pres
      assumption
  · assumption

theorem setThrReg_pres {a : State} (x0 x1 x2 x3) (h0 : Pres a x0) : Pres a (setThrReg x0 x1 x2 x3) := by
  unfold setThrReg
  apply updThr_pres
  assumption

theorem landReg_pres {a : State} (x0 x1 x2 x3) (h0 : Pres a x0) : Pres a (landReg x0 x1 x2 x3) := by
  unfold landReg
  extract_lets +onlyGivenNames y7
  (refine pres_absorb (a := a) y7 ?_ (fun _ => ?_); rotate_left; clear_value y7; rotate_right)
  · dsimp only [y7]
    apply updOp_pres
    assumption
  · split
    · split
      · refine pres_ite ?_ ?_
        · assumption
        · apply setThrReg_pres
          assumption
      · assumption
    · assumption

theorem landReq_pres {a : State} (x0 x1 x2 x3) (h0 : Pres a x0) : Pres a (landReq x0 x1 x2 x3) := by
  unfold landReq
  extract_lets +onlyGivenNames y7
  (refine pres_absorb (a := a) y7 ?_ (fun _ => ?_); rotate_left; clear_value y7; rotate_right)
  · dsimp only [y7]
    apply dropReq_pres
    assumption
  · split
    · apply opAnswered_pres
      split
      · apply landReg_pres
        assumption
      · assumption
    · assumption

theorem farLanded_pres {a : State} (x0 x1) (h0 : Pres a x0) : Pres a (farLanded x0 x1) := by
  unfold farLanded
  refine pres_ite ?_ ?_
  · assumption
  · apply updWanted_pres
    assumption

theorem farFault_pres {a : State} (x0 x1 x2 x3) (h0 : Pres a x0) : Pres a (farFault x0 x1 x2 x3) := by
  unfold farFault
  split
  · apply farLanded_pres
    apply updWanted_pres
    apply dropReq_pres
    assumption
  · apply dropReq_pres
    assumption

theorem engineFault_pres {a : State} (x0 x1 x2 x3 x4) (h0 : Pres a x0) : Pres a (engineFault x0 x1 x2 x3 x4) := by
  unfold engineFault
  refine pres_ite ?_ ?_
  · extract_lets +onlyGivenNames y8
    (refine pres_absorb (a := a) y8 ?_ (fun _ => ?_); rotate_left; clear_value y8; rotate_right)
    · dsimp only [y8]
      split
      · split
        · apply wrN_pres
          apply wrB_pres
          assumption
        · assumption
      · assumption
    · extract_lets +onlyGivenNames y10
      (refine pres_absorb (a := a) y10 ?_ (fun _ => ?_); rotate_left; clear_value y10; rotate_right)
      · dsimp only [y10]
        split
        · apply dropOp_pres
          assumption
        · assumption
      · apply updSlot_pres
        assumption
  · apply faultTask_pres
    assumption

theorem faultReq_pres {a : State} (x0 x1 x2 x3) (h0 : Pres a x0) : Pres a (faultReq x0 x1 x2 x3) := by
  unfold faultReq
  refine pres_ite ?_ ?_
  · apply farFault_pres
    assumption
  · split
    · split
      · apply faultTask_pres
        apply dropReq_pres
        assumption
      · apply faultTask_pres
        apply dropReq_pres
        assumption
      · apply faultTask_pres
        apply dropReq_pres
        assumption
      · apply engineFault_pres
        apply dropReq_pres
        assumption
    · split
      · split
        · apply postFor_pres
          split
          · apply dropOp_pres
            apply dropReq_pres
            assumption
          · assumption
        · apply dropReq_pres
          assumption
      · apply dropReq_pres
        assumption

theorem fenceReq_pres {a : State} (x0 x1 x2) (h0 : Pres a x0) : Pres a (fenceReq x0 x1 x2) := by
  unfold fenceReq
  refine pres_ite ?_ ?_
  · apply updReq_pres
    assumption
  · refine pres_ite ?_ ?_
    · refine pres_ite ?_ ?_
      · apply faultReq_pres
        assumption
      · apply updReq_pres
        assumption
    · apply faultReq_pres
      assumption

theorem answerReq_pres {a : State} (x0 x1 x2 x3 x4) (h0 : Pres a x0) : Pres a (answerReq x0 x1 x2 x3 x4) := by
  unfold answerReq
  split
  · apply landReq_pres
    assumption
  · apply fenceReq_pres
    assumption
  · apply faultReq_pres
    assumption
  · apply faultReq_pres
    assumption

theorem performed_pres {a : State} (x0 x1 x2 x3 x4) (h0 : Pres a x0) : Pres a (performed x0 x1 x2 x3 x4) := by
  unfold performed
  refine pres_ite ?_ ?_
  · refine pres_ite ?_ ?_
    · apply updReq_pres
      assumption
    · apply answerReq_pres
      assumption
  · refine pres_ite ?_ ?_
    · apply answerReq_pres
      assumption
    · apply updReq_pres
      assumption

theorem serveWaiters_pres {a : State} (x0 x1 x2) (h0 : Pres a x0) : Pres a (serveWaiters x0 x1 x2) := by
  induction x2 generalizing x0 x1 with
  | zero =>
    unfold serveWaiters
    assumption
  | succ x ih =>
    unfold serveWaiters
    dsimp only
    split
    · assumption
    · split
      · apply ih
        refine pres_mk_of ?_ rfl rfl rfl rfl rfl
        assumption
      · apply ih
        apply performed_pres
        refine presP_fst ?_
        apply performReq_pres
        refine pres_mk_of ?_ rfl rfl rfl rfl rfl
        assumption

theorem arriveReq_pres {a : State} (x0 x1 x2) (h0 : Pres a x0) : Pres a (arriveReq x0 x1 x2) := by
  unfold arriveReq
  dsimp only
  refine pres_ite ?_ ?_
  · refine pres_ite ?_ ?_
    · apply updReq_pres
      apply bump_pres
      assumption
    · refine pres_mk_of ?_ rfl rfl rfl rfl rfl
      apply updReq_pres
      assumption
  · refine pres_ite ?_ ?_
    · apply serveWaiters_pres
      apply performed_pres
      refine presP_fst ?_
      apply performReq_pres
      assumption
    · apply performed_pres
      refine presP_fst ?_
      apply performReq_pres
      assumption

theorem sendOwn_pres {a : State} (x0 x1 x2) (h0 : Pres a x0) : Pres a (sendOwn x0 x1 x2) := by
  unfold sendOwn
  extract_lets +onlyGivenNames y6
  (refine pres_absorb (a := a) y6 ?_ (fun _ => ?_); rotate_left; clear_value y6; rotate_right)
  · dsimp only [y6]
    apply updReq_pres
    assumption
  · refine pres_ite ?_ ?_
    · apply arriveReq_pres
      assumption
    · assumption

theorem count_pres {a : State} (x0 x1 x2)  : PresM a (count x0 x1 x2) := by
  unfold count
  refine presM_modify ?_
  intro _
  intro _
  apply bump_pres
  assumption

theorem startAccess_pres {a : State} (x0 x1)  : PresM a (startAccess x0 x1) := by
  unfold startAccess
  refine presM_get_bind ?_
  intro _
  intro _
  extract_lets +onlyGivenNames y6
  clear_value y6
  refine presM_bind ?_ ?_
  · apply holdIf_pres
  · intro _
    refine presM_ite ?_ ?_
    · split
      refine presM_set ?_
      apply sendOwn_pres
      refine pres_of_pair (by assumption) ?_
      apply addReq_pres
      assumption
    · refine presM_bind ?_ ?_
      · apply holdIf_pres
      · intro _
        refine presM_bind ?_ ?_
        · apply count_pres
        · intro _
          refine presM_get_bind ?_
          intro _
          intro _
          extract_lets +onlyGivenNames y12
          clear_value y12
          refine presM_ite ?_ ?_
          · split
            refine presM_ite ?_ ?_
            · refine presM_set ?_
              apply updReq_pres
              refine pres_of_pair (by assumption) ?_
              apply addReq_pres
              assumption
            · split
              · refine presM_set ?_
                refine pres_of_pair (by assumption) ?_
                apply sendMsg_pres
                refine pres_of_pair (by assumption) ?_
                apply addReq_pres
                assumption
              · refine presM_bind ?_ ?_
                · refine presM_set ?_
                  refine pres_of_pair (by assumption) ?_
                  apply sendMsg_pres
                  refine pres_of_pair (by assumption) ?_
                  apply addReq_pres
                  assumption
                · intro _
                  exact presM_throw _
          · refine presM_ite ?_ ?_
            · split
              · refine presM_set ?_
                refine presP_fst ?_
                apply addReq_pres
                refine pres_of_pair (by assumption) ?_
                apply hostXlate_pres
                assumption
              · refine presM_bind ?_ ?_
                · refine presM_set ?_
                  refine pres_of_pair (by assumption) ?_
                  apply hostXlate_pres
                  assumption
                · intro _
                  apply failAt_pres
            · refine presM_set ?_
              refine presP_fst ?_
              apply addReq_pres
              assumption

theorem loadRegRun_pres {a : State} (x0)  : PresM a (loadRegRun x0) := by
  unfold loadRegRun
  refine presM_get_bind ?_
  intro _
  intro _
  dsimp only
  refine presM_bind ?_ ?_
  · apply holdIf_pres
  · intro _
    refine presM_bind ?_ ?_
    · apply regChecks_pres
    · intro _
      refine presM_bind ?_ ?_
      · refine presM_modify ?_
        intro _
        intro _
        refine pres_mk_of ?_ rfl rfl rfl rfl rfl
        assumption
      · intro _
        refine presM_bind ?_ ?_
        · apply startAccess_pres
        · intro _
          exact presM_pure _

theorem execStmLoadreg_pres {a : State} (x0 x1 x2) (h2 : Pres a x2) : PresX a (execStmLoadreg x0 x1 x2) := by
  unfold execStmLoadreg
  refine presX_next ?_
  apply issueCmd_pres
  · intro _
    dsimp only [loadRegDef]
    apply loadRegRun_pres
  · assumption

theorem noteWrote_pres {a : State} (x0 x1 x2 x3) (h0 : Pres a x0) : Pres a (noteWrote x0 x1 x2 x3) := by
  unfold noteWrote
  apply updSlot_pres
  assumption

theorem storeRegRun_pres {a : State} (x0)  : PresM a (storeRegRun x0) := by
  unfold storeRegRun
  refine presM_get_bind ?_
  intro _
  intro _
  extract_lets +onlyGivenNames y5
  clear_value y5
  extract_lets +onlyGivenNames y6
  clear_value y6
  extract_lets +onlyGivenNames y7
  clear_value y7
  refine presM_bind ?_ ?_
  · apply holdIf_pres
  · intro _
    refine presM_bind ?_ ?_
    · apply regChecks_pres
    · intro _
      refine presM_bind ?_ ?_
      · refine presM_modify ?_
        intro _
        intro _
        refine pres_mk_of ?_ rfl rfl rfl rfl rfl
        assumption
      · intro _
        refine presM_bind ?_ ?_
        · refine presM_modify ?_
          intro _
          intro _
          apply noteWrote_pres
          assumption
        · intro _
          refine presM_bind ?_ ?_
          · apply startAccess_pres
          · intro _
            exact presM_pure _

theorem execStmStorereg_pres {a : State} (x0 x1 x2) (h2 : Pres a x2) : PresX a (execStmStorereg x0 x1 x2) := by
  unfold execStmStorereg
  refine presX_next ?_
  apply issueCmd_pres
  · intro _
    dsimp only [storeRegDef]
    apply storeRegRun_pres
  · assumption

theorem rowsTouch_pres {a : State} (x0 x1 x2 x3 x4)  : PresM a (rowsTouch x0 x1 x2 x3 x4) := by
  unfold rowsTouch
  refine presM_bind ?_ ?_
  · apply readNat_pres
  · intro _
    dsimp only
    exact presM_pure _

theorem inOrder_pres {a : State} (x0 x1) (h0 : ∀ y, PresM a (x0 y)) : PresM a (inOrder x0 x1) := by
  unfold inOrder
  refine presM_get_bind ?_
  intro _
  intro _
  refine presM_ite ?_ ?_
  · refine presM_bind ?_ ?_
    · apply ownOp_pres
    · intro _
      exact presM_pure _
  · apply_assumption

theorem updDense_pres {a : State} (x0 x1 x2) (h0 : Pres a x0) : Pres a (updDense x0 x1 x2) := by
  unfold updDense
  refine pres_mk_of ?_ rfl rfl rfl rfl rfl
  assumption

theorem setBank_pres {a : State} (x0 x1 x2 x3) (h0 : Pres a x0) : Pres a (setBank x0 x1 x2 x3) := by
  unfold setBank
  apply updDense_pres
  assumption

theorem readDescN_pres {a : State} (x0 x1 x2 x3) : PresM a (readDescN x0 x1 x2 x3) := by
  unfold readDescN
  refine presM_bind ?_ ?_
  · apply faultIf_pres
  · intro _
    refine presM_bind ?_ ?_
    · apply readNat_pres
    · intro _
      split
      · exact presM_throw _
      · exact presM_pure _

theorem collect_pres {a : State} {α β : Type} (x2 : α → Sys2Proof.Machine.Cm β) (x3 : List α) (h2 : ∀ y, PresM a (x2 y)) : PresM a (collect x2 x3) := by
  induction x3 with
  | nil =>
    unfold collect
    exact presM_pure _
  | cons x xs ih =>
    unfold collect
    refine presM_bind ?_ ?_
    · apply_assumption
    · intro _
      refine presM_bind ?_ ?_
      · apply ih
      · intro _
        exact presM_pure _

theorem bankSrc_pres {a : State} (x0 x1)  : PresM a (bankSrc x0 x1) := by
  unfold bankSrc
  refine presM_ite ?_ ?_
  · apply readNat_pres
  · exact presM_pure _

theorem rowBits_pres {a : State} (x0 x1 x2 x3 x4)  : PresM a (rowBits x0 x1 x2 x3 x4) := by
  unfold rowBits
  dsimp only
  refine presM_bind ?_ ?_
  · apply readT_pres
  · intro _
    exact presM_pure _

theorem countClamps_pres {a : State} (x0 x1 x2)  : PresM a (countClamps x0 x1 x2) := by
  unfold countClamps
  apply count_pres

theorem rowScales_pres {a : State} (x0 x1 x2 x3 x4)  : PresM a (rowScales x0 x1 x2 x3 x4) := by
  unfold rowScales
  refine presM_ite ?_ ?_
  · refine presM_bind ?_ ?_
    · apply readT_pres
    · intro _
      exact presM_pure _
  · refine presM_ite ?_ ?_
    · refine presM_bind ?_ ?_
      · apply readNat_pres
      · intro _
        exact presM_pure _
    · exact presM_pure _

theorem bankCol_pres {a : State} (x0 x1 x2)  : PresM a (bankCol x0 x1 x2) := by
  unfold bankCol
  dsimp only
  refine presM_bind ?_ ?_
  · apply failIf_pres
  · intro _
    refine presM_ite ?_ ?_
    · refine presM_bind ?_ ?_
      · apply collect_pres
        intro _
        refine presM_bind ?_ ?_
        · apply rowBits_pres
        · intro _
          exact presM_pure _
      · intro _
        refine presM_bind ?_ ?_
        · apply countClamps_pres
        · intro _
          exact presM_pure _
    · refine presM_bind ?_ ?_
      · apply rowScales_pres
      · intro _
        refine presM_bind ?_ ?_
        · apply rowBits_pres
        · intro _
          refine presM_bind ?_ ?_
          · apply countClamps_pres
          · intro _
            exact presM_pure _

theorem fillBank_pres {a : State} (x0 x1) : PresM a (fillBank x0 x1) := by
  unfold fillBank
  extract_lets +onlyGivenNames y4
  clear_value y4
  refine presM_bind ?_ ?_
  · apply faultIf_pres
  · intro _
    refine presM_bind ?_ ?_
    · apply faultIf_pres
    · intro _
      refine presM_bind ?_ ?_
      · apply failIf_pres
      · intro _
        refine presM_bind ?_ ?_
        · apply collect_pres
          intro _
          apply bankSrc_pres
        · intro _
          refine presM_bind ?_ ?_
          · apply collect_pres
            intro _
            apply bankCol_pres
          · intro _
            refine presM_modify ?_
            intro _
            intro _
            apply setBank_pres
            assumption

theorem loadWRun_pres {a : State} (x0)  : PresM a (loadWRun x0) := by
  unfold loadWRun
  refine presM_bind ?_ ?_
  · refine presM_modify ?_
    intro _
    intro _
    apply setBank_pres
    assumption
  · intro _
    refine presM_bind ?_ ?_
    · apply readDescN_pres
    · intro _
      refine presM_bind ?_ ?_
      · apply fillBank_pres
      · intro _
        exact presM_pure _

theorem execDnsLoadW_pres {a : State} (x0 x1 x2) (h2 : Pres a x2) : PresX a (execDnsLoadW x0 x1 x2) := by
  unfold execDnsLoadW
  refine presX_next ?_
  apply issueCmd_pres
  · intro _
    dsimp only [loadWDef]
    apply inOrder_pres
    intro _
    apply loadWRun_pres
  · assumption

theorem putDwork_pres {a : State} (x0 x1) : PresM a (putDwork x0 x1) := by
  unfold putDwork
  refine presM_modify ?_
  intro _
  intro _
  refine pres_mk_of ?_ rfl rfl rfl rfl rfl
  assumption

theorem beginGroups_pres {a : State} (x0 x1 x2 x3) (h3 : ∀ s, PresM a (x3 s)) : PresM a (beginGroups x0 x1 x2 x3) := by
  unfold beginGroups
  refine presM_bind ?_ ?_
  · apply putDwork_pres
  · intro _
    apply inOrder_pres
    intro _
    apply_assumption

theorem failWith_pres {a : State} {α : Type} (x1 : Nat)  : PresM a ((failWith x1 : Cm α)) := by
  unfold failWith
  exact presM_throw _

theorem useBank_pres {a : State} (x0 x1)  : PresM a (useBank x0 x1) := by
  unfold useBank
  refine presM_get_bind ?_
  intro _
  intro _
  split
  · apply failWith_pres
  · refine presM_bind ?_ ?_
    · apply failIf_pres
    · intro _
      exact presM_pure _

theorem startGroups_pres {a : State} (x0) : PresM a (startGroups x0) := by
  unfold startGroups
  refine presM_bind ?_ ?_
  · refine presM_modify ?_
    intro _
    intro _
    refine pres_mk_of ?_ rfl rfl rfl rfl rfl
    assumption
  · intro _
    exact presM_pure _

theorem mmStart_pres {a : State} (x0) : PresM a (mmStart x0) := by
  unfold mmStart
  refine presM_get_bind ?_
  intro _
  intro _
  extract_lets +onlyGivenNames y5
  clear_value y5
  extract_lets +onlyGivenNames y6
  clear_value y6
  extract_lets +onlyGivenNames y7
  clear_value y7
  refine presM_bind ?_ ?_
  · apply useBank_pres
  · intro _
    refine presM_bind ?_ ?_
    · apply failIf_pres
    · intro _
      refine presM_bind ?_ ?_
      · apply faultIf_pres
      · intro _
        refine presM_bind ?_ ?_
        · apply failIf_pres
        · intro _
          apply startGroups_pres

theorem mmRun_pres {a : State} (x0)  : PresM a (mmRun x0) := by
  unfold mmRun
  extract_lets +onlyGivenNames y3
  clear_value y3
  extract_lets +onlyGivenNames y4
  clear_value y4
  refine presM_bind ?_ ?_
  · apply readDescN_pres
  · intro _
    refine presM_bind ?_ ?_
    · refine presM_ite ?_ ?_
      · apply readDescN_pres
      · exact presM_pure _
    · intro _
      refine presM_bind ?_ ?_
      · apply failIf_pres
      · intro _
        refine presM_bind ?_ ?_
        · apply failIf_pres
        · intro _
          apply beginGroups_pres
          intro _
          apply mmStart_pres

theorem execDnsMm_pres {a : State} (x0 x1 x2) (h2 : Pres a x2) : PresX a (execDnsMm x0 x1 x2) := by
  unfold execDnsMm
  refine presX_next ?_
  apply issueCmd_pres
  · intro _
    dsimp only [mmDef]
    apply mmRun_pres
  · assumption

end Sys2Proof.Machine
end

