-- ==== Sys2Proof/Laws/Kept2.lean ====
section
/-!
SUPPORT. What the functions of the machine keep, readDesc to flushRun: one lemma a function, each over the lemmas of those it calls.
-/
namespace Sys2Proof.Machine
open Sys2Proof

theorem readDesc_pres {a : State} (x0 x1 x2 x3)  : PresM a (readDesc x0 x1 x2 x3) := by
  unfold readDesc
  refine presM_bind ?_ ?_
  · apply readDescN_pres
  · intro _
    exact presM_pure _

theorem each_pres {a : State} {α : Type} (x1 : α → Sys2Proof.Machine.Cm Unit) (x2 : List α) (h1 : ∀ y, PresM a (x1 y)) : PresM a (each x1 x2) := by
  induction x2 with
  | nil =>
    unfold each
    exact presM_pure _
  | cons x xs ih =>
    unfold each
    refine presM_bind ?_ ?_
    · apply_assumption
    · intro _
      apply ih

theorem report_pres {a : State} (x0 x1)  : PresM a (report x0 x1) := by
  unfold report
  refine presM_ite ?_ ?_
  · refine presM_modify ?_
    intro _
    intro _
    refine pres_mk_of ?_ rfl rfl rfl rfl rfl
    assumption
  · exact presM_pure _

theorem remoteWrite_pres {a : State} (x0 x1 x2 x3 x4) : PresM a (remoteWrite x0 x1 x2 x3 x4) := by
  induction x3 generalizing x0 x1 x2 x4 with
  | zero =>
    unfold remoteWrite
    exact presM_pure _
  | succ x ih =>
    unfold remoteWrite
    refine presM_ite ?_ ?_
    · exact presM_pure _
    · extract_lets +onlyGivenNames y12
      clear_value y12
      refine presM_get_bind ?_
      intro _
      intro _
      split
      refine presM_bind ?_ ?_
      · refine presM_set ?_
        refine pres_of_pair (by assumption) ?_
        apply sendEngine_pres
        assumption
      · intro _
        refine presM_bind ?_ ?_
        · apply faultIf_pres
        · intro _
          apply ih

theorem writeLocal_pres {a : State} (x0 x1 x2 x3) : PresM a (writeLocal x0 x1 x2 x3) := by
  unfold writeLocal
  refine presM_get_bind ?_
  intro _
  intro _
  refine presM_bind ?_ ?_
  · apply holdIf_pres
  · intro _
    split
    · refine presM_ite ?_ ?_
      · refine presM_bind ?_ ?_
        · refine presM_modify ?_
          intro _
          intro _
          apply noteFenced_pres
          assumption
        · intro _
          apply failWith_pres
      · exact presM_throw _
    · split
      refine presM_bind ?_ ?_
      · refine presM_set ?_
        refine pres_of_pair (by assumption) ?_
        apply meets_pres
        assumption
      · intro _
        refine presM_bind ?_ ?_
        · apply faultIf_pres
        · intro _
          refine presM_modify ?_
          intro _
          intro _
          apply clearPoison_pres
          apply wrBytes_pres
          apply countMem_pres
          assumption

theorem writeRaw_pres {a : State} (x0 x1 x2)  : PresM a (writeRaw x0 x1 x2) := by
  unfold writeRaw
  refine presM_get_bind ?_
  intro _
  intro _
  refine presM_bind ?_ ?_
  · apply faultIf_pres
  · intro _
    refine presM_bind ?_ ?_
    · apply holdIf_pres
    · intro _
      refine presM_ite ?_ ?_
      · apply remoteWrite_pres
      · refine presM_ite ?_ ?_
        · refine presM_bind ?_ ?_
          · apply holdIf_pres
          · intro _
            split
            · refine presM_set ?_
              apply carryAccess_pres
              apply bump_pres
              refine pres_of_pair (by assumption) ?_
              apply wrHost_pres
              assumption
            · refine presM_bind ?_ ?_
              · refine presM_set ?_
                refine pres_of_pair (by assumption) ?_
                apply wrHost_pres
                assumption
              · intro _
                apply failAt_pres
        · refine presM_ite ?_ ?_
          · apply failAt_pres
          · refine presM_bind ?_ ?_
            · apply writeLocal_pres
            · intro _
              refine presM_modify ?_
              intro _
              intro _
              refine pres_ite ?_ ?_
              · assumption
              · apply remoteIn_pres
                assumption

theorem writeT_pres {a : State} (x0 x1 x2)  : PresM a (writeT x0 x1 x2) := by
  unfold writeT
  refine presM_bind ?_ ?_
  · apply access_pres
  · intro _
    refine presM_bind ?_ ?_
    · apply writeRaw_pres
    · intro _
      refine presM_modify ?_
      intro _
      intro _
      apply noteWrote_pres
      assumption

theorem writeNat_pres {a : State} (x0 x1 x2 x3)  : PresM a (writeNat x0 x1 x2 x3) := by
  unfold writeNat
  apply writeT_pres

theorem drainRow_pres {a : State} (x0 x1 x2 x3)  : PresM a (drainRow x0 x1 x2 x3) := by
  unfold drainRow
  refine presM_bind ?_ ?_
  · apply failIf_pres
  · intro _
    dsimp only
    refine presM_ite ?_ ?_
    · refine presM_bind ?_ ?_
      · apply writeT_pres
      · intro _
        apply report_pres
    · refine presM_bind ?_ ?_
      · apply each_pres
        intro _
        apply writeNat_pres
      · intro _
        apply report_pres

theorem drainTile_pres {a : State} (x0 x1 x2 x3 x4 x5 x6 x7 x8)  : PresM a (drainTile x0 x1 x2 x3 x4 x5 x6 x7 x8) := by
  unfold drainTile
  refine presM_get_bind ?_
  intro _
  intro _
  dsimp only
  refine presM_bind ?_ ?_
  · apply each_pres
    intro _
    apply drainRow_pres
  · intro _
    apply count_pres

theorem drainRun_pres {a : State} (x0)  : PresM a (drainRun x0) := by
  unfold drainRun
  refine presM_get_bind ?_
  intro _
  intro _
  dsimp only
  refine presM_bind ?_ ?_
  · apply readDesc_pres
  · intro _
    refine presM_bind ?_ ?_
    · apply failIf_pres
    · intro _
      refine presM_bind ?_ ?_
      · apply faultIf_pres
      · intro _
        refine presM_bind ?_ ?_
        · apply collect_pres
          intro _
          refine presM_ite ?_ ?_
          · apply readNat_pres
          · exact presM_pure _
        · intro _
          refine presM_bind ?_ ?_
          · apply drainTile_pres
          · intro _
            exact presM_pure _

theorem execDnsDrain_pres {a : State} (x0 x1 x2) (h2 : Pres a x2) : PresX a (execDnsDrain x0 x1 x2) := by
  unfold execDnsDrain
  refine presX_next ?_
  apply issueCmd_pres
  · intro _
    dsimp only [drainDef]
    apply inOrder_pres
    intro _
    apply drainRun_pres
  · assumption

theorem scoreStart_pres {a : State} (x0) : PresM a (scoreStart x0) := by
  unfold scoreStart
  refine presM_get_bind ?_
  intro _
  intro _
  extract_lets +onlyGivenNames y5
  clear_value y5
  extract_lets +onlyGivenNames y6
  clear_value y6
  refine presM_bind ?_ ?_
  · apply useBank_pres
  · intro _
    refine presM_bind ?_ ?_
    · apply failIf_pres
    · intro _
      apply startGroups_pres

theorem scoreRun_pres {a : State} (x0)  : PresM a (scoreRun x0) := by
  unfold scoreRun
  extract_lets +onlyGivenNames y3
  clear_value y3
  refine presM_bind ?_ ?_
  · apply readDescN_pres
  · intro _
    refine presM_bind ?_ ?_
    · apply readDescN_pres
    · intro _
      refine presM_bind ?_ ?_
      · apply failIf_pres
      · intro _
        refine presM_bind ?_ ?_
        · apply failIf_pres
        · intro _
          apply beginGroups_pres
          intro _
          apply scoreStart_pres

theorem execDnsAttnScore_pres {a : State} (x0 x1 x2) (h2 : Pres a x2) : PresX a (execDnsAttnScore x0 x1 x2) := by
  unfold execDnsAttnScore
  refine presX_next ?_
  apply issueCmd_pres
  · intro _
    dsimp only [scoreDef]
    apply scoreRun_pres
  · assumption

theorem valueStart_pres {a : State} (x0) : PresM a (valueStart x0) := by
  unfold valueStart
  refine presM_get_bind ?_
  intro _
  intro _
  extract_lets +onlyGivenNames y5
  clear_value y5
  refine presM_bind ?_ ?_
  · apply useBank_pres
  · intro _
    refine presM_bind ?_ ?_
    · apply failIf_pres
    · intro _
      refine presM_bind ?_ ?_
      · apply failIf_pres
      · intro _
        apply startGroups_pres

theorem valueRun_pres {a : State} (x0)  : PresM a (valueRun x0) := by
  unfold valueRun
  refine presM_bind ?_ ?_
  · apply readDescN_pres
  · intro _
    refine presM_bind ?_ ?_
    · apply faultIf_pres
    · intro _
      refine presM_bind ?_ ?_
      · apply failIf_pres
      · intro _
        apply beginGroups_pres
        intro _
        apply valueStart_pres

theorem execDnsAttnValue_pres {a : State} (x0 x1 x2) (h2 : Pres a x2) : PresX a (execDnsAttnValue x0 x1 x2) := by
  unfold execDnsAttnValue
  refine presX_next ?_
  apply issueCmd_pres
  · intro _
    dsimp only [valueDef]
    apply valueRun_pres
  · assumption

theorem tileSaveRun_pres {a : State} (x0)  : PresM a (tileSaveRun x0) := by
  unfold tileSaveRun
  refine presM_get_bind ?_
  intro _
  intro _
  dsimp only
  refine presM_bind ?_ ?_
  · apply faultIf_pres
  · intro _
    refine presM_bind ?_ ?_
    · apply writeT_pres
    · intro _
      refine presM_bind ?_ ?_
      · apply count_pres
      · intro _
        exact presM_pure _

theorem execDnsTileSave_pres {a : State} (x0 x1 x2) (h2 : Pres a x2) : PresX a (execDnsTileSave x0 x1 x2) := by
  unfold execDnsTileSave
  refine presX_next ?_
  apply issueCmd_pres
  · intro _
    dsimp only [tileSaveDef]
    apply inOrder_pres
    intro _
    apply tileSaveRun_pres
  · assumption

theorem setTile_pres {a : State} (x0 x1 x2 x3) (h0 : Pres a x0) : Pres a (setTile x0 x1 x2 x3) := by
  unfold setTile
  apply updDense_pres
  assumption

theorem tileRestoreRun_pres {a : State} (x0)  : PresM a (tileRestoreRun x0) := by
  unfold tileRestoreRun
  dsimp only
  refine presM_bind ?_ ?_
  · apply faultIf_pres
  · intro _
    refine presM_bind ?_ ?_
    · apply readT_pres
    · intro _
      split
      · apply failWith_pres
      · refine presM_bind ?_ ?_
        · refine presM_modify ?_
          intro _
          intro _
          apply setTile_pres
          assumption
        · intro _
          exact presM_pure _

theorem execDnsTileRestore_pres {a : State} (x0 x1 x2) (h2 : Pres a x2) : PresX a (execDnsTileRestore x0 x1 x2) := by
  unfold execDnsTileRestore
  refine presX_next ?_
  apply issueCmd_pres
  · intro _
    dsimp only [tileRestoreDef]
    apply inOrder_pres
    intro _
    apply tileRestoreRun_pres
  · assumption

theorem spsTouch_pres {a : State} (x0)  : PresM a (spsTouch x0) := by
  unfold spsTouch
  refine presM_bind ?_ ?_
  · apply readNat_pres
  · intro _
    dsimp only
    refine presM_bind ?_ ?_
    · apply winTouch_pres
    · intro _
      exact presM_pure _

theorem putWalk_pres {a : State} (x0 x1)  : PresM a (putWalk x0 x1) := by
  unfold putWalk
  refine presM_modify ?_
  intro _
  intro _
  refine pres_mk_of ?_ rfl rfl rfl rfl rfl
  assumption

theorem catchFenced_pres {a : State} (x0) (h0 : PresM a (x0 )) : PresM a (catchFenced x0) := by
  unfold catchFenced
  refine presM_fun ?_
  intro _
  intro _
  split
  · split
    · dsimp only [resState]
      assumption
    · split
      · dsimp only [resState]
        assumption
      · dsimp only [resState]
        refine presM_error (by assumption) ?_ ?_
        · assumption
        · assumption
  · dsimp only [resState]
    refine presM_ok (by assumption) ?_ ?_
    · assumption
    · assumption

theorem readTrellis_pres {a : State} (x0)  : PresM a (readTrellis x0) := by
  unfold readTrellis
  dsimp only
  refine presM_bind ?_ ?_
  · apply readNat_pres
  · intro _
    refine presM_bind ?_ ?_
    · apply failIf_pres
    · intro _
      refine presM_bind ?_ ?_
      · apply faultIf_pres
      · intro _
        refine presM_bind ?_ ?_
        · apply readNat_pres
        · intro _
          refine presM_bind ?_ ?_
          · apply failIf_pres
          · intro _
            exact presM_pure _

theorem spsChecks_pres {a : State} (x0)  : PresM a (spsChecks x0) := by
  unfold spsChecks
  extract_lets +onlyGivenNames y3
  clear_value y3
  extract_lets +onlyGivenNames y4
  clear_value y4
  dsimp only
  refine presM_ite ?_ ?_
  · refine presM_bind ?_ ?_
    · apply faultIf_pres
    · intro _
      refine presM_bind ?_ ?_
      · apply failIf_pres
      · intro _
        refine presM_bind ?_ ?_
        · apply failIf_pres
        · intro _
          refine presM_bind ?_ ?_
          · apply faultIf_pres
          · intro _
            refine presM_bind ?_ ?_
            · apply failIf_pres
            · intro _
              refine presM_bind ?_ ?_
              · apply failIf_pres
              · intro _
                apply failIf_pres
  · refine presM_bind ?_ ?_
    · apply faultIf_pres
    · intro _
      refine presM_bind ?_ ?_
      · apply faultIf_pres
      · intro _
        refine presM_bind ?_ ?_
        · apply failIf_pres
        · intro _
          refine presM_bind ?_ ?_
          · apply failIf_pres
          · intro _
            refine presM_bind ?_ ?_
            · apply faultIf_pres
            · intro _
              refine presM_bind ?_ ?_
              · apply failIf_pres
              · intro _
                refine presM_bind ?_ ?_
                · apply failIf_pres
                · intro _
                  apply failIf_pres

theorem spsCheck_pres {a : State} (x0 x1 x2) : PresM a (spsCheck x0 x1 x2) := by
  unfold spsCheck
  extract_lets +onlyGivenNames y5
  clear_value y5
  refine presM_bind ?_ ?_
  · apply faultIf_pres
  · intro _
    refine presM_bind ?_ ?_
    · apply readNat_pres
    · intro _
      split
      · exact presM_throw _
      · extract_lets +onlyGivenNames y12
        clear_value y12
        refine presM_bind ?_ ?_
        · refine presM_ite ?_ ?_
          · apply readTrellis_pres
          · exact presM_pure _
        · intro _
          refine presM_bind ?_ ?_
          · apply spsChecks_pres
          · intro _
            apply putWalk_pres

theorem spsStart_pres {a : State} (x0 x1) : PresM a (spsStart x0 x1) := by
  unfold spsStart
  refine presM_get_bind ?_
  intro _
  intro _
  extract_lets +onlyGivenNames y6
  clear_value y6
  refine presM_bind ?_ ?_
  · apply failIf_pres
  · intro _
    dsimp only
    split
    · refine presM_bind ?_ ?_
      · apply failIf_pres
      · intro _
        exact presM_pure _
    · exact presM_pure _

theorem spsRun_pres {a : State} (x0 x1)  : PresM a (spsRun x0 x1) := by
  unfold spsRun
  refine presM_get_bind ?_
  intro _
  intro _
  extract_lets +onlyGivenNames y6
  clear_value y6
  refine presM_bind ?_ ?_
  · apply putWalk_pres
  · intro _
    apply catchFenced_pres
    refine presM_bind ?_ ?_
    · apply spsCheck_pres
    · intro _
      apply inOrder_pres
      intro _
      apply spsStart_pres

theorem execSpsBm64_pres {a : State} (x0 x1 x2) (h2 : Pres a x2) : PresX a (execSpsBm64 x0 x1 x2) := by
  unfold execSpsBm64
  refine presX_next ?_
  apply issueCmd_pres
  · intro _
    dsimp only [spsDef]
    apply spsRun_pres
  · assumption

theorem execSpsCoo16_pres {a : State} (x0 x1 x2) (h2 : Pres a x2) : PresX a (execSpsCoo16 x0 x1 x2) := by
  unfold execSpsCoo16
  refine presX_next ?_
  apply issueCmd_pres
  · intro _
    dsimp only [spsDef]
    apply spsRun_pres
  · assumption

theorem execSpsSegment_pres {a : State} (x0 x1 x2) (h2 : Pres a x2) : PresX a (execSpsSegment x0 x1 x2) := by
  unfold execSpsSegment
  refine presX_next ?_
  apply issueCmd_pres
  · intro _
    dsimp only [spsDef]
    apply spsRun_pres
  · assumption

theorem execSpsAuto_pres {a : State} (x0 x1 x2) (h2 : Pres a x2) : PresX a (execSpsAuto x0 x1 x2) := by
  unfold execSpsAuto
  refine presX_next ?_
  apply issueCmd_pres
  · intro _
    dsimp only [spsDef]
    apply spsRun_pres
  · assumption

theorem vecTouch_pres {a : State} (x0 x1 x2)  : PresM a (vecTouch x0 x1 x2) := by
  unfold vecTouch
  refine presM_bind ?_ ?_
  · apply rowsTouch_pres
  · intro _
    refine presM_bind ?_ ?_
    · refine presM_ite ?_ ?_
      · apply rowsTouch_pres
      · exact presM_pure _
    · intro _
      refine presM_bind ?_ ?_
      · apply rowsTouch_pres
      · intro _
        refine presM_bind ?_ ?_
        · refine presM_ite ?_ ?_
          · apply winTouch_pres
          · exact presM_pure _
        · intro _
          exact presM_pure _

theorem vecDesc_pres {a : State} (x0 x1 x2 x3 x4)  : PresM a (vecDesc x0 x1 x2 x3 x4) := by
  unfold vecDesc
  refine presM_bind ?_ ?_
  · apply readDesc_pres
  · intro _
    refine presM_bind ?_ ?_
    · apply faultIf_pres
    · intro _
      refine presM_bind ?_ ?_
      · apply faultIf_pres
      · intro _
        refine presM_bind ?_ ?_
        · apply readNat_pres
        · intro _
          exact presM_pure _

theorem putVwork_pres {a : State} (x0 x1)  : PresM a (putVwork x0 x1) := by
  unfold putVwork
  refine presM_modify ?_
  intro _
  intro _
  refine pres_mk_of ?_ rfl rfl rfl rfl rfl
  assumption

theorem vecAccept_pres {a : State} (x0 x1)  : PresM a (vecAccept x0 x1) := by
  unfold vecAccept
  refine presM_get_bind ?_
  intro _
  intro _
  refine presM_bind ?_ ?_
  · apply holdIf_pres
  · intro _
    refine presM_bind ?_ ?_
    · apply putVwork_pres
    · intro _
      refine presM_bind ?_ ?_
      · apply onDone_pres
      · intro _
        exact presM_pure _

theorem mapRun_pres {a : State} (x0)  : PresM a (mapRun x0) := by
  unfold mapRun
  dsimp only
  refine presM_bind ?_ ?_
  · apply faultIf_pres
  · intro _
    refine presM_bind ?_ ?_
    · apply vecDesc_pres
    · intro _
      refine presM_bind ?_ ?_
      · refine presM_ite ?_ ?_
        · apply vecDesc_pres
        · exact presM_pure _
      · intro _
        refine presM_bind ?_ ?_
        · apply vecDesc_pres
        · intro _
          apply vecAccept_pres

theorem execVecMap_pres {a : State} (x0 x1 x2) (h2 : Pres a x2) : PresX a (execVecMap x0 x1 x2) := by
  unfold execVecMap
  refine presX_next ?_
  apply issueCmd_pres
  · intro _
    dsimp only [mapDef]
    apply mapRun_pres
  · assumption

theorem softmaxRun_pres {a : State} (x0)  : PresM a (softmaxRun x0) := by
  unfold softmaxRun
  refine presM_bind ?_ ?_
  · apply faultIf_pres
  · intro _
    refine presM_bind ?_ ?_
    · apply access_pres
    · intro _
      refine presM_bind ?_ ?_
      · apply access_pres
      · intro _
        refine presM_bind ?_ ?_
        · apply vecDesc_pres
        · intro _
          refine presM_bind ?_ ?_
          · refine presM_ite ?_ ?_
            · apply vecDesc_pres
            · exact presM_pure _
          · intro _
            refine presM_bind ?_ ?_
            · apply vecDesc_pres
            · intro _
              apply vecAccept_pres

theorem execVecSoftmax_pres {a : State} (x0 x1 x2) (h2 : Pres a x2) : PresX a (execVecSoftmax x0 x1 x2) := by
  unfold execVecSoftmax
  refine presX_next ?_
  apply issueCmd_pres
  · intro _
    dsimp only [softmaxDef]
    apply softmaxRun_pres
  · assumption

theorem normRun_pres {a : State} (x0)  : PresM a (normRun x0) := by
  unfold normRun
  refine presM_bind ?_ ?_
  · apply faultIf_pres
  · intro _
    refine presM_bind ?_ ?_
    · apply vecDesc_pres
    · intro _
      refine presM_bind ?_ ?_
      · apply vecDesc_pres
      · intro _
        apply vecAccept_pres

theorem execVecNorm_pres {a : State} (x0 x1 x2) (h2 : Pres a x2) : PresX a (execVecNorm x0 x1 x2) := by
  unfold execVecNorm
  refine presX_next ?_
  apply issueCmd_pres
  · intro _
    dsimp only [normDef]
    apply normRun_pres
  · assumption

theorem vcastRun_pres {a : State} (x0)  : PresM a (vcastRun x0) := by
  unfold vcastRun
  refine presM_bind ?_ ?_
  · apply vecDesc_pres
  · intro _
    refine presM_bind ?_ ?_
    · apply vecDesc_pres
    · intro _
      refine presM_bind ?_ ?_
      · refine presM_ite ?_ ?_
        · apply readNat_pres
        · exact presM_pure _
      · intro _
        split
        · exact presM_throw _
        · apply vecAccept_pres

theorem execVecCast_pres {a : State} (x0 x1 x2) (h2 : Pres a x2) : PresX a (execVecCast x0 x1 x2) := by
  unfold execVecCast
  refine presX_next ?_
  apply issueCmd_pres
  · intro _
    dsimp only [vcastDef]
    apply vcastRun_pres
  · assumption

theorem readHeader_pres {a : State} (x0 x1 x2 x3 x4) (h0 : Pres a x0) : Pres a (readHeader x0 x1 x2 x3 x4) := by
  unfold readHeader
  extract_lets +onlyGivenNames y8
  clear_value y8
  extract_lets +onlyGivenNames y9
  clear_value y9
  refine pres_ite ?_ ?_
  · assumption
  · split
    refine pres_ite ?_ ?_
    · refine pres_of_pair (by assumption) ?_
      apply addReq_pres
      assumption
    · apply arriveReq_pres
      refine pres_of_pair (by assumption) ?_
      apply addReq_pres
      assumption

theorem vecPump_pres {a : State} (x0 x1) (h0 : Pres a x0) : Pres a (vecPump x0 x1) := by
  unfold vecPump
  extract_lets +onlyGivenNames y5
  clear_value y5
  extract_lets +onlyGivenNames y6
  (refine pres_absorb (a := a) y6 ?_ (fun _ => ?_); rotate_left; clear_value y6; rotate_right)
  · dsimp only [y6]
    refine pres_foldl ?_ ?_
    · assumption
    · intro _
      intro _
      intro _
      apply updOp_pres
      assumption
  · refine pres_ite ?_ ?_
    · assumption
    · refine pres_foldl ?_ ?_
      · assumption
      · intro _
        intro _
        intro _
        extract_lets +onlyGivenNames y11
        clear_value y11
        refine pres_foldl ?_ ?_
        · assumption
        · intro _
          intro _
          intro _
          apply readHeader_pres
          assumption

theorem padTouch_pres {a : State} (x0)  : PresM a (padTouch x0) := by
  unfold padTouch
  refine presM_bind ?_ ?_
  · apply rowsTouch_pres
  · intro _
    refine presM_get_bind ?_
    intro _
    intro _
    refine presM_get_bind ?_
    intro _
    intro _
    exact presM_pure _

theorem padRun_pres {a : State} (x0)  : PresM a (padRun x0) := by
  unfold padRun
  refine presM_get_bind ?_
  intro _
  intro _
  dsimp only
  refine presM_bind ?_ ?_
  · apply failIf_pres
  · intro _
    refine presM_bind ?_ ?_
    · apply faultIf_pres
    · intro _
      refine presM_bind ?_ ?_
      · apply faultIf_pres
      · intro _
        refine presM_bind ?_ ?_
        · apply vecDesc_pres
        · intro _
          refine presM_bind ?_ ?_
          · apply readT_pres
          · intro _
            split
            · refine presM_bind ?_ ?_
              · exact presM_throw _
              · intro _
                refine presM_bind ?_ ?_
                · apply each_pres
                  intro _
                  refine presM_bind ?_ ?_
                  · apply faultIf_pres
                  · intro _
                    refine presM_bind ?_ ?_
                    · apply failIf_pres
                    · intro _
                      refine presM_bind ?_ ?_
                      · apply access_pres
                      · intro _
                        apply access_pres
                · intro _
                  refine presM_ite ?_ ?_
                  · refine presM_bind ?_ ?_
                    · apply access_pres
                    · intro _
                      refine presM_ite ?_ ?_
                      · refine presM_bind ?_ ?_
                        · apply access_pres
                        · intro _
                          refine presM_bind ?_ ?_
                          · apply count_pres
                          · intro _
                            apply vecAccept_pres
                      · refine presM_bind ?_ ?_
                        · apply count_pres
                        · intro _
                          apply vecAccept_pres
                  · refine presM_bind ?_ ?_
                    · apply count_pres
                    · intro _
                      apply vecAccept_pres
            · refine presM_bind ?_ ?_
              · apply each_pres
                intro _
                refine presM_bind ?_ ?_
                · apply faultIf_pres
                · intro _
                  refine presM_bind ?_ ?_
                  · apply failIf_pres
                  · intro _
                    refine presM_bind ?_ ?_
                    · apply access_pres
                    · intro _
                      apply access_pres
              · intro _
                refine presM_ite ?_ ?_
                · refine presM_bind ?_ ?_
                  · apply access_pres
                  · intro _
                    refine presM_ite ?_ ?_
                    · refine presM_bind ?_ ?_
                      · apply access_pres
                      · intro _
                        refine presM_bind ?_ ?_
                        · apply count_pres
                        · intro _
                          apply vecAccept_pres
                    · refine presM_bind ?_ ?_
                      · apply count_pres
                      · intro _
                        apply vecAccept_pres
                · refine presM_bind ?_ ?_
                  · apply count_pres
                  · intro _
                    apply vecAccept_pres

theorem execVecPartialAdd_pres {a : State} (x0 x1 x2) (h2 : Pres a x2) : PresX a (execVecPartialAdd x0 x1 x2) := by
  unfold execVecPartialAdd
  refine presX_next ?_
  refine pres_ite ?_ ?_
  · apply vecPump_pres
    apply issueCmd_pres
    · intro _
      dsimp only [padDef]
      apply padRun_pres
    · assumption
  · assumption

theorem reduceRun_pres {a : State} (x0)  : PresM a (reduceRun x0) := by
  unfold reduceRun
  refine presM_bind ?_ ?_
  · apply vecDesc_pres
  · intro _
    refine presM_bind ?_ ?_
    · apply vecDesc_pres
    · intro _
      apply vecAccept_pres

theorem execVecReduce_pres {a : State} (x0 x1 x2) (h2 : Pres a x2) : PresX a (execVecReduce x0 x1 x2) := by
  unfold execVecReduce
  refine presX_next ?_
  apply issueCmd_pres
  · intro _
    dsimp only [reduceDef]
    apply reduceRun_pres
  · assumption

theorem absorb_pres {a : State} (x0 x1) (h0 : Pres a x0) : Pres a (absorb x0 x1) := by
  unfold absorb
  dsimp only
  split
  · apply bump_pres
    apply bump_pres
    assumption
  · refine pres_mk_of ?_ rfl rfl rfl rfl rfl
    apply bump_pres
    assumption

theorem absorbSlot_pres {a : State} (x0 x1) (h0 : Pres a x0) : Pres a (absorbSlot x0 x1) := by
  unfold absorbSlot
  refine pres_foldl ?_ ?_
  · refine pres_mk_of ?_ rfl rfl rfl rfl rfl
    assumption
  · intro _
    intro _
    intro _
    apply absorb_pres
    assumption

theorem bindRun_pres {a : State} (x0)  : PresM a (bindRun x0) := by
  unfold bindRun
  refine presM_get_bind ?_
  intro _
  intro _
  dsimp only
  refine presM_bind ?_ ?_
  · apply holdIf_pres
  · intro _
    refine presM_ite ?_ ?_
    · refine presM_bind ?_ ?_
      · apply faultIf_pres
      · intro _
        refine presM_bind ?_ ?_
        · apply access_pres
        · intro _
          refine presM_bind ?_ ?_
          · refine presM_modify ?_
            intro _
            intro _
            apply absorbSlot_pres
            assumption
          · intro _
            refine presM_get_bind ?_
            intro _
            intro _
            split
            · refine presM_bind ?_ ?_
              · refine presM_modify ?_
                intro _
                intro _
                refine pres_mk_of ?_ rfl rfl rfl rfl rfl
                assumption
              · intro _
                exact presM_pure _
            · refine presM_bind ?_ ?_
              · apply writeT_pres
              · intro _
                refine presM_bind ?_ ?_
                · apply count_pres
                · intro _
                  refine presM_ite ?_ ?_
                  · refine presM_bind ?_ ?_
                    · refine presM_modify ?_
                      intro _
                      intro _
                      refine pres_mk_of ?_ rfl rfl rfl rfl rfl
                      assumption
                    · intro _
                      exact presM_pure _
                  · exact presM_pure _
            · refine presM_bind ?_ ?_
              · refine presM_modify ?_
                intro _
                intro _
                refine pres_mk_of ?_ rfl rfl rfl rfl rfl
                assumption
              · intro _
                exact presM_pure _
    · refine presM_bind ?_ ?_
      · refine presM_modify ?_
        intro _
        intro _
        apply absorbSlot_pres
        assumption
      · intro _
        refine presM_get_bind ?_
        intro _
        intro _
        split
        · refine presM_bind ?_ ?_
          · refine presM_modify ?_
            intro _
            intro _
            refine pres_mk_of ?_ rfl rfl rfl rfl rfl
            assumption
          · intro _
            exact presM_pure _
        · refine presM_bind ?_ ?_
          · apply writeT_pres
          · intro _
            refine presM_bind ?_ ?_
            · apply count_pres
            · intro _
              refine presM_ite ?_ ?_
              · refine presM_bind ?_ ?_
                · refine presM_modify ?_
                  intro _
                  intro _
                  refine pres_mk_of ?_ rfl rfl rfl rfl rfl
                  assumption
                · intro _
                  exact presM_pure _
              · exact presM_pure _
        · refine presM_bind ?_ ?_
          · refine presM_modify ?_
            intro _
            intro _
            refine pres_mk_of ?_ rfl rfl rfl rfl rfl
            assumption
          · intro _
            exact presM_pure _

theorem execNumBind_pres {a : State} (x0 x1 x2) (h2 : Pres a x2) : PresX a (execNumBind x0 x1 x2) := by
  unfold execNumBind
  refine presX_next ?_
  apply issueCmd_pres
  · intro _
    dsimp only [bindDef]
    apply bindRun_pres
  · assumption

theorem smpTouch_pres {a : State} (x0)  : PresM a (smpTouch x0) := by
  unfold smpTouch
  exact presM_pure _

theorem smpTake_pres {a : State} (x0) : PresM a (smpTake x0) := by
  unfold smpTake
  refine presM_get_bind ?_
  intro _
  intro _
  refine presM_ite ?_ ?_
  · exact presM_pure _
  · split
    · dsimp only
      refine presM_ite ?_ ?_
      · refine presM_bind ?_ ?_
        · exact presM_throw _
        · intro _
          apply hold_pres
      · apply hold_pres
    · refine presM_bind ?_ ?_
      · apply ownOp_pres
      · intro _
        refine presM_bind ?_ ?_
        · apply onDone_pres
        · intro _
          refine presM_modify ?_
          intro _
          intro _
          extract_lets +onlyGivenNames y14
          clear_value y14
          refine pres_mk_of ?_ rfl rfl rfl rfl rfl
          assumption

theorem asEngine_pres {a : State} {α : Type} (x1 : ℕ) (x2 : Sys2Proof.Machine.Cm α) (h2 : PresM a (x2 )) : PresM a (asEngine x1 x2) := by
  unfold asEngine
  refine presM_fun ?_
  intro _
  intro _
  split
  · dsimp only [resState]
    refine presM_error (by assumption) ?_ ?_
    · assumption
    · assumption
  · dsimp only [resState]
    refine presM_ok (by assumption) ?_ ?_
    · assumption
    · assumption

theorem smpFit_pres {a : State} (x0) : PresM a (smpFit x0) := by
  unfold smpFit
  refine presM_get_bind ?_
  intro _
  intro _
  extract_lets +onlyGivenNames y5
  clear_value y5
  refine presM_ite ?_ ?_
  · refine presM_bind ?_ ?_
    · apply failIf_pres
    · intro _
      apply failIf_pres
  · refine presM_bind ?_ ?_
    · apply failIf_pres
    · intro _
      apply failIf_pres

theorem smpStand_pres {a : State} (x0 x1 x2) : PresM a (smpStand x0 x1 x2) := by
  unfold smpStand
  refine presM_get_bind ?_
  intro _
  intro _
  extract_lets +onlyGivenNames y7
  clear_value y7
  refine presM_bind ?_ ?_
  · refine presM_modify ?_
    intro _
    intro _
    refine pres_mk_of ?_ rfl rfl rfl rfl rfl
    assumption
  · intro _
    refine presM_bind ?_ ?_
    · apply ownOp_pres
    · intro _
      dsimp only
      refine presM_ite ?_ ?_
      · refine presM_bind ?_ ?_
        · apply count_pres
        · intro _
          refine presM_bind ?_ ?_
          · apply ownOp_pres
          · intro _
            exact presM_pure _
      · refine presM_bind ?_ ?_
        · apply smpFit_pres
        · intro _
          exact presM_pure _

theorem smpIssue_pres {a : State} (x0) : PresM a (smpIssue x0) := by
  unfold smpIssue
  refine presM_get_bind ?_
  intro _
  intro _
  refine presM_bind ?_ ?_
  · apply asEngine_pres
    apply readNat_pres
  · intro _
    split
    · exact presM_throw _
    · extract_lets +onlyGivenNames y10
      clear_value y10
      extract_lets +onlyGivenNames y11
      clear_value y11
      refine presM_bind ?_ ?_
      · apply faultIf_pres
      · intro _
        refine presM_bind ?_ ?_
        · apply faultIf_pres
        · intro _
          refine presM_bind ?_ ?_
          · apply faultIf_pres
          · intro _
            refine presM_bind ?_ ?_
            · apply faultIf_pres
            · intro _
              refine presM_bind ?_ ?_
              · apply access_pres
              · intro _
                refine presM_bind ?_ ?_
                · apply access_pres
                · intro _
                  refine presM_bind ?_ ?_
                  · apply access_pres
                  · intro _
                    refine presM_bind ?_ ?_
                    · apply access_pres
                    · intro _
                      refine presM_bind ?_ ?_
                      · apply ownOp_pres
                      · intro _
                        apply smpStand_pres

theorem smpRun_pres {a : State} (x0)  : PresM a (smpRun x0) := by
  unfold smpRun
  refine presM_bind ?_ ?_
  · apply faultIf_pres
  · intro _
    refine presM_bind ?_ ?_
    · apply faultIf_pres
    · intro _
      refine presM_bind ?_ ?_
      · apply smpTake_pres
      · intro _
        apply catchFenced_pres
        apply smpIssue_pres

theorem execSmpUniform_pres {a : State} (x0 x1 x2) (h2 : Pres a x2) : PresX a (execSmpUniform x0 x1 x2) := by
  unfold execSmpUniform
  refine presX_next ?_
  apply issueCmd_pres
  · intro _
    dsimp only [smpDef]
    apply smpRun_pres
  · assumption

theorem execSmpAlias_pres {a : State} (x0 x1 x2) (h2 : Pres a x2) : PresX a (execSmpAlias x0 x1 x2) := by
  unfold execSmpAlias
  refine presX_next ?_
  apply issueCmd_pres
  · intro _
    dsimp only [smpDef]
    apply smpRun_pres
  · assumption

theorem execSmpReservoir_pres {a : State} (x0 x1 x2) (h2 : Pres a x2) : PresX a (execSmpReservoir x0 x1 x2) := by
  unfold execSmpReservoir
  refine presX_next ?_
  apply issueCmd_pres
  · intro _
    dsimp only [smpDef]
    apply smpRun_pres
  · assumption

theorem execSmpLayerwise_pres {a : State} (x0 x1 x2) (h2 : Pres a x2) : PresX a (execSmpLayerwise x0 x1 x2) := by
  unfold execSmpLayerwise
  refine presX_next ?_
  apply issueCmd_pres
  · intro _
    dsimp only [smpDef]
    apply smpRun_pres
  · assumption

theorem execSmpWalk2_pres {a : State} (x0 x1 x2) (h2 : Pres a x2) : PresX a (execSmpWalk2 x0 x1 x2) := by
  unfold execSmpWalk2
  refine presX_next ?_
  apply issueCmd_pres
  · intro _
    dsimp only [smpDef]
    apply smpRun_pres
  · assumption

theorem execSmpTemporal_pres {a : State} (x0 x1 x2) (h2 : Pres a x2) : PresX a (execSmpTemporal x0 x1 x2) := by
  unfold execSmpTemporal
  refine presX_next ?_
  apply issueCmd_pres
  · intro _
    dsimp only [smpDef]
    apply smpRun_pres
  · assumption

theorem aliasRun_pres {a : State} (x0)  : PresM a (aliasRun x0) := by
  unfold aliasRun
  refine presM_bind ?_ ?_
  · apply smpTake_pres
  · intro _
    apply smpStand_pres

theorem execSmpAliasBuild_pres {a : State} (x0 x1 x2) (h2 : Pres a x2) : PresX a (execSmpAliasBuild x0 x1 x2) := by
  unfold execSmpAliasBuild
  refine presX_next ?_
  apply issueCmd_pres
  · intro _
    dsimp only [aliasDef]
    apply aliasRun_pres
  · assumption

theorem gatherTouch_pres {a : State} (x0)  : PresM a (gatherTouch x0) := by
  unfold gatherTouch
  refine presM_bind ?_ ?_
  · apply winTouch_pres
  · intro _
    exact presM_pure _

theorem gatherOrder_pres {a : State} (x0) : PresM a (gatherOrder x0) := by
  unfold gatherOrder
  refine presM_get_bind ?_
  intro _
  intro _
  split
  · apply failIf_pres
  · exact presM_pure _

theorem gatherTable_pres {a : State} (x0 x1) : PresM a (gatherTable x0 x1) := by
  unfold gatherTable
  refine presM_get_bind ?_
  intro _
  intro _
  extract_lets +onlyGivenNames y6
  clear_value y6
  refine presM_bind ?_ ?_
  · apply failIf_pres
  · intro _
    dsimp only
    refine presM_ite ?_ ?_
    · refine presM_bind ?_ ?_
      · apply gatherOrder_pres
      · intro _
        refine presM_bind ?_ ?_
        · apply faultIf_pres
        · intro _
          apply each_pres
          intro _
          apply access_pres
    · refine presM_bind ?_ ?_
      · apply faultIf_pres
      · intro _
        apply each_pres
        intro _
        apply access_pres

theorem moveTable_pres {a : State} (x0)  : PresM a (moveTable x0) := by
  unfold moveTable
  refine presM_get_bind ?_
  intro _
  intro _
  dsimp only
  refine presM_bind ?_ ?_
  · apply failIf_pres
  · intro _
    refine presM_bind ?_ ?_
    · apply failIf_pres
    · intro _
      refine presM_bind ?_ ?_
      · apply failIf_pres
      · intro _
        apply access_pres

theorem sendPieces_pres {a : State} (x0 x1 x2 x3 x4) (h0 : Pres a x0) : PresP a (sendPieces x0 x1 x2 x3 x4) := by
  induction x3 generalizing x0 x1 x2 x4 with
  | zero =>
    unfold sendPieces
    refine presP_mk ?_
    assumption
  | succ x ih =>
    unfold sendPieces
    dsimp only
    split
    · refine presP_ite ?_ ?_
      · refine presP_mk ?_
        refine pres_of_pair (by assumption) ?_
        apply sendMsg_pres
        assumption
      · apply ih
        refine pres_of_pair (by assumption) ?_
        apply sendMsg_pres
        assumption
    · apply sendMsg_pres
      assumption

theorem journalOut_pres {a : State} (x0 x1 x2 x3) (h0 : Pres a x0) : Pres a (journalOut x0 x1 x2 x3) := by
  unfold journalOut
  split
  · assumption
  · refine pres_ite ?_ ?_
    · assumption
    · dsimp only
      refine presP_fst ?_
      apply sendPieces_pres
      assumption

theorem journal_pres {a : State} (x0 x1 x2 x3 x4 x5 x6) (h0 : Pres a x0) : Pres a (journal x0 x1 x2 x3 x4 x5 x6) := by
  unfold journal
  extract_lets +onlyGivenNames y10
  clear_value y10
  extract_lets +onlyGivenNames y11
  clear_value y11
  extract_lets +onlyGivenNames y12
  clear_value y12
  extract_lets +onlyGivenNames y13
  (refine pres_absorb (a := a) y13 ?_ (fun _ => ?_); rotate_left; clear_value y13; rotate_right)
  · dsimp only [y13]
    refine pres_mk_of ?_ rfl rfl rfl rfl rfl
    assumption
  · refine pres_ite ?_ ?_
    · refine presP_fst ?_
      apply addReq_pres
      assumption
    · split
      apply journalOut_pres
      refine pres_of_pair (by assumption) ?_
      apply addReq_pres
      assumption

theorem pendMove_pres {a : State} (x0) : PresM a (pendMove x0) := by
  unfold pendMove
  refine presM_bind ?_ ?_
  · apply moveTable_pres
  · intro _
    refine presM_modify ?_
    intro _
    intro _
    refine pres_ite ?_ ?_
    · assumption
    · extract_lets +onlyGivenNames y6
      (refine pres_absorb (a := a) y6 ?_ (fun _ => ?_); rotate_left; clear_value y6; rotate_right)
      · dsimp only [y6]
        refine pres_mk_of ?_ rfl rfl rfl rfl rfl
        assumption
      · apply journal_pres
        assumption

theorem rowCheckTable_pres {a : State} (x0 x1) : PresM a (rowCheckTable x0 x1) := by
  unfold rowCheckTable
  refine presM_get_bind ?_
  intro _
  intro _
  split
  · apply gatherTable_pres
  · apply gatherTable_pres
  · refine presM_ite ?_ ?_
    · apply pendMove_pres
    · exact presM_pure _
  · exact presM_pure _

theorem updG_pres {a : State} (x0 x1 x2) (h0 : Pres a x0) : Pres a (updG x0 x1 x2) := by
  unfold updG
  refine pres_mk_of ?_ rfl rfl rfl rfl rfl
  assumption

theorem rowIssue_pres {a : State} (x0) : PresM a (rowIssue x0) := by
  unfold rowIssue
  refine presM_get_bind ?_
  intro _
  intro _
  extract_lets +onlyGivenNames y5
  clear_value y5
  dsimp only
  refine presM_ite ?_ ?_
  · refine presM_bind ?_ ?_
    · refine presM_modify ?_
      intro _
      intro _
      apply updG_pres
      assumption
    · intro _
      refine presM_ite ?_ ?_
      · refine presM_bind ?_ ?_
        · apply gatherOrder_pres
        · intro _
          refine presM_ite ?_ ?_
          · apply rowCheckTable_pres
          · exact presM_pure _
      · refine presM_ite ?_ ?_
        · apply rowCheckTable_pres
        · exact presM_pure _
  · refine presM_ite ?_ ?_
    · apply rowCheckTable_pres
    · exact presM_pure _

theorem mapEntry_pres {a : State} (x0 x1 x2) : PresM a (mapEntry x0 x1 x2) := by
  unfold mapEntry
  refine presM_bind ?_ ?_
  · apply readLocal_pres
  · intro _
    exact presM_pure _

theorem coldBlocks_pres {a : State} (x0 x1) : PresM a (coldBlocks x0 x1) := by
  unfold coldBlocks
  refine presM_get_bind ?_
  intro _
  intro _
  extract_lets +onlyGivenNames y6
  clear_value y6
  refine presM_ite ?_ ?_
  · refine presM_bind ?_ ?_
    · apply collect_pres
      intro _
      refine presM_bind ?_ ?_
      · apply mapEntry_pres
      · intro _
        exact presM_pure _
    · intro _
      exact presM_pure _
  · exact presM_pure _

theorem clearAccess_pres {a : State} (x0 x1) : PresM a (clearAccess x0 x1) := by
  unfold clearAccess
  refine presM_get_bind ?_
  intro _
  intro _
  extract_lets +onlyGivenNames y6
  clear_value y6
  extract_lets +onlyGivenNames y7
  clear_value y7
  refine presM_bind ?_ ?_
  · apply each_pres
    intro _
    refine presM_bind ?_ ?_
    · apply mapEntry_pres
    · intro _
      refine presM_ite ?_ ?_
      · apply writeLocal_pres
      · exact presM_pure _
  · intro _
    refine presM_modify ?_
    intro _
    intro _
    refine pres_mk_of ?_ rfl rfl rfl rfl rfl
    assumption

theorem decay_pres {a : State} (x0) (h0 : Pres a x0) : Pres a (decay x0) := by
  unfold decay
  refine pres_mk_of ?_ rfl rfl rfl rfl rfl
  assumption

theorem popStart_pres {a : State} (x0)  : PresM a (popStart x0) := by
  unfold popStart
  refine presM_get_bind ?_
  intro _
  intro _
  extract_lets +onlyGivenNames y5
  clear_value y5
  extract_lets +onlyGivenNames y6
  clear_value y6
  refine presM_bind ?_ ?_
  · apply failIf_pres
  · intro _
    refine presM_bind ?_ ?_
    · refine presM_ite ?_ ?_
      · apply coldBlocks_pres
      · exact presM_pure _
    · intro _
      extract_lets +onlyGivenNames y9
      clear_value y9
      refine presM_bind ?_ ?_
      · apply access_pres
      · intro _
        refine presM_bind ?_ ?_
        · apply writeT_pres
        · intro _
          refine presM_bind ?_ ?_
          · apply each_pres
            intro _
            apply writeT_pres
          · intro _
            dsimp only
            refine presM_ite ?_ ?_
            · refine presM_bind ?_ ?_
              · refine presM_ite ?_ ?_
                · apply clearAccess_pres
                · refine presM_modify ?_
                  intro _
                  intro _
                  apply decay_pres
                  assumption
              · intro _
                exact presM_pure _
            · exact presM_pure _

theorem listId_pres {a : State} (x0 x1 x2 x3 x4)  : PresM a (listId x0 x1 x2 x3 x4) := by
  unfold listId
  split
  · refine presM_bind ?_ ?_
    · apply readNat_pres
    · intro _
      refine presM_bind ?_ ?_
      · apply failIf_pres
      · intro _
        exact presM_pure _
  · refine presM_bind ?_ ?_
    · apply readNat_pres
    · intro _
      exact presM_pure _
  · refine presM_bind ?_ ?_
    · apply readNat_pres
    · intro _
      refine presM_bind ?_ ?_
      · apply readNat_pres
      · intro _
        exact presM_pure _

theorem updRow_pres {a : State} (x0 x1 x2 x3) (h0 : Pres a x0) : Pres a (updRow x0 x1 x2 x3) := by
  unfold updRow
  apply updG_pres
  assumption

theorem putOut_pres {a : State} (x0 x1 x2)  : PresM a (putOut x0 x1 x2) := by
  unfold putOut
  refine presM_bind ?_ ?_
  · apply writeT_pres
  · intro _
    apply count_pres

theorem landAt_pres {a : State} (x0 x1)  : PresM a (landAt x0 x1) := by
  unfold landAt
  refine presM_get_bind ?_
  intro _
  intro _
  dsimp only
  refine presM_ite ?_ ?_
  · exact presM_pure _
  · apply each_pres
    intro _
    apply putOut_pres

theorem missRow_pres {a : State} (x0 x1)  : PresM a (missRow x0 x1) := by
  unfold missRow
  refine presM_get_bind ?_
  intro _
  intro _
  refine presM_bind ?_ ?_
  · apply failIf_pres
  · intro _
    refine presM_bind ?_ ?_
    · apply count_pres
    · intro _
      refine presM_bind ?_ ?_
      · refine presM_modify ?_
        intro _
        intro _
        apply updRow_pres
        assumption
      · intro _
        apply landAt_pres

theorem cacheEntry_pres {a : State} (x0 x1 x2 x3) (h0 : Pres a x0) : Pres a (cacheEntry x0 x1 x2 x3) := by
  unfold cacheEntry
  extract_lets +onlyGivenNames y7
  clear_value y7
  extract_lets +onlyGivenNames y8
  (refine pres_absorb (a := a) y8 ?_ (fun _ => ?_); rotate_left; clear_value y8; rotate_right)
  · dsimp only [y8]
    apply bump_pres
    assumption
  · split
    extract_lets +onlyGivenNames y16
    clear_value y16
    refine pres_mk_of ?_ rfl rfl rfl rfl rfl
    refine pres_of_pair (by assumption) ?_
    apply takeFree_pres
    assumption

theorem readBlock_pres {a : State} (x0 x1 x2 x3 x4) (h4 : PresP a x4) : PresP a (readBlock x0 x1 x2 x3 x4) := by
  unfold readBlock
  refine presP_ite ?_ ?_
  · refine presP_mk ?_
    refine presP_fst ?_
    assumption
  · extract_lets +onlyGivenNames y8
    clear_value y8
    refine presP_mk ?_
    apply cacheEntry_pres
    apply countMem_pres
    refine presP_fst ?_
    assumption

theorem fetchBlock_pres {a : State} (x0 x1 x2 x3 x4) (h0 : Pres a x0) : PresP a (fetchBlock x0 x1 x2 x3 x4) := by
  unfold fetchBlock
  split
  · apply readBlock_pres
    apply meets_pres
    assumption
  · refine presP_mk ?_
    assumption

theorem lookupBlock_pres {a : State} (x0 x1 x2 x3) (h0 : Pres a x0) : PresP a (lookupBlock x0 x1 x2 x3) := by
  unfold lookupBlock
  split
  · refine presP_mk ?_
    assumption
  · apply fetchBlock_pres
    assumption

theorem resolveRow_pres {a : State} (x0 x1 x2 x3) (h0 : Pres a x0) : PresP a (resolveRow x0 x1 x2 x3) := by
  unfold resolveRow
  extract_lets +onlyGivenNames y7
  clear_value y7
  split
  · extract_lets +onlyGivenNames y18
    clear_value y18
    split
    · refine presP_mk ?_
      refine pres_of_pair (by assumption) ?_
      apply lookupBlock_pres
      assumption
    · refine presP_mk ?_
      refine pres_of_pair (by assumption) ?_
      apply lookupBlock_pres
      assumption
    · refine presP_ite ?_ ?_
      · refine presP_mk ?_
        refine pres_of_pair (by assumption) ?_
        apply lookupBlock_pres
        assumption
      · refine presP_mk ?_
        refine pres_of_pair (by assumption) ?_
        apply lookupBlock_pres
        assumption
  · refine presP_mk ?_
    assumption

theorem sendRow_pres {a : State} (x0 x1 x2 x3 x4)  : PresM a (sendRow x0 x1 x2 x3 x4) := by
  unfold sendRow
  refine presM_get_bind ?_
  intro _
  intro _
  extract_lets +onlyGivenNames y9
  clear_value y9
  extract_lets +onlyGivenNames y10
  clear_value y10
  split
  refine presM_ite ?_ ?_
  · refine presM_set ?_
    refine pres_of_pair (by assumption) ?_
    apply addReq_pres
    assumption
  · extract_lets +onlyGivenNames y17
    clear_value y17
    extract_lets +onlyGivenNames y18
    clear_value y18
    split
    · refine presM_set ?_
      refine pres_of_pair (by assumption) ?_
      apply sendMsg_pres
      refine pres_ite ?_ ?_
      · refine pres_of_pair (by assumption) ?_
        apply addReq_pres
        assumption
      · apply bump_pres
        refine pres_of_pair (by assumption) ?_
        apply addReq_pres
        assumption
    · refine presM_bind ?_ ?_
      · refine presM_set ?_
        refine pres_of_pair (by assumption) ?_
        apply sendMsg_pres
        refine pres_ite ?_ ?_
        · refine pres_of_pair (by assumption) ?_
          apply addReq_pres
          assumption
        · apply bump_pres
          refine pres_of_pair (by assumption) ?_
          apply addReq_pres
          assumption
      · intro _
        exact presM_throw _

theorem fetchRow_pres {a : State} (x0 x1)  : PresM a (fetchRow x0 x1) := by
  unfold fetchRow
  refine presM_get_bind ?_
  intro _
  intro _
  extract_lets +onlyGivenNames y6
  clear_value y6
  extract_lets +onlyGivenNames y7
  clear_value y7
  extract_lets +onlyGivenNames y8
  clear_value y8
  extract_lets +onlyGivenNames y9
  clear_value y9
  split
  · refine presM_bind ?_ ?_
    · apply missRow_pres
    · intro _
      exact presM_pure _
  · extract_lets +onlyGivenNames y16
    clear_value y16
    extract_lets +onlyGivenNames y17
    clear_value y17
    refine presM_bind ?_ ?_
    · refine presM_modify ?_
      intro _
      intro _
      apply updG_pres
      assumption
    · intro _
      refine presM_ite ?_ ?_
      · exact presM_pure _
      · refine presM_ite ?_ ?_
        · refine presM_ite ?_ ?_
          · exact presM_pure _
          · refine presM_bind ?_ ?_
            · refine presM_modify ?_
              intro _
              intro _
              apply updG_pres
              assumption
            · intro _
              refine presM_bind ?_ ?_
              · apply count_pres
              · intro _
                exact presM_pure _
        · refine presM_bind ?_ ?_
          · refine presM_modify ?_
            intro _
            intro _
            apply updRow_pres
            assumption
          · intro _
            refine presM_bind ?_ ?_
            · apply sendRow_pres
            · intro _
              exact presM_pure _

theorem fetchRows_pres {a : State} (x0 x1)  : PresM a (fetchRows x0 x1) := by
  induction x1 generalizing x0 with
  | nil =>
    unfold fetchRows
    exact presM_pure _
  | cons x xs ih =>
    unfold fetchRows
    refine presM_bind ?_ ?_
    · apply fetchRow_pres
    · intro _
      refine presM_ite ?_ ?_
      · apply ih
      · exact presM_pure _

theorem sendChecks_pres {a : State} (x0)  : PresM a (sendChecks x0) := by
  unfold sendChecks
  refine presM_get_bind ?_
  intro _
  intro _
  split
  · refine presM_ite ?_ ?_
    · apply each_pres
      intro _
      refine presM_ite ?_ ?_
      · refine presM_bind ?_ ?_
        · refine presM_modify ?_
          intro _
          intro _
          apply updRow_pres
          assumption
        · intro _
          split
          · apply sendRow_pres
          · exact presM_pure _
      · exact presM_pure _
    · exact presM_pure _
  · exact presM_pure _

theorem redoBags_pres {a : State} (x0)  : PresM a (redoBags x0) := by
  unfold redoBags
  refine presM_get_bind ?_
  intro _
  intro _
  dsimp only
  refine presM_modify ?_
  intro _
  intro _
  apply updG_pres
  assumption

theorem countIf_pres {a : State} (x0 x1 x2 x3)  : PresM a (countIf x0 x1 x2 x3) := by
  unfold countIf
  refine presM_ite ?_ ?_
  · apply count_pres
  · exact presM_pure _

theorem formBags_pres {a : State} (x0)  : PresM a (formBags x0) := by
  unfold formBags
  refine presM_get_bind ?_
  intro _
  intro _
  dsimp only
  refine presM_bind ?_ ?_
  · apply each_pres
    intro _
    refine presM_bind ?_ ?_
    · apply countIf_pres
    · intro _
      apply putOut_pres
  · intro _
    refine presM_modify ?_
    intro _
    intro _
    apply updG_pres
    assumption

theorem gatherGo_pres {a : State} (x0 x1)  : PresM a (gatherGo x0 x1) := by
  induction x1 generalizing x0 with
  | zero =>
    unfold gatherGo
    exact presM_pure _
  | succ x ih =>
    unfold gatherGo
    refine presM_get_bind ?_
    intro _
    intro _
    refine presM_bind ?_ ?_
    · apply fetchRows_pres
    · intro _
      refine presM_bind ?_ ?_
      · apply sendChecks_pres
      · intro _
        refine presM_get_bind ?_
        intro _
        intro _
        dsimp only
        refine presM_ite ?_ ?_
        · refine presM_bind ?_ ?_
          · apply formBags_pres
          · intro _
            refine presM_get_bind ?_
            intro _
            intro _
            refine presM_ite ?_ ?_
            · exact presM_pure _
            · refine presM_ite ?_ ?_
              · exact presM_pure _
              · refine presM_bind ?_ ?_
                · apply redoBags_pres
                · intro _
                  apply ih
        · refine presM_get_bind ?_
          intro _
          intro _
          refine presM_ite ?_ ?_
          · exact presM_pure _
          · refine presM_ite ?_ ?_
            · exact presM_pure _
            · refine presM_bind ?_ ?_
              · apply redoBags_pres
              · intro _
                apply ih

theorem bagOffsets_pres {a : State} (x0)  : PresM a (bagOffsets x0) := by
  unfold bagOffsets
  refine presM_bind ?_ ?_
  · apply collect_pres
    intro _
    apply readNat_pres
  · intro _
    refine presM_bind ?_ ?_
    · apply failIf_pres
    · intro _
      exact presM_pure _

theorem gatherStart_pres {a : State} (x0)  : PresM a (gatherStart x0) := by
  unfold gatherStart
  dsimp only
  refine presM_ite ?_ ?_
  · refine presM_bind ?_ ?_
    · apply bagOffsets_pres
    · intro _
      refine presM_bind ?_ ?_
      · apply collect_pres
        intro _
        apply listId_pres
      · intro _
        refine presM_ite ?_ ?_
        · refine presM_bind ?_ ?_
          · apply collect_pres
            intro _
            apply readNat_pres
          · intro _
            refine presM_get_bind ?_
            intro _
            intro _
            refine presM_bind ?_ ?_
            · refine presM_modify ?_
              intro _
              intro _
              apply updG_pres
              assumption
            · intro _
              refine presM_bind ?_ ?_
              · apply count_pres
              · intro _
                apply gatherGo_pres
        · refine presM_bind ?_ ?_
          · exact presM_pure _
          · intro _
            refine presM_get_bind ?_
            intro _
            intro _
            refine presM_bind ?_ ?_
            · refine presM_modify ?_
              intro _
              intro _
              apply updG_pres
              assumption
            · intro _
              refine presM_bind ?_ ?_
              · apply count_pres
              · intro _
                apply gatherGo_pres
  · refine presM_bind ?_ ?_
    · exact presM_pure _
    · intro _
      refine presM_bind ?_ ?_
      · apply collect_pres
        intro _
        apply listId_pres
      · intro _
        refine presM_ite ?_ ?_
        · refine presM_bind ?_ ?_
          · apply collect_pres
            intro _
            apply readNat_pres
          · intro _
            refine presM_get_bind ?_
            intro _
            intro _
            refine presM_bind ?_ ?_
            · refine presM_modify ?_
              intro _
              intro _
              apply updG_pres
              assumption
            · intro _
              refine presM_bind ?_ ?_
              · apply count_pres
              · intro _
                apply gatherGo_pres
        · refine presM_bind ?_ ?_
          · exact presM_pure _
          · intro _
            refine presM_get_bind ?_
            intro _
            intro _
            refine presM_bind ?_ ?_
            · refine presM_modify ?_
              intro _
              intro _
              apply updG_pres
              assumption
            · intro _
              refine presM_bind ?_ ?_
              · apply count_pres
              · intro _
                apply gatherGo_pres

theorem rowStart_pres {a : State} (x0)  : PresM a (rowStart x0) := by
  unfold rowStart
  split
  · apply popStart_pres
  · exact presM_pure _
  · apply gatherStart_pres

theorem rowRun_pres {a : State} (x0 x1) (h0 : ∀ y, PresM a (x0 y)) : PresM a (rowRun x0 x1) := by
  unfold rowRun
  refine presM_bind ?_ ?_
  · apply_assumption
  · intro _
    refine presM_bind ?_ ?_
    · apply rowIssue_pres
    · intro _
      apply catchFenced_pres
      refine presM_get_bind ?_
      intro _
      intro _
      refine presM_ite ?_ ?_
      · refine presM_bind ?_ ?_
        · apply ownOp_pres
        · intro _
          exact presM_pure _
      · refine presM_bind ?_ ?_
        · apply rowStart_pres
        · intro _
          exact presM_pure _

theorem gatherAddrs_pres {a : State} (x0)  : PresM a (gatherAddrs x0) := by
  unfold gatherAddrs
  refine presM_get_bind ?_
  intro _
  intro _
  dsimp only
  refine presM_bind ?_ ?_
  · apply faultIf_pres
  · intro _
    refine presM_bind ?_ ?_
    · apply faultIf_pres
    · intro _
      refine presM_bind ?_ ?_
      · apply faultIf_pres
      · intro _
        refine presM_bind ?_ ?_
        · apply faultIf_pres
        · intro _
          apply faultIf_pres

theorem execRowGather_pres {a : State} (x0 x1 x2) (h2 : Pres a x2) : PresX a (execRowGather x0 x1 x2) := by
  unfold execRowGather
  refine presX_next ?_
  apply issueCmd_pres
  · intro _
    dsimp only [gatherDef]
    apply rowRun_pres
    intro _
    apply gatherAddrs_pres
  · assumption

theorem execRowGatherPool_pres {a : State} (x0 x1 x2) (h2 : Pres a x2) : PresX a (execRowGatherPool x0 x1 x2) := by
  unfold execRowGatherPool
  refine presX_next ?_
  apply issueCmd_pres
  · intro _
    dsimp only [gatherDef]
    apply rowRun_pres
    intro _
    apply gatherAddrs_pres
  · assumption

theorem scatterTouch_pres {a : State} (x0)  : PresM a (scatterTouch x0) := by
  unfold scatterTouch
  apply winTouch_pres

theorem taintLate_pres {a : State} (x0 x1 x2) (h2 : PresM a x2) : PresM a (taintLate x0 x1 x2) := by
  constructor
  intro s hs
  have h := h2.run s hs
  unfold taintLate
  cases e : x2 s with
  | ok v s' => rw [e] at h; exact h
  | error f s' =>
    rw [e] at h
    dsimp only [resState] at h ⊢
    exact pres_ite (taint_pres _ _ h) h

theorem gradRow_pres {a : State} (x0 x1 x2)  : PresM a (gradRow x0 x1 x2) := by
  unfold gradRow
  dsimp only
  refine presM_bind ?_ ?_
  · apply readNat_pres
  · intro _
    exact presM_pure _

theorem contribute_pres {a : State} (x0 x1 x2 x3 x4)  : PresM a (contribute x0 x1 x2 x3 x4) := by
  unfold contribute
  refine presM_get_bind ?_
  intro _
  intro _
  dsimp only
  refine presM_ite ?_ ?_
  · refine presM_bind ?_ ?_
    · apply holdIf_pres
    · intro _
      refine presM_bind ?_ ?_
      · apply faultIf_pres
      · intro _
        refine presM_ite ?_ ?_
        · refine presM_bind ?_ ?_
          · refine presM_modify ?_
            intro _
            intro _
            apply taint_pres
            assumption
          · intro _
            refine presM_bind ?_ ?_
            · apply failWith_pres
            · intro _
              refine presM_ite ?_ ?_
              · refine presM_bind ?_ ?_
                · refine presM_modify ?_
                  intro _
                  intro _
                  apply bump_pres
                  apply taint_pres
                  assumption
                · intro _
                  refine presM_bind ?_ ?_
                  · apply failWith_pres
                  · intro _
                    refine presM_bind ?_ ?_
                    · refine presM_modify ?_
                      intro _
                      intro _
                      apply updSlot_pres
                      refine pres_mk_of ?_ rfl rfl rfl rfl rfl
                      assumption
                    · intro _
                      refine presM_bind ?_ ?_
                      · apply count_pres
                      · intro _
                        apply ownOp_pres
              · refine presM_bind ?_ ?_
                · refine presM_modify ?_
                  intro _
                  intro _
                  apply updSlot_pres
                  refine pres_mk_of ?_ rfl rfl rfl rfl rfl
                  assumption
                · intro _
                  refine presM_bind ?_ ?_
                  · apply count_pres
                  · intro _
                    apply ownOp_pres
        · refine presM_ite ?_ ?_
          · refine presM_bind ?_ ?_
            · refine presM_modify ?_
              intro _
              intro _
              apply bump_pres
              apply taint_pres
              assumption
            · intro _
              refine presM_bind ?_ ?_
              · apply failWith_pres
              · intro _
                refine presM_bind ?_ ?_
                · refine presM_modify ?_
                  intro _
                  intro _
                  apply updSlot_pres
                  refine pres_mk_of ?_ rfl rfl rfl rfl rfl
                  assumption
                · intro _
                  refine presM_bind ?_ ?_
                  · apply count_pres
                  · intro _
                    apply ownOp_pres
          · refine presM_bind ?_ ?_
            · refine presM_modify ?_
              intro _
              intro _
              apply updSlot_pres
              refine pres_mk_of ?_ rfl rfl rfl rfl rfl
              assumption
            · intro _
              refine presM_bind ?_ ?_
              · apply count_pres
              · intro _
                apply ownOp_pres
  · refine presM_ite ?_ ?_
    · refine presM_bind ?_ ?_
      · refine presM_modify ?_
        intro _
        intro _
        apply bump_pres
        apply taint_pres
        assumption
      · intro _
        refine presM_bind ?_ ?_
        · apply failWith_pres
        · intro _
          refine presM_bind ?_ ?_
          · refine presM_modify ?_
            intro _
            intro _
            apply updSlot_pres
            refine pres_mk_of ?_ rfl rfl rfl rfl rfl
            assumption
          · intro _
            refine presM_bind ?_ ?_
            · apply count_pres
            · intro _
              apply ownOp_pres
    · refine presM_bind ?_ ?_
      · refine presM_modify ?_
        intro _
        intro _
        apply updSlot_pres
        refine pres_mk_of ?_ rfl rfl rfl rfl rfl
        assumption
      · intro _
        refine presM_bind ?_ ?_
        · apply count_pres
        · intro _
          apply ownOp_pres

theorem scatterOne_pres {a : State} (x0 x1 x2 x3 x4 x5)  : PresM a (scatterOne x0 x1 x2 x3 x4 x5) := by
  unfold scatterOne
  refine presM_get_bind ?_
  intro _
  intro _
  refine presM_bind ?_ ?_
  · apply listId_pres
  · intro _
    split
    · refine presM_ite ?_ ?_
      · apply count_pres
      · apply failWith_pres
    · refine presM_bind ?_ ?_
      · apply gradRow_pres
      · intro _
        dsimp only
        refine presM_ite ?_ ?_
        · refine presM_bind ?_ ?_
          · apply readNat_pres
          · intro _
            refine presM_bind ?_ ?_
            · exact presM_pure _
            · intro _
              apply contribute_pres
        · refine presM_bind ?_ ?_
          · exact presM_pure _
          · intro _
            apply contribute_pres

theorem scatterAll_pres {a : State} (x0 x1 x2)  : PresM a (scatterAll x0 x1 x2) := by
  unfold scatterAll
  refine presM_ite ?_ ?_
  · apply each_pres
    intro _
    apply scatterOne_pres
  · refine presM_bind ?_ ?_
    · apply bagOffsets_pres
    · intro _
      apply each_pres
      intro _
      apply each_pres
      intro _
      apply scatterOne_pres

theorem takeGrants_pres {a : State} (x0) : PresM a (takeGrants x0) := by
  unfold takeGrants
  refine presM_get_bind ?_
  intro _
  intro _
  dsimp only
  refine presM_bind ?_ ?_
  · apply ownOp_pres
  · intro _
    exact presM_pure _

theorem scatterRun_pres {a : State} (x0)  : PresM a (scatterRun x0) := by
  unfold scatterRun
  refine presM_get_bind ?_
  intro _
  intro _
  extract_lets +onlyGivenNames y5
  clear_value y5
  extract_lets +onlyGivenNames y6
  clear_value y6
  refine presM_bind ?_ ?_
  · apply faultIf_pres
  · intro _
    refine presM_bind ?_ ?_
    · apply faultIf_pres
    · intro _
      refine presM_bind ?_ ?_
      · apply faultIf_pres
      · intro _
        refine presM_bind ?_ ?_
        · apply faultIf_pres
        · intro _
          refine presM_bind ?_ ?_
          · apply faultIf_pres
          · intro _
            extract_lets +onlyGivenNames y12
            clear_value y12
            refine presM_bind ?_ ?_
            · apply failIf_pres
            · intro _
              refine presM_bind ?_ ?_
              · apply faultIf_pres
              · intro _
                refine presM_bind ?_ ?_
                · apply failIf_pres
                · intro _
                  refine presM_bind ?_ ?_
                  · apply failIf_pres
                  · intro _
                    refine presM_bind ?_ ?_
                    · refine presM_modify ?_
                      intro _
                      intro _
                      refine pres_mk_of ?_ rfl rfl rfl rfl rfl
                      assumption
                    · intro _
                      refine presM_bind ?_ ?_
                      · apply taintLate_pres
                        apply scatterAll_pres
                      · intro _
                        refine presM_bind ?_ ?_
                        · apply takeGrants_pres
                        · intro _
                          exact presM_pure _

theorem execRowScatter_pres {a : State} (x0 x1 x2) (h2 : Pres a x2) : PresX a (execRowScatter x0 x1 x2) := by
  unfold execRowScatter
  refine presX_next ?_
  apply issueCmd_pres
  · intro _
    dsimp only [scatterDef]
    apply scatterRun_pres
  · assumption

theorem denseRecords_pres {a : State} (x0 x1 x2)  : PresM a (denseRecords x0 x1 x2) := by
  unfold denseRecords
  refine presM_get_bind ?_
  intro _
  intro _
  dsimp only
  refine presM_bind ?_ ?_
  · apply each_pres
    intro _
    refine presM_bind ?_ ?_
    · apply readLocal_pres
    · intro _
      refine presM_modify ?_
      intro _
      intro _
      apply journal_pres
      assumption
  · intro _
    exact presM_pure _

theorem updateOut_pres {a : State} (x0 x1 x2 x3 x4 x5 x6) (h0 : Pres a x0) : PresP a (updateOut x0 x1 x2 x3 x4 x5 x6) := by
  unfold updateOut
  apply sendPieces_pres
  assumption

theorem sendUpdate_pres {a : State} (x0 x1 x2)  : PresM a (sendUpdate x0 x1 x2) := by
  unfold sendUpdate
  refine presM_get_bind ?_
  intro _
  intro _
  dsimp only
  refine presM_ite ?_ ?_
  · refine presM_set ?_
    refine presP_fst ?_
    apply addReq_pres
    apply bump_pres
    assumption
  · split
    · refine presM_set ?_
      refine pres_of_pair (by assumption) ?_
      apply updateOut_pres
      refine presP_fst ?_
      apply addReq_pres
      apply bump_pres
      assumption
    · refine presM_bind ?_ ?_
      · refine presM_set ?_
        refine pres_of_pair (by assumption) ?_
        apply updateOut_pres
        refine presP_fst ?_
        apply addReq_pres
        apply bump_pres
        assumption
      · intro _
        exact presM_throw _

theorem flushUnit_pres {a : State} (x0 x1 x2 x3)  : PresM a (flushUnit x0 x1 x2 x3) := by
  unfold flushUnit
  refine presM_get_bind ?_
  intro _
  intro _
  extract_lets +onlyGivenNames y8
  clear_value y8
  refine presM_bind ?_ ?_
  · apply ownOp_pres
  · intro _
    refine presM_get_bind ?_
    intro _
    intro _
    extract_lets +onlyGivenNames y12
    clear_value y12
    refine presM_bind ?_ ?_
    · refine presM_modify ?_
      intro _
      intro _
      refine pres_mk_of ?_ rfl rfl rfl rfl rfl
      assumption
    · intro _
      extract_lets +onlyGivenNames y14
      clear_value y14
      refine presM_bind ?_ ?_
      · apply each_pres
        intro _
        apply sendUpdate_pres
      · intro _
        exact presM_pure _

theorem flushRun_pres {a : State} (x0)  : PresM a (flushRun x0) := by
  unfold flushRun
  refine presM_get_bind ?_
  intro _
  intro _
  extract_lets +onlyGivenNames y5
  clear_value y5
  extract_lets +onlyGivenNames y6
  clear_value y6
  refine presM_ite ?_ ?_
  · refine presM_bind ?_ ?_
    · apply failIf_pres
    · intro _
      refine presM_bind ?_ ?_
      · apply failIf_pres
      · intro _
        refine presM_bind ?_ ?_
        · refine presM_modify ?_
          intro _
          intro _
          apply updStep_pres
          assumption
        · intro _
          refine presM_bind ?_ ?_
          · apply denseRecords_pres
          · intro _
            exact presM_pure _
  · extract_lets +onlyGivenNames y7
    clear_value y7
    refine presM_bind ?_ ?_
    · apply failIf_pres
    · intro _
      refine presM_bind ?_ ?_
      · apply failIf_pres
      · intro _
        refine presM_bind ?_ ?_
        · apply failIf_pres
        · intro _
          refine presM_bind ?_ ?_
          · refine presM_modify ?_
            intro _
            intro _
            refine pres_mk_of ?_ rfl rfl rfl rfl rfl
            assumption
          · intro _
            refine presM_bind ?_ ?_
            · apply collect_pres
              intro _
              apply flushUnit_pres
            · intro _
              refine presM_bind ?_ ?_
              · apply onDone_pres
              · intro _
                refine presM_bind ?_ ?_
                · apply takeGrants_pres
                · intro _
                  exact presM_pure _

end Sys2Proof.Machine
end

