-- ==== Sys2Proof/Laws/Kept3.lean ====
section
/-!
SUPPORT. What the functions of the machine keep, flushTaint to endWalk: one lemma a function, each over the lemmas of those it calls.
-/
namespace Sys2Proof.Machine
open Sys2Proof

theorem flushTaint_pres {a : State} (x0)  : PresM a (flushTaint x0) := by
  unfold flushTaint
  refine presM_fun (fun _ _ => ?_)
  split
  · dsimp only [resState]
    refine presM_ok (by assumption) ?_ ?_
    · apply flushRun_pres
    · assumption
  · dsimp only [resState]
    refine pres_ite ?_ ?_
    · apply taint_pres
      refine presM_error (by assumption) ?_ ?_
      · apply flushRun_pres
      · assumption
    · refine presM_error (by assumption) ?_ ?_
      · apply flushRun_pres
      · assumption

theorem execRowMergeFlush_pres {a : State} (x0 x1 x2) (h2 : Pres a x2) : PresX a (execRowMergeFlush x0 x1 x2) := by
  unfold execRowMergeFlush
  refine presX_next ?_
  apply issueCmd_pres
  · intro _
    dsimp only [flushDef]
    apply flushTaint_pres
  · assumption

theorem moveAddrs_pres {a : State} (x0)  : PresM a (moveAddrs x0) := by
  unfold moveAddrs
  refine presM_ite ?_ ?_
  · apply failAt_pres
  · exact presM_pure _

theorem execRowMove_pres {a : State} (x0 x1 x2) (h2 : Pres a x2) : PresX a (execRowMove x0 x1 x2) := by
  unfold execRowMove
  refine presX_next ?_
  apply issueCmd_pres
  · intro _
    dsimp only [moveDef]
    apply rowRun_pres
    intro _
    apply moveAddrs_pres
  · assumption

theorem popAddrs_pres {a : State} (x0)  : PresM a (popAddrs x0) := by
  unfold popAddrs
  refine presM_ite ?_ ?_
  · apply failAt_pres
  · exact presM_pure _

theorem execRowPopRead_pres {a : State} (x0 x1 x2) (h2 : Pres a x2) : PresX a (execRowPopRead x0 x1 x2) := by
  unfold execRowPopRead
  refine presX_next ?_
  apply issueCmd_pres
  · intro _
    dsimp only [popDef]
    apply rowRun_pres
    intro _
    apply popAddrs_pres
  · assumption

theorem collTouch_pres {a : State} (x0)  : PresM a (collTouch x0) := by
  unfold collTouch
  refine presM_get_bind ?_
  intro _
  intro _
  dsimp only
  exact presM_pure _

theorem fieldIf_pres {a : State} (x0)  : PresM a (fieldIf x0) := by
  unfold fieldIf
  split
  · exact presM_throw _
  · exact presM_pure _

theorem collDest_pres {a : State} (x0 x1 x2)  : PresM a (collDest x0 x1 x2) := by
  unfold collDest
  refine presM_ite ?_ ?_
  · refine presM_bind ?_ ?_
    · apply access_pres
    · intro _
      refine presM_modify ?_
      intro _
      intro _
      apply noteWrote_pres
      assumption
  · exact presM_pure _

theorem putColl_pres {a : State} (x0 x1 x2) (h0 : Pres a x0) : Pres a (putColl x0 x1 x2) := by
  unfold putColl
  refine pres_mk_of ?_ rfl rfl rfl rfl rfl
  assumption

theorem collFrags_pres {a : State} (x0 x1 x2 x3 x4 x5 x6) (h0 : Pres a x0) : PresP a (collFrags x0 x1 x2 x3 x4 x5 x6) := by
  induction x5 generalizing x0 x1 x2 x3 x4 x6 with
  | nil =>
    unfold collFrags
    refine presP_mk ?_
    assumption
  | cons x xs ih =>
    unfold collFrags
    extract_lets +onlyGivenNames y18
    clear_value y18
    extract_lets +onlyGivenNames y19
    clear_value y19
    extract_lets +onlyGivenNames y20
    clear_value y20
    extract_lets +onlyGivenNames y21
    clear_value y21
    dsimp only
    refine presP_ite ?_ ?_
    · apply ih
      apply bump_pres
      refine presP_fst ?_
      apply addReq_pres
      assumption
    · split
      · apply ih
        apply bump_pres
        refine pres_of_pair (by assumption) ?_
        apply sendMsg_pres
        refine presP_fst ?_
        apply addReq_pres
        assumption
      · refine presP_mk ?_
        apply dropReq_pres
        refine pres_of_pair (by assumption) ?_
        apply sendMsg_pres
        refine presP_fst ?_
        apply addReq_pres
        assumption

theorem collSend_pres {a : State} (x0 x1 x2 x3 x4 x5 x6) (h0 : Pres a x0) : PresP a (collSend x0 x1 x2 x3 x4 x5 x6) := by
  unfold collSend
  apply collFrags_pres
  assumption

theorem endColl_pres {a : State} (x0 x1) (h0 : Pres a x0) : Pres a (endColl x0 x1) := by
  unfold endColl
  apply putColl_pres
  assumption

theorem collFault_pres {a : State} (x0 x1 x2 x3) (h0 : Pres a x0) : Pres a (collFault x0 x1 x2 x3) := by
  unfold collFault
  dsimp only
  split
  · split
    · apply dropOp_pres
      apply engineFault_pres
      apply putColl_pres
      assumption
    · apply putColl_pres
      assumption
  · apply putColl_pres
    assumption

theorem collMismatch_pres {a : State} (x0 x1 x2 x3) (h0 : Pres a x0) : Pres a (collMismatch x0 x1 x2 x3) := by
  unfold collMismatch
  dsimp only
  apply collFault_pres
  refine pres_ite ?_ ?_
  · refine pres_foldl ?_ ?_
    · apply bump_pres
      assumption
    · intro _
      intro _
      intro _
      refine presP_fst ?_
      apply collFrags_pres
      assumption
  · apply bump_pres
    assumption

theorem axisMismatch_pres {a : State} (x0 x1 x2 x3 x4) (h0 : Pres a x0) : Pres a (axisMismatch x0 x1 x2 x3 x4) := by
  unfold axisMismatch
  extract_lets +onlyGivenNames y8
  clear_value y8
  extract_lets +onlyGivenNames y9
  clear_value y9
  apply collMismatch_pres
  refine pres_foldl ?_ ?_
  · assumption
  · intro _
    intro _
    intro _
    refine presP_fst ?_
    apply collFrags_pres
    assumption

theorem remoteTo_pres {a : State} (x0 x1 x2 x3) (h0 : Pres a x0) : Pres a (remoteTo x0 x1 x2 x3) := by
  unfold remoteTo
  refine pres_ite ?_ ?_
  · assumption
  · apply remoteIn_pres
    assumption

theorem serveWrite_pres {a : State} (x0 x1 x2 x3 x4 x5) (h0 : Pres a x0) : PresP a (serveWrite x0 x1 x2 x3 x4 x5) := by
  unfold serveWrite
  refine presP_ite ?_ ?_
  · split
    · refine presP_mk ?_
      apply carryAccess_pres
      apply bump_pres
      refine pres_of_pair (by assumption) ?_
      apply wrHost_pres
      assumption
    · refine presP_mk ?_
      refine pres_of_pair (by assumption) ?_
      apply wrHost_pres
      assumption
  · refine presP_ite ?_ ?_
    · refine presP_mk ?_
      assumption
    · split
      · refine presP_ite ?_ ?_
        · refine presP_mk ?_
          apply noteFenced_pres
          assumption
        · refine presP_mk ?_
          assumption
      · split
        refine presP_ite ?_ ?_
        · refine presP_mk ?_
          refine pres_of_pair (by assumption) ?_
          apply meets_pres
          assumption
        · refine presP_mk ?_
          apply clearPoison_pres
          apply wrBytes_pres
          apply remoteTo_pres
          apply countMem_pres
          refine pres_of_pair (by assumption) ?_
          apply meets_pres
          assumption

theorem collEnd_pres {a : State} (x0 x1) (h0 : Pres a x0) : Pres a (collEnd x0 x1) := by
  unfold collEnd
  split
  · split
    · refine pres_ite ?_ ?_
      · dsimp only
        apply opAnswered_pres
        apply bump_pres
        apply putColl_pres
        refine pres_ite ?_ ?_
        · refine pres_mk_of ?_ rfl rfl rfl rfl rfl
          assumption
        · assumption
      · assumption
    · assumption
  · assumption

theorem collWrite_pres {a : State} (x0 x1 x2 x3) (h0 : Pres a x0) : Pres a (collWrite x0 x1 x2 x3) := by
  unfold collWrite
  split
  · split
    · dsimp only
      split
      · apply collEnd_pres
        apply putColl_pres
        refine pres_of_pair (by assumption) ?_
        apply serveWrite_pres
        assumption
      · apply collFault_pres
        refine pres_of_pair (by assumption) ?_
        apply serveWrite_pres
        assumption
      · apply collFault_pres
        refine pres_of_pair (by assumption) ?_
        apply serveWrite_pres
        assumption
    · assumption
  · assumption

theorem collDeliver_pres {a : State} (x0 x1 x2 x3) (h0 : Pres a x0) : Pres a (collDeliver x0 x1 x2 x3) := by
  unfold collDeliver
  split
  · dsimp only
    refine pres_ite ?_ ?_
    · apply collFault_pres
      refine presP_fst ?_
      refine presP_foldl ?_ ?_
      · refine presP_mk ?_
        apply putColl_pres
        assumption
      · intro _
        intro _
        intro _
        refine presP_mk ?_
        refine presP_fst ?_
        apply collSend_pres
        refine presP_fst ?_
        assumption
    · refine pres_ite ?_ ?_
      · apply collWrite_pres
        refine presP_fst ?_
        refine presP_foldl ?_ ?_
        · refine presP_mk ?_
          apply putColl_pres
          assumption
        · intro _
          intro _
          intro _
          refine presP_mk ?_
          refine presP_fst ?_
          apply collSend_pres
          refine presP_fst ?_
          assumption
      · apply collEnd_pres
        refine presP_fst ?_
        refine presP_foldl ?_ ?_
        · refine presP_mk ?_
          apply putColl_pres
          assumption
        · intro _
          intro _
          intro _
          refine presP_mk ?_
          refine presP_fst ?_
          apply collSend_pres
          refine presP_fst ?_
          assumption
  · assumption

theorem collAdd_pres {a : State} (x0 x1 x2) (h0 : Pres a x0) : Pres a (collAdd x0 x1 x2) := by
  unfold collAdd
  split
  · dsimp only
    refine pres_ite ?_ ?_
    · refine pres_ite ?_ ?_
      · apply collDeliver_pres
        apply bump_pres
        assumption
      · assumption
    · refine pres_ite ?_ ?_
      · apply collDeliver_pres
        apply putColl_pres
        refine presP_fst ?_
        refine presP_foldl ?_ ?_
        · refine presP_mk ?_
          assumption
        · intro _
          intro _
          intro _
          refine presP_ite ?_ ?_
          · assumption
          · split
            · refine presP_mk ?_
              refine presP_fst ?_
              assumption
            · refine presP_mk ?_
              apply bump_pres
              refine presP_fst ?_
              assumption
      · apply putColl_pres
        refine presP_fst ?_
        refine presP_foldl ?_ ?_
        · refine presP_mk ?_
          assumption
        · intro _
          intro _
          intro _
          refine presP_ite ?_ ?_
          · assumption
          · split
            · refine presP_mk ?_
              refine presP_fst ?_
              assumption
            · refine presP_mk ?_
              apply bump_pres
              refine presP_fst ?_
              assumption
  · assumption

theorem collTake_pres {a : State} (x0 x1 x2 x3) (h0 : Pres a x0) : Pres a (collTake x0 x1 x2 x3) := by
  unfold collTake
  split
  · refine pres_ite ?_ ?_
    · assumption
    · dsimp only
      refine pres_ite ?_ ?_
      · apply collMismatch_pres
        assumption
      · refine pres_ite ?_ ?_
        · apply collWrite_pres
          assumption
        · apply collAdd_pres
          apply putColl_pres
          assumption
  · assumption

theorem collRun_pres {a : State} (x0)  : PresM a (collRun x0) := by
  unfold collRun
  refine presM_get_bind ?_
  intro _
  intro _
  extract_lets +onlyGivenNames y5
  clear_value y5
  extract_lets +onlyGivenNames y6
  clear_value y6
  extract_lets +onlyGivenNames y7
  clear_value y7
  extract_lets +onlyGivenNames y8
  clear_value y8
  extract_lets +onlyGivenNames y9
  clear_value y9
  extract_lets +onlyGivenNames y10
  clear_value y10
  extract_lets +onlyGivenNames y11
  clear_value y11
  extract_lets +onlyGivenNames y12
  clear_value y12
  extract_lets +onlyGivenNames y13
  clear_value y13
  refine presM_bind ?_ ?_
  · apply fieldIf_pres
  · intro _
    refine presM_bind ?_ ?_
    · apply faultIf_pres
    · intro _
      refine presM_bind ?_ ?_
      · apply faultIf_pres
      · intro _
        refine presM_bind ?_ ?_
        · apply failIf_pres
        · intro _
          refine presM_bind ?_ ?_
          · apply failIf_pres
          · intro _
            refine presM_bind ?_ ?_
            · apply failIf_pres
            · intro _
              extract_lets +onlyGivenNames y20
              clear_value y20
              refine presM_bind ?_ ?_
              · apply holdIf_pres
              · intro _
                refine presM_bind ?_ ?_
                · apply access_pres
                · intro _
                  refine presM_bind ?_ ?_
                  · apply holdIf_pres
                  · intro _
                    refine presM_bind ?_ ?_
                    · apply collDest_pres
                    · intro _
                      refine presM_bind ?_ ?_
                      · apply readRaw_pres
                      · intro _
                        extract_lets +onlyGivenNames y26
                        clear_value y26
                        refine presM_bind ?_ ?_
                        · apply ownOp_pres
                        · intro _
                          refine presM_bind ?_ ?_
                          · refine presM_modify ?_
                            intro _
                            intro _
                            extract_lets +onlyGivenNames y30
                            (refine pres_absorb (a := a) y30 ?_ (fun _ => ?_); rotate_left; clear_value y30; rotate_right)
                            · dsimp only [y30]
                              refine pres_ite ?_ ?_
                              · refine pres_mk_of ?_ rfl rfl rfl rfl rfl
                                assumption
                              · assumption
                            · extract_lets +onlyGivenNames y32
                              (refine pres_absorb (a := a) y32 ?_ (fun _ => ?_); rotate_left; clear_value y32; rotate_right)
                              · dsimp only [y32]
                                refine pres_ite ?_ ?_
                                · assumption
                                · apply bump_pres
                                  assumption
                              · apply putColl_pres
                                assumption
                          · intro _
                            refine presM_get_bind ?_
                            intro _
                            intro _
                            extract_lets +onlyGivenNames y31
                            clear_value y31
                            split
                            refine presM_bind ?_ ?_
                            · refine presM_set ?_
                              refine pres_of_pair (by assumption) ?_
                              refine presP_foldl ?_ ?_
                              · refine presP_mk ?_
                                assumption
                              · intro _
                                intro _
                                intro _
                                refine presP_ite ?_ ?_
                                · assumption
                                · split
                                  refine presP_mk ?_
                                  refine pres_of_pair (by assumption) ?_
                                  refine presP_ite ?_ ?_
                                  · apply collSend_pres
                                    refine presP_fst ?_
                                    assumption
                                  · apply collSend_pres
                                    refine presP_fst ?_
                                    assumption
                            · intro _
                              dsimp only
                              refine presM_ite ?_ ?_
                              · refine presM_bind ?_ ?_
                                · refine presM_modify ?_
                                  intro _
                                  intro _
                                  apply endColl_pres
                                  assumption
                                · intro _
                                  refine presM_bind ?_ ?_
                                  · exact presM_throw _
                                  · intro _
                                    refine presM_bind ?_ ?_
                                    · refine presM_modify ?_
                                      intro _
                                      intro _
                                      apply collEnd_pres
                                      refine pres_ite ?_ ?_
                                      · apply collWrite_pres
                                        refine pres_foldl ?_ ?_
                                        · refine pres_foldl ?_ ?_
                                          · assumption
                                          · intro _
                                            intro _
                                            intro _
                                            apply axisMismatch_pres
                                            assumption
                                        · intro _
                                          intro _
                                          intro _
                                          apply collTake_pres
                                          assumption
                                      · refine pres_foldl ?_ ?_
                                        · refine pres_foldl ?_ ?_
                                          · refine pres_foldl ?_ ?_
                                            · assumption
                                            · intro _
                                              intro _
                                              intro _
                                              apply axisMismatch_pres
                                              assumption
                                          · intro _
                                            intro _
                                            intro _
                                            apply collTake_pres
                                            assumption
                                        · intro _
                                          intro _
                                          intro _
                                          apply collTake_pres
                                          assumption
                                    · intro _
                                      exact presM_pure _
                              · refine presM_bind ?_ ?_
                                · refine presM_modify ?_
                                  intro _
                                  intro _
                                  apply collEnd_pres
                                  refine pres_ite ?_ ?_
                                  · apply collWrite_pres
                                    refine pres_foldl ?_ ?_
                                    · refine pres_foldl ?_ ?_
                                      · assumption
                                      · intro _
                                        intro _
                                        intro _
                                        apply axisMismatch_pres
                                        assumption
                                    · intro _
                                      intro _
                                      intro _
                                      apply collTake_pres
                                      assumption
                                  · refine pres_foldl ?_ ?_
                                    · refine pres_foldl ?_ ?_
                                      · refine pres_foldl ?_ ?_
                                        · assumption
                                        · intro _
                                          intro _
                                          intro _
                                          apply axisMismatch_pres
                                          assumption
                                      · intro _
                                        intro _
                                        intro _
                                        apply collTake_pres
                                        assumption
                                    · intro _
                                      intro _
                                      intro _
                                      apply collTake_pres
                                      assumption
                                · intro _
                                  exact presM_pure _

theorem collIssue_pres {a : State} (x0 x1 x2 x3) (h3 : Pres a x3) : Pres a (collIssue x0 x1 x2 x3) := by
  unfold collIssue
  apply issueCmd_pres
  · intro _
    dsimp only [collDef]
    apply collRun_pres
  · assumption

theorem execColReduce_pres {a : State} (x0 x1 x2) (h2 : Pres a x2) : PresX a (execColReduce x0 x1 x2) := by
  unfold execColReduce
  refine presX_next ?_
  apply collIssue_pres
  assumption

theorem execColAllreduce_pres {a : State} (x0 x1 x2) (h2 : Pres a x2) : PresX a (execColAllreduce x0 x1 x2) := by
  unfold execColAllreduce
  refine presX_next ?_
  apply collIssue_pres
  assumption

theorem execColReduceScatter_pres {a : State} (x0 x1 x2) (h2 : Pres a x2) : PresX a (execColReduceScatter x0 x1 x2) := by
  unfold execColReduceScatter
  refine presX_next ?_
  apply collIssue_pres
  assumption

theorem execColAllgather_pres {a : State} (x0 x1 x2) (h2 : Pres a x2) : PresX a (execColAllgather x0 x1 x2) := by
  unfold execColAllgather
  refine presX_next ?_
  apply collIssue_pres
  assumption

theorem fillRun_pres {a : State} (x0)  : PresM a (fillRun x0) := by
  unfold fillRun
  dsimp only
  refine presM_bind ?_ ?_
  · apply faultIf_pres
  · intro _
    refine presM_bind ?_ ?_
    · apply writeT_pres
    · intro _
      refine presM_bind ?_ ?_
      · apply count_pres
      · intro _
        refine presM_bind ?_ ?_
        · apply onDone_pres
        · intro _
          exact presM_pure _

theorem execRngFill_pres {a : State} (x0 x1 x2) (h2 : Pres a x2) : PresX a (execRngFill x0 x1 x2) := by
  unfold execRngFill
  refine presX_next ?_
  apply issueCmd_pres
  · intro _
    dsimp only [fillDef]
    apply fillRun_pres
  · assumption

theorem updRng_pres {a : State} (x0 x1 x2) (h0 : Pres a x0) (h2 : (rng x0 x1).pool.length ≤ 64 → (x2 (rng x0 x1)).pool.length ≤ 64) :
    Pres a (updRng x0 x1 x2) := by
  refine ⟨h0.mem, h0.host, fun k => ?_, h0.pending, h0.part⟩
  have hp := h0.pool k
  intro e he
  rcases Tab.mem_put he with rfl | he
  · exact h2 (poolOk_get hp x1)
  · exact hp e he

theorem liteRun_pres {a : State} (x0)  : PresM a (liteRun x0) := by
  unfold liteRun
  dsimp only
  refine presM_bind ?_ ?_
  · apply faultIf_pres
  · intro _
    refine presM_get_bind ?_
    intro _
    intro _
    refine presM_ite ?_ ?_
    · refine presM_bind ?_ ?_
      · refine presM_set ?_
        (refine updRng_pres _ _ _ ?_ (fun h => ?_); rotate_left; (first | exact h | exact Nat.zero_le _ | (simp_all; done) | (simp_all; omega)))
        assumption
      · intro _
        refine presM_get_bind ?_
        intro _
        intro _
        split
        · apply failWith_pres
        · refine presM_bind ?_ ?_
          · apply writeT_pres
          · intro _
            refine presM_bind ?_ ?_
            · refine presM_modify ?_
              intro _
              intro _
              (refine updRng_pres _ _ _ ?_ (fun h => ?_); rotate_left; (first | exact h | exact Nat.zero_le _ | (simp_all; done) | (simp_all; omega)))
              assumption
            · intro _
              refine presM_bind ?_ ?_
              · apply count_pres
              · intro _
                refine presM_bind ?_ ?_
                · apply onDone_pres
                · intro _
                  exact presM_pure _
    · refine presM_get_bind ?_
      intro _
      intro _
      split
      · apply failWith_pres
      · refine presM_bind ?_ ?_
        · apply writeT_pres
        · intro _
          refine presM_bind ?_ ?_
          · refine presM_modify ?_
            intro _
            intro _
            (refine updRng_pres _ _ _ ?_ (fun h => ?_); rotate_left; (first | exact h | exact Nat.zero_le _ | (simp_all; done) | (simp_all; omega)))
            assumption
          · intro _
            refine presM_bind ?_ ?_
            · apply count_pres
            · intro _
              refine presM_bind ?_ ?_
              · apply onDone_pres
              · intro _
                exact presM_pure _

theorem execRngLiteFill_pres {a : State} (x0 x1 x2) (h2 : Pres a x2) : PresX a (execRngLiteFill x0 x1 x2) := by
  unfold execRngLiteFill
  refine presX_next ?_
  apply issueCmd_pres
  · intro _
    dsimp only [liteDef]
    apply liteRun_pres
  · assumption

theorem noiseBlocks_pres {a : State} (x0 x1 x2)  : PresM a (noiseBlocks x0 x1 x2) := by
  induction x1 generalizing x0 x2 with
  | zero =>
    unfold noiseBlocks
    exact presM_pure _
  | succ x ih =>
    unfold noiseBlocks
    refine presM_get_bind ?_
    intro _
    intro _
    refine presM_ite ?_ ?_
    · exact presM_pure _
    · split
      · exact presM_pure _
      · refine presM_bind ?_ ?_
        · refine presM_set ?_
          (refine updRng_pres _ _ _ ?_ (fun h => ?_); rotate_left; (first | exact h | exact Nat.zero_le _ | (simp_all; done) | (simp_all; omega)))
          assumption
        · intro _
          refine presM_bind ?_ ?_
          · apply access_pres
          · intro _
            refine presM_bind ?_ ?_
            · apply writeRaw_pres
            · intro _
              apply ih

theorem noiseWrote_pres {a : State} (x0 x1) : PresM a (noiseWrote x0 x1) := by
  unfold noiseWrote
  refine presM_modify ?_
  intro _
  intro _
  refine pres_ite ?_ ?_
  · apply noteWrote_pres
    assumption
  · assumption

theorem noiseRun_pres {a : State} (x0)  : PresM a (noiseRun x0) := by
  unfold noiseRun
  refine presM_get_bind ?_
  intro _
  intro _
  refine presM_bind ?_ ?_
  · apply failIf_pres
  · intro _
    refine presM_bind ?_ ?_
    · apply faultIf_pres
    · intro _
      refine presM_bind ?_ ?_
      · apply access_pres
      · intro _
        extract_lets +onlyGivenNames y8
        clear_value y8
        refine presM_bind ?_ ?_
        · apply noiseBlocks_pres
        · intro _
          refine presM_bind ?_ ?_
          · apply noiseWrote_pres
          · intro _
            refine presM_bind ?_ ?_
            · apply ownOp_pres
            · intro _
              refine presM_bind ?_ ?_
              · apply onDone_pres
              · intro _
                exact presM_pure _

theorem execRngNoiseRead_pres {a : State} (x0 x1 x2) (h2 : Pres a x2) : PresX a (execRngNoiseRead x0 x1 x2) := by
  unfold execRngNoiseRead
  refine presX_next ?_
  apply issueCmd_pres
  · intro _
    dsimp only [noiseDef]
    apply noiseRun_pres
  · assumption

theorem touchRW_pres {a : State} (x0 x1 x2)  : PresM a (touchRW x0 x1 x2) := by
  unfold touchRW
  exact presM_pure _

theorem selServes_pres {a : State} (x0)  : PresM a (selServes x0) := by
  unfold selServes
  refine presM_get_bind ?_
  intro _
  intro _
  refine presM_bind ?_ ?_
  · apply faultIf_pres
  · intro _
    apply ownOp_pres

theorem readScores_pres {a : State} (x0 x1 x2 x3)  : PresM a (readScores x0 x1 x2 x3) := by
  unfold readScores
  dsimp only
  refine presM_bind ?_ ?_
  · apply faultIf_pres
  · intro _
    refine presM_bind ?_ ?_
    · apply readT_pres
    · intro _
      refine presM_bind ?_ ?_
      · apply count_pres
      · intro _
        exact presM_pure _

theorem inGrants_pres {a : State} (x0 x1) : PresM a (inGrants x0 x1) := by
  unfold inGrants
  refine presM_get_bind ?_
  intro _
  intro _
  extract_lets +onlyGivenNames y6
  clear_value y6
  apply ownOp_pres

theorem scanRun_pres {a : State} (x0)  : PresM a (scanRun x0) := by
  unfold scanRun
  extract_lets +onlyGivenNames y3
  clear_value y3
  extract_lets +onlyGivenNames y4
  clear_value y4
  extract_lets +onlyGivenNames y5
  clear_value y5
  extract_lets +onlyGivenNames y6
  clear_value y6
  refine presM_bind ?_ ?_
  · apply selServes_pres
  · intro _
    refine presM_bind ?_ ?_
    · apply readScores_pres
    · intro _
      refine presM_bind ?_ ?_
      · apply faultIf_pres
      · intro _
        extract_lets +onlyGivenNames y10
        clear_value y10
        extract_lets +onlyGivenNames y11
        clear_value y11
        refine presM_bind ?_ ?_
        · apply count_pres
        · intro _
          extract_lets +onlyGivenNames y13
          clear_value y13
          extract_lets +onlyGivenNames y14
          clear_value y14
          extract_lets +onlyGivenNames y15
          clear_value y15
          extract_lets +onlyGivenNames y16
          clear_value y16
          extract_lets +onlyGivenNames y17
          clear_value y17
          extract_lets +onlyGivenNames y18
          clear_value y18
          extract_lets +onlyGivenNames y19
          clear_value y19
          refine presM_bind ?_ ?_
          · apply access_pres
          · intro _
            refine presM_bind ?_ ?_
            · apply writeT_pres
            · intro _
              refine presM_bind ?_ ?_
              · apply writeT_pres
              · intro _
                refine presM_bind ?_ ?_
                · apply onDone_pres
                · intro _
                  refine presM_get_bind ?_
                  intro _
                  intro _
                  refine presM_bind ?_ ?_
                  · apply inGrants_pres
                  · intro _
                    exact presM_pure _

theorem execSelScan_pres {a : State} (x0 x1 x2) (h2 : Pres a x2) : PresX a (execSelScan x0 x1 x2) := by
  unfold execSelScan
  refine presX_next ?_
  apply issueCmd_pres
  · intro _
    dsimp only [scanDef]
    apply scanRun_pres
  · assumption

theorem drawTouch_pres {a : State} (x0)  : PresM a (drawTouch x0) := by
  unfold drawTouch
  refine presM_bind ?_ ?_
  · apply readNat_pres
  · intro _
    dsimp only
    exact presM_pure _

theorem writeDraw_pres {a : State} (x0 x1 x2 x3)  : PresM a (writeDraw x0 x1 x2 x3) := by
  unfold writeDraw
  refine presM_bind ?_ ?_
  · apply faultIf_pres
  · intro _
    extract_lets +onlyGivenNames y7
    clear_value y7
    refine presM_ite ?_ ?_
    · refine presM_bind ?_ ?_
      · apply count_pres
      · intro _
        apply writeT_pres
    · refine presM_bind ?_ ?_
      · apply count_pres
      · intro _
        apply writeT_pres

theorem raceDraw_pres {a : State} (x0 x1)  : PresM a (raceDraw x0 x1) := by
  unfold raceDraw
  dsimp only
  refine presM_bind ?_ ?_
  · apply readScores_pres
  · intro _
    refine presM_bind ?_ ?_
    · apply count_pres
    · intro _
      refine presM_bind ?_ ?_
      · apply writeDraw_pres
      · intro _
        refine presM_bind ?_ ?_
        · apply onDone_pres
        · intro _
          exact presM_pure _

theorem listDraw_pres {a : State} (x0 x1)  : PresM a (listDraw x0 x1) := by
  unfold listDraw
  dsimp only
  refine presM_bind ?_ ?_
  · apply faultIf_pres
  · intro _
    refine presM_bind ?_ ?_
    · apply readNat_pres
    · intro _
      refine presM_bind ?_ ?_
      · apply failIf_pres
      · intro _
        refine presM_bind ?_ ?_
        · apply readT_pres
        · intro _
          refine presM_bind ?_ ?_
          · apply writeDraw_pres
          · intro _
            exact presM_pure _

theorem drawRun_pres {a : State} (x0)  : PresM a (drawRun x0) := by
  unfold drawRun
  extract_lets +onlyGivenNames y3
  clear_value y3
  refine presM_bind ?_ ?_
  · apply selServes_pres
  · intro _
    refine presM_bind ?_ ?_
    · apply faultIf_pres
    · intro _
      refine presM_bind ?_ ?_
      · apply readNat_pres
      · intro _
        split
        · exact presM_throw _
        · refine presM_bind ?_ ?_
          · refine presM_ite ?_ ?_
            · apply raceDraw_pres
            · apply listDraw_pres
          · intro _
            refine presM_bind ?_ ?_
            · apply inGrants_pres
            · intro _
              exact presM_pure _

theorem execSelDraw_pres {a : State} (x0 x1 x2) (h2 : Pres a x2) : PresX a (execSelDraw x0 x1 x2) := by
  unfold execSelDraw
  refine presX_next ?_
  apply issueCmd_pres
  · intro _
    dsimp only [drawDef]
    apply drawRun_pres
  · assumption

theorem putHwork_pres {a : State} (x0 x1)  : PresM a (putHwork x0 x1) := by
  unfold putHwork
  refine presM_modify ?_
  intro _
  intro _
  refine pres_mk_of ?_ rfl rfl rfl rfl rfl
  assumption

theorem hloadCheck_pres {a : State} (x0) : PresM a (hloadCheck x0) := by
  unfold hloadCheck
  refine presM_get_bind ?_
  intro _
  intro _
  extract_lets +onlyGivenNames y5
  clear_value y5
  refine presM_bind ?_ ?_
  · apply faultIf_pres
  · intro _
    refine presM_bind ?_ ?_
    · apply readNat_pres
    · intro _
      split
      · exact presM_throw _
      · refine presM_bind ?_ ?_
        · apply readDescN_pres
        · intro _
          refine presM_bind ?_ ?_
          · apply faultIf_pres
          · intro _
            refine presM_bind ?_ ?_
            · apply faultIf_pres
            · intro _
              refine presM_ite ?_ ?_
              · exact presM_pure _
              · refine presM_bind ?_ ?_
                · apply putHwork_pres
                · intro _
                  exact presM_pure _

theorem updHslot_pres {a : State} (x0 x1 x2 x3) (h0 : Pres a x0) : Pres a (updHslot x0 x1 x2 x3) := by
  unfold updHslot
  refine pres_mk_of ?_ rfl rfl rfl rfl rfl
  assumption

theorem hloadRun_pres {a : State} (x0)  : PresM a (hloadRun x0) := by
  unfold hloadRun
  refine presM_fun ?_
  intro _
  intro _
  split
  · dsimp only [resState]
    refine pres_ite ?_ ?_
    · apply updHslot_pres
      refine presM_error (by assumption) ?_ ?_
      · apply hloadCheck_pres
      · assumption
    · refine presM_error (by assumption) ?_ ?_
      · apply hloadCheck_pres
      · assumption
  · refine pres_resState ?_ ?_
    · apply hloadCheck_pres
    · assumption

theorem execHdgLoad_pres {a : State} (x0 x1 x2) (h2 : Pres a x2) : PresX a (execHdgLoad x0 x1 x2) := by
  unfold execHdgLoad
  refine presX_next ?_
  apply issueCmd_pres
  · intro _
    dsimp only [hloadDef]
    apply hloadRun_pres
  · assumption

theorem predictTouch_pres {a : State} (x0 x1)  : PresM a (predictTouch x0 x1) := by
  unfold predictTouch
  refine presM_bind ?_ ?_
  · apply rowsTouch_pres
  · intro _
    refine presM_bind ?_ ?_
    · refine presM_ite ?_ ?_
      · apply rowsTouch_pres
      · exact presM_pure _
    · intro _
      refine presM_bind ?_ ?_
      · apply winTouch_pres
      · intro _
        exact presM_pure _

theorem predictRun_pres {a : State} (x0 x1)  : PresM a (predictRun x0 x1) := by
  unfold predictRun
  refine presM_get_bind ?_
  intro _
  intro _
  extract_lets +onlyGivenNames y6
  clear_value y6
  refine presM_bind ?_ ?_
  · apply faultIf_pres
  · intro _
    refine presM_bind ?_ ?_
    · apply readDescN_pres
    · intro _
      refine presM_bind ?_ ?_
      · refine presM_ite ?_ ?_
        · apply readDescN_pres
        · refine presM_ite ?_ ?_
          · apply readDescN_pres
          · exact presM_pure _
      · intro _
        refine presM_ite ?_ ?_
        · exact presM_pure _
        · refine presM_bind ?_ ?_
          · apply putHwork_pres
          · intro _
            exact presM_pure _

theorem execHdgPredict_pres {a : State} (x0 x1 x2) (h2 : Pres a x2) : PresX a (execHdgPredict x0 x1 x2) := by
  unfold execHdgPredict
  refine presX_next ?_
  apply issueCmd_pres
  · intro _
    dsimp only [predictDef]
    apply predictRun_pres
  · assumption

theorem execHdgAuditRead_pres {a : State} (x0 x1 x2) (h2 : Pres a x2) : PresX a (execHdgAuditRead x0 x1 x2) := by
  unfold execHdgAuditRead
  refine presX_next ?_
  apply issueCmd_pres
  · intro _
    dsimp only [auditDef]
    apply predictRun_pres
  · assumption

theorem unstall_pres {a : State} (x0 x1) (h0 : Pres a x0) : Pres a (unstall x0 x1) := by
  unfold unstall
  refine pres_mk_of ?_ rfl rfl rfl rfl rfl
  assumption

theorem taskFault_pres {a : State} (x0 x1 x2 x3 x4 x5) (h0 : Pres a x0) : Pres a (taskFault x0 x1 x2 x3 x4 x5) := by
  unfold taskFault
  apply qFault_pres
  apply unstall_pres
  apply qPop_pres
  assumption

theorem countRises_pres {a : State} (x0 x1) (h0 : Pres a x0) (h1 : Pres a x1) : Pres a (countRises x0 x1) := by
  unfold countRises
  refine pres_foldl ?_ ?_
  · assumption
  · intro _
    intro _
    intro _
    split
    · refine pres_ite ?_ ?_
      · apply bump_pres
        assumption
      · assumption
    · assumption

theorem enterTask_pres {a : State} (x0 x1 x2 x3 x4 x5 x6 x7) (h0 : Pres a x0) : Pres a (enterTask x0 x1 x2 x3 x4 x5 x6 x7) := by
  unfold enterTask
  extract_lets +onlyGivenNames y11
  clear_value y11
  extract_lets +onlyGivenNames y12
  clear_value y12
  extract_lets +onlyGivenNames y13
  clear_value y13
  extract_lets +onlyGivenNames y14
  clear_value y14
  extract_lets +onlyGivenNames y15
  (refine pres_absorb (a := a) y15 ?_ (fun _ => ?_); rotate_left; clear_value y15; rotate_right)
  · dsimp only [y15]
    apply unstall_pres
    apply qPop_pres
    assumption
  · extract_lets +onlyGivenNames y17
    (refine pres_absorb (a := a) y17 ?_ (fun _ => ?_); rotate_left; clear_value y17; rotate_right)
    · dsimp only [y17]
      refine pres_mk_of ?_ rfl rfl rfl rfl rfl
      assumption
    · extract_lets +onlyGivenNames y19
      (refine pres_absorb (a := a) y19 ?_ (fun _ => ?_); rotate_left; clear_value y19; rotate_right)
      · dsimp only [y19]
        refine pres_ite ?_ ?_
        · apply bump_pres
          assumption
        · assumption
      · extract_lets +onlyGivenNames y21
        clear_value y21
        extract_lets +onlyGivenNames y22
        (refine pres_absorb (a := a) y22 ?_ (fun _ => ?_); rotate_left; clear_value y22; rotate_right)
        · dsimp only [y22]
          apply updSlot_pres
          assumption
        · extract_lets +onlyGivenNames y24
          (refine pres_absorb (a := a) y24 ?_ (fun _ => ?_); rotate_left; clear_value y24; rotate_right)
          · dsimp only [y24]
            refine pres_ite ?_ ?_
            · refine pres_mk_of ?_ rfl rfl rfl rfl rfl
              assumption
            · assumption
          · refine pres_ite ?_ ?_
            · apply countRises_pres
              · assumption
              · refine pres_mk_of ?_ rfl rfl rfl rfl rfl
                assumption
            · assumption

theorem acceptDesc_pres {a : State} (x0 x1 x2 x3 x4 x5 x6) (h6 : PresP a x6) : Pres a (acceptDesc x0 x1 x2 x3 x4 x5 x6) := by
  unfold acceptDesc
  split
  · exact presP_fst (p := (_, _)) (by assumption)
  · apply taskFault_pres
    exact presP_fst (p := (_, _)) (by assumption)
  · split
    · apply taskFault_pres
      exact presP_fst (p := (_, _)) (by assumption)
    · apply enterTask_pres
      exact presP_fst (p := (_, _)) (by assumption)

theorem readTaskDesc_pres {a : State} (x0 x1 x2) (h0 : Pres a x0) : PresP a (readTaskDesc x0 x1 x2) := by
  unfold readTaskDesc
  refine presP_ite ?_ ?_
  · refine presP_ite ?_ ?_
    · refine presP_mk ?_
      assumption
    · split
      · refine presP_mk ?_
        apply carryAccess_pres
        apply bump_pres
        refine pres_of_pair (by assumption) ?_
        apply rdHost_pres
        assumption
      · refine presP_mk ?_
        refine pres_of_pair (by assumption) ?_
        apply rdHost_pres
        assumption
  · split
    · refine presP_mk ?_
      refine presM_ok (by assumption) ?_ ?_
      · apply readLocal_pres
      · assumption
    · refine presP_ite ?_ ?_
      · refine presP_mk ?_
        assumption
      · refine presP_mk ?_
        refine presM_error (by assumption) ?_ ?_
        · apply readLocal_pres
        · assumption

theorem acceptFlow_pres {a : State} (x0 x1 x2 x3 x4 x5) (h0 : Pres a x0) : Pres a (acceptFlow x0 x1 x2 x3 x4 x5) := by
  unfold acceptFlow
  split
  · apply taskFault_pres
    assumption
  · refine pres_ite ?_ ?_
    · assumption
    · apply bump_pres
      refine pres_mk_of ?_ rfl rfl rfl rfl rfl
      assumption
  · apply acceptDesc_pres
    apply readTaskDesc_pres
    assumption

theorem acceptTask_pres {a : State} (x0 x1 x2 x3) (h0 : Pres a x0) : Pres a (acceptTask x0 x1 x2 x3) := by
  unfold acceptTask
  dsimp only
  refine pres_ite ?_ ?_
  · assumption
  · refine pres_ite ?_ ?_
    · apply taskFault_pres
      assumption
    · refine pres_ite ?_ ?_
      · apply taskFault_pres
        assumption
      · apply acceptFlow_pres
        assumption

theorem execTask_pres {a : State} (x0 x1 x2) (h2 : Pres a x2) : PresX a (execTask x0 x1 x2) := by
  unfold execTask
  refine presX_next ?_
  extract_lets +onlyGivenNames y6
  clear_value y6
  extract_lets +onlyGivenNames y7
  clear_value y7
  split
  · assumption
  · split
    · apply qFault_pres
      apply qPop_pres
      assumption
    · apply acceptTask_pres
      assumption

theorem sendSet_pres {a : State} (x0 x1 x2 x3 x4 x5 x6 x7) (h0 : Pres a x0) : Pres a (sendSet x0 x1 x2 x3 x4 x5 x6 x7) := by
  unfold sendSet
  refine pres_mk_of ?_ rfl rfl rfl rfl rfl
  assumption

theorem signalRun_pres {a : State} (x0)  : PresM a (signalRun x0) := by
  unfold signalRun
  refine presM_get_bind ?_
  intro _
  intro _
  split
  · apply failWith_pres
  · dsimp only
    refine presM_bind ?_ ?_
    · refine presM_modify ?_
      intro _
      intro _
      apply sendSet_pres
      assumption
    · intro _
      exact presM_pure _

theorem execSignal_pres {a : State} (x0 x1 x2) (h2 : Pres a x2) : PresX a (execSignal x0 x1 x2) := by
  unfold execSignal
  refine presX_next ?_
  split
  · apply issueCmd_pres
    · intro _
      dsimp only [signalDef]
      apply signalRun_pres
    · assumption
  · apply queueCmd_pres
    · intro _
      intro _
      intro _
      split
      · refine presP_mk ?_
        assumption
      · refine presP_mk ?_
        apply sendSet_pres
        assumption
    · assumption

theorem execFence_pres {a : State} (x0 x1 x2) (h2 : Pres a x2) : PresX a (execFence x0 x1 x2) := by
  unfold execFence
  refine presX_next ?_
  apply issueCmd_pres
  · intro _
    dsimp only [fenceDef]
    exact presM_pure _
  · assumption

theorem atomicRun_pres {a : State} (x0)  : PresM a (atomicRun x0) := by
  unfold atomicRun
  refine presM_get_bind ?_
  intro _
  intro _
  extract_lets +onlyGivenNames y5
  clear_value y5
  extract_lets +onlyGivenNames y6
  clear_value y6
  extract_lets +onlyGivenNames y7
  clear_value y7
  extract_lets +onlyGivenNames y8
  clear_value y8
  refine presM_bind ?_ ?_
  · apply holdIf_pres
  · intro _
    refine presM_bind ?_ ?_
    · apply faultIf_pres
    · intro _
      refine presM_bind ?_ ?_
      · apply failIf_pres
      · intro _
        refine presM_bind ?_ ?_
        · apply access_pres
        · intro _
          refine presM_bind ?_ ?_
          · refine presM_modify ?_
            intro _
            intro _
            refine pres_mk_of ?_ rfl rfl rfl rfl rfl
            assumption
          · intro _
            refine presM_bind ?_ ?_
            · refine presM_modify ?_
              intro _
              intro _
              apply noteWrote_pres
              assumption
            · intro _
              refine presM_bind ?_ ?_
              · apply startAccess_pres
              · intro _
                exact presM_pure _

theorem execAtomic_pres {a : State} (x0 x1 x2) (h2 : Pres a x2) : PresX a (execAtomic x0 x1 x2) := by
  unfold execAtomic
  refine presX_next ?_
  apply issueCmd_pres
  · intro _
    dsimp only [atomicDef]
    apply atomicRun_pres
  · assumption

theorem doCancel_pres {a : State} (x0 x1 x2) (h0 : Pres a x0) : Pres a (doCancel x0 x1 x2) := by
  unfold doCancel
  dsimp only
  refine pres_ite ?_ ?_
  · apply freeSlot_pres
    apply postFor_pres
    apply leaveFlows_pres
    assumption
  · apply bump_pres
    assumption

theorem doPrio_pres {a : State} (x0 x1 x2 x3 x4) (h0 : Pres a x0) : Pres a (doPrio x0 x1 x2 x3 x4) := by
  unfold doPrio
  dsimp only
  refine pres_ite ?_ ?_
  · apply countRises_pres
    · refine pres_ite ?_ ?_
      · apply bump_pres
        assumption
      · assumption
    · apply updSlot_pres
      refine pres_ite ?_ ?_
      · apply bump_pres
        assumption
      · assumption
  · apply bump_pres
    refine pres_ite ?_ ?_
    · apply bump_pres
      assumption
    · assumption

theorem dispatchAct_pres {a : State} (x0 x1 x2 x3 x4 x5 x6) (h0 : Pres a x0) : PresP a (dispatchAct x0 x1 x2 x3 x4 x5 x6) := by
  unfold dispatchAct
  refine presP_ite ?_ ?_
  · refine presP_mk ?_
    assumption
  · refine presP_ite ?_ ?_
    · refine presP_mk ?_
      refine pres_ite ?_ ?_
      · apply doCancel_pres
        assumption
      · apply doPrio_pres
        assumption
    · split
      refine presP_mk ?_
      apply emit_pres
      refine pres_of_pair (by assumption) ?_
      apply addReq_pres
      assumption

theorem dispatchRun_pres {a : State} (x0 x1)  : PresM a (dispatchRun x0 x1) := by
  unfold dispatchRun
  refine presM_get_bind ?_
  intro _
  intro _
  dsimp only
  split
  · apply failWith_pres
  · split
    · exact presM_throw _
    · refine presM_bind ?_ ?_
      · refine presM_set ?_
        refine pres_of_pair (by assumption) ?_
        apply dispatchAct_pres
        assumption
      · intro _
        exact presM_pure _

theorem dispatchQueue_pres {a : State} (x0 x1 x2 x3) (h3 : Pres a x3) : PresP a (dispatchQueue x0 x1 x2 x3) := by
  unfold dispatchQueue
  split
  · refine presP_mk ?_
    assumption
  · apply dispatchAct_pres
    assumption

theorem carriedAct_pres {a : State} (x0 x1 x2 x3 x4 x5 x6) (h0 : Pres a x0) : Pres a (carriedAct x0 x1 x2 x3 x4 x5 x6) := by
  unfold carriedAct
  extract_lets +onlyGivenNames y10
  clear_value y10
  extract_lets +onlyGivenNames y11
  clear_value y11
  refine pres_ite ?_ ?_
  · assumption
  · extract_lets +onlyGivenNames y12
    (refine pres_absorb (a := a) y12 ?_ (fun _ => ?_); rotate_left; clear_value y12; rotate_right)
    · dsimp only [y12]
      refine pres_ite ?_ ?_
      · apply doCancel_pres
        assumption
      · apply doPrio_pres
        assumption
    · refine presP_fst ?_
      apply sendMsg_pres
      assumption

theorem execCancel_pres {a : State} (x0 x1 x2) (h2 : Pres a x2) : PresX a (execCancel x0 x1 x2) := by
  unfold execCancel
  refine presX_next ?_
  split
  · apply issueCmd_pres
    · intro _
      dsimp only [cancelDef]
      apply dispatchRun_pres
    · assumption
  · apply queueCmd_pres
    · intro _
      intro _
      intro _
      apply dispatchQueue_pres
      assumption
    · assumption
  · apply carriedAct_pres
    assumption

theorem execMgrMsg_pres {a : State} (x0 x1 x2) (h2 : Pres a x2) : PresX a (execMgrMsg x0 x1 x2) := by
  unfold execMgrMsg
  refine presX_next ?_
  apply queueCmd_pres
  · intro _
    intro _
    intro _
    refine presP_ite ?_ ?_
    · refine presP_mk ?_
      assumption
    · refine presP_mk ?_
      refine presP_fst ?_
      apply mgrSend_pres
      assumption
  · assumption

theorem execEndThread_pres {a : State} (x0 x1 x2) (h2 : Pres a x2) : PresX a (execEndThread x0 x1 x2) := by
  unfold execEndThread
  refine presX_next ?_
  apply issueCmd_pres
  · intro _
    dsimp only [endDef]
    refine presM_bind ?_ ?_
    · refine presM_modify ?_
      intro _
      intro _
      apply updThr_pres
      assumption
    · intro _
      exact presM_pure _
  · assumption

theorem execPrioSet_pres {a : State} (x0 x1 x2) (h2 : Pres a x2) : PresX a (execPrioSet x0 x1 x2) := by
  unfold execPrioSet
  refine presX_next ?_
  split
  · apply issueCmd_pres
    · intro _
      dsimp only [prioDef]
      apply dispatchRun_pres
    · assumption
  · apply queueCmd_pres
    · intro _
      intro _
      intro _
      apply dispatchQueue_pres
      assumption
    · assumption
  · apply carriedAct_pres
    assumption

theorem applySet_pres {a : State} (x0 x1 x2 x3) (h0 : Pres a x0) : Pres a (applySet x0 x1 x2 x3) := by
  unfold applySet
  dsimp only
  refine pres_ite ?_ ?_
  · refine pres_ite ?_ ?_
    · assumption
    · refine pres_ite ?_ ?_
      · apply updSlot_pres
        assumption
      · apply bump_pres
        assumption
  · refine pres_ite ?_ ?_
    · apply updSlot_pres
      assumption
    · apply bump_pres
      assumption

theorem carrySet_pres {a : State} (x0 x1) (h0 : Pres a x0) : Pres a (carrySet x0 x1) := by
  unfold carrySet
  extract_lets +onlyGivenNames y5
  clear_value y5
  extract_lets +onlyGivenNames y6
  clear_value y6
  split
  split
  · refine pres_of_pair (by assumption) ?_
    apply sendMsg_pres
    refine pres_of_pair (by assumption) ?_
    apply addReq_pres
    assumption
  · apply faultReq_pres
    refine pres_of_pair (by assumption) ?_
    apply sendMsg_pres
    refine pres_of_pair (by assumption) ?_
    apply addReq_pres
    assumption

theorem execFlagSet_pres {a : State} (x0 x1) (h1 : Pres a x1) : PresX a (execFlagSet x0 x1) := by
  unfold execFlagSet
  refine presX_next ?_
  split
  · refine pres_ite ?_ ?_
    · extract_lets +onlyGivenNames y10
      clear_value y10
      extract_lets +onlyGivenNames y11
      (refine pres_absorb (a := a) y11 ?_ (fun _ => ?_); rotate_left; clear_value y11; rotate_right)
      · dsimp only [y11]
        refine pres_mk_of ?_ rfl rfl rfl rfl rfl
        assumption
      · refine pres_ite ?_ ?_
        · extract_lets +onlyGivenNames y13
          (refine pres_absorb (a := a) y13 ?_ (fun _ => ?_); rotate_left; clear_value y13; rotate_right)
          · dsimp only [y13]
            apply applySet_pres
            assumption
          · split
            · apply opAnswered_pres
              assumption
            · assumption
        · apply pumpHeld_pres
          apply carrySet_pres
          assumption
    · assumption
  · assumption

theorem countObj_pres {a : State} (x0 x1 x2) (h0 : Pres a x0) : Pres a (countObj x0 x1 x2) := by
  unfold countObj
  refine pres_mk_of ?_ rfl rfl rfl rfl rfl
  assumption

theorem restoreThread_pres {a : State} (x0 x1 x2 x3 x4 x5 x6) (h0 : Pres a x0) : Pres a (restoreThread x0 x1 x2 x3 x4 x5 x6) := by
  unfold restoreThread
  dsimp only
  apply updThr_pres
  assumption

theorem unpark_pres {a : State} (x0 x1 x2 x3) (h0 : Pres a x0) : Pres a (unpark x0 x1 x2 x3) := by
  unfold unpark
  dsimp only
  refine pres_mk_of ?_ rfl rfl rfl rfl rfl
  assumption

theorem runRefills_pres {a : State} (x0 x1 x2) (h0 : Pres a x0) : Pres a (runRefills x0 x1 x2) := by
  induction x2 generalizing x0 x1 with
  | zero =>
    unfold runRefills
    assumption
  | succ x ih =>
    unfold runRefills
    split
    · assumption
    · refine pres_ite ?_ ?_
      · assumption
      · split
        · extract_lets +onlyGivenNames y22
          (refine pres_absorb (a := a) y22 ?_ (fun _ => ?_); rotate_left; clear_value y22; rotate_right)
          · dsimp only [y22]
            apply bump_pres
            apply updDense_pres
            refine presM_ok (by assumption) ?_ ?_
            · apply fillBank_pres
            · assumption
          · apply ih
            split
            · apply updOp_pres
              assumption
            · assumption
        · refine pres_ite ?_ ?_
          · assumption
          · refine pres_ite ?_ ?_
            · apply askFar_pres
              assumption
            · refine pres_ite ?_ ?_
              · apply updDense_pres
                apply noteFenced_pres
                assumption
              · apply faultTask_pres
                apply updDense_pres
                refine presM_error (by assumption) ?_ ?_
                · apply fillBank_pres
                · assumption

theorem pumpRefills_pres {a : State} (x0 x1) (h0 : Pres a x0) : Pres a (pumpRefills x0 x1) := by
  unfold pumpRefills
  refine pres_ite ?_ ?_
  · assumption
  · apply runRefills_pres
    assumption

theorem restoreDense_pres {a : State} (x0 x1 x2 x3 x4) (h0 : Pres a x0) : Pres a (restoreDense x0 x1 x2 x3 x4) := by
  unfold restoreDense
  extract_lets +onlyGivenNames y8
  clear_value y8
  extract_lets +onlyGivenNames y9
  clear_value y9
  extract_lets +onlyGivenNames y10
  clear_value y10
  extract_lets +onlyGivenNames y11
  clear_value y11
  extract_lets +onlyGivenNames y12
  (refine pres_absorb (a := a) y12 ?_ (fun _ => ?_); rotate_left; clear_value y12; rotate_right)
  · dsimp only [y12]
    refine pres_mk_of ?_ rfl rfl rfl rfl rfl
    assumption
  · apply pumpRefills_pres
    apply updDense_pres
    assumption

theorem resendTags_pres {a : State} (x0 x1) (h0 : Pres a x0) : Pres a (resendTags x0 x1) := by
  unfold resendTags
  refine pres_foldl ?_ ?_
  · assumption
  · intro _
    intro _
    intro _
    apply sendOwn_pres
    apply bump_pres
    assumption

theorem restoreRest_pres {a : State} (x0 x1 x2 x3 x4 x5 x6) (h0 : Pres a x0) : Pres a (restoreRest x0 x1 x2 x3 x4 x5 x6) := by
  unfold restoreRest
  extract_lets +onlyGivenNames y10
  (refine pres_absorb (a := a) y10 ?_ (fun _ => ?_); rotate_left; clear_value y10; rotate_right)
  · dsimp only [y10]
    apply updSlot_pres
    assumption
  · extract_lets +onlyGivenNames y12
    (refine pres_absorb (a := a) y12 ?_ (fun _ => ?_); rotate_left; clear_value y12; rotate_right)
    · dsimp only [y12]
      refine pres_mk_of ?_ rfl rfl rfl rfl rfl
      assumption
    · extract_lets +onlyGivenNames y14
      (refine pres_absorb (a := a) y14 ?_ (fun _ => ?_); rotate_left; clear_value y14; rotate_right)
      · dsimp only [y14]
        refine pres_foldl ?_ ?_
        · assumption
        · intro _
          intro _
          intro _
          apply restoreThread_pres
          assumption
      · extract_lets +onlyGivenNames y16
        (refine pres_absorb (a := a) y16 ?_ (fun _ => ?_); rotate_left; clear_value y16; rotate_right)
        · dsimp only [y16]
          apply unpark_pres
          assumption
        · extract_lets +onlyGivenNames y18
          (refine pres_absorb (a := a) y18 ?_ (fun _ => ?_); rotate_left; clear_value y18; rotate_right)
          · dsimp only [y18]
            refine pres_ite ?_ ?_
            · apply restoreDense_pres
              assumption
            · assumption
          · split
            · apply faultTask_pres
              assumption
            · apply vecPump_pres
              apply resendTags_pres
              assumption

theorem restoreFrom_pres {a : State} (x0 x1 x2 x3 x4 x5) (h0 : Pres a x0) (h1 : Pres a (resState x1)) : PresO a (restoreFrom x0 x1 x2 x3 x4 x5) := by
  unfold restoreFrom
  split
  · split
    · exact presO_none
    · refine presO_some ?_
      apply faultTask_pres
      assumption
  · refine presO_some ?_
    apply restoreRest_pres
    assumption

theorem restore_pres {a : State} (x0 x1 x2 x3) (h0 : Pres a x0) : PresO a (restore x0 x1 x2 x3) := by
  unfold restore
  apply restoreFrom_pres
  · assumption
  · refine pres_resState ?_ ?_
    · apply readLocal_pres
    · assumption

theorem bindThreads_pres {a : State} (x0 x1 x2 x3 x4 x5) (h0 : Pres a x0) : Pres a (bindThreads x0 x1 x2 x3 x4 x5) := by
  unfold bindThreads
  refine pres_foldl ?_ ?_
  · assumption
  · intro _
    intro _
    intro _
    apply updThr_pres
    assumption

theorem startThreads_pres {a : State} (x0 x1 x2 x3) (h0 : Pres a x0) : Pres a (startThreads x0 x1 x2 x3) := by
  unfold startThreads
  dsimp only
  apply updSlot_pres
  refine pres_ite ?_ ?_
  · refine pres_mk_of ?_ rfl rfl rfl rfl rfl
    apply bindThreads_pres
    assumption
  · apply bindThreads_pres
    assumption

theorem place_pres {a : State} (x0 x1 x2 x3) (h0 : Pres a x0) : PresO a (place x0 x1 x2 x3) := by
  unfold place
  extract_lets +onlyGivenNames y7
  clear_value y7
  extract_lets +onlyGivenNames y8
  clear_value y8
  extract_lets +onlyGivenNames y9
  clear_value y9
  extract_lets +onlyGivenNames y10
  (refine pres_absorb (a := a) y10 ?_ (fun _ => ?_); rotate_left; clear_value y10; rotate_right)
  · dsimp only [y10]
    apply updSlot_pres
    assumption
  · extract_lets +onlyGivenNames y12
    (refine pres_absorb (a := a) y12 ?_ (fun _ => ?_); rotate_left; clear_value y12; rotate_right)
    · dsimp only [y12]
      refine pres_mk_of ?_ rfl rfl rfl rfl rfl
      assumption
    · extract_lets +onlyGivenNames y14
      (refine pres_absorb (a := a) y14 ?_ (fun _ => ?_); rotate_left; clear_value y14; rotate_right)
      · dsimp only [y14]
        refine pres_ite ?_ ?_
        · apply countRises_pres
          · assumption
          · refine pres_mk_of ?_ rfl rfl rfl rfl rfl
            assumption
        · assumption
      · extract_lets +onlyGivenNames y16
        (refine pres_absorb (a := a) y16 ?_ (fun _ => ?_); rotate_left; clear_value y16; rotate_right)
        · dsimp only [y16]
          apply countObj_pres
          assumption
        · extract_lets +onlyGivenNames y18
          (refine pres_absorb (a := a) y18 ?_ (fun _ => ?_); rotate_left; clear_value y18; rotate_right)
          · dsimp only [y18]
            split
            · apply countObj_pres
              assumption
            · assumption
          · extract_lets +onlyGivenNames y20
            (refine pres_absorb (a := a) y20 ?_ (fun _ => ?_); rotate_left; clear_value y20; rotate_right)
            · dsimp only [y20]
              refine pres_ite ?_ ?_
              · apply countObj_pres
                assumption
              · assumption
            · split
              · apply restore_pres
                assumption
              · refine presO_some ?_
                apply startThreads_pres
                assumption

theorem placeFirst_pres {a : State} (x0 x1 x2) (h0 : Pres a x0) : Pres a (placeFirst x0 x1 x2) := by
  induction x2 generalizing x0 x1 with
  | nil =>
    unfold placeFirst
    assumption
  | cons x xs ih =>
    unfold placeFirst
    dsimp only
    split
    · apply ih
      apply faultTask_pres
      assumption
    · apply ih
      apply faultTask_pres
      assumption
    · split
      · refine presO_of_eq (by assumption) ?_
        refine presO_bind ?_
        intro _
        intro _
        apply place_pres
        apply updSlot_pres
        assumption
      · apply ih
        apply updSlot_pres
        assumption

theorem execPlacement_pres {a : State} (x0 x1 x2) (h2 : Pres a x2) : PresX a (execPlacement x0 x1 x2) := by
  unfold execPlacement
  refine presX_next ?_
  refine pres_ite ?_ ?_
  · apply placeFirst_pres
    assumption
  · assumption

theorem execPreemptionCheck_pres {a : State} (x0 x1) (h1 : Pres a x1) : PresX a (execPreemptionCheck x0 x1) := by
  unfold execPreemptionCheck
  refine presX_next ?_
  refine pres_ite ?_ ?_
  · assumption
  · split
    · assumption
    · split
      · assumption
      · apply updSlot_pres
        assumption

theorem execQuantumEnd_pres {a : State} (x0 x1) (h1 : Pres a x1) : PresX a (execQuantumEnd x0 x1) := by
  unfold execQuantumEnd
  refine presX_next ?_
  dsimp only
  refine pres_ite ?_ ?_
  · apply updSlot_pres
    assumption
  · assumption

theorem execHeadReserve_pres {a : State} (x0 x1) (h1 : Pres a x1) : PresX a (execHeadReserve x0 x1) := by
  unfold execHeadReserve
  refine presX_next ?_
  dsimp only
  refine pres_ite ?_ ?_
  · assumption
  · split
    · assumption
    · apply bump_pres
      refine pres_mk_of ?_ rfl rfl rfl rfl rfl
      assumption

theorem addWaits_pres {a : State} (x0 x1 x2) (h0 : Pres a x0) (h1 : Pres a x1) : Pres a (addWaits x0 x1 x2) := by
  unfold addWaits
  apply updOp_pres
  assumption

theorem awaitOp_pres {a : State} (x0 x1 x2 x3) (h0 : Pres a x0) : Pres a (awaitOp x0 x1 x2 x3) := by
  unfold awaitOp
  apply askFar_pres
  assumption

theorem fencedOp_pres {a : State} (x0 x1 x2 x3 x4) (h0 : Pres a x0) (h1 : Pres a x1) : Pres a (fencedOp x0 x1 x2 x3 x4) := by
  unfold fencedOp
  refine pres_ite ?_ ?_
  · apply engineFault_pres
    apply noteFenced_pres
    assumption
  · apply updOp_pres
    apply noteFenced_pres
    assumption

theorem serveOp_pres {a : State} (x0 x1 x2) (h0 : Pres a x0) (h2 : ∀ y z, PresM a (x2 y z)) : Pres a (serveOp x0 x1 x2) := by
  unfold serveOp
  split
  · assumption
  · refine pres_ite ?_ ?_
    · assumption
    · split
      · apply updOp_pres
        apply addWaits_pres
        · assumption
        · refine presM_ok (by assumption) ?_ ?_
          · apply_assumption
          · assumption
      · refine pres_ite ?_ ?_
        · assumption
        · refine pres_ite ?_ ?_
          · apply awaitOp_pres
            assumption
          · refine pres_ite ?_ ?_
            · apply fencedOp_pres
              · assumption
              · refine presM_error (by assumption) ?_ ?_
                · apply_assumption
                · assumption
            · apply engineFault_pres
              refine presM_error (by assumption) ?_ ?_
              · apply_assumption
              · assumption

theorem startTile_pres {a : State} (x0 x1 x2 x3)  : PresM a (startTile x0 x1 x2 x3) := by
  unfold startTile
  refine presM_get_bind ?_
  intro _
  intro _
  refine presM_ite ?_ ?_
  · apply failIf_pres
  · refine presM_set ?_
    apply setTile_pres
    assumption

theorem actRows_pres {a : State} (x0 x1 x2 x3)  : PresM a (actRows x0 x1 x2 x3) := by
  unfold actRows
  apply collect_pres
  intro _
  refine presM_bind ?_ ?_
  · apply rowScales_pres
  · intro _
    refine presM_bind ?_ ?_
    · apply rowBits_pres
    · intro _
      refine presM_bind ?_ ?_
      · apply countClamps_pres
      · intro _
        exact presM_pure _

theorem advance_pres {a : State} (x0 x1 x2)  : PresM a (advance x0 x1 x2) := by
  unfold advance
  refine presM_get_bind ?_
  intro _
  intro _
  dsimp only
  refine presM_bind ?_ ?_
  · apply countIf_pres
  · intro _
    refine presM_modify ?_
    intro _
    intro _
    apply setTile_pres
    assumption

theorem accumulate_pres {a : State} (x0 x1 x2 x3 x4 x5) : PresM a (accumulate x0 x1 x2 x3 x4 x5) := by
  unfold accumulate
  refine presM_get_bind ?_
  intro _
  intro _
  extract_lets +onlyGivenNames y10
  clear_value y10
  extract_lets +onlyGivenNames y11
  clear_value y11
  extract_lets +onlyGivenNames y12
  clear_value y12
  extract_lets +onlyGivenNames y13
  clear_value y13
  extract_lets +onlyGivenNames y14
  clear_value y14
  refine presM_bind ?_ ?_
  · apply countIf_pres
  · intro _
    refine presM_bind ?_ ?_
    · refine presM_modify ?_
      intro _
      intro _
      apply setTile_pres
      assumption
    · intro _
      refine presM_bind ?_ ?_
      · apply advance_pres
      · intro _
        refine presM_bind ?_ ?_
        · apply count_pres
        · intro _
          apply count_pres

theorem drainScores_pres {a : State} (x0 x1 x2 x3 x4)  : PresM a (drainScores x0 x1 x2 x3 x4) := by
  unfold drainScores
  refine presM_get_bind ?_
  intro _
  intro _
  dsimp only
  refine presM_bind ?_ ?_
  · apply each_pres
    intro _
    apply drainRow_pres
  · intro _
    apply count_pres

theorem drainGroup_pres {a : State} (x0 x1 x2 x3 x4 x5) : PresM a (drainGroup x0 x1 x2 x3 x4 x5) := by
  unfold drainGroup
  refine presM_ite ?_ ?_
  · apply drainScores_pres
  · refine presM_ite ?_ ?_
    · apply drainTile_pres
    · exact presM_pure _

theorem rescale_pres {a : State} (x0 x1 x2)  : PresM a (rescale x0 x1 x2) := by
  unfold rescale
  refine presM_get_bind ?_
  intro _
  intro _
  dsimp only
  refine presM_bind ?_ ?_
  · apply collect_pres
    intro _
    refine presM_ite ?_ ?_
    · exact presM_pure _
    · exact presM_pure _
  · intro _
    refine presM_bind ?_ ?_
    · refine presM_modify ?_
      intro _
      intro _
      apply setTile_pres
      assumption
    · intro _
      apply advance_pres

theorem rescaleTile_pres {a : State} (x0) : PresM a (rescaleTile x0) := by
  unfold rescaleTile
  refine presM_bind ?_ ?_
  · apply readT_pres
  · intro _
    apply rescale_pres

theorem dnsGroup_pres {a : State} (x0 x1 x2 x3) : PresM a (dnsGroup x0 x1 x2 x3) := by
  unfold dnsGroup
  refine presM_get_bind ?_
  intro _
  intro _
  split
  · apply failWith_pres
  · extract_lets +onlyGivenNames y13
    clear_value y13
    extract_lets +onlyGivenNames y14
    clear_value y14
    extract_lets +onlyGivenNames y15
    clear_value y15
    dsimp only
    refine presM_ite ?_ ?_
    · refine presM_bind ?_ ?_
      · apply rescaleTile_pres
      · intro _
        refine presM_bind ?_ ?_
        · apply startTile_pres
        · intro _
          refine presM_bind ?_ ?_
          · apply actRows_pres
          · intro _
            refine presM_bind ?_ ?_
            · apply accumulate_pres
            · intro _
              refine presM_bind ?_ ?_
              · apply drainGroup_pres
              · intro _
                refine presM_ite ?_ ?_
                · refine presM_bind ?_ ?_
                  · apply putDwork_pres
                  · intro _
                    refine presM_modify ?_
                    intro _
                    intro _
                    apply updOp_pres
                    assumption
                · apply putDwork_pres
    · refine presM_bind ?_ ?_
      · apply startTile_pres
      · intro _
        refine presM_bind ?_ ?_
        · apply actRows_pres
        · intro _
          refine presM_bind ?_ ?_
          · apply accumulate_pres
          · intro _
            refine presM_bind ?_ ?_
            · apply drainGroup_pres
            · intro _
              refine presM_ite ?_ ?_
              · refine presM_bind ?_ ?_
                · apply putDwork_pres
                · intro _
                  refine presM_modify ?_
                  intro _
                  intro _
                  apply updOp_pres
                  assumption
              · apply putDwork_pres

theorem dnsGroups_pres {a : State} (x0 x1 x2) (h0 : Pres a x0) : Pres a (dnsGroups x0 x1 x2) := by
  induction x2 generalizing x0 x1 with
  | zero =>
    unfold dnsGroups
    assumption
  | succ x ih =>
    unfold dnsGroups
    split
    · refine pres_ite ?_ ?_
      · apply ih
        apply serveOp_pres
        · assumption
        · intro _
          intro _
          apply dnsGroup_pres
      · assumption
    · assumption

theorem segRange_pres {a : State} (x0 x1)  : PresM a (segRange x0 x1) := by
  unfold segRange
  dsimp only
  refine presM_bind ?_ ?_
  · apply readNat_pres
  · intro _
    exact presM_pure _

theorem segSrc_pres {a : State} (x0 x1) : PresM a (segSrc x0 x1) := by
  unfold segSrc
  refine presM_bind ?_ ?_
  · refine presM_ite ?_ ?_
    · apply readNat_pres
    · exact presM_pure _
  · intro _
    refine presM_bind ?_ ?_
    · apply readNat_pres
    · intro _
      exact presM_pure _

theorem density_pres {a : State} (x0)  : PresM a (density x0) := by
  unfold density
  refine presM_ite ?_ ?_
  · refine presM_bind ?_ ?_
    · apply collect_pres
      intro _
      refine presM_bind ?_ ?_
      · apply readNat_pres
      · intro _
        exact presM_pure _
    · intro _
      exact presM_pure _
  · refine presM_ite ?_ ?_
    · refine presM_bind ?_ ?_
      · apply collect_pres
        intro _
        refine presM_bind ?_ ?_
        · apply readNat_pres
        · intro _
          exact presM_pure _
      · intro _
        exact presM_pure _
    · refine presM_ite ?_ ?_
      · exact presM_pure _
      · refine presM_bind ?_ ?_
        · apply collect_pres
          intro _
          refine presM_bind ?_ ?_
          · apply segRange_pres
          · intro _
            split
            apply collect_pres
            intro _
            apply segSrc_pres
        · intro _
          extract_lets +onlyGivenNames y4
          clear_value y4
          exact presM_pure _

theorem walksJob_pres {a : State} (x0)  : PresM a (walksJob x0) := by
  unfold walksJob
  refine presM_ite ?_ ?_
  · exact presM_pure _
  · refine presM_bind ?_ ?_
    · apply density_pres
    · intro _
      split
      exact presM_pure _

theorem bmRow_pres {a : State} (x0 x1 x2 x3 x4)  : PresM a (bmRow x0 x1 x2 x3 x4) := by
  unfold bmRow
  refine presM_bind ?_ ?_
  · apply readNat_pres
  · intro _
    dsimp only
    apply collect_pres
    intro _
    refine presM_bind ?_ ?_
    · apply readNat_pres
    · intro _
      refine presM_bind ?_ ?_
      · apply failIf_pres
      · intro _
        refine presM_ite ?_ ?_
        · exact presM_pure _
        · refine presM_bind ?_ ?_
          · apply readT_pres
          · intro _
            exact presM_pure _

theorem cooRegion_pres {a : State} (x0 x1 x2)  : PresM a (cooRegion x0 x1 x2) := by
  unfold cooRegion
  dsimp only
  refine presM_bind ?_ ?_
  · apply readNat_pres
  · intro _
    refine presM_bind ?_ ?_
    · apply failIf_pres
    · intro _
      refine presM_bind ?_ ?_
      · apply readT_pres
      · intro _
        refine presM_bind ?_ ?_
        · apply readT_pres
        · intro _
          refine presM_bind ?_ ?_
          · apply failIf_pres
          · intro _
            exact presM_pure _

theorem expandRows_pres {a : State} (x0)  : PresM a (expandRows x0) := by
  unfold expandRows
  extract_lets +onlyGivenNames y3
  clear_value y3
  refine presM_ite ?_ ?_
  · apply collect_pres
    intro _
    refine presM_bind ?_ ?_
    · apply bmRow_pres
    · intro _
      exact presM_pure _
  · refine presM_ite ?_ ?_
    · refine presM_bind ?_ ?_
      · apply collect_pres
        intro _
        refine presM_bind ?_ ?_
        · apply collect_pres
          intro _
          apply cooRegion_pres
        · intro _
          exact presM_pure _
      · intro _
        extract_lets +onlyGivenNames y5
        clear_value y5
        exact presM_pure _
    · apply collect_pres
      intro _
      refine presM_bind ?_ ?_
      · apply segRange_pres
      · intro _
        split
        refine presM_bind ?_ ?_
        · apply collect_pres
          intro _
          apply segSrc_pres
        · intro _
          exact presM_pure _

theorem jobExpand_pres {a : State} (x0)  : PresM a (jobExpand x0) := by
  unfold jobExpand
  refine presM_get_bind ?_
  intro _
  intro _
  split
  · apply failWith_pres
  · refine presM_bind ?_ ?_
    · apply failIf_pres
    · intro _
      refine presM_bind ?_ ?_
      · apply failIf_pres
      · intro _
        refine presM_bind ?_ ?_
        · apply expandRows_pres
        · intro _
          apply accumulate_pres

theorem endJob_pres {a : State} (x0 x1)  : PresM a (endJob x0 x1) := by
  unfold endJob
  dsimp only
  refine presM_ite ?_ ?_
  · refine presM_bind ?_ ?_
    · apply drainTile_pres
    · intro _
      refine presM_bind ?_ ?_
      · apply count_pres
      · intro _
        apply putWalk_pres
  · refine presM_bind ?_ ?_
    · apply count_pres
    · intro _
      apply putWalk_pres

theorem rowPart_pres {a : State} (x0 x1 x2 x3 x4)  : PresM a (rowPart x0 x1 x2 x3 x4) := by
  unfold rowPart
  refine presM_bind ?_ ?_
  · apply rowScales_pres
  · intro _
    refine presM_bind ?_ ?_
    · apply rowBits_pres
    · intro _
      exact presM_pure _

theorem denseB_pres {a : State} (x0 x1 x2 x3)  : PresM a (denseB x0 x1 x2 x3) := by
  unfold denseB
  refine presM_ite ?_ ?_
  · refine presM_bind ?_ ?_
    · apply collect_pres
      intro _
      apply rowPart_pres
    · intro _
      exact presM_pure _
  · apply rowPart_pres

theorem bmCols_pres {a : State} (x0) : PresM a (bmCols x0) := by
  unfold bmCols
  apply collect_pres
  intro _
  refine presM_ite ?_ ?_
  · refine presM_bind ?_ ?_
    · apply bmRow_pres
    · intro _
      exact presM_pure _
  · refine presM_bind ?_ ?_
    · apply denseB_pres
    · intro _
      exact presM_pure _

theorem beginJob_pres {a : State} (x0) : PresM a (beginJob x0) := by
  unfold beginJob
  refine presM_bind ?_ ?_
  · apply startTile_pres
  · intro _
    refine presM_bind ?_ ?_
    · apply walksJob_pres
    · intro _
      refine presM_ite ?_ ?_
      · refine presM_bind ?_ ?_
        · apply jobExpand_pres
        · intro _
          apply endJob_pres
      · refine presM_bind ?_ ?_
        · refine presM_ite ?_ ?_
          · apply bmCols_pres
          · exact presM_pure _
        · intro _
          apply putWalk_pres

theorem putTileRow_pres {a : State} (x0 x1 x2 x3 x4)  : PresM a (putTileRow x0 x1 x2 x3 x4) := by
  unfold putTileRow
  refine presM_get_bind ?_
  intro _
  intro _
  dsimp only
  refine presM_bind ?_ ?_
  · apply countIf_pres
  · intro _
    refine presM_modify ?_
    intro _
    intro _
    apply setTile_pres
    assumption

theorem bmAdd_pres {a : State} (x0 x1) : PresM a (bmAdd x0 x1) := by
  unfold bmAdd
  refine presM_get_bind ?_
  intro _
  intro _
  extract_lets +onlyGivenNames y6
  clear_value y6
  extract_lets +onlyGivenNames y7
  clear_value y7
  refine presM_bind ?_ ?_
  · apply count_pres
  · intro _
    apply putTileRow_pres

theorem endWalk_pres {a : State} (x0) : PresM a (endWalk x0) := by
  unfold endWalk
  refine presM_bind ?_ ?_
  · apply advance_pres
  · intro _
    apply endJob_pres

end Sys2Proof.Machine
end

