-- ==== Sys2Proof/Laws/Kept4.lean ====
section
/-!
SUPPORT. What the functions of the machine keep, bmStep to endWaiting: one lemma a function, each over the lemmas of those it calls.
-/
namespace Sys2Proof.Machine
open Sys2Proof

theorem bmStep_pres {a : State} (x0) : PresM a (bmStep x0) := by
  unfold bmStep
  split
  · refine presM_bind ?_ ?_
    · apply bmAdd_pres
    · intro _
      apply putWalk_pres
  · refine presM_ite ?_ ?_
    · refine presM_bind ?_ ?_
      · apply bmRow_pres
      · intro _
        apply putWalk_pres
    · apply endWalk_pres

theorem bSlice_pres {a : State} (x0 x1)  : PresM a (bSlice x0 x1) := by
  unfold bSlice
  refine presM_ite ?_ ?_
  · apply rowPart_pres
  · refine presM_bind ?_ ?_
    · apply collect_pres
      intro _
      apply rowPart_pres
    · intro _
      exact presM_pure _

theorem cooAdd_pres {a : State} (x0 x1) : PresM a (cooAdd x0 x1) := by
  unfold cooAdd
  split
  · refine presM_bind ?_ ?_
    · apply count_pres
    · intro _
      refine presM_bind ?_ ?_
      · apply bSlice_pres
      · intro _
        refine presM_get_bind ?_
        intro _
        intro _
        extract_lets +onlyGivenNames y15
        clear_value y15
        extract_lets +onlyGivenNames y16
        clear_value y16
        apply putTileRow_pres
  · exact presM_pure _

theorem cooTodo_pres {a : State} (x0 x1 x2) : PresM a (cooTodo x0 x1 x2) := by
  unfold cooTodo
  refine presM_bind ?_ ?_
  · apply cooRegion_pres
  · intro _
    exact presM_pure _

theorem cooStep_pres {a : State} (x0) : PresM a (cooStep x0) := by
  unfold cooStep
  split
  · refine presM_bind ?_ ?_
    · apply cooAdd_pres
    · intro _
      apply putWalk_pres
  · split
    · refine presM_bind ?_ ?_
      · apply cooTodo_pres
      · intro _
        apply putWalk_pres
    · apply endWalk_pres

theorem forwardDst_pres {a : State} (x0 x1)  : PresM a (forwardDst x0 x1) := by
  unfold forwardDst
  refine presM_bind ?_ ?_
  · apply readT_pres
  · intro _
    dsimp only
    exact presM_pure _

theorem segEdge_pres {a : State} (x0 x1)  : PresM a (segEdge x0 x1) := by
  unfold segEdge
  refine presM_bind ?_ ?_
  · apply segSrc_pres
  · intro _
    split
    refine presM_bind ?_ ?_
    · apply count_pres
    · intro _
      refine presM_ite ?_ ?_
      · exact presM_pure _
      · refine presM_bind ?_ ?_
        · refine presM_ite ?_ ?_
          · apply readNat_pres
          · exact presM_pure _
        · intro _
          refine presM_bind ?_ ?_
          · refine presM_ite ?_ ?_
            · apply forwardDst_pres
            · exact presM_pure _
          · intro _
            exact presM_pure _

theorem segContrib_pres {a : State} (x0 x1) : PresM a (segContrib x0 x1) := by
  unfold segContrib
  refine presM_bind ?_ ?_
  · apply segEdge_pres
  · intro _
    split
    · exact presM_pure _
    · refine presM_bind ?_ ?_
      · apply failIf_pres
      · intro _
        refine presM_bind ?_ ?_
        · apply rowPart_pres
        · intro _
          exact presM_pure _

theorem segTake_pres {a : State} (x0 x1 x2 x3 x4) : PresM a (segTake x0 x1 x2 x3 x4) := by
  induction x2 generalizing x0 x1 x3 x4 with
  | zero =>
    unfold segTake
    exact presM_pure _
  | succ x ih =>
    unfold segTake
    refine presM_ite ?_ ?_
    · exact presM_pure _
    · refine presM_bind ?_ ?_
      · apply segContrib_pres
      · intro _
        apply ih

theorem segGroupStep_pres {a : State} (x0 x1 x2) : PresM a (segGroupStep x0 x1 x2) := by
  unfold segGroupStep
  refine presM_bind ?_ ?_
  · apply segTake_pres
  · intro _
    split
    refine presM_get_bind ?_
    intro _
    intro _
    split
    refine presM_bind ?_ ?_
    · apply putTileRow_pres
    · intro _
      extract_lets +onlyGivenNames y18
      clear_value y18
      extract_lets +onlyGivenNames y19
      clear_value y19
      apply putWalk_pres

theorem beginHub_pres {a : State} (x0 x1)  : PresM a (beginHub x0 x1) := by
  unfold beginHub
  refine presM_get_bind ?_
  intro _
  intro _
  dsimp only
  refine presM_bind ?_ ?_
  · refine presM_set ?_
    refine pres_mk_of ?_ rfl rfl rfl rfl rfl
    assumption
  · intro _
    refine presM_bind ?_ ?_
    · apply countIf_pres
    · intro _
      apply putWalk_pres

theorem segFinish_pres {a : State} (x0)  : PresM a (segFinish x0) := by
  unfold segFinish
  dsimp only
  refine presM_ite ?_ ?_
  · refine presM_bind ?_ ?_
    · apply each_pres
      intro _
      refine presM_ite ?_ ?_
      · refine presM_get_bind ?_
        intro _
        intro _
        apply putTileRow_pres
      · exact presM_pure _
    · intro _
      apply advance_pres
  · apply advance_pres

theorem segStep_pres {a : State} (x0) : PresM a (segStep x0) := by
  unfold segStep
  refine presM_get_bind ?_
  intro _
  intro _
  refine presM_ite ?_ ?_
  · split
    · refine presM_bind ?_ ?_
      · apply segRange_pres
      · intro _
        split
        refine presM_bind ?_ ?_
        · apply putWalk_pres
        · intro _
          exact presM_pure _
    · refine presM_ite ?_ ?_
      · refine presM_bind ?_ ?_
        · apply segGroupStep_pres
        · intro _
          exact presM_pure _
      · refine presM_ite ?_ ?_
        · refine presM_bind ?_ ?_
          · apply putWalk_pres
          · intro _
            exact presM_pure _
        · refine presM_bind ?_ ?_
          · apply beginHub_pres
          · intro _
            exact presM_pure _
  · refine presM_ite ?_ ?_
    · exact presM_pure _
    · refine presM_bind ?_ ?_
      · apply segFinish_pres
      · intro _
        refine presM_bind ?_ ?_
        · apply endJob_pres
        · intro _
          exact presM_pure _

theorem walkStep_pres {a : State} (x0 x1) : PresM a (walkStep x0 x1) := by
  unfold walkStep
  refine presM_get_bind ?_
  intro _
  intro _
  split
  · exact presM_pure _
  · extract_lets +onlyGivenNames y11
    clear_value y11
    refine presM_ite ?_ ?_
    · refine presM_bind ?_ ?_
      · apply putWalk_pres
      · intro _
        exact presM_pure _
    · refine presM_ite ?_ ?_
      · refine presM_bind ?_ ?_
        · apply beginJob_pres
        · intro _
          exact presM_pure _
      · refine presM_ite ?_ ?_
        · refine presM_bind ?_ ?_
          · apply bmStep_pres
          · intro _
            exact presM_pure _
        · refine presM_ite ?_ ?_
          · refine presM_bind ?_ ?_
            · apply cooStep_pres
            · intro _
              exact presM_pure _
          · refine presM_bind ?_ ?_
            · apply segStep_pres
            · intro _
              exact presM_pure _

theorem pumpJobs_pres {a : State} (x0 x1 x2)  : PresM a (pumpJobs x0 x1 x2) := by
  induction x2 generalizing x0 x1 with
  | zero =>
    unfold pumpJobs
    exact presM_pure _
  | succ x ih =>
    unfold pumpJobs
    refine presM_bind ?_ ?_
    · apply walkStep_pres
    · intro _
      split
      · exact presM_pure _
      · apply ih

theorem walkOn_pres {a : State} (x0 x1 x2) : PresM a (walkOn x0 x1 x2) := by
  unfold walkOn
  refine presM_bind ?_ ?_
  · apply pumpJobs_pres
  · intro _
    refine presM_ite ?_ ?_
    · refine presM_modify ?_
      intro _
      intro _
      apply updOp_pres
      assumption
    · exact presM_pure _

theorem tileStep_pres {a : State} (x0 x1 x2) (h0 : Pres a x0) : Pres a (tileStep x0 x1 x2) := by
  unfold tileStep
  split
  · assumption
  · refine pres_ite ?_ ?_
    · assumption
    · refine pres_ite ?_ ?_
      · apply dnsGroups_pres
        assumption
      · refine pres_ite ?_ ?_
        · apply serveOp_pres
          · assumption
          · intro _
            intro _
            apply walkOn_pres
        · assumption

theorem reachBoundary_pres {a : State} (x0 x1 x2) (h0 : Pres a x0) : Pres a (reachBoundary x0 x1 x2) := by
  unfold reachBoundary
  refine pres_foldl ?_ ?_
  · assumption
  · intro _
    intro _
    intro _
    split
    · split
      apply tileStep_pres
      refine pres_of_pair (by assumption) ?_
      apply takeFree_pres
      assumption
    · assumption

theorem abandoned_pres {a : State} (x0 x1 x2) (h0 : Pres a x0) : PresP a (abandoned x0 x1 x2) := by
  unfold abandoned
  split
  · refine presP_mk ?_
    assumption
  · split
    refine presP_ite ?_ ?_
    · refine presP_mk ?_
      apply updOp_pres
      refine pres_of_pair (by assumption) ?_
      apply takeFree_pres
      assumption
    · refine presP_mk ?_
      refine pres_of_pair (by assumption) ?_
      apply takeFree_pres
      assumption
  · refine presP_mk ?_
    assumption

theorem park_pres {a : State} (x0 x1 x2) (h0 : Pres a x0) : Pres a (park x0 x1 x2) := by
  unfold park
  dsimp only
  refine pres_mk_of ?_ rfl rfl rfl rfl rfl
  assumption

theorem saveContext_pres {a : State} (x0 x1 x2 x3) (h0 : Pres a x0) (h1 : Pres a x1) : Pres a (saveContext x0 x1 x2 x3) := by
  unfold saveContext
  extract_lets +onlyGivenNames y8
  clear_value y8
  extract_lets +onlyGivenNames y9
  clear_value y9
  extract_lets +onlyGivenNames y10
  clear_value y10
  split
  · refine pres_ite ?_ ?_
    · assumption
    · apply faultTask_pres
      refine presM_error (by assumption) ?_ ?_
      · apply each_pres
        intro _
        apply writeLocal_pres
      · assumption
  · extract_lets +onlyGivenNames y17
    clear_value y17
    extract_lets +onlyGivenNames y18
    (refine pres_absorb (a := a) y18 ?_ (fun _ => ?_); rotate_left; clear_value y18; rotate_right)
    · dsimp only [y18]
      apply updDense_pres
      refine presM_ok (by assumption) ?_ ?_
      · apply each_pres
        intro _
        apply writeLocal_pres
      · assumption
    · extract_lets +onlyGivenNames y20
      (refine pres_absorb (a := a) y20 ?_ (fun _ => ?_); rotate_left; clear_value y20; rotate_right)
      · dsimp only [y20]
        apply dropThreads_pres
        apply park_pres
        assumption
      · extract_lets +onlyGivenNames y22
        (refine pres_absorb (a := a) y22 ?_ (fun _ => ?_); rotate_left; clear_value y22; rotate_right)
        · dsimp only [y22]
          apply updSlot_pres
          assumption
        · extract_lets +onlyGivenNames y24
          (refine pres_absorb (a := a) y24 ?_ (fun _ => ?_); rotate_left; clear_value y24; rotate_right)
          · dsimp only [y24]
            refine pres_ite ?_ ?_
            · apply bump_pres
              assumption
            · assumption
          · apply bump_pres
            refine pres_mk_of ?_ rfl rfl rfl rfl rfl
            assumption

theorem uncount_pres {a : State} (x0 x1 x2) (h0 : Pres a x0) : Pres a (uncount x0 x1 x2) := by
  unfold uncount
  refine pres_mk_of ?_ rfl rfl rfl rfl rfl
  assumption

theorem leaveTags_pres {a : State} (x0 x1) (h0 : Pres a x0) : Pres a (leaveTags x0 x1) := by
  unfold leaveTags
  refine pres_mk_of ?_ rfl rfl rfl rfl rfl
  assumption

theorem withdraw_pres {a : State} (x0 x1 x2) (h0 : Pres a x0) : Pres a (withdraw x0 x1 x2) := by
  unfold withdraw
  extract_lets +onlyGivenNames y6
  (refine pres_absorb (a := a) y6 ?_ (fun _ => ?_); rotate_left; clear_value y6; rotate_right)
  · dsimp only [y6]
    apply uncount_pres
    apply leaveTags_pres
    assumption
  · split
    · extract_lets +onlyGivenNames y18
      clear_value y18
      refine pres_ite ?_ ?_
      · apply updThr_pres
        apply dropOp_pres
        apply dropReq_pres
        assumption
      · apply updReq_pres
        assumption
    · apply updReq_pres
      assumption

theorem withdrawAll_pres {a : State} (x0 x1) (h0 : Pres a x0) : Pres a (withdrawAll x0 x1) := by
  unfold withdrawAll
  extract_lets +onlyGivenNames y5
  (refine pres_absorb (a := a) y5 ?_ (fun _ => ?_); rotate_left; clear_value y5; rotate_right)
  · dsimp only [y5]
    refine pres_foldl ?_ ?_
    · assumption
    · intro _
      intro _
      intro _
      apply withdraw_pres
      assumption
  · refine pres_foldl ?_ ?_
    · assumption
    · intro _
      intro _
      intro _
      apply dropReq_pres
      apply leaveTags_pres
      assumption

theorem execContextSave_pres {a : State} (x0 x1) (h1 : Pres a x1) : PresX a (execContextSave x0 x1) := by
  unfold execContextSave
  refine presX_next ?_
  extract_lets +onlyGivenNames y5
  clear_value y5
  extract_lets +onlyGivenNames y6
  clear_value y6
  extract_lets +onlyGivenNames y7
  clear_value y7
  refine pres_ite ?_ ?_
  · assumption
  · extract_lets +onlyGivenNames y8
    (refine pres_absorb (a := a) y8 ?_ (fun _ => ?_); rotate_left; clear_value y8; rotate_right)
    · dsimp only [y8]
      apply reachBoundary_pres
      assumption
    · refine pres_ite ?_ ?_
      · assumption
      · split
        apply saveContext_pres
        · assumption
        · apply withdrawAll_pres
          refine pres_of_pair (by assumption) ?_
          apply abandoned_pres
          assumption

theorem sendTarget_pres {a : State} (x0 x1 x2 x3) (h0 : Pres a x0) : Pres a (sendTarget x0 x1 x2 x3) := by
  unfold sendTarget
  apply sendSet_pres
  assumption

theorem leaveDone_pres {a : State} (x0 x1) (h0 : Pres a x0) : Pres a (leaveDone x0 x1) := by
  unfold leaveDone
  apply freeSlot_pres
  refine pres_ite ?_ ?_
  · apply flowRelease_pres
    assumption
  · assumption

theorem releaseTask_pres {a : State} (x0 x1) (h0 : Pres a x0) : Pres a (releaseTask x0 x1) := by
  unfold releaseTask
  extract_lets +onlyGivenNames y5
  clear_value y5
  extract_lets +onlyGivenNames y6
  (refine pres_absorb (a := a) y6 ?_ (fun _ => ?_); rotate_left; clear_value y6; rotate_right)
  · dsimp only [y6]
    apply updSlot_pres
    assumption
  · extract_lets +onlyGivenNames y8
    (refine pres_absorb (a := a) y8 ?_ (fun _ => ?_); rotate_left; clear_value y8; rotate_right)
    · dsimp only [y8]
      refine pres_foldl ?_ ?_
      · assumption
      · intro _
        intro _
        intro _
        apply sendTarget_pres
        assumption
    · extract_lets +onlyGivenNames y10
      (refine pres_absorb (a := a) y10 ?_ (fun _ => ?_); rotate_left; clear_value y10; rotate_right)
      · dsimp only [y10]
        apply aflowLeave_pres
        assumption
      · split
        · apply leaveDone_pres
          assumption
        · refine pres_ite ?_ ?_
          · apply leaveDone_pres
            assumption
          · extract_lets +onlyGivenNames y17
            clear_value y17
            extract_lets +onlyGivenNames y18
            (refine pres_absorb (a := a) y18 ?_ (fun _ => ?_); rotate_left; clear_value y18; rotate_right)
            · dsimp only [y18]
              apply postFor_pres
              assumption
            · refine pres_ite ?_ ?_
              · apply leaveDone_pres
                assumption
              · assumption

theorem execTaskDone_pres {a : State} (x0 x1) (h1 : Pres a x1) : PresX a (execTaskDone x0 x1) := by
  unfold execTaskDone
  refine presX_next ?_
  dsimp only
  refine pres_ite ?_ ?_
  · assumption
  · refine pres_ite ?_ ?_
    · apply updSlot_pres
      apply dropThreads_pres
      assumption
    · apply releaseTask_pres
      apply dropThreads_pres
      assumption

theorem execOrderedRelease_pres {a : State} (x0 x1) (h1 : Pres a x1) : PresX a (execOrderedRelease x0 x1) := by
  unfold execOrderedRelease
  refine presX_next ?_
  dsimp only
  refine pres_ite ?_ ?_
  · apply releaseTask_pres
    assumption
  · assumption

theorem execCoolingEnd_pres {a : State} (x0 x1) (h1 : Pres a x1) : PresX a (execCoolingEnd x0 x1) := by
  unfold execCoolingEnd
  refine presX_next ?_
  dsimp only
  refine pres_ite ?_ ?_
  · apply updSlot_pres
    assumption
  · assumption

theorem hubPlace_pres {a : State} (x0 x1 x2 x3 x4 x5 x6 x7) : PresM a (hubPlace x0 x1 x2 x3 x4 x5 x6 x7) := by
  unfold hubPlace
  extract_lets +onlyGivenNames y10
  clear_value y10
  refine presM_bind ?_ ?_
  · apply segRange_pres
  · intro _
    split
    extract_lets +onlyGivenNames y15
    clear_value y15
    refine presM_bind ?_ ?_
    · apply segTake_pres
    · intro _
      split
      split
      refine presM_get_bind ?_
      intro _
      intro _
      refine presM_bind ?_ ?_
      · apply writeLocal_pres
      · intro _
        extract_lets +onlyGivenNames y29
        clear_value y29
        refine presM_bind ?_ ?_
        · refine presM_modify ?_
          intro _
          intro _
          refine pres_mk_of ?_ rfl rfl rfl rfl rfl
          assumption
        · intro _
          refine presM_bind ?_ ?_
          · apply countIf_pres
          · intro _
            apply count_pres

theorem execHubSegmentPlace_pres {a : State} (x0 x1 x2) (h2 : Pres a x2) : PresX a (execHubSegmentPlace x0 x1 x2) := by
  unfold execHubSegmentPlace
  refine presX_next ?_
  split
  · assumption
  · split
    · split
      · refine pres_ite ?_ ?_
        · apply serveOp_pres
          · assumption
          · intro _
            intro _
            apply hubPlace_pres
        · assumption
      · assumption
    · assumption

theorem hubAdd_pres {a : State} (x0 x1 x2 x3 x4 x5 x6 x7)  : PresM a (hubAdd x0 x1 x2 x3 x4 x5 x6 x7) := by
  unfold hubAdd
  extract_lets +onlyGivenNames y10
  clear_value y10
  refine presM_get_bind ?_
  intro _
  intro _
  refine presM_bind ?_ ?_
  · apply readLocal_pres
  · intro _
    refine presM_get_bind ?_
    intro _
    intro _
    extract_lets +onlyGivenNames y16
    clear_value y16
    extract_lets +onlyGivenNames y17
    clear_value y17
    refine presM_bind ?_ ?_
    · apply putTileRow_pres
    · intro _
      refine presM_bind ?_ ?_
      · apply putWalk_pres
      · intro _
        refine presM_modify ?_
        intro _
        intro _
        refine pres_mk_of ?_ rfl rfl rfl rfl rfl
        assumption

theorem execHubPartialAdd_pres {a : State} (x0 x1) (h1 : Pres a x1) : PresX a (execHubPartialAdd x0 x1) := by
  unfold execHubPartialAdd
  refine presX_next ?_
  split
  · assumption
  · split
    · refine pres_ite ?_ ?_
      · assumption
      · apply serveOp_pres
        · assumption
        · intro _
          intro _
          apply hubAdd_pres
    · assumption

theorem reply_pres {a : State} (x0 x1 x2 x3 x4 x5 x6) (h0 : Pres a x0) : Pres a (reply x0 x1 x2 x3 x4 x5 x6) := by
  unfold reply
  extract_lets +onlyGivenNames y10
  clear_value y10
  refine pres_ite ?_ ?_
  · refine pres_mk_of ?_ rfl rfl rfl rfl rfl
    assumption
  · refine presP_fst ?_
    apply sendMsg_pres
    assumption

theorem refuseMsg_pres {a : State} (x0 x1 x2 x3) (h0 : Pres a x0) : Pres a (refuseMsg x0 x1 x2 x3) := by
  unfold refuseMsg
  refine pres_ite ?_ ?_
  · apply reply_pres
    assumption
  · assumption

theorem updLink_pres {a : State} (x0 x1 x2) (h0 : Pres a x0) : Pres a (updLink x0 x1 x2) := by
  unfold updLink
  refine pres_mk_of ?_ rfl rfl rfl rfl rfl
  assumption

theorem takeArrival_pres {a : State} (x0 x1) (h0 : Pres a x0) : Pres a (takeArrival x0 x1) := by
  unfold takeArrival
  split
  · assumption
  · dsimp only
    refine pres_ite ?_ ?_
    · apply updLink_pres
      refine pres_mk_of ?_ rfl rfl rfl rfl rfl
      assumption
    · refine pres_mk_of ?_ rfl rfl rfl rfl rfl
      assumption

theorem takeMgr_pres {a : State} (x0 x1) (h0 : Pres a x0) : Pres a (takeMgr x0 x1) := by
  unfold takeMgr
  split
  · apply updGate_pres
    assumption
  · apply takeArrival_pres
    assumption

theorem onMgr_pres {a : State} (x0 x1 x2 x3) (h0 : Pres a x0) (h3 : ∀ s y, Pres a s → Pres a (x3 s y)) : Pres a (onMgr x0 x1 x2 x3) := by
  unfold onMgr
  split
  · refine pres_ite ?_ ?_
    · assumption
    · refine pres_ite ?_ ?_
      · split
        · split
          · apply refuseMsg_pres
            apply takeMgr_pres
            assumption
          · assumption
        · apply takeMgr_pres
          assumption
      · dsimp only
        refine pres_ite ?_ ?_
        · apply bump_pres
          apply takeMgr_pres
          assumption
        · apply_assumption
          apply updGate_pres
          apply bump_pres
          apply takeMgr_pres
          assumption
  · assumption

theorem mgrReply_pres {a : State} (x0 x1 x2) (h0 : Pres a x0) : Pres a (mgrReply x0 x1 x2) := by
  unfold mgrReply
  refine pres_ite ?_ ?_
  · apply emit_pres
    assumption
  · dsimp only
    refine pres_ite ?_ ?_
    · refine pres_mk_of ?_ rfl rfl rfl rfl rfl
      assumption
    · refine presP_fst ?_
      apply sendMsg_pres
      assumption

theorem mgrCast_pres {a : State} (x0 x1 x2 x3) (h0 : Pres a x0) : Pres a (mgrCast x0 x1 x2 x3) := by
  unfold mgrCast
  split
  apply updGate_pres
  refine pres_of_pair (by assumption) ?_
  refine presP_foldl ?_ ?_
  · refine presP_mk ?_
    assumption
  · intro _
    intro _
    intro _
    refine presP_foldl ?_ ?_
    · assumption
    · intro _
      intro _
      intro _
      split
      refine presP_mk ?_
      refine pres_of_pair (by assumption) ?_
      apply mgrSend_pres
      refine presP_fst ?_
      assumption

theorem answerCast_pres {a : State} (x0 x1 x2) (h0 : Pres a x0) : Pres a (answerCast x0 x1 x2) := by
  unfold answerCast
  split
  · apply mgrReply_pres
    assumption
  · assumption

theorem notify_pres {a : State} (x0 x1) (h0 : Pres a x0) : Pres a (notify x0 x1) := by
  unfold notify
  split
  · apply sendTarget_pres
    assumption
  · assumption

theorem updSm_pres {a : State} (x0 x1 x2) (h0 : Pres a x0) : Pres a (updSm x0 x1 x2) := by
  unfold updSm
  apply updGate_pres
  assumption

theorem sendDecision_pres {a : State} (x0 x1) (h0 : Pres a x0) : Pres a (sendDecision x0 x1) := by
  unfold sendDecision
  dsimp only
  refine pres_ite ?_ ?_
  · apply mgrCast_pres
    apply updSm_pres
    assumption
  · apply mgrCast_pres
    apply updSm_pres
    assumption

theorem decided_pres {a : State} (x0 x1) (h0 : Pres a x0) : Pres a (decided x0 x1) := by
  unfold decided
  split
  · apply sendDecision_pres
    split
    · apply mgrReply_pres
      assumption
    · assumption
  · assumption

theorem startOpen_pres {a : State} (x0 x1) (h0 : Pres a x0) : Pres a (startOpen x0 x1) := by
  unfold startOpen
  apply mgrCast_pres
  assumption

theorem acceptOpen_pres {a : State} (x0 x1) (h0 : Pres a x0) : Pres a (acceptOpen x0 x1) := by
  unfold acceptOpen
  refine pres_ite ?_ ?_
  · apply mgrReply_pres
    assumption
  · refine pres_ite ?_ ?_
    · apply mgrReply_pres
      assumption
    · refine pres_ite ?_ ?_
      · apply mgrReply_pres
        assumption
      · refine pres_ite ?_ ?_
        · apply updGate_pres
          assumption
        · apply startOpen_pres
          assumption

theorem stepGone_pres {a : State} (x0 x1) (h0 : Pres a x0) : Pres a (stepGone x0 x1) := by
  unfold stepGone
  dsimp only
  split
  · apply acceptOpen_pres
    apply updGate_pres
    apply updGate_pres
    assumption
  · apply updGate_pres
    assumption

theorem castFirst_pres {a : State} (x0 x1 x2) (h0 : Pres a x0) : Pres a (castFirst x0 x1 x2) := by
  unfold castFirst
  split
  · apply mgrCast_pres
    assumption
  · apply mgrCast_pres
    assumption

theorem sendRemap_pres {a : State} (x0 x1 x2 x3) (h0 : Pres a x0) : Pres a (sendRemap x0 x1 x2 x3) := by
  unfold sendRemap
  apply castFirst_pres
  assumption

theorem sendHalt_pres {a : State} (x0 x1 x2 x3) (h0 : Pres a x0) : Pres a (sendHalt x0 x1 x2 x3) := by
  unfold sendHalt
  extract_lets +onlyGivenNames y7
  clear_value y7
  split
  · apply mgrCast_pres
    assumption
  · apply mgrCast_pres
    assumption

theorem haltDone_pres {a : State} (x0 x1 x2) (h0 : Pres a x0) : Pres a (haltDone x0 x1 x2) := by
  unfold haltDone
  refine pres_ite ?_ ?_
  · assumption
  · refine pres_ite ?_ ?_
    · apply updGate_pres
      assumption
    · split
      · apply sendRemap_pres
        assumption
      · apply sendHalt_pres
        assumption

theorem remapped_pres {a : State} (x0 x1 x2) (h0 : Pres a x0) : Pres a (remapped x0 x1 x2) := by
  unfold remapped
  dsimp only
  split
  · apply mgrCast_pres
    apply updGate_pres
    apply updGate_pres
    assumption
  · apply updGate_pres
    assumption

theorem castDone_pres {a : State} (x0 x1) (h0 : Pres a x0) : Pres a (castDone x0 x1) := by
  unfold castDone
  refine pres_ite ?_ ?_
  · apply mgrCast_pres
    assumption
  · refine pres_ite ?_ ?_
    · apply answerCast_pres
      assumption
    · split
      · refine pres_ite ?_ ?_
        · split
          · apply mgrReply_pres
            apply notify_pres
            assumption
          · assumption
        · refine pres_ite ?_ ?_
          · apply answerCast_pres
            assumption
          · refine pres_ite ?_ ?_
            · apply answerCast_pres
              assumption
            · extract_lets +onlyGivenNames y9
              clear_value y9
              apply mgrCast_pres
              apply updGate_pres
              assumption
      · apply decided_pres
        assumption
      · split
        · apply stepGone_pres
          apply notify_pres
          assumption
        · assumption
      · apply haltDone_pres
        assumption
      · apply remapped_pres
        assumption
      · apply answerCast_pres
        apply updGate_pres
        assumption
      · apply answerCast_pres
        assumption

theorem castsSettle_pres {a : State} (x0 x1) (h0 : Pres a x0) : Pres a (castsSettle x0 x1) := by
  induction x1 generalizing x0 with
  | zero =>
    unfold castsSettle
    assumption
  | succ x ih =>
    unfold castsSettle
    split
    · apply ih
      apply castDone_pres
      apply updGate_pres
      assumption
    · assumption

theorem smSettle_pres {a : State} (x0) (h0 : Pres a x0) : Pres a (smSettle x0) := by
  unfold smSettle
  apply castsSettle_pres
  assumption

theorem hostCast_pres {a : State} (x0 x1 x2 x3 x4) (h0 : Pres a x0) : Pres a (hostCast x0 x1 x2 x3 x4) := by
  unfold hostCast
  refine pres_ite ?_ ?_
  · apply mgrReply_pres
    assumption
  · apply smSettle_pres
    apply mgrCast_pres
    assumption

theorem onMember_pres {a : State} (x0 x1 x2) (h0 : Pres a x0) (h2 : ∀ s, Pres a s → PresP a (x2 s)) : Pres a (onMember x0 x1 x2) := by
  unfold onMember
  split
  apply mgrReply_pres
  refine pres_of_pair (by assumption) ?_
  apply_assumption
  assumption

theorem setAct_pres {a : State} (x0 x1 x2 x3 x4) (h0 : Pres a x0) : Pres a (setAct x0 x1 x2 x3 x4) := by
  unfold setAct
  refine pres_mk_of ?_ rfl rfl rfl rfl rfl
  assumption

theorem commitGh_pres {a : State} (x0) (h0 : Pres a x0) : Pres a (commitGh x0) := by
  unfold commitGh
  apply updGate_pres
  apply setAct_pres
  assumption

theorem setSh_pres {a : State} (x0 x1 x2 x3 x4) (h0 : Pres a x0) : Pres a (setSh x0 x1 x2 x3 x4) := by
  unfold setSh
  refine pres_mk_of ?_ rfl rfl rfl rfl rfl
  assumption

theorem execProfile_pres {a : State} (x0 x1) (h1 : Pres a x1) : PresX a (execProfile x0 x1) := by
  unfold execProfile
  refine presX_next ?_
  apply onMgr_pres
  · assumption
  · intro _
    intro _
    intro _
    refine pres_ite ?_ ?_
    · apply hostCast_pres
      assumption
    · apply onMember_pres
      · assumption
      · intro _
        intro _
        refine presP_mk ?_
        apply raiseEvt_pres
        apply updPage_pres
        apply commitGh_pres
        apply setSh_pres
        assumption

theorem unlessTest_pres {a : State} (x0 x1) (h0 : ∀ s, Pres a s → PresP a (x0 s)) (h1 : Pres a x1) : PresP a (unlessTest x0 x1) := by
  unfold unlessTest
  refine presP_ite ?_ ?_
  · refine presP_mk ?_
    assumption
  · apply_assumption
    assumption

theorem updHome_pres {a : State} (x0 x1 x2) (h0 : Pres a x0) : Pres a (updHome x0 x1 x2) := by
  unfold updHome
  refine pres_mk_of ?_ rfl rfl rfl rfl rfl
  assumption

theorem setApplied_pres {a : State} (x0 x1) (h0 : Pres a x0) : Pres a (setApplied x0 x1) := by
  unfold setApplied
  refine pres_foldl ?_ ?_
  · refine pres_mk_of ?_ rfl rfl rfl rfl rfl
    assumption
  · intro _
    intro _
    intro _
    apply updHome_pres
    assumption

theorem gatherEnd_pres {a : State} (x0 x1)  : PresM a (gatherEnd x0 x1) := by
  unfold gatherEnd
  refine presM_ite ?_ ?_
  · refine presM_modify ?_
    intro _
    intro _
    apply updOp_pres
    assumption
  · exact presM_pure _

theorem rowResume_pres {a : State} (x0 x1) (h0 : Pres a x0) : Pres a (rowResume x0 x1) := by
  unfold rowResume
  split
  · refine pres_ite ?_ ?_
    · assumption
    · apply serveOp_pres
      · assumption
      · intro _
        intro _
        refine presM_bind ?_ ?_
        · apply rowCheckTable_pres
        · intro _
          refine presM_get_bind ?_
          intro _
          intro _
          refine presM_ite ?_ ?_
          · exact presM_pure _
          · refine presM_bind ?_ ?_
            · apply rowStart_pres
            · intro _
              refine presM_bind ?_ ?_
              · refine presM_modify ?_
                intro _
                intro _
                apply updOp_pres
                assumption
              · intro _
                apply gatherEnd_pres
  · assumption

theorem rowPump_pres {a : State} (x0 x1) (h0 : Pres a x0) : Pres a (rowPump x0 x1) := by
  unfold rowPump
  refine pres_foldl ?_ ?_
  · assumption
  · intro _
    intro _
    intro _
    split
    · refine pres_ite ?_ ?_
      · apply rowResume_pres
        assumption
      · refine pres_ite ?_ ?_
        · apply serveOp_pres
          · assumption
          · intro _
            intro _
            refine presM_bind ?_ ?_
            · apply gatherGo_pres
            · intro _
              apply gatherEnd_pres
        · assumption
    · assumption

theorem freeRaw_pres {a : State} (x0 x1) (h0 : Pres a x0) : PresP a (freeRaw x0 x1) := by
  induction x1 generalizing x0 with
  | zero =>
    unfold freeRaw
    refine presP_mk ?_
    assumption
  | succ x ih =>
    unfold freeRaw
    split
    split
    refine presP_mk ?_
    refine pres_of_pair (by assumption) ?_
    apply ih
    refine pres_of_pair (by assumption) ?_
    apply takeFree_pres
    assumption

theorem freeRow_pres {a : State} (x0 x1) (h0 : Pres a x0) : PresP a (freeRow x0 x1) := by
  unfold freeRow
  split
  refine presP_mk ?_
  refine pres_of_pair (by assumption) ?_
  apply freeRaw_pres
  assumption

theorem setAccess_pres {a : State} (x0 x1 x2 x3) (h0 : Pres a x0) : PresP a (setAccess x0 x1 x2 x3) := by
  unfold setAccess
  refine presP_ite ?_ ?_
  · refine presP_mk ?_
    assumption
  · extract_lets +onlyGivenNames y7
    clear_value y7
    refine presP_ite ?_ ?_
    · refine presP_mk ?_
      assumption
    · split
      refine presP_ite ?_ ?_
      · refine presP_mk ?_
        refine pres_of_pair (by assumption) ?_
        apply meets_pres
        assumption
      · extract_lets +onlyGivenNames y14
        (refine pres_absorb (a := a) y14 ?_ (fun _ => ?_); rotate_left; clear_value y14; rotate_right)
        · dsimp only [y14]
          apply wrN_pres
          apply countMem_pres
          refine pres_of_pair (by assumption) ?_
          apply meets_pres
          assumption
        · refine presP_mk ?_
          refine pres_mk_of ?_ rfl rfl rfl rfl rfl
          assumption

theorem readRow_pres {a : State} (x0 x1 x2 x3 x4 x5 x6) (h0 : Pres a x0) : PresP a (readRow x0 x1 x2 x3 x4 x5 x6) := by
  unfold readRow
  extract_lets +onlyGivenNames y10
  clear_value y10
  refine presP_ite ?_ ?_
  · refine presP_mk ?_
    assumption
  · split
    · refine presP_mk ?_
      apply noteFenced_pres
      assumption
    · refine presP_mk ?_
      assumption
    · split
      refine presP_ite ?_ ?_
      · refine presP_mk ?_
        refine pres_of_pair (by assumption) ?_
        apply meets_pres
        assumption
      · split
        · refine presP_mk ?_
          refine pres_of_pair (by assumption) ?_
          apply setAccess_pres
          apply countMem_pres
          refine pres_of_pair (by assumption) ?_
          apply meets_pres
          assumption
        · refine presP_mk ?_
          apply noteFenced_pres
          refine pres_of_pair (by assumption) ?_
          apply setAccess_pres
          apply countMem_pres
          refine pres_of_pair (by assumption) ?_
          apply meets_pres
          assumption
        · refine presP_mk ?_
          refine pres_of_pair (by assumption) ?_
          apply setAccess_pres
          apply countMem_pres
          refine pres_of_pair (by assumption) ?_
          apply meets_pres
          assumption

theorem countPop_pres {a : State} (x0 x1 x2) (h0 : Pres a x0) : Pres a (countPop x0 x1 x2) := by
  unfold countPop
  dsimp only
  refine pres_mk_of ?_ rfl rfl rfl rfl rfl
  assumption

theorem fetchHome_pres {a : State} (x0 x1 x2 x3 x4 x5 x6 x7) (h0 : Pres a x0) : PresP a (fetchHome x0 x1 x2 x3 x4 x5 x6 x7) := by
  unfold fetchHome
  refine presP_ite ?_ ?_
  · refine presP_mk ?_
    assumption
  · refine presP_ite ?_ ?_
    · refine presP_mk ?_
      apply carryFenced_pres
      assumption
    · refine presP_ite ?_ ?_
      · refine presP_mk ?_
        assumption
      · split
        extract_lets +onlyGivenNames y17
        clear_value y17
        refine presP_ite ?_ ?_
        · refine presP_mk ?_
          refine pres_of_pair (by assumption) ?_
          apply resolveRow_pres
          assumption
        · split
          · refine presP_mk ?_
            refine pres_of_pair (by assumption) ?_
            apply resolveRow_pres
            assumption
          · apply freeRow_pres
            refine pres_of_pair (by assumption) ?_
            apply resolveRow_pres
            assumption
          · refine presP_mk ?_
            apply noteFenced_pres
            refine pres_of_pair (by assumption) ?_
            apply resolveRow_pres
            assumption
          · refine presP_mk ?_
            refine pres_of_pair (by assumption) ?_
            apply resolveRow_pres
            assumption
          · split
            · refine presP_mk ?_
              refine pres_ite ?_ ?_
              · refine pres_of_pair (by assumption) ?_
                apply readRow_pres
                refine pres_of_pair (by assumption) ?_
                apply resolveRow_pres
                assumption
              · apply countPop_pres
                refine pres_of_pair (by assumption) ?_
                apply readRow_pres
                refine pres_of_pair (by assumption) ?_
                apply resolveRow_pres
                assumption
            · apply readRow_pres
              refine pres_of_pair (by assumption) ?_
              apply resolveRow_pres
              assumption

theorem bumpUnit_pres {a : State} (x0 x1 x2 x3 x4) (h0 : Pres a x0) : Pres a (bumpUnit x0 x1 x2 x3 x4) := by
  unfold bumpUnit
  refine pres_ite ?_ ?_
  · apply bump_pres
    assumption
  · apply bump_pres
    assumption

theorem checkHome_pres {a : State} (x0 x1 x2 x3 x4 x5 x6) (h0 : Pres a x0) : PresP a (checkHome x0 x1 x2 x3 x4 x5 x6) := by
  unfold checkHome
  refine presP_ite ?_ ?_
  · refine presP_mk ?_
    assumption
  · refine presP_ite ?_ ?_
    · refine presP_mk ?_
      apply carryFenced_pres
      assumption
    · refine presP_ite ?_ ?_
      · refine presP_mk ?_
        assumption
      · split
        extract_lets +onlyGivenNames y16
        clear_value y16
        extract_lets +onlyGivenNames y17
        clear_value y17
        refine presP_ite ?_ ?_
        · refine presP_mk ?_
          refine pres_of_pair (by assumption) ?_
          apply resolveRow_pres
          assumption
        · extract_lets +onlyGivenNames y18
          clear_value y18
          extract_lets +onlyGivenNames y19
          clear_value y19
          refine presP_ite ?_ ?_
          · refine presP_mk ?_
            refine pres_of_pair (by assumption) ?_
            apply resolveRow_pres
            assumption
          · extract_lets +onlyGivenNames y20
            (refine pres_absorb (a := a) y20 ?_ (fun _ => ?_); rotate_left; clear_value y20; rotate_right)
            · dsimp only [y20]
              refine pres_ite ?_ ?_
              · apply bumpUnit_pres
                refine pres_of_pair (by assumption) ?_
                apply resolveRow_pres
                assumption
              · refine pres_of_pair (by assumption) ?_
                apply resolveRow_pres
                assumption
            · split
              · refine presP_mk ?_
                assumption
              · apply freeRow_pres
                assumption
              · refine presP_mk ?_
                apply noteFenced_pres
                assumption
              · refine presP_mk ?_
                assumption
              · apply readRow_pres
                assumption

theorem replyRow_pres {a : State} (x0 x1 x2 x3 x4 x5) (h0 : Pres a x0) : Pres a (replyRow x0 x1 x2 x3 x4 x5) := by
  induction x4 generalizing x0 x1 x2 x3 x5 with
  | zero =>
    unfold replyRow
    assumption
  | succ x ih =>
    unfold replyRow
    dsimp only
    refine pres_ite ?_ ?_
    · apply reply_pres
      assumption
    · apply ih
      apply reply_pres
      assumption

theorem serveRow_pres {a : State} (x0 x1) (h0 : Pres a x0) : PresO a (serveRow x0 x1) := by
  unfold serveRow
  split
  · split
    · refine presO_some ?_
      assumption
    · dsimp only
      split
      · exact presO_none
      · refine presO_some ?_
        apply updReq_pres
        refine presP_fst ?_
        refine presP_ite ?_ ?_
        · apply fetchHome_pres
          assumption
        · apply checkHome_pres
          assumption
      · refine presO_some ?_
        apply updReq_pres
        refine presP_fst ?_
        refine presP_ite ?_ ?_
        · apply fetchHome_pres
          assumption
        · apply checkHome_pres
          assumption
      · refine presO_some ?_
        apply updReq_pres
        refine presP_fst ?_
        refine presP_ite ?_ ?_
        · apply fetchHome_pres
          assumption
        · apply checkHome_pres
          assumption
  · dsimp only
    split
    · exact presO_none
    · refine presO_some ?_
      apply reply_pres
      refine presP_fst ?_
      refine presP_ite ?_ ?_
      · apply fetchHome_pres
        assumption
      · apply checkHome_pres
        assumption
    · refine presO_some ?_
      apply reply_pres
      refine presP_fst ?_
      refine presP_ite ?_ ?_
      · apply fetchHome_pres
        assumption
      · apply checkHome_pres
        assumption
    · refine presO_some ?_
      apply replyRow_pres
      refine presP_fst ?_
      refine presP_ite ?_ ?_
      · apply fetchHome_pres
        assumption
      · apply checkHome_pres
        assumption

theorem releaseRows_pres {a : State} (x0) (h0 : Pres a x0) : Pres a (releaseRows x0) := by
  unfold releaseRows
  refine pres_foldl ?_ ?_
  · refine pres_mk_of ?_ rfl rfl rfl rfl rfl
    assumption
  · intro _
    intro _
    intro _
    split
    · refine presO_of_eq (by assumption) ?_
      apply serveRow_pres
      assumption
    · refine pres_mk_of ?_ rfl rfl rfl rfl rfl
      assumption

theorem reachStep_pres {a : State} (x0 x1) (h0 : Pres a x0) : Pres a (reachStep x0 x1) := by
  unfold reachStep
  refine pres_foldl ?_ ?_
  · apply releaseRows_pres
    refine pres_foldl ?_ ?_
    · apply setApplied_pres
      assumption
    · intro _
      intro _
      intro _
      refine pres_ite ?_ ?_
      · assumption
      · apply applySet_pres
        assumption
  · intro _
    intro _
    intro _
    apply rowPump_pres
    assumption

theorem memberStart_pres {a : State} (x0 x1) (h0 : Pres a x0) : Pres a (memberStart x0 x1) := by
  unfold memberStart
  apply reachStep_pres
  apply updGate_pres
  refine pres_mk_of ?_ rfl rfl rfl rfl rfl
  assumption

theorem execJobStart_pres {a : State} (x0 x1) (h1 : Pres a x1) : PresX a (execJobStart x0 x1) := by
  unfold execJobStart
  refine presX_next ?_
  apply onMgr_pres
  · assumption
  · intro _
    intro _
    intro _
    refine pres_ite ?_ ?_
    · refine pres_ite ?_ ?_
      · apply mgrReply_pres
        assumption
      · dsimp only
        apply hostCast_pres
        apply updGate_pres
        assumption
    · apply onMember_pres
      · assumption
      · intro _
        intro _
        apply unlessTest_pres
        · intro _
          intro _
          refine presP_mk ?_
          apply memberStart_pres
          assumption
        · assumption

theorem execStepOpen_pres {a : State} (x0 x1) (h1 : Pres a x1) : PresX a (execStepOpen x0 x1) := by
  unfold execStepOpen
  refine presX_next ?_
  apply onMgr_pres
  · assumption
  · intro _
    intro _
    intro _
    refine pres_ite ?_ ?_
    · apply mgrReply_pres
      assumption
    · refine pres_ite ?_ ?_
      · apply mgrReply_pres
        assumption
      · apply smSettle_pres
        apply acceptOpen_pres
        assumption

theorem execOpenPrepare_pres {a : State} (x0 x1) (h1 : Pres a x1) : PresX a (execOpenPrepare x0 x1) := by
  unfold execOpenPrepare
  refine presX_next ?_
  apply onMgr_pres
  · assumption
  · intro _
    intro _
    intro _
    refine pres_ite ?_ ?_
    · apply mgrReply_pres
      assumption
    · apply smSettle_pres
      apply mgrCast_pres
      assumption

theorem execOpenGo_pres {a : State} (x0 x1) (h1 : Pres a x1) : PresX a (execOpenGo x0 x1) := by
  unfold execOpenGo
  refine presX_next ?_
  apply onMgr_pres
  · assumption
  · intro _
    intro _
    intro _
    apply onMember_pres
    · assumption
    · intro _
      intro _
      apply unlessTest_pres
      · intro _
        intro _
        refine presP_mk ?_
        refine pres_mk_of ?_ rfl rfl rfl rfl rfl
        assumption
      · assumption

theorem updateUnit_pres {a : State} (x0 x1 x2) (h0 : Pres a x0) : PresP a (updateUnit x0 x1 x2) := by
  unfold updateUnit
  extract_lets +onlyGivenNames y6
  clear_value y6
  extract_lets +onlyGivenNames y7
  (refine presP_absorb (a := a) y7 ?_ (fun _ => ?_); rotate_left; clear_value y7; rotate_right)
  · dsimp only [y7]
    apply resolveRow_pres
    assumption
  · refine presP_mk ?_
    refine presP_fst ?_
    assumption

theorem updMissing_pres {a : State} (x0 x1) (h0 : Pres a x0) : PresP a (updMissing x0 x1) := by
  unfold updMissing
  split
  refine presP_mk ?_
  refine pres_of_pair (by assumption) ?_
  apply updateUnit_pres
  assumption

theorem dropMissing_pres {a : State} (x0 x1 x2) (h0 : Pres a x0) : PresP a (dropMissing x0 x1 x2) := by
  induction x2 generalizing x0 x1 with
  | nil =>
    unfold dropMissing
    refine presP_mk ?_
    assumption
  | cons x xs ih =>
    unfold dropMissing
    dsimp only
    split
    · apply ih
      apply bumpUnit_pres
      refine pres_of_pair (by assumption) ?_
      apply updMissing_pres
      assumption
    · refine presP_mk ?_
      refine presP_fst ?_
      apply ih
      refine pres_of_pair (by assumption) ?_
      apply updMissing_pres
      assumption

theorem sealUnit_pres {a : State} (x0 x1 x2) (h0 : Pres a x0) : PresP a (sealUnit x0 x1 x2) := by
  unfold sealUnit
  dsimp only
  refine presP_mk ?_
  apply updHome_pres
  refine presP_fst ?_
  apply dropMissing_pres
  assumption

theorem sealHomes_pres {a : State} (x0 x1) (h0 : Pres a x0) : Pres a (sealHomes x0 x1) := by
  unfold sealHomes
  split
  dsimp only
  apply updStep_pres
  refine pres_of_pair (by assumption) ?_
  refine presP_foldl ?_ ?_
  · refine presP_mk ?_
    assumption
  · intro _
    intro _
    intro _
    split
    refine presP_mk ?_
    refine pres_of_pair (by assumption) ?_
    apply sealUnit_pres
    refine presP_fst ?_
    assumption

theorem sendAck_pres {a : State} (x0 x1 x2) (h0 : Pres a x0) : Pres a (sendAck x0 x1 x2) := by
  unfold sendAck
  dsimp only
  refine pres_foldl ?_ ?_
  · assumption
  · intro _
    intro _
    intro _
    refine presP_fst ?_
    apply mgrSend_pres
    assumption

theorem tryAck_pres {a : State} (x0) (h0 : Pres a x0) : Pres a (tryAck x0) := by
  unfold tryAck
  refine pres_foldl ?_ ?_
  · assumption
  · intro _
    intro _
    intro _
    dsimp only
    refine pres_ite ?_ ?_
    · apply sendAck_pres
      apply updStep_pres
      assumption
    · assumption

theorem memberSeal_pres {a : State} (x0 x1) (h0 : Pres a x0) : Pres a (memberSeal x0 x1) := by
  unfold memberSeal
  refine pres_ite ?_ ?_
  · assumption
  · dsimp only
    apply tryAck_pres
    apply updStep_pres
    apply sealHomes_pres
    refine pres_ite ?_ ?_
    · apply taint_pres
      refine pres_mk_of ?_ rfl rfl rfl rfl rfl
      assumption
    · assumption

theorem execStepSeal_pres {a : State} (x0 x1) (h1 : Pres a x1) : PresX a (execStepSeal x0 x1) := by
  unfold execStepSeal
  refine presX_next ?_
  apply onMgr_pres
  · assumption
  · intro _
    intro _
    intro _
    refine pres_ite ?_ ?_
    · split
      · refine pres_ite ?_ ?_
        · apply mgrReply_pres
          assumption
        · apply hostCast_pres
          apply updSm_pres
          assumption
      · apply mgrReply_pres
        assumption
    · apply onMember_pres
      · assumption
      · intro _
        intro _
        refine presP_mk ?_
        apply memberSeal_pres
        assumption

theorem noteSeal_pres {a : State} (x0 x1) (h0 : Pres a x0) : Pres a (noteSeal x0 x1) := by
  unfold noteSeal
  split
  · apply updSm_pres
    apply notify_pres
    assumption
  · assumption

theorem decide'_pres {a : State} (x0 x1 x2 x3) (h0 : Pres a x0) : Pres a (decide' x0 x1 x2 x3) := by
  unfold decide'
  extract_lets +onlyGivenNames y7
  (refine pres_absorb (a := a) y7 ?_ (fun _ => ?_); rotate_left; clear_value y7; rotate_right)
  · dsimp only [y7]
    refine pres_ite ?_ ?_
    · apply noteSeal_pres
      assumption
    · assumption
  · split
    extract_lets +onlyGivenNames y15
    (refine pres_absorb (a := a) y15 ?_ (fun _ => ?_); rotate_left; clear_value y15; rotate_right)
    · dsimp only [y15]
      apply updSm_pres
      assumption
    · split
      · apply mgrCast_pres
        assumption
      · apply decided_pres
        assumption

theorem ackedAll_pres {a : State} (x0 x1) (h0 : Pres a x0) : Pres a (ackedAll x0 x1) := by
  unfold ackedAll
  split
  · refine pres_ite ?_ ?_
    · extract_lets +onlyGivenNames y10
      (refine pres_absorb (a := a) y10 ?_ (fun _ => ?_); rotate_left; clear_value y10; rotate_right)
      · dsimp only [y10]
        apply noteSeal_pres
        assumption
      · refine pres_ite ?_ ?_
        · apply decide'_pres
          assumption
        · assumption
    · assumption
  · assumption

theorem takeStageAck_pres {a : State} (x0 x1 x2) (h0 : Pres a x0) : Pres a (takeStageAck x0 x1 x2) := by
  unfold takeStageAck
  refine pres_ite ?_ ?_
  · apply smSettle_pres
    apply ackedAll_pres
    apply updSm_pres
    assumption
  · dsimp only
    refine pres_ite ?_ ?_
    · apply sendAck_pres
      apply updGate_pres
      assumption
    · apply updGate_pres
      assumption

theorem execStageAck_pres {a : State} (x0 x1) (h1 : Pres a x1) : PresX a (execStageAck x0 x1) := by
  unfold execStageAck
  refine presX_next ?_
  apply onMgr_pres
  · assumption
  · intro _
    intro _
    intro _
    dsimp only
    refine pres_ite ?_ ?_
    · apply updGate_pres
      apply mgrReply_pres
      assumption
    · apply takeStageAck_pres
      apply updGate_pres
      apply mgrReply_pres
      assumption

theorem memberCommit_pres {a : State} (x0 x1) (h0 : Pres a x0) : Pres a (memberCommit x0 x1) := by
  unfold memberCommit
  split
  · refine pres_ite ?_ ?_
    · assumption
    · dsimp only
      refine pres_ite ?_ ?_
      · apply updStep_pres
        assumption
      · apply journal_pres
        apply updStep_pres
        assumption
  · refine pres_ite ?_ ?_
    · refine presP_fst ?_
      apply mgrSend_pres
      assumption
    · assumption

theorem execStepCommit_pres {a : State} (x0 x1) (h1 : Pres a x1) : PresX a (execStepCommit x0 x1) := by
  unfold execStepCommit
  refine presX_next ?_
  apply onMgr_pres
  · assumption
  · intro _
    intro _
    intro _
    refine pres_ite ?_ ?_
    · split
      · refine pres_ite ?_ ?_
        · apply mgrReply_pres
          assumption
        · refine pres_ite ?_ ?_
          · apply mgrReply_pres
            apply noteSeal_pres
            assumption
          · refine pres_ite ?_ ?_
            · apply mgrReply_pres
              apply noteSeal_pres
              assumption
            · apply smSettle_pres
              apply decide'_pres
              assumption
      · apply mgrReply_pres
        assumption
    · apply onMember_pres
      · assumption
      · intro _
        intro _
        refine presP_mk ?_
        apply memberCommit_pres
        assumption

theorem withdrawCommit_pres {a : State} (x0 x1) (h0 : Pres a x0) : Pres a (withdrawCommit x0 x1) := by
  unfold withdrawCommit
  extract_lets +onlyGivenNames y5
  (refine pres_absorb (a := a) y5 ?_ (fun _ => ?_); rotate_left; clear_value y5; rotate_right)
  · dsimp only [y5]
    apply updGate_pres
    assumption
  · split
    · apply mgrReply_pres
      assumption
    · assumption

theorem settleJob_pres {a : State} (x0) (h0 : Pres a x0) : Pres a (settleJob x0) := by
  unfold settleJob
  refine pres_ite ?_ ?_
  · apply updGate_pres
    assumption
  · assumption

theorem activateProfile_pres {a : State} (x0) (h0 : Pres a x0) : Pres a (activateProfile x0) := by
  unfold activateProfile
  split
  · apply bump_pres
    apply updGate_pres
    apply setAct_pres
    assumption
  · assumption

theorem stepEnded_pres {a : State} (x0) (h0 : Pres a x0) : Pres a (stepEnded x0) := by
  unfold stepEnded
  apply settleJob_pres
  apply activateProfile_pres
  assumption

theorem clearStep_pres {a : State} (x0 x1) (h0 : Pres a x0) : Pres a (clearStep x0 x1) := by
  unfold clearStep
  dsimp only
  refine pres_mk_of ?_ rfl rfl rfl rfl rfl
  assumption

theorem stepBits_pres {a : State} (x0 x1 x2) (h0 : Pres a x0) : Pres a (stepBits x0 x1 x2) := by
  unfold stepBits
  refine pres_foldl ?_ ?_
  · assumption
  · intro _
    intro _
    intro _
    dsimp only
    refine pres_ite ?_ ?_
    · assumption
    · refine pres_ite ?_ ?_
      · assumption
      · apply applySet_pres
        assumption

theorem stepDiscard_pres {a : State} (x0 x1) (h0 : Pres a x0) : Pres a (stepDiscard x0 x1) := by
  unfold stepDiscard
  dsimp only
  apply clearStep_pres
  apply stepBits_pres
  refine pres_mk_of ?_ rfl rfl rfl rfl rfl
  refine pres_foldl ?_ ?_
  · refine pres_foldl ?_ ?_
    · refine pres_mk_of ?_ rfl rfl rfl rfl rfl
      assumption
    · intro _
      intro _
      intro _
      split
      · apply engineFault_pres
        assumption
      · assumption
  · intro _
    intro _
    intro _
    apply bumpUnit_pres
    apply updHome_pres
    assumption

theorem memberAbort_pres {a : State} (x0 x1) (h0 : Pres a x0) : Pres a (memberAbort x0 x1) := by
  unfold memberAbort
  split
  · refine pres_ite ?_ ?_
    · assumption
    · apply stepEnded_pres
      apply journal_pres
      apply stepDiscard_pres
      assumption
  · assumption

theorem execStepAbort_pres {a : State} (x0 x1) (h1 : Pres a x1) : PresX a (execStepAbort x0 x1) := by
  unfold execStepAbort
  refine presX_next ?_
  apply onMgr_pres
  · assumption
  · intro _
    intro _
    intro _
    refine pres_ite ?_ ?_
    · split
      · refine pres_ite ?_ ?_
        · apply smSettle_pres
          apply decide'_pres
          assumption
        · refine pres_ite ?_ ?_
          · apply smSettle_pres
            apply decide'_pres
            apply withdrawCommit_pres
            assumption
          · apply mgrReply_pres
            assumption
      · apply mgrReply_pres
        assumption
    · apply onMember_pres
      · assumption
      · intro _
        intro _
        refine presP_mk ?_
        apply memberAbort_pres
        assumption

theorem execApplied_pres {a : State} (x0 x1) (h1 : Pres a x1) : PresX a (execApplied x0 x1) := by
  unfold execApplied
  refine presX_next ?_
  apply onMgr_pres
  · assumption
  · intro _
    intro _
    intro _
    dsimp only
    split
    · refine pres_ite ?_ ?_
      · apply smSettle_pres
        apply stepGone_pres
        apply notify_pres
        apply updSm_pres
        apply mgrReply_pres
        assumption
      · apply updSm_pres
        apply mgrReply_pres
        assumption
    · apply updSm_pres
      apply mgrReply_pres
      assumption

theorem execTaint_pres {a : State} (x0 x1) (h1 : Pres a x1) : PresX a (execTaint x0 x1) := by
  unfold execTaint
  refine presX_next ?_
  apply onMgr_pres
  · assumption
  · intro _
    intro _
    intro _
    apply updSm_pres
    apply mgrReply_pres
    assumption

theorem journalFree_pres {a : State} (x0 x1 x2) (h0 : Pres a x0) : Pres a (journalFree x0 x1 x2) := by
  unfold journalFree
  refine pres_mk_of ?_ rfl rfl rfl rfl rfl
  assumption

theorem memberCheckpoint_pres {a : State} (x0 x1 x2) (h0 : Pres a x0) : Pres a (memberCheckpoint x0 x1 x2) := by
  unfold memberCheckpoint
  refine pres_ite ?_ ?_
  · refine pres_mk_of ?_ rfl rfl rfl rfl rfl
    assumption
  · apply updGate_pres
    apply journalFree_pres
    assumption

theorem execCheckpoint_pres {a : State} (x0 x1) (h1 : Pres a x1) : PresX a (execCheckpoint x0 x1) := by
  unfold execCheckpoint
  refine presX_next ?_
  apply onMgr_pres
  · assumption
  · intro _
    intro _
    intro _
    refine pres_ite ?_ ?_
    · apply hostCast_pres
      assumption
    · apply onMember_pres
      · assumption
      · intro _
        intro _
        refine presP_mk ?_
        apply memberCheckpoint_pres
        assumption

theorem execHeartbeat_pres {a : State} (x0 x1) (h1 : Pres a x1) : PresX a (execHeartbeat x0 x1) := by
  unfold execHeartbeat
  refine presX_next ?_
  apply onMgr_pres
  · assumption
  · intro _
    intro _
    intro _
    dsimp only
    refine pres_ite ?_ ?_
    · apply mgrReply_pres
      assumption
    · refine pres_ite ?_ ?_
      · refine pres_ite ?_ ?_
        · apply smSettle_pres
          apply sendRemap_pres
          apply mgrReply_pres
          assumption
        · apply mgrReply_pres
          assumption
      · refine pres_ite ?_ ?_
        · refine presP_fst ?_
          apply mgrSend_pres
          apply mgrReply_pres
          assumption
        · apply mgrReply_pres
          assumption

theorem execHeartbeatTick_pres {a : State} (x0) (h0 : Pres a x0) : PresX a (execHeartbeatTick x0) := by
  unfold execHeartbeatTick
  refine presX_next ?_
  dsimp only
  refine pres_ite ?_ ?_
  · apply updGate_pres
    assumption
  · refine pres_ite ?_ ?_
    · split
      · refine presP_fst ?_
        apply mgrSend_pres
        apply updGate_pres
        assumption
      · apply updGate_pres
        assumption
    · refine presP_fst ?_
      apply mgrSend_pres
      apply updGate_pres
      assumption

theorem settleApplied_pres {a : State} (x0) (h0 : Pres a x0) : Pres a (settleApplied x0) := by
  unfold settleApplied
  refine pres_foldl ?_ ?_
  · assumption
  · intro _
    intro _
    intro _
    refine pres_ite ?_ ?_
    · apply stepGone_pres
      apply notify_pres
      assumption
    · assumption

theorem abortOpen_pres {a : State} (x0) (h0 : Pres a x0) : Pres a (abortOpen x0) := by
  unfold abortOpen
  refine pres_foldl ?_ ?_
  · assumption
  · intro _
    intro _
    intro _
    refine pres_ite ?_ ?_
    · apply decide'_pres
      assumption
    · refine pres_ite ?_ ?_
      · apply decide'_pres
        apply withdrawCommit_pres
        assumption
      · assumption

theorem dropOut_pres {a : State} (x0 x1) (h0 : Pres a x0) : Pres a (dropOut x0 x1) := by
  unfold dropOut
  dsimp only
  refine pres_foldl ?_ ?_
  · apply updGate_pres
    assumption
  · intro _
    intro _
    intro _
    refine presP_fst ?_
    apply mgrSend_pres
    assumption

theorem declareLost_pres {a : State} (x0 x1 x2) (h0 : Pres a x0) : Pres a (declareLost x0 x1 x2) := by
  unfold declareLost
  refine pres_ite ?_ ?_
  · assumption
  · refine pres_ite ?_ ?_
    · apply updGate_pres
      assumption
    · extract_lets +onlyGivenNames y6
      clear_value y6
      extract_lets +onlyGivenNames y7
      clear_value y7
      extract_lets +onlyGivenNames y8
      (refine pres_absorb (a := a) y8 ?_ (fun _ => ?_); rotate_left; clear_value y8; rotate_right)
      · dsimp only [y8]
        split
        · apply mgrReply_pres
          apply updGate_pres
          assumption
        · assumption
      · extract_lets +onlyGivenNames y10
        (refine pres_absorb (a := a) y10 ?_ (fun _ => ?_); rotate_left; clear_value y10; rotate_right)
        · dsimp only [y10]
          apply updGate_pres
          assumption
        · extract_lets +onlyGivenNames y12
          (refine pres_absorb (a := a) y12 ?_ (fun _ => ?_); rotate_left; clear_value y12; rotate_right)
          · dsimp only [y12]
            apply settleApplied_pres
            apply abortOpen_pres
            apply dropOut_pres
            assumption
          · extract_lets +onlyGivenNames y14
            (refine pres_absorb (a := a) y14 ?_ (fun _ => ?_); rotate_left; clear_value y14; rotate_right)
            · dsimp only [y14]
              apply updGate_pres
              assumption
            · refine pres_foldl ?_ ?_
              · assumption
              · intro _
                intro _
                intro _
                apply sendHalt_pres
                assumption

theorem execHeartbeatMiss_pres {a : State} (x0 x1 x2) (h2 : Pres a x2) : PresX a (execHeartbeatMiss x0 x1 x2) := by
  unfold execHeartbeatMiss
  refine presX_next ?_
  refine pres_ite ?_ ?_
  · apply smSettle_pres
    apply declareLost_pres
    assumption
  · refine pres_ite ?_ ?_
    · refine presP_fst ?_
      apply mgrSend_pres
      assumption
    · assumption

theorem execLost_pres {a : State} (x0 x1) (h1 : Pres a x1) : PresX a (execLost x0 x1) := by
  unfold execLost
  refine presX_next ?_
  apply onMgr_pres
  · assumption
  · intro _
    intro _
    intro _
    dsimp only
    refine pres_ite ?_ ?_
    · apply smSettle_pres
      apply declareLost_pres
      apply mgrReply_pres
      assumption
    · refine presP_fst ?_
      apply mgrSend_pres
      apply mgrReply_pres
      assumption

theorem collLost_pres {a : State} (x0 x1) (h0 : Pres a x0) : Pres a (collLost x0 x1) := by
  unfold collLost
  extract_lets +onlyGivenNames y5
  (refine pres_absorb (a := a) y5 ?_ (fun _ => ?_); rotate_left; clear_value y5; rotate_right)
  · dsimp only [y5]
    refine pres_foldl ?_ ?_
    · assumption
    · intro _
      intro _
      intro _
      refine pres_ite ?_ ?_
      · apply dropReq_pres
        assumption
      · assumption
  · refine pres_foldl ?_ ?_
    · assumption
    · intro _
      intro _
      intro _
      split
      · refine pres_ite ?_ ?_
        · apply collFault_pres
          apply bump_pres
          assumption
        · assumption
      · assumption

theorem setBoth_pres {a : State} (x0 x1 x2 x3 x4) (h0 : Pres a x0) : Pres a (setBoth x0 x1 x2 x3 x4) := by
  unfold setBoth
  apply setAct_pres
  apply setSh_pres
  assumption

theorem ringMark_pres {a : State} (x0 x1 x2) (h0 : Pres a x0) : Pres a (ringMark x0 x1 x2) := by
  unfold ringMark
  refine pres_foldl ?_ ?_
  · assumption
  · intro _
    intro _
    intro _
    dsimp only
    apply setBoth_pres
    assumption

theorem memberHalt_pres {a : State} (x0 x1) (h0 : Pres a x0) : Pres a (memberHalt x0 x1) := by
  unfold memberHalt
  extract_lets +onlyGivenNames y5
  clear_value y5
  extract_lets +onlyGivenNames y6
  (refine pres_absorb (a := a) y6 ?_ (fun _ => ?_); rotate_left; clear_value y6; rotate_right)
  · dsimp only [y6]
    apply raiseEvt_pres
    apply updGate_pres
    assumption
  · refine pres_ite ?_ ?_
    · assumption
    · refine pres_ite ?_ ?_
      · apply updGate_pres
        assumption
      · refine pres_ite ?_ ?_
        · assumption
        · extract_lets +onlyGivenNames y8
          clear_value y8
          extract_lets +onlyGivenNames y9
          (refine pres_absorb (a := a) y9 ?_ (fun _ => ?_); rotate_left; clear_value y9; rotate_right)
          · dsimp only [y9]
            apply updGate_pres
            assumption
          · extract_lets +onlyGivenNames y11
            (refine pres_absorb (a := a) y11 ?_ (fun _ => ?_); rotate_left; clear_value y11; rotate_right)
            · dsimp only [y11]
              apply addRecord_pres
              apply collLost_pres
              apply dropOut_pres
              assumption
            · refine pres_ite ?_ ?_
              · apply ringMark_pres
                assumption
              · assumption

theorem execHalt_pres {a : State} (x0 x1) (h1 : Pres a x1) : PresX a (execHalt x0 x1) := by
  unfold execHalt
  refine presX_next ?_
  apply onMgr_pres
  · assumption
  · intro _
    intro _
    intro _
    apply smSettle_pres
    apply mgrReply_pres
    apply memberHalt_pres
    assumption

theorem memberResume_pres {a : State} (x0 x1) (h0 : Pres a x0) : Pres a (memberResume x0 x1) := by
  unfold memberResume
  have h1 : Pres a (updGate { x0 with replay := true, lastOpen := x1 } (fun g => { g with halted := false, reason := 0 })) := by
    apply updGate_pres
    refine pres_mk_of ?_ rfl rfl rfl rfl rfl
    assumption
  revert h1
  generalize updGate _ _ = y
  intro h1
  dsimp only
  refine pres_ite ?_ ?_
  · apply reachStep_pres
    assumption
  · assumption

theorem execResume_pres {a : State} (x0 x1) (h1 : Pres a x1) : PresX a (execResume x0 x1) := by
  unfold execResume
  refine presX_next ?_
  apply onMgr_pres
  · assumption
  · intro _
    intro _
    intro _
    refine pres_ite ?_ ?_
    · apply hostCast_pres
      assumption
    · apply onMember_pres
      · assumption
      · intro _
        intro _
        refine presP_mk ?_
        apply memberResume_pres
        assumption

theorem memberRemap_pres {a : State} (x0 x1) (h0 : Pres a x0) : Pres a (memberRemap x0 x1) := by
  unfold memberRemap
  split
  dsimp only
  refine pres_ite ?_ ?_
  · apply ringMark_pres
    apply updGate_pres
    assumption
  · apply updGate_pres
    apply updGate_pres
    assumption

theorem execRemap_pres {a : State} (x0 x1) (h1 : Pres a x1) : PresX a (execRemap x0 x1) := by
  unfold execRemap
  refine presX_next ?_
  apply onMgr_pres
  · assumption
  · intro _
    intro _
    intro _
    apply onMember_pres
    · assumption
    · intro _
      intro _
      refine presP_mk ?_
      apply memberRemap_pres
      assumption

theorem rebuildSettle_pres {a : State} (x0) (h0 : Pres a x0) : Pres a (rebuildSettle x0) := by
  unfold rebuildSettle
  split
  · refine pres_ite ?_ ?_
    · assumption
    · apply mgrReply_pres
      apply updGate_pres
      assumption
  · assumption

theorem sendJournal_pres {a : State} (x0 x1 x2) (h0 : Pres a x0) : Pres a (sendJournal x0 x1 x2) := by
  unfold sendJournal
  split
  refine pres_foldl ?_ ?_
  · assumption
  · intro _
    intro _
    intro _
    extract_lets +onlyGivenNames y15
    clear_value y15
    split
    refine pres_ite ?_ ?_
    · refine pres_of_pair (by assumption) ?_
      refine presP_foldl ?_ ?_
      · refine presP_mk ?_
        assumption
      · intro _
        intro _
        intro _
        extract_lets +onlyGivenNames y25
        (refine presP_absorb (a := a) y25 ?_ (fun _ => ?_); rotate_left; clear_value y25; rotate_right)
        · dsimp only [y25]
          apply meets_pres
          refine presP_fst ?_
          assumption
        · refine presP_mk ?_
          refine presP_fst ?_
          assumption
    · extract_lets +onlyGivenNames y22
      clear_value y22
      split
      apply journalOut_pres
      refine pres_of_pair (by assumption) ?_
      apply addReq_pres
      refine pres_foldl ?_ ?_
      · refine pres_of_pair (by assumption) ?_
        refine presP_foldl ?_ ?_
        · refine presP_mk ?_
          assumption
        · intro _
          intro _
          intro _
          extract_lets +onlyGivenNames y32
          (refine presP_absorb (a := a) y32 ?_ (fun _ => ?_); rotate_left; clear_value y32; rotate_right)
          · dsimp only [y32]
            apply meets_pres
            refine presP_fst ?_
            assumption
          · refine presP_mk ?_
            refine presP_fst ?_
            assumption
      · intro _
        intro _
        intro _
        apply countMem_pres
        assumption

theorem execRebuild_pres {a : State} (x0 x1) (h1 : Pres a x1) : PresX a (execRebuild x0 x1) := by
  unfold execRebuild
  refine presX_next ?_
  apply onMgr_pres
  · assumption
  · intro _
    intro _
    intro _
    refine pres_ite ?_ ?_
    · apply hostCast_pres
      assumption
    · apply rebuildSettle_pres
      apply updGate_pres
      apply sendJournal_pres
      assumption

theorem answerUpdate_pres {a : State} (x0 x1 x2) (h0 : Pres a x0) : Pres a (answerUpdate x0 x1 x2) := by
  unfold answerUpdate
  split
  · apply updReq_pres
    assumption
  · apply reply_pres
    assumption
  · assumption

theorem journalDone_pres {a : State} (x0 x1) (h0 : Pres a x0) : Pres a (journalDone x0 x1) := by
  unfold journalDone
  split
  · assumption
  · dsimp only
    split
    · apply answerUpdate_pres
      apply dropReq_pres
      assumption
    · apply opAnswered_pres
      apply dropReq_pres
      assumption
    · apply updStep_pres
      apply dropReq_pres
      assumption
    · apply dropReq_pres
      assumption

theorem memberMirror_pres {a : State} (x0) (h0 : Pres a x0) : Pres a (memberMirror x0) := by
  unfold memberMirror
  dsimp only
  apply tryAck_pres
  refine pres_foldl ?_ ?_
  · apply updGate_pres
    refine pres_mk_of ?_ rfl rfl rfl rfl rfl
    assumption
  · intro _
    intro _
    intro _
    apply journalDone_pres
    assumption

theorem execMirrorReset_pres {a : State} (x0 x1) (h1 : Pres a x1) : PresX a (execMirrorReset x0 x1) := by
  unfold execMirrorReset
  refine presX_next ?_
  apply onMgr_pres
  · assumption
  · intro _
    intro _
    intro _
    apply onMember_pres
    · assumption
    · intro _
      intro _
      refine presP_mk ?_
      apply memberMirror_pres
      assumption

theorem keepDecision_pres {a : State} (x0 x1) (h0 : Pres a x0) : Pres a (keepDecision x0 x1) := by
  unfold keepDecision
  dsimp only
  apply updGate_pres
  assumption

theorem execDecision_pres {a : State} (x0 x1) (h1 : Pres a x1) : PresX a (execDecision x0 x1) := by
  unfold execDecision
  refine presX_next ?_
  apply onMgr_pres
  · assumption
  · intro _
    intro _
    intro _
    apply onMember_pres
    · assumption
    · intro _
      intro _
      refine presP_mk ?_
      apply keepDecision_pres
      assumption

theorem execMgrResendTimeout_pres {a : State} (x0 x1) (h1 : Pres a x1) : PresX a (execMgrResendTimeout x0 x1) := by
  unfold execMgrResendTimeout
  refine presX_next ?_
  split
  · refine pres_ite ?_ ?_
    · assumption
    · apply overEthernet_pres
      assumption
  · assumption

theorem takeOverStep_pres {a : State} (x0 x1) (h0 : Pres a x0) : Pres a (takeOverStep x0 x1) := by
  unfold takeOverStep
  dsimp only
  split
  · apply sendDecision_pres
    apply updGate_pres
    assumption
  · apply updGate_pres
    assumption

theorem execStandbyTakeover_pres {a : State} (x0) (h0 : Pres a x0) : PresX a (execStandbyTakeover x0) := by
  unfold execStandbyTakeover
  refine presX_next ?_
  refine pres_ite ?_ ?_
  · assumption
  · dsimp only
    apply smSettle_pres
    apply declareLost_pres
    refine pres_foldl ?_ ?_
    · apply updGate_pres
      assumption
    · intro _
      intro _
      intro _
      apply takeOverStep_pres
      assumption

theorem execProfileActivation_pres {a : State} (x0) (h0 : Pres a x0) : PresX a (execProfileActivation x0) := by
  unfold execProfileActivation
  refine presX_next ?_
  refine pres_ite ?_ ?_
  · apply activateProfile_pres
    assumption
  · assumption

theorem sendNak_pres {a : State} (x0 x1) (h0 : Pres a x0) : Pres a (sendNak x0 x1) := by
  unfold sendNak
  apply bump_pres
  apply updLink_pres
  apply emit_pres
  assumption

theorem rxGap_pres {a : State} (x0 x1) (h0 : Pres a x0) : Pres a (rxGap x0 x1) := by
  unfold rxGap
  refine pres_ite ?_ ?_
  · assumption
  · apply sendNak_pres
    assumption

theorem endWaiting_pres {a : State} (x0) (h0 : Pres a x0) : Pres a (endWaiting x0) := by
  unfold endWaiting
  refine pres_foldl ?_ ?_
  · assumption
  · intro _
    intro _
    intro _
    split
    · extract_lets +onlyGivenNames y12
      clear_value y12
      refine pres_ite ?_ ?_
      · apply answerReq_pres
        assumption
      · assumption
    · assumption

end Sys2Proof.Machine
end

