-- ==== Sys2Proof/Laws/Kept5.lean ====
section
/-!
SUPPORT. What the functions of the machine keep, updDom to retryRun: one lemma a function, each over the lemmas of those it calls.
-/
namespace Sys2Proof.Machine
open Sys2Proof

theorem updDom_pres {a : State} (x0 x1 x2) (h0 : Pres a x0) : Pres a (updDom x0 x1 x2) := by
  unfold updDom
  refine pres_mk_of ?_ rfl rfl rfl rfl rfl
  assumption

theorem flushWaiters_pres {a : State} (x0 x1 x2) (h0 : Pres a x0) : Pres a (flushWaiters x0 x1 x2) := by
  unfold flushWaiters
  extract_lets +onlyGivenNames y6
  clear_value y6
  extract_lets +onlyGivenNames y7
  (refine pres_absorb (a := a) y7 ?_ (fun _ => ?_); rotate_left; clear_value y7; rotate_right)
  · dsimp only [y7]
    refine pres_mk_of ?_ rfl rfl rfl rfl rfl
    assumption
  · refine pres_foldl ?_ ?_
    · assumption
    · intro _
      intro _
      intro _
      split
      · apply performed_pres
        refine pres_ite ?_ ?_
        · apply noteFenced_pres
          assumption
        · assumption
      · assumption

theorem faultTasks_pres {a : State} (x0 x1 x2) (h0 : Pres a x0) : Pres a (faultTasks x0 x1 x2) := by
  unfold faultTasks
  refine pres_foldl ?_ ?_
  · assumption
  · intro _
    intro _
    intro _
    apply faultTask_pres
    assumption

theorem fenceCore_pres {a : State} (x0 x1) (h0 : Pres a x0) : Pres a (fenceCore x0 x1) := by
  unfold fenceCore
  refine pres_ite ?_ ?_
  · assumption
  · extract_lets +onlyGivenNames y5
    clear_value y5
    extract_lets +onlyGivenNames y6
    (refine pres_absorb (a := a) y6 ?_ (fun _ => ?_); rotate_left; clear_value y6; rotate_right)
    · dsimp only [y6]
      apply raiseEvt_pres
      apply updDom_pres
      assumption
    · extract_lets +onlyGivenNames y8
      (refine pres_absorb (a := a) y8 ?_ (fun _ => ?_); rotate_left; clear_value y8; rotate_right)
      · dsimp only [y8]
        apply flushWaiters_pres
        assumption
      · extract_lets +onlyGivenNames y10
        clear_value y10
        apply checkFloor_pres
        apply endWaiting_pres
        apply faultTasks_pres
        assumption

theorem markNear_pres {a : State} (x0 x1 x2) (h0 : Pres a x0) : Pres a (markNear x0 x1 x2) := by
  unfold markNear
  refine pres_mk_of ?_ rfl rfl rfl rfl rfl
  assumption

theorem steerDead_pres {a : State} (x0 x1 x2 x3 x4) (h0 : Pres a x0) : Pres a (steerDead x0 x1 x2 x3 x4) := by
  unfold steerDead
  extract_lets +onlyGivenNames y8
  clear_value y8
  extract_lets +onlyGivenNames y9
  clear_value y9
  extract_lets +onlyGivenNames y10
  (refine pres_absorb (a := a) y10 ?_ (fun _ => ?_); rotate_left; clear_value y10; rotate_right)
  · dsimp only [y10]
    apply loseRows_pres
    assumption
  · extract_lets +onlyGivenNames y12
    (refine pres_absorb (a := a) y12 ?_ (fun _ => ?_); rotate_left; clear_value y12; rotate_right)
    · dsimp only [y12]
      refine pres_mk_of ?_ rfl rfl rfl rfl rfl
      assumption
    · apply addRecord_pres
      apply updChan_pres
      apply markNear_pres
      assumption

theorem retireNear_pres {a : State} (x0 x1 x2 x3) (h0 : Pres a x0) : Pres a (retireNear x0 x1 x2 x3) := by
  unfold retireNear
  extract_lets +onlyGivenNames y7
  clear_value y7
  extract_lets +onlyGivenNames y8
  clear_value y8
  refine pres_ite ?_ ?_
  · assumption
  · split
    · extract_lets +onlyGivenNames y13
      (refine pres_absorb (a := a) y13 ?_ (fun _ => ?_); rotate_left; clear_value y13; rotate_right)
      · dsimp only [y13]
        apply updChan_pres
        apply markNear_pres
        assumption
      · apply addRecord_pres
        apply loseRows_pres
        assumption
    · refine pres_ite ?_ ?_
      · apply updGate_pres
        assumption
      · extract_lets +onlyGivenNames y15
        (refine presP_absorb (a := a) y15 ?_ (fun _ => ?_); rotate_left; clear_value y15; rotate_right)
        · dsimp only [y15]
          apply takeFree_pres
          assumption
        · refine pres_ite ?_ ?_
          · apply steerDead_pres
            refine presP_fst ?_
            assumption
          · extract_lets +onlyGivenNames y17
            (refine pres_absorb (a := a) y17 ?_ (fun _ => ?_); rotate_left; clear_value y17; rotate_right)
            · dsimp only [y17]
              apply updChan_pres
              assumption
            · refine pres_mk_of ?_ rfl rfl rfl rfl rfl
              assumption

theorem markFenced_pres {a : State} (x0 x1 x2 x3) (h0 : Pres a x0) : Pres a (markFenced x0 x1 x2 x3) := by
  unfold markFenced
  apply raiseEvt_pres
  apply updPage_pres
  assumption

theorem linkChanged_pres {a : State} (x0 x1) (h0 : Pres a x0) : Pres a (linkChanged x0 x1) := by
  unfold linkChanged
  apply raiseEvt_pres
  assumption

theorem strandMsgs_pres {a : State} (x0 x1) (h0 : Pres a x0) : Pres a (strandMsgs x0 x1) := by
  unfold strandMsgs
  refine pres_ite ?_ ?_
  · assumption
  · refine pres_foldl ?_ ?_
    · refine pres_mk_of ?_ rfl rfl rfl rfl rfl
      assumption
    · intro _
      intro _
      intro _
      apply refuseMsg_pres
      apply bump_pres
      assumption

theorem fenceMsgs_pres {a : State} (x0 x1 x2 x3) (h0 : Pres a x0) : Pres a (fenceMsgs x0 x1 x2 x3) := by
  induction x3 generalizing x0 x1 x2 with
  | nil =>
    unfold fenceMsgs
    assumption
  | cons x xs ih =>
    unfold fenceMsgs
    apply ih
    apply refuseMsg_pres
    refine pres_ite ?_ ?_
    · apply bump_pres
      assumption
    · assumption

theorem linkDrop_pres {a : State} (x0 x1 x2) (h0 : Pres a x0) : Pres a (linkDrop x0 x1 x2) := by
  unfold linkDrop
  extract_lets +onlyGivenNames y6
  clear_value y6
  extract_lets +onlyGivenNames y7
  clear_value y7
  extract_lets +onlyGivenNames y8
  clear_value y8
  extract_lets +onlyGivenNames y9
  clear_value y9
  extract_lets +onlyGivenNames y10
  clear_value y10
  extract_lets +onlyGivenNames y11
  clear_value y11
  extract_lets +onlyGivenNames y12
  clear_value y12
  extract_lets +onlyGivenNames y13
  clear_value y13
  extract_lets +onlyGivenNames y14
  clear_value y14
  extract_lets +onlyGivenNames y15
  (refine pres_absorb (a := a) y15 ?_ (fun _ => ?_); rotate_left; clear_value y15; rotate_right)
  · dsimp only [y15]
    refine pres_mk_of ?_ rfl rfl rfl rfl rfl
    assumption
  · extract_lets +onlyGivenNames y17
    (refine pres_absorb (a := a) y17 ?_ (fun _ => ?_); rotate_left; clear_value y17; rotate_right)
    · dsimp only [y17]
      apply updLink_pres
      assumption
    · extract_lets +onlyGivenNames y19
      (refine pres_absorb (a := a) y19 ?_ (fun _ => ?_); rotate_left; clear_value y19; rotate_right)
      · dsimp only [y19]
        apply updDom_pres
        assumption
      · extract_lets +onlyGivenNames y21
        (refine pres_absorb (a := a) y21 ?_ (fun _ => ?_); rotate_left; clear_value y21; rotate_right)
        · dsimp only [y21]
          apply raiseEvt_pres
          apply linkChanged_pres
          assumption
        · apply strandMsgs_pres
          apply fenceMsgs_pres
          apply bump_pres
          assumption

theorem fenceLink_pres {a : State} (x0 x1 x2 x3) (h0 : Pres a x0) : Pres a (fenceLink x0 x1 x2 x3) := by
  unfold fenceLink
  refine pres_ite ?_ ?_
  · assumption
  · apply checkFloor_pres
    apply markFenced_pres
    apply updDom_pres
    apply linkDrop_pres
    assumption

theorem degrade_pres {a : State} (x0) (h0 : Pres a x0) : Pres a (degrade x0) := by
  unfold degrade
  apply updGate_pres
  assumption

theorem retireLane_pres {a : State} (x0 x1 x2 x3) (h0 : Pres a x0) : Pres a (retireLane x0 x1 x2 x3) := by
  unfold retireLane
  dsimp only
  refine pres_ite ?_ ?_
  · assumption
  · refine pres_ite ?_ ?_
    · apply addRecord_pres
      apply fenceLink_pres
      apply addRecord_pres
      apply degrade_pres
      apply updLink_pres
      assumption
    · refine pres_ite ?_ ?_
      · apply linkDrop_pres
        apply addRecord_pres
        apply degrade_pres
        apply updLink_pres
        assumption
      · apply addRecord_pres
        apply degrade_pres
        apply updLink_pres
        assumption

theorem failTrellis_pres {a : State} (x0 x1 x2) (h0 : Pres a x0) : Pres a (failTrellis x0 x1 x2) := by
  unfold failTrellis
  split
  · refine pres_ite ?_ ?_
    · assumption
    · extract_lets +onlyGivenNames y11
      clear_value y11
      extract_lets +onlyGivenNames y12
      clear_value y12
      apply updOp_pres
      apply wrB_pres
      assumption
  · assumption

theorem faultUnit_pres {a : State} (x0 x1 x2) (h0 : Pres a x0) : Pres a (faultUnit x0 x1 x2) := by
  unfold faultUnit
  refine pres_foldl ?_ ?_
  · assumption
  · intro _
    intro _
    intro _
    extract_lets +onlyGivenNames y9
    (refine pres_absorb (a := a) y9 ?_ (fun _ => ?_); rotate_left; clear_value y9; rotate_right)
    · dsimp only [y9]
      split
      · apply failTrellis_pres
        assumption
      · assumption
    · split
      · apply dropOp_pres
        apply engineFault_pres
        assumption
      · apply dropOp_pres
        assumption
      · assumption

theorem fenceSmp_pres {a : State} (x0 x1 x2 x3 x4) (h0 : Pres a x0) : Pres a (fenceSmp x0 x1 x2 x3 x4) := by
  unfold fenceSmp
  dsimp only
  refine pres_ite ?_ ?_
  · apply faultUnit_pres
    apply markFenced_pres
    apply updDom_pres
    assumption
  · refine pres_mk_of ?_ rfl rfl rfl rfl rfl
    apply updDom_pres
    assumption

theorem fenceOrang_pres {a : State} (x0 x1 x2 x3) (h0 : Pres a x0) : Pres a (fenceOrang x0 x1 x2 x3) := by
  unfold fenceOrang
  refine pres_ite ?_ ?_
  · assumption
  · dsimp only
    apply reportLost_pres
    apply checkFloor_pres
    apply endWaiting_pres
    refine pres_foldl ?_ ?_
    · apply markFenced_pres
      apply updDom_pres
      assumption
    · intro _
      intro _
      intro _
      refine pres_ite ?_ ?_
      · assumption
      · apply linkDrop_pres
        assumption

theorem fencePav_pres {a : State} (x0 x1 x2 x3) (h0 : Pres a x0) : Pres a (fencePav x0 x1 x2 x3) := by
  unfold fencePav
  refine pres_ite ?_ ?_
  · assumption
  · dsimp only
    apply reportLost_pres
    apply checkFloor_pres
    apply endWaiting_pres
    refine pres_foldl ?_ ?_
    · apply faultTasks_pres
      apply markFenced_pres
      apply updDom_pres
      assumption
    · intro _
      intro _
      intro _
      apply flushWaiters_pres
      assumption

theorem noiseFail_pres {a : State} (x0 x1) (h0 : Pres a x0) : Pres a (noiseFail x0 x1) := by
  unfold noiseFail
  split
  · extract_lets +onlyGivenNames y10
    clear_value y10
    extract_lets +onlyGivenNames y11
    clear_value y11
    apply engineFault_pres
    apply updOp_pres
    assumption
  · assumption

theorem fenceUnit_pres {a : State} (x0 x1 x2 x3 x4) (h0 : Pres a x0) : Pres a (fenceUnit x0 x1 x2 x3 x4) := by
  unfold fenceUnit
  extract_lets +onlyGivenNames y8
  (refine pres_absorb (a := a) y8 ?_ (fun _ => ?_); rotate_left; clear_value y8; rotate_right)
  · dsimp only [y8]
    apply markFenced_pres
    assumption
  · refine pres_ite ?_ ?_
    · apply faultUnit_pres
      assumption
    · refine pres_ite ?_ ?_
      · extract_lets +onlyGivenNames y10
        (refine pres_absorb (a := a) y10 ?_ (fun _ => ?_); rotate_left; clear_value y10; rotate_right)
        · dsimp only [y10]
          (refine updRng_pres _ _ _ ?_ (fun h => ?_); rotate_left; (first | exact h | exact Nat.zero_le _ | (simp_all; done) | (simp_all; omega)))
          assumption
        · refine pres_foldl ?_ ?_
          · assumption
          · intro _
            intro _
            intro _
            apply noiseFail_pres
            assumption
      · assumption

theorem retireOne_pres {a : State} (x0 x1 x2) (h0 : Pres a x0) : Pres a (retireOne x0 x1 x2) := by
  unfold retireOne
  dsimp only
  split
  · refine pres_ite ?_ ?_
    · assumption
    · apply addRecord_pres
      apply fenceCore_pres
      assumption
  · split
    · apply retireNear_pres
      assumption
    · assumption
  · apply retireFar_pres
    assumption
  · apply retireFar_pres
    assumption
  · refine pres_ite ?_ ?_
    · assumption
    · apply addRecord_pres
      apply fenceLink_pres
      assumption
  · apply retireLane_pres
    assumption
  · refine pres_ite ?_ ?_
    · assumption
    · apply addRecord_pres
      apply fenceSmp_pres
      assumption
  · refine pres_ite ?_ ?_
    · assumption
    · apply addRecord_pres
      apply fenceOrang_pres
      assumption
  · refine pres_ite ?_ ?_
    · assumption
    · apply addRecord_pres
      apply fenceOrang_pres
      assumption
  · refine pres_ite ?_ ?_
    · assumption
    · apply addRecord_pres
      apply fencePav_pres
      assumption
  · refine pres_ite ?_ ?_
    · assumption
    · apply addRecord_pres
      apply fenceUnit_pres
      assumption
  · refine pres_ite ?_ ?_
    · refine pres_ite ?_ ?_
      · assumption
      · apply addRecord_pres
        apply fenceUnit_pres
        assumption
    · refine pres_ite ?_ ?_
      · refine pres_ite ?_ ?_
        · assumption
        · apply addRecord_pres
          apply fenceUnit_pres
          assumption
      · refine pres_ite ?_ ?_
        · assumption
        · apply addRecord_pres
          apply fencePav_pres
          assumption
  · assumption

theorem retireRes_pres {a : State} (x0 x1 x2) (h0 : Pres a x0) : Pres a (retireRes x0 x1 x2) := by
  unfold retireRes
  refine pres_ite ?_ ?_
  · refine pres_foldl ?_ ?_
    · assumption
    · intro _
      intro _
      intro _
      apply endWaiting_pres
      apply retireOne_pres
      assumption
  · apply endWaiting_pres
    apply retireOne_pres
    assumption

theorem occur_pres {a : State} (x0 x1 x2) (h0 : Pres a x0) : Pres a (occur x0 x1 x2) := by
  unfold occur
  dsimp only
  refine pres_ite ?_ ?_
  · apply bump_pres
    assumption
  · refine pres_ite ?_ ?_
    · apply retireRes_pres
      apply updGate_pres
      apply bump_pres
      assumption
    · apply updGate_pres
      apply bump_pres
      assumption

theorem partnerFault_pres {a : State} (x0 x1) (h0 : Pres a x0) : Pres a (partnerFault x0 x1) := by
  unfold partnerFault
  apply occur_pres
  assumption

theorem badFlit_pres {a : State} (x0 x1 x2) (h0 : Pres a x0) : Pres a (badFlit x0 x1 x2) := by
  unfold badFlit
  extract_lets +onlyGivenNames y6
  (refine pres_absorb (a := a) y6 ?_ (fun _ => ?_); rotate_left; clear_value y6; rotate_right)
  · dsimp only [y6]
    apply bump_pres
    assumption
  · refine pres_ite ?_ ?_
    · apply partnerFault_pres
      assumption
    · assumption

theorem deliver_pres {a : State} (x0 x1 x2 x3) (h0 : Pres a x0) : Pres a (deliver x0 x1 x2 x3) := by
  unfold deliver
  dsimp only
  refine pres_ite ?_ ?_
  · apply updLink_pres
    apply partnerFault_pres
    apply bump_pres
    assumption
  · split
    · refine pres_ite ?_ ?_
      · apply updLink_pres
        apply injTaken_pres
        apply bump_pres
        assumption
      · refine pres_mk_of ?_ rfl rfl rfl rfl rfl
        apply bump_pres
        assumption
    · refine pres_mk_of ?_ rfl rfl rfl rfl rfl
      apply bump_pres
      assumption

theorem takeSeg_pres {a : State} (x0 x1 x2) (h0 : Pres a x0) : Pres a (takeSeg x0 x1 x2) := by
  unfold takeSeg
  refine pres_ite ?_ ?_
  · apply updLink_pres
    assumption
  · dsimp only
    refine pres_ite ?_ ?_
    · apply deliver_pres
      apply updLink_pres
      assumption
    · apply updLink_pres
      assumption

theorem ackStream_pres {a : State} (x0 x1 x2 x3) (h0 : Pres a x0) : Pres a (ackStream x0 x1 x2 x3) := by
  unfold ackStream
  refine pres_mk_of ?_ rfl rfl rfl rfl rfl
  assumption

theorem takeAck_pres {a : State} (x0 x1 x2) (h0 : Pres a x0) : Pres a (takeAck x0 x1 x2) := by
  unfold takeAck
  dsimp only
  split
  · assumption
  · refine pres_ite ?_ ?_
    · assumption
    · refine pres_foldl ?_ ?_
      · apply updLink_pres
        assumption
      · intro _
        intro _
        intro _
        apply ackStream_pres
        assumption

theorem takeData_pres {a : State} (x0 x1 x2 x3) (h0 : Pres a x0) : Pres a (takeData x0 x1 x2 x3) := by
  unfold takeData
  dsimp only
  refine pres_foldl ?_ ?_
  · apply takeAck_pres
    apply bump_pres
    apply updLink_pres
    assumption
  · intro _
    intro _
    intro _
    apply takeSeg_pres
    assumption

theorem sendFlit_pres {a : State} (x0 x1 x2 x3 x4) (h0 : Pres a x0) : Pres a (sendFlit x0 x1 x2 x3 x4) := by
  unfold sendFlit
  apply emit_pres
  apply updLink_pres
  assumption

theorem sendIdle_pres {a : State} (x0 x1) (h0 : Pres a x0) : Pres a (sendIdle x0 x1) := by
  unfold sendIdle
  apply sendFlit_pres
  assumption

theorem execDataFlit_pres {a : State} (x0 x1 x2) (h2 : Pres a x2) : PresX a (execDataFlit x0 x1 x2) := by
  unfold execDataFlit
  refine presX_next ?_
  extract_lets +onlyGivenNames y6
  clear_value y6
  refine pres_ite ?_ ?_
  · assumption
  · split
    · apply rxGap_pres
      apply badFlit_pres
      assumption
    · refine pres_ite ?_ ?_
      · assumption
      · refine pres_ite ?_ ?_
        · apply rxGap_pres
          assumption
        · extract_lets +onlyGivenNames y12
          (refine pres_absorb (a := a) y12 ?_ (fun _ => ?_); rotate_left; clear_value y12; rotate_right)
          · dsimp only [y12]
            apply takeData_pres
            assumption
          · refine pres_ite ?_ ?_
            · apply sendIdle_pres
              assumption
            · assumption

theorem execIdleFlit_pres {a : State} (x0 x1 x2) (h2 : Pres a x2) : PresX a (execIdleFlit x0 x1 x2) := by
  unfold execIdleFlit
  refine presX_next ?_
  extract_lets +onlyGivenNames y6
  clear_value y6
  refine pres_ite ?_ ?_
  · assumption
  · split
    · apply badFlit_pres
      assumption
    · refine pres_ite ?_ ?_
      · refine pres_foldl ?_ ?_
        · apply takeAck_pres
          assumption
        · intro _
          intro _
          intro _
          apply takeSeg_pres
          assumption
      · assumption

theorem linkReset_pres {a : State} (x0 x1 x2) (h0 : Pres a x0) : Pres a (linkReset x0 x1 x2) := by
  unfold linkReset
  dsimp only
  refine pres_ite ?_ ?_
  · assumption
  · apply occur_pres
    apply linkDrop_pres
    assumption

theorem execNak_pres {a : State} (x0 x1 x2) (h2 : Pres a x2) : PresX a (execNak x0 x1 x2) := by
  unfold execNak
  refine presX_next ?_
  extract_lets +onlyGivenNames y6
  clear_value y6
  refine pres_ite ?_ ?_
  · assumption
  · split
    · apply badFlit_pres
      assumption
    · refine pres_ite ?_ ?_
      · assumption
      · extract_lets +onlyGivenNames y12
        (refine pres_absorb (a := a) y12 ?_ (fun _ => ?_); rotate_left; clear_value y12; rotate_right)
        · dsimp only [y12]
          refine pres_foldl ?_ ?_
          · apply takeAck_pres
            assumption
          · intro _
            intro _
            intro _
            apply takeSeg_pres
            assumption
        · extract_lets +onlyGivenNames y14
          clear_value y14
          refine pres_ite ?_ ?_
          · assumption
          · refine pres_ite ?_ ?_
            · apply linkReset_pres
              assumption
            · apply updLink_pres
              assumption

theorem execNakRepeat_pres {a : State} (x0 x1) (h1 : Pres a x1) : PresX a (execNakRepeat x0 x1) := by
  unfold execNakRepeat
  refine presX_next ?_
  refine pres_ite ?_ ?_
  · apply sendNak_pres
    assumption
  · assumption

theorem execAckInterval_pres {a : State} (x0 x1) (h1 : Pres a x1) : PresX a (execAckInterval x0 x1) := by
  unfold execAckInterval
  refine presX_next ?_
  refine pres_ite ?_ ?_
  · apply sendIdle_pres
    assumption
  · assumption

theorem beginFrame_pres {a : State} (x0 x1) (h0 : Pres a x0) : Pres a (beginFrame x0 x1) := by
  unfold beginFrame
  apply updLink_pres
  assumption

theorem countStalls_pres {a : State} (x0 x1) (h0 : Pres a x0) : Pres a (countStalls x0 x1) := by
  unfold countStalls
  dsimp only
  refine pres_ite ?_ ?_
  · apply bump_pres
    refine pres_foldl ?_ ?_
    · assumption
    · intro _
      intro _
      intro _
      refine pres_ite ?_ ?_
      · apply addCnt_pres
        assumption
      · assumption
  · refine pres_foldl ?_ ?_
    · assumption
    · intro _
      intro _
      intro _
      refine pres_ite ?_ ?_
      · apply addCnt_pres
        assumption
      · assumption

theorem sendAgain_pres {a : State} (x0 x1 x2) (h0 : Pres a x0) : Pres a (sendAgain x0 x1 x2) := by
  unfold sendAgain
  dsimp only
  apply bump_pres
  apply bump_pres
  apply sendFlit_pres
  apply updLink_pres
  assumption

theorem openStream_pres {a : State} (x0 x1 x2 x3) (h0 : Pres a x0) : Pres a (openStream x0 x1 x2 x3) := by
  unfold openStream
  dsimp only
  refine pres_ite ?_ ?_
  · apply bump_pres
    refine pres_mk_of ?_ rfl rfl rfl rfl rfl
    assumption
  · refine pres_mk_of ?_ rfl rfl rfl rfl rfl
    assumption

theorem fillFlit_pres {a : State} (x0 x1 x2 x3 x4 x5 x6) (h0 : Pres a x0) : PresP a (fillFlit x0 x1 x2 x3 x4 x5 x6) := by
  induction x3 generalizing x0 x1 x2 x4 x5 x6 with
  | zero =>
    unfold fillFlit
    refine presP_mk ?_
    assumption
  | succ x ih =>
    unfold fillFlit
    dsimp only
    split
    · refine presP_mk ?_
      assumption
    · refine presP_ite ?_ ?_
      · refine presP_mk ?_
        assumption
      · apply ih
        refine pres_ite ?_ ?_
        · apply bump_pres
          apply bump_pres
          refine pres_mk_of ?_ rfl rfl rfl rfl rfl
          refine pres_ite ?_ ?_
          · assumption
          · apply openStream_pres
            apply updLink_pres
            assumption
        · refine pres_mk_of ?_ rfl rfl rfl rfl rfl
          refine pres_ite ?_ ?_
          · assumption
          · apply openStream_pres
            apply updLink_pres
            assumption

theorem sendData_pres {a : State} (x0 x1 x2 x3) (h0 : Pres a x0) : Pres a (sendData x0 x1 x2 x3) := by
  unfold sendData
  split
  · apply sendIdle_pres
    assumption
  · dsimp only
    apply bump_pres
    apply sendFlit_pres
    apply updLink_pres
    refine pres_ite ?_ ?_
    · apply bump_pres
      refine presP_fst ?_
      apply fillFlit_pres
      assumption
    · refine presP_fst ?_
      apply fillFlit_pres
      assumption

theorem fillSlot_pres {a : State} (x0 x1) (h0 : Pres a x0) : Pres a (fillSlot x0 x1) := by
  unfold fillSlot
  split
  · apply sendAgain_pres
    assumption
  · refine pres_ite ?_ ?_
    · apply sendIdle_pres
      assumption
    · split
      · apply sendData_pres
        assumption
      · apply sendIdle_pres
        assumption

theorem execFlitSlot_pres {a : State} (x0 x1) (h1 : Pres a x1) : PresX a (execFlitSlot x0 x1) := by
  unfold execFlitSlot
  refine presX_next ?_
  refine pres_ite ?_ ?_
  · assumption
  · extract_lets +onlyGivenNames y5
    (refine pres_absorb (a := a) y5 ?_ (fun _ => ?_); rotate_left; clear_value y5; rotate_right)
    · dsimp only [y5]
      refine pres_ite ?_ ?_
      · apply beginFrame_pres
        assumption
      · assumption
    · extract_lets +onlyGivenNames y7
      (refine pres_absorb (a := a) y7 ?_ (fun _ => ?_); rotate_left; clear_value y7; rotate_right)
      · dsimp only [y7]
        apply countStalls_pres
        assumption
      · extract_lets +onlyGivenNames y9
        (refine pres_absorb (a := a) y9 ?_ (fun _ => ?_); rotate_left; clear_value y9; rotate_right)
        · dsimp only [y9]
          apply fillSlot_pres
          assumption
        · apply updLink_pres
          assumption

theorem passOn_pres {a : State} (x0 x1 x2) (h0 : Pres a x0) : PresO a (passOn x0 x1 x2) := by
  unfold passOn
  extract_lets +onlyGivenNames y6
  clear_value y6
  dsimp only
  split
  · split
    · exact presO_none
    · refine presO_some ?_
      refine pres_mk_of ?_ rfl rfl rfl rfl rfl
      apply carry_pres
      refine pres_ite ?_ ?_
      · apply bump_pres
        assumption
      · assumption
  · split
    · exact presO_none
    · split
      · exact presO_none
      · split
        · exact presO_none
        · refine presO_some ?_
          refine pres_mk_of ?_ rfl rfl rfl rfl rfl
          apply carry_pres
          refine pres_ite ?_ ?_
          · apply bump_pres
            assumption
          · assumption

theorem execForward_pres {a : State} (x0 x1) (h1 : Pres a x1) : PresX a (execForward x0 x1) := by
  unfold execForward
  refine presX_next ?_
  split
  · refine pres_ite ?_ ?_
    · assumption
    · dsimp only
      split
      · apply bump_pres
        refine presO_of_eq (by assumption) ?_
        apply passOn_pres
        apply takeArrival_pres
        assumption
      · apply refuseMsg_pres
        apply bump_pres
        apply takeArrival_pres
        assumption
  · assumption

theorem dropped_pres {a : State} (x0 x1 x2) (h0 : Pres a x0) : PresO a (dropped x0 x1 x2) := by
  unfold dropped
  split
  · split
    · refine presO_some ?_
      apply injTaken_pres
      apply updReq_pres
      assumption
    · exact presO_none
  · exact presO_none

theorem serveRead_pres {a : State} (x0 x1 x2 x3 x4 x5) (h0 : Pres a x0) : PresP a (serveRead x0 x1 x2 x3 x4 x5) := by
  unfold serveRead
  refine presP_ite ?_ ?_
  · split
    · refine presP_mk ?_
      apply carryAccess_pres
      apply bump_pres
      refine pres_of_pair (by assumption) ?_
      apply rdHost_pres
      assumption
    · refine presP_mk ?_
      refine pres_of_pair (by assumption) ?_
      apply rdHost_pres
      assumption
  · refine presP_ite ?_ ?_
    · refine presP_mk ?_
      assumption
    · split
      · refine presP_ite ?_ ?_
        · refine presP_mk ?_
          apply noteFenced_pres
          assumption
        · refine presP_mk ?_
          assumption
      · split
        refine presP_ite ?_ ?_
        · refine presP_mk ?_
          refine pres_of_pair (by assumption) ?_
          apply meets_pres
          assumption
        · refine presP_mk ?_
          apply remoteTo_pres
          apply countMem_pres
          refine pres_of_pair (by assumption) ?_
          apply meets_pres
          assumption

theorem blur_pres {a : State} (x0 x1 x2 x3) (h0 : Pres a x0) : PresP a (blur x0 x1 x2 x3) := by
  unfold blur
  refine presP_foldl ?_ ?_
  · refine presP_mk ?_
    assumption
  · intro _
    intro _
    intro _
    refine presP_ite ?_ ?_
    · split
      refine presP_mk ?_
      refine pres_of_pair (by assumption) ?_
      apply takeFree_pres
      refine presP_fst ?_
      assumption
    · refine presP_mk ?_
      refine presP_fst ?_
      assumption

theorem pieceData_pres {a : State} (x0 x1 x2 x3) (h0 : Pres a x0) : Pres a (pieceData x0 x1 x2 x3) := by
  unfold pieceData
  dsimp only
  refine pres_ite ?_ ?_
  · refine pres_mk_of ?_ rfl rfl rfl rfl rfl
    refine presP_fst ?_
    apply blur_pres
    refine pres_ite ?_ ?_
    · apply bump_pres
      apply bump_pres
      assumption
    · apply bump_pres
      assumption
  · split
    · refine pres_of_pair (by assumption) ?_
      apply sendMsg_pres
      refine pres_mk_of ?_ rfl rfl rfl rfl rfl
      refine presP_fst ?_
      apply blur_pres
      refine pres_ite ?_ ?_
      · apply bump_pres
        apply bump_pres
        assumption
      · apply bump_pres
        assumption
    · apply faultReq_pres
      refine pres_of_pair (by assumption) ?_
      apply sendMsg_pres
      refine pres_mk_of ?_ rfl rfl rfl rfl rfl
      refine presP_fst ?_
      apply blur_pres
      refine pres_ite ?_ ?_
      · apply bump_pres
        apply bump_pres
        assumption
      · apply bump_pres
        assumption

theorem pieceRead_pres {a : State} (x0 x1 x2) (h0 : Pres a x0) : Pres a (pieceRead x0 x1 x2) := by
  unfold pieceRead
  refine pres_ite ?_ ?_
  · assumption
  · split
    split
    · apply faultReq_pres
      refine pres_of_pair (by assumption) ?_
      apply serveRead_pres
      assumption
    · refine pres_ite ?_ ?_
      · apply pieceData_pres
        refine pres_of_pair (by assumption) ?_
        apply serveRead_pres
        assumption
      · apply answerReq_pres
        refine pres_of_pair (by assumption) ?_
        apply serveRead_pres
        assumption

theorem setTags_pres {a : State} (x0 x1 x2 x3) (h0 : Pres a x0) : Pres a (setTags x0 x1 x2 x3) := by
  induction x3 generalizing x0 x1 x2 with
  | zero =>
    unfold setTags
    assumption
  | succ x ih =>
    unfold setTags
    apply ih
    apply serveWaiters_pres
    apply setTag_pres
    assumption

theorem updStrm_pres {a : State} (x0 x1 x2) (h0 : Pres a x0) : Pres a (updStrm x0 x1 x2) := by
  unfold updStrm
  split
  · refine pres_mk_of ?_ rfl rfl rfl rfl rfl
    assumption
  · assumption

theorem strmSettle_pres {a : State} (x0 x1) (h0 : Pres a x0) : Pres a (strmSettle x0 x1) := by
  unfold strmSettle
  split
  · refine pres_ite ?_ ?_
    · assumption
    · split
      · apply engineFault_pres
        assumption
      · refine pres_ite ?_ ?_
        · dsimp only
          apply updStrm_pres
          apply updOp_pres
          refine pres_ite ?_ ?_
          · apply setTags_pres
            assumption
          · assumption
        · assumption
  · assumption

theorem pieceDone_pres {a : State} (x0 x1 x2) (h0 : Pres a x0) : Pres a (pieceDone x0 x1 x2) := by
  unfold pieceDone
  dsimp only
  split
  · apply strmSettle_pres
    apply dropReq_pres
    refine pres_ite ?_ ?_
    · apply bump_pres
      apply bump_pres
      assumption
    · apply bump_pres
      assumption
  · apply dropReq_pres
    refine pres_ite ?_ ?_
    · apply bump_pres
      apply bump_pres
      assumption
    · apply bump_pres
      assumption

theorem pieceWrite_pres {a : State} (x0 x1 x2) (h0 : Pres a x0) : Pres a (pieceWrite x0 x1 x2) := by
  unfold pieceWrite
  extract_lets +onlyGivenNames y6
  clear_value y6
  refine pres_ite ?_ ?_
  · assumption
  · split
    extract_lets +onlyGivenNames y13
    clear_value y13
    split
    split
    · extract_lets +onlyGivenNames y22
      (refine pres_absorb (a := a) y22 ?_ (fun _ => ?_); rotate_left; clear_value y22; rotate_right)
      · dsimp only [y22]
        split
        · apply noteWrote_pres
          refine pres_of_pair (by assumption) ?_
          apply serveWrite_pres
          refine pres_of_pair (by assumption) ?_
          apply blur_pres
          assumption
        · refine pres_of_pair (by assumption) ?_
          apply serveWrite_pres
          refine pres_of_pair (by assumption) ?_
          apply blur_pres
          assumption
      · apply pieceDone_pres
        assumption
    · apply faultReq_pres
      refine pres_of_pair (by assumption) ?_
      apply serveWrite_pres
      refine pres_of_pair (by assumption) ?_
      apply blur_pres
      assumption
    · apply faultReq_pres
      refine pres_of_pair (by assumption) ?_
      apply serveWrite_pres
      refine pres_of_pair (by assumption) ?_
      apply blur_pres
      assumption

theorem homePiece_pres {a : State} (x0 x1 x2) (h0 : Pres a x0) : Pres a (homePiece x0 x1 x2) := by
  unfold homePiece
  split
  · refine pres_ite ?_ ?_
    · refine pres_ite ?_ ?_
      · refine presO_getD ?_ ?_
        · apply dropped_pres
          assumption
        · apply pieceRead_pres
          assumption
      · apply pieceWrite_pres
        assumption
    · assumption
  · assumption

theorem homeOwn_pres {a : State} (x0 x1 x2) (h0 : Pres a x0) : Pres a (homeOwn x0 x1 x2) := by
  unfold homeOwn
  split
  · refine pres_ite ?_ ?_
    · apply arriveReq_pres
      assumption
    · assumption
  · assumption

theorem onArrival_pres {a : State} (x0 x1 x2 x3) (h0 : Pres a x0) (h3 : Pres a x3) : Pres a (onArrival x0 x1 x2 x3) := by
  unfold onArrival
  refine pres_ite ?_ ?_
  · apply refuseMsg_pres
    apply takeArrival_pres
    assumption
  · assumption

theorem serveMsg_pres {a : State} (x0 x1) (h0 : Pres a x0) : Pres a (serveMsg x0 x1) := by
  unfold serveMsg
  extract_lets +onlyGivenNames y5
  clear_value y5
  extract_lets +onlyGivenNames y6
  clear_value y6
  split
  · split
    apply reply_pres
    refine pres_of_pair (by assumption) ?_
    apply serveRead_pres
    assumption
  · split
    apply reply_pres
    refine pres_of_pair (by assumption) ?_
    apply serveWrite_pres
    assumption
  · extract_lets +onlyGivenNames y12
    clear_value y12
    extract_lets +onlyGivenNames y13
    clear_value y13
    split
    extract_lets +onlyGivenNames y21
    (refine pres_absorb (a := a) y21 ?_ (fun _ => ?_); rotate_left; clear_value y21; rotate_right)
    · dsimp only [y21]
      refine pres_ite ?_ ?_
      · apply remoteIn_pres
        refine pres_of_pair (by assumption) ?_
        refine presP_ite ?_ ?_
        · apply performPlain_pres
          assumption
        · refine presP_mk ?_
          assumption
      · refine pres_of_pair (by assumption) ?_
        refine presP_ite ?_ ?_
        · apply performPlain_pres
          assumption
        · refine presP_mk ?_
          assumption
    · apply reply_pres
      assumption

theorem homeArrived_pres {a : State} (x0 x1 x2) (h0 : Pres a x0) : Pres a (homeArrived x0 x1 x2) := by
  unfold homeArrived
  split
  · refine pres_ite ?_ ?_
    · apply onArrival_pres
      · assumption
      · apply serveMsg_pres
        apply takeArrival_pres
        assumption
    · assumption
  · assumption

theorem execRead_pres {a : State} (x0 x1) (h1 : Pres a x1) : PresX a (execRead x0 x1) := by
  unfold execRead
  refine presX_next ?_
  split
  · refine pres_ite ?_ ?_
    · apply homePiece_pres
      assumption
    · apply homeOwn_pres
      assumption
  · apply homeArrived_pres
    assumption

theorem execWrite_pres {a : State} (x0 x1) (h1 : Pres a x1) : PresX a (execWrite x0 x1) := by
  unfold execWrite
  refine presX_next ?_
  split
  · refine pres_ite ?_ ?_
    · apply homePiece_pres
      assumption
    · apply homeOwn_pres
      assumption
  · apply homeArrived_pres
    assumption

theorem execFabricAtomic_pres {a : State} (x0 x1) (h1 : Pres a x1) : PresX a (execFabricAtomic x0 x1) := by
  unfold execFabricAtomic
  refine presX_next ?_
  split
  · apply homeOwn_pres
    assumption
  · apply homeArrived_pres
    assumption

theorem landMsg_pres {a : State} (x0 x1 x2) (h0 : Pres a x0) : Pres a (landMsg x0 x1 x2) := by
  unfold landMsg
  refine pres_ite ?_ ?_
  · assumption
  · apply carry_pres
    assumption

theorem execFabricSignal_pres {a : State} (x0 x1) (h1 : Pres a x1) : PresX a (execFabricSignal x0 x1) := by
  unfold execFabricSignal
  refine presX_next ?_
  split
  · refine pres_ite ?_ ?_
    · refine pres_ite ?_ ?_
      · apply reply_pres
        apply takeArrival_pres
        assumption
      · apply reply_pres
        apply applySet_pres
        apply landMsg_pres
        apply takeArrival_pres
        assumption
    · assumption
  · assumption

theorem takeRow_pres {a : State} (x0 x1) (h0 : Pres a x0) : Pres a (takeRow x0 x1) := by
  unfold takeRow
  split
  · refine presO_of_eq (by assumption) ?_
    apply serveRow_pres
    assumption
  · refine pres_mk_of ?_ rfl rfl rfl rfl rfl
    assumption

theorem homeRow_pres {a : State} (x0 x1 x2 x3) (h0 : Pres a x0) : Pres a (homeRow x0 x1 x2 x3) := by
  unfold homeRow
  split
  · split
    · refine pres_ite ?_ ?_
      · apply takeRow_pres
        assumption
      · assumption
    · assumption
  · split
    · refine pres_ite ?_ ?_
      · apply onArrival_pres
        · assumption
        · extract_lets +onlyGivenNames y14
          clear_value y14
          extract_lets +onlyGivenNames y15
          (refine pres_absorb (a := a) y15 ?_ (fun _ => ?_); rotate_left; clear_value y15; rotate_right)
          · dsimp only [y15]
            apply landMsg_pres
            apply takeArrival_pres
            assumption
          · extract_lets +onlyGivenNames y17
            (refine pres_absorb (a := a) y17 ?_ (fun _ => ?_); rotate_left; clear_value y17; rotate_right)
            · dsimp only [y17]
              refine pres_ite ?_ ?_
              · apply bump_pres
                assumption
              · assumption
            · apply takeRow_pres
              assumption
      · assumption
    · assumption

theorem execRowFetch_pres {a : State} (x0 x1) (h1 : Pres a x1) : PresX a (execRowFetch x0 x1) := by
  unfold execRowFetch
  refine presX_next ?_
  apply homeRow_pres
  assumption

theorem execRowCheck_pres {a : State} (x0 x1) (h1 : Pres a x1) : PresX a (execRowCheck x0 x1) := by
  unfold execRowCheck
  refine presX_next ?_
  apply homeRow_pres
  assumption

theorem stageUpdate_pres {a : State} (x0 x1 x2) (h0 : Pres a x0) : PresP a (stageUpdate x0 x1 x2) := by
  unfold stageUpdate
  split
  · refine presP_ite ?_ ?_
    · refine presP_mk ?_
      assumption
    · split
      refine presP_ite ?_ ?_
      · refine presP_mk ?_
        refine pres_of_pair (by assumption) ?_
        apply updateUnit_pres
        assumption
      · split
        · refine presP_mk ?_
          apply noteFenced_pres
          refine pres_of_pair (by assumption) ?_
          apply updateUnit_pres
          assumption
        · refine presP_mk ?_
          refine pres_of_pair (by assumption) ?_
          apply updateUnit_pres
          assumption
        · extract_lets +onlyGivenNames y21
          clear_value y21
          extract_lets +onlyGivenNames y22
          clear_value y22
          extract_lets +onlyGivenNames y23
          clear_value y23
          refine presP_ite ?_ ?_
          · refine presP_mk ?_
            refine pres_of_pair (by assumption) ?_
            apply updateUnit_pres
            assumption
          · refine presP_ite ?_ ?_
            · refine presP_mk ?_
              apply taint_pres
              apply updStep_pres
              refine pres_of_pair (by assumption) ?_
              apply updateUnit_pres
              assumption
            · extract_lets +onlyGivenNames y24
              clear_value y24
              split
              · refine presP_mk ?_
                apply noteFenced_pres
                refine pres_of_pair (by assumption) ?_
                apply updateUnit_pres
                assumption
              · refine presP_mk ?_
                refine pres_of_pair (by assumption) ?_
                apply updateUnit_pres
                assumption
              · extract_lets +onlyGivenNames y29
                clear_value y29
                extract_lets +onlyGivenNames y30
                (refine pres_absorb (a := a) y30 ?_ (fun _ => ?_); rotate_left; clear_value y30; rotate_right)
                · dsimp only [y30]
                  apply clearPoison_pres
                  apply wrBytes_pres
                  apply countMem_pres
                  refine pres_of_pair (by assumption) ?_
                  apply updateUnit_pres
                  assumption
                · extract_lets +onlyGivenNames y32
                  (refine pres_absorb (a := a) y32 ?_ (fun _ => ?_); rotate_left; clear_value y32; rotate_right)
                  · dsimp only [y32]
                    apply bumpUnit_pres
                    apply updHome_pres
                    assumption
                  · refine presP_mk ?_
                    apply journal_pres
                    assumption
        · extract_lets +onlyGivenNames y20
          clear_value y20
          extract_lets +onlyGivenNames y21
          clear_value y21
          extract_lets +onlyGivenNames y22
          clear_value y22
          refine presP_ite ?_ ?_
          · refine presP_mk ?_
            refine pres_of_pair (by assumption) ?_
            apply updateUnit_pres
            assumption
          · refine presP_ite ?_ ?_
            · refine presP_mk ?_
              apply taint_pres
              apply updStep_pres
              refine pres_of_pair (by assumption) ?_
              apply updateUnit_pres
              assumption
            · extract_lets +onlyGivenNames y23
              clear_value y23
              split
              · refine presP_mk ?_
                apply noteFenced_pres
                refine pres_of_pair (by assumption) ?_
                apply updateUnit_pres
                assumption
              · refine presP_mk ?_
                refine pres_of_pair (by assumption) ?_
                apply updateUnit_pres
                assumption
              · extract_lets +onlyGivenNames y28
                clear_value y28
                extract_lets +onlyGivenNames y29
                (refine pres_absorb (a := a) y29 ?_ (fun _ => ?_); rotate_left; clear_value y29; rotate_right)
                · dsimp only [y29]
                  apply clearPoison_pres
                  apply wrBytes_pres
                  apply countMem_pres
                  refine pres_of_pair (by assumption) ?_
                  apply updateUnit_pres
                  assumption
                · extract_lets +onlyGivenNames y31
                  (refine pres_absorb (a := a) y31 ?_ (fun _ => ?_); rotate_left; clear_value y31; rotate_right)
                  · dsimp only [y31]
                    apply bumpUnit_pres
                    apply updHome_pres
                    assumption
                  · refine presP_mk ?_
                    apply journal_pres
                    assumption
        · extract_lets +onlyGivenNames y20
          clear_value y20
          extract_lets +onlyGivenNames y21
          clear_value y21
          extract_lets +onlyGivenNames y22
          clear_value y22
          refine presP_ite ?_ ?_
          · refine presP_mk ?_
            refine pres_of_pair (by assumption) ?_
            apply updateUnit_pres
            assumption
          · refine presP_ite ?_ ?_
            · refine presP_mk ?_
              apply taint_pres
              apply updStep_pres
              refine pres_of_pair (by assumption) ?_
              apply updateUnit_pres
              assumption
            · extract_lets +onlyGivenNames y23
              clear_value y23
              split
              · refine presP_mk ?_
                apply noteFenced_pres
                refine pres_of_pair (by assumption) ?_
                apply updateUnit_pres
                assumption
              · refine presP_mk ?_
                refine pres_of_pair (by assumption) ?_
                apply updateUnit_pres
                assumption
              · extract_lets +onlyGivenNames y28
                clear_value y28
                extract_lets +onlyGivenNames y29
                (refine pres_absorb (a := a) y29 ?_ (fun _ => ?_); rotate_left; clear_value y29; rotate_right)
                · dsimp only [y29]
                  apply clearPoison_pres
                  apply wrBytes_pres
                  apply countMem_pres
                  refine pres_of_pair (by assumption) ?_
                  apply updateUnit_pres
                  assumption
                · extract_lets +onlyGivenNames y31
                  (refine pres_absorb (a := a) y31 ?_ (fun _ => ?_); rotate_left; clear_value y31; rotate_right)
                  · dsimp only [y31]
                    apply bumpUnit_pres
                    apply updHome_pres
                    assumption
                  · refine presP_mk ?_
                    apply journal_pres
                    assumption
  · refine presP_mk ?_
    assumption

theorem homeUpdate_pres {a : State} (x0 x1 x2 x3) (h0 : Pres a x0) (h1 : Pres a x1) : Pres a (homeUpdate x0 x1 x2 x3) := by
  unfold homeUpdate
  split
  · assumption
  · refine pres_of_pair (by assumption) ?_
    apply stageUpdate_pres
    assumption
  · apply answerUpdate_pres
    refine pres_of_pair (by assumption) ?_
    apply stageUpdate_pres
    assumption
  · dsimp only
    split
    · apply updReq_pres
      refine pres_of_pair (by assumption) ?_
      apply stageUpdate_pres
      assumption
    · apply reply_pres
      refine pres_of_pair (by assumption) ?_
      apply stageUpdate_pres
      assumption
    · refine pres_of_pair (by assumption) ?_
      apply stageUpdate_pres
      assumption

theorem joinParts_pres {a : State} (x0 x1) (h0 : Pres a x0) : PresP a (joinParts x0 x1) := by
  unfold joinParts
  dsimp only
  refine presP_ite ?_ ?_
  · refine presP_mk ?_
    refine pres_mk_of ?_ rfl rfl rfl rfl rfl
    assumption
  · refine presP_mk ?_
    refine pres_mk_of ?_ rfl rfl rfl rfl rfl
    assumption

theorem updateArrived_pres {a : State} (x0 x1 x2) (h0 : Pres a x0) : Pres a (updateArrived x0 x1 x2) := by
  unfold updateArrived
  extract_lets +onlyGivenNames y6
  clear_value y6
  split
  · refine pres_of_pair (by assumption) ?_
    apply joinParts_pres
    apply landMsg_pres
    apply takeArrival_pres
    assumption
  · extract_lets +onlyGivenNames y13
    clear_value y13
    apply homeUpdate_pres
    · assumption
    · refine pres_of_pair (by assumption) ?_
      apply joinParts_pres
      apply landMsg_pres
      apply takeArrival_pres
      assumption

theorem execRowUpdate_pres {a : State} (x0 x1) (h1 : Pres a x1) : PresX a (execRowUpdate x0 x1) := by
  unfold execRowUpdate
  refine presX_next ?_
  split
  · split
    · refine pres_ite ?_ ?_
      · dsimp only
        apply homeUpdate_pres
        · assumption
        · apply updReq_pres
          assumption
      · assumption
    · assumption
  · split
    · refine pres_ite ?_ ?_
      · apply onArrival_pres
        · assumption
        · apply updateArrived_pres
          assumption
      · assumption
    · assumption

theorem ringWrite_pres {a : State} (x0 x1 x2 x3 x4) (h0 : Pres a x0) : Pres a (ringWrite x0 x1 x2 x3 x4) := by
  induction x4 generalizing x0 x1 x2 x3 with
  | nil =>
    unfold ringWrite
    assumption
  | cons x xs ih =>
    unfold ringWrite
    apply ih
    apply wrB_pres
    assumption

theorem journalWrite_pres {a : State} (x0 x1 x2) (h0 : Pres a x0) : PresO a (journalWrite x0 x1 x2) := by
  unfold journalWrite
  split
  extract_lets +onlyGivenNames y12
  clear_value y12
  split
  · exact presO_none
  · extract_lets +onlyGivenNames y14
    clear_value y14
    extract_lets +onlyGivenNames y15
    (refine pres_absorb (a := a) y15 ?_ (fun _ => ?_); rotate_left; clear_value y15; rotate_right)
    · dsimp only [y15]
      refine pres_foldl ?_ ?_
      · apply ringWrite_pres
        assumption
      · intro _
        intro _
        intro _
        apply clearPoison_pres
        apply countMem_pres
        assumption
    · refine presO_some ?_
      refine pres_mk_of ?_ rfl rfl rfl rfl rfl
      assumption

theorem journalWaits_pres {a : State} (x0 x1) (h0 : Pres a x0) : Pres a (journalWaits x0 x1) := by
  unfold journalWaits
  apply bumpUnit_pres
  assumption

theorem journalOwn_pres {a : State} (x0 x1) (h0 : Pres a x0) : Pres a (journalOwn x0 x1) := by
  unfold journalOwn
  (generalize h5_1 : getReq x0 x1 = v5_1; cases v5_1)
  · dsimp only
    assumption
  · rename_i r7_0
    dsimp only
    refine pres_ite ?_ ?_
    · refine pres_ite ?_ ?_
      · refine pres_ite ?_ ?_
        · (generalize h7_1 : journalWrite x0 (roleId x0) (bytesOf (r7_0.words.getD 3 0) (r7_0.words.getD 2 0)) = v7_1; cases v7_1)
          · dsimp only
            apply journalWaits_pres
            assumption
          · rename_i r9_0
            dsimp only
            apply updReq_pres
            refine presO_of_eq (by assumption) ?_
            apply journalWrite_pres
            assumption
        · assumption
      · refine pres_ite ?_ ?_
        · apply journalOut_pres
          apply updReq_pres
          assumption
        · assumption
    · assumption

theorem applyList_pres {a : State} {α : Type} (x1 : Sys2Proof.Machine.State → α → Sys2Proof.Machine.State × Sys2Proof.Machine.Applied) (x2 : List α) (x3 : Sys2Proof.Machine.State) (h1 : ∀ s y, Pres a s → PresP a (x1 s y)) (h3 : Pres a x3) : PresP a (applyList x1 x2 x3) := by
  induction x2 generalizing x1 x3 with
  | nil =>
    unfold applyList
    refine presP_mk ?_
    assumption
  | cons x xs ih =>
    unfold applyList
    split
    · refine presP_mk ?_
      refine pres_of_pair (by assumption) ?_
      apply_assumption
      assumption
    · apply ih
      · intro _
        intro _
        intro _
        apply_assumption
        assumption
      · refine pres_of_pair (by assumption) ?_
        apply_assumption
        assumption
    · extract_lets +onlyGivenNames y17
      (refine presP_absorb (a := a) y17 ?_ (fun _ => ?_); rotate_left; clear_value y17; rotate_right)
      · dsimp only [y17]
        apply ih
        · intro _
          intro _
          intro _
          apply_assumption
          assumption
        · refine pres_of_pair (by assumption) ?_
          apply_assumption
          assumption
      · refine presP_mk ?_
        refine presP_fst ?_
        assumption

theorem moveDone_pres {a : State} (x0 x1 x2) (h0 : Pres a x0) : Pres a (moveDone x0 x1 x2) := by
  unfold moveDone
  extract_lets +onlyGivenNames y6
  clear_value y6
  extract_lets +onlyGivenNames y7
  (refine pres_absorb (a := a) y7 ?_ (fun _ => ?_); rotate_left; clear_value y7; rotate_right)
  · dsimp only [y7]
    refine pres_mk_of ?_ rfl rfl rfl rfl rfl
    assumption
  · refine pres_ite ?_ ?_
    · apply opAnswered_pres
      assumption
    · assumption

theorem moveFail_pres {a : State} (x0 x1 x2 x3 x4) (h0 : Pres a x0) : Pres a (moveFail x0 x1 x2 x3 x4) := by
  unfold moveFail
  split
  · apply taint_pres
    apply engineFault_pres
    assumption
  · assumption

theorem concludeMove_pres {a : State} (x0 x1 x2 x3 x4 x5 x6) (h0 : Pres a x0) (h6 : Pres a (resState x6)) : PresP a (concludeMove x0 x1 x2 x3 x4 x5 x6) := by
  unfold concludeMove
  split
  · refine presP_mk ?_
    apply moveDone_pres
    refine pres_ite ?_ ?_
    · refine pres_mk_of ?_ rfl rfl rfl rfl rfl
      assumption
    · assumption
  · refine presP_ite ?_ ?_
    · refine presP_mk ?_
      assumption
    · refine presP_mk ?_
      apply moveFail_pres
      assumption

theorem writeValues_pres {a : State} (x0 x1 x2 x3 x4 x5 x6) : PresM a (writeValues x0 x1 x2 x3 x4 x5 x6) := by
  induction x6 generalizing x0 x1 x2 x3 x4 x5 with
  | zero =>
    unfold writeValues
    exact presM_pure _
  | succ x ih =>
    unfold writeValues
    refine presM_bind ?_ ?_
    · apply ih
    · intro _
      apply writeLocal_pres

theorem moveRows_pres {a : State} (x0 x1 x2 x3 x4 x5 x6 x7 x8 x9) : PresM a (moveRows x0 x1 x2 x3 x4 x5 x6 x7 x8 x9) := by
  induction x9 generalizing x0 x1 x2 x3 x4 x5 x6 x7 x8 with
  | zero =>
    unfold moveRows
    exact presM_pure _
  | succ x ih =>
    unfold moveRows
    refine presM_bind ?_ ?_
    · apply ih
    · intro _
      extract_lets +onlyGivenNames y24
      clear_value y24
      extract_lets +onlyGivenNames y25
      clear_value y25
      refine presM_bind ?_ ?_
      · apply readLocal_pres
      · intro _
        refine presM_get_bind ?_
        intro _
        intro _
        extract_lets +onlyGivenNames y29
        clear_value y29
        refine presM_bind ?_ ?_
        · apply writeLocal_pres
        · intro _
          dsimp only
          refine presM_ite ?_ ?_
          · exact presM_pure _
          · refine presM_ite ?_ ?_
            · refine presM_bind ?_ ?_
              · apply count_pres
              · intro _
                exact presM_pure _
            · refine presM_ite ?_ ?_
              · refine presM_bind ?_ ?_
                · apply count_pres
                · intro _
                  exact presM_pure _
              · exact presM_pure _

theorem moveCopy_pres {a : State} (x0 x1 x2 x3 x4 x5 x6 x7 x8 x9 x10) : PresM a (moveCopy x0 x1 x2 x3 x4 x5 x6 x7 x8 x9 x10) := by
  unfold moveCopy
  refine presM_get_bind ?_
  intro _
  intro _
  extract_lets +onlyGivenNames y15
  clear_value y15
  extract_lets +onlyGivenNames y16
  clear_value y16
  apply moveRows_pres

theorem dropBlocks_pres {a : State} (x0 x1) (h0 : Pres a x0) : Pres a (dropBlocks x0 x1) := by
  unfold dropBlocks
  refine pres_mk_of ?_ rfl rfl rfl rfl rfl
  assumption

theorem moveMap_pres {a : State} (x0 x1 x2 x3 x4) : PresM a (moveMap x0 x1 x2 x3 x4) := by
  unfold moveMap
  refine presM_get_bind ?_
  intro _
  intro _
  refine presM_bind ?_ ?_
  · apply each_pres
    intro _
    extract_lets +onlyGivenNames y10
    clear_value y10
    refine presM_ite ?_ ?_
    · exact presM_pure _
    · refine presM_bind ?_ ?_
      · apply writeLocal_pres
      · intro _
        apply count_pres
  · intro _
    refine presM_modify ?_
    intro _
    intro _
    apply dropBlocks_pres
    assumption

theorem moveStages_pres {a : State} (x0 x1 x2 x3 x4 x5 x6 x7 x8 x9) : PresM a (moveStages x0 x1 x2 x3 x4 x5 x6 x7 x8 x9) := by
  unfold moveStages
  refine presM_get_bind ?_
  intro _
  intro _
  extract_lets +onlyGivenNames y14
  clear_value y14
  refine presM_bind ?_ ?_
  · apply holdIf_pres
  · intro _
    refine presM_bind ?_ ?_
    · apply readLocal_pres
    · intro _
      extract_lets +onlyGivenNames y17
      clear_value y17
      extract_lets +onlyGivenNames y18
      clear_value y18
      extract_lets +onlyGivenNames y19
      clear_value y19
      refine presM_ite ?_ ?_
      · exact presM_pure _
      · refine presM_bind ?_ ?_
        · split
          · refine presM_bind ?_ ?_
            · apply writeValues_pres
            · intro _
              exact presM_pure _
          · apply moveCopy_pres
        · intro _
          refine presM_bind ?_ ?_
          · refine presM_modify ?_
            intro _
            intro _
            apply journal_pres
            assumption
          · intro _
            refine presM_bind ?_ ?_
            · apply moveMap_pres
            · intro _
              exact presM_pure _

theorem moveBlock_pres {a : State} (x0 x1 x2 x3 x4 x5) (h0 : Pres a x0) : PresP a (moveBlock x0 x1 x2 x3 x4 x5) := by
  unfold moveBlock
  cases getOp x0 x4 with
  | none => exact presP_mk h0
  | some o =>
    apply concludeMove_pres
    · assumption
    · refine pres_resState ?_ ?_
      · apply moveStages_pres
      · assumption

theorem rebuildMove_pres {a : State} (x0 x1 x2 x3) (h0 : Pres a x0) : PresP a (rebuildMove x0 x1 x2 x3) := by
  unfold rebuildMove
  extract_lets +onlyGivenNames y7
  clear_value y7
  extract_lets +onlyGivenNames y8
  clear_value y8
  extract_lets +onlyGivenNames y9
  (refine pres_absorb (a := a) y9 ?_ (fun _ => ?_); rotate_left; clear_value y9; rotate_right)
  · dsimp only [y9]
    refine pres_mk_of ?_ rfl rfl rfl rfl rfl
    assumption
  · extract_lets +onlyGivenNames y11
    (refine presP_absorb (a := a) y11 ?_ (fun _ => ?_); rotate_left; clear_value y11; rotate_right)
    · dsimp only [y11]
      apply applyList_pres
      · intro _
        intro _
        intro _
        apply moveBlock_pres
        assumption
      · assumption
    · refine presP_mk ?_
      extract_lets +onlyGivenNames y13
      (refine pres_absorb (a := a) y13 ?_ (fun _ => ?_); rotate_left; clear_value y13; rotate_right)
      · dsimp only [y13]
        apply dropOp_pres
        refine presP_fst ?_
        assumption
      · refine pres_mk_of ?_ rfl rfl rfl rfl rfl
        assumption

theorem rebuildMoves_pres {a : State} (x0 x1 x2 x3) (h3 : PresP a x3) : PresP a (rebuildMoves x0 x1 x2 x3) := by
  induction x2 generalizing x0 x1 x3 with
  | nil =>
    unfold rebuildMoves
    assumption
  | cons x xs ih =>
    unfold rebuildMoves
    extract_lets +onlyGivenNames y12
    (refine presP_absorb (a := a) y12 ?_ (fun _ => ?_); rotate_left; clear_value y12; rotate_right)
    · dsimp only [y12]
      apply rebuildMove_pres
      refine presP_fst ?_
      assumption
    · apply ih
      refine presP_mk ?_
      refine presP_fst ?_
      assumption

theorem rebuildAfter_pres {a : State} (x0 x1 x2 x3) (h3 : PresP a x3) : PresP a (rebuildAfter x0 x1 x2 x3) := by
  unfold rebuildAfter
  apply rebuildMoves_pres
  refine presP_mk ?_
  refine presP_fst ?_
  assumption

theorem regionDone_pres {a : State} (x0 x1 x2) (h0 : Pres a x0) : Pres a (regionDone x0 x1 x2) := by
  unfold regionDone
  apply updStep_pres
  assumption

theorem stepRegion_pres {a : State} (x0 x1 x2) (h0 : Pres a x0) : Pres a (stepRegion x0 x1 x2) := by
  unfold stepRegion
  extract_lets +onlyGivenNames y6
  clear_value y6
  extract_lets +onlyGivenNames y7
  clear_value y7
  extract_lets +onlyGivenNames y8
  clear_value y8
  extract_lets +onlyGivenNames y9
  clear_value y9
  extract_lets +onlyGivenNames y10
  clear_value y10
  extract_lets +onlyGivenNames y11
  clear_value y11
  extract_lets +onlyGivenNames y12
  clear_value y12
  extract_lets +onlyGivenNames y13
  clear_value y13
  extract_lets +onlyGivenNames y14
  clear_value y14
  extract_lets +onlyGivenNames y15
  clear_value y15
  extract_lets +onlyGivenNames y16
  clear_value y16
  extract_lets +onlyGivenNames y17
  (refine pres_absorb (a := a) y17 ?_ (fun _ => ?_); rotate_left; clear_value y17; rotate_right)
  · dsimp only [y17]
    apply countMem_pres
    apply countMem_pres
    apply countMem_pres
    assumption
  · extract_lets +onlyGivenNames y19
    (refine pres_absorb (a := a) y19 ?_ (fun _ => ?_); rotate_left; clear_value y19; rotate_right)
    · dsimp only [y19]
      apply countMem_pres
      apply countMem_pres
      assumption
    · apply wrBytes_pres
      apply wrBytes_pres
      assumption

theorem readRegion_pres {a : State} (x0 x1 x2) (h2 : PresP a x2) : PresP a (readRegion x0 x1 x2) := by
  unfold readRegion
  refine presP_ite ?_ ?_
  · refine presP_mk ?_
    apply regionDone_pres
    refine presP_fst ?_
    assumption
  · refine presP_mk ?_
    apply regionDone_pres
    apply stepRegion_pres
    refine presP_fst ?_
    assumption

theorem meetsAny_pres {a : State} (x0 x1) (h1 : Pres a x1) : PresP a (meetsAny x0 x1) := by
  induction x0 generalizing x1 with
  | nil =>
    unfold meetsAny
    refine presP_mk ?_
    assumption
  | cons x xs ih =>
    unfold meetsAny
    extract_lets +onlyGivenNames y8
    (refine presP_absorb (a := a) y8 ?_ (fun _ => ?_); rotate_left; clear_value y8; rotate_right)
    · dsimp only [y8]
      apply meets_pres
      assumption
    · extract_lets +onlyGivenNames y10
      (refine presP_absorb (a := a) y10 ?_ (fun _ => ?_); rotate_left; clear_value y10; rotate_right)
      · dsimp only [y10]
        apply ih
        refine presP_fst ?_
        assumption
      · refine presP_mk ?_
        refine presP_fst ?_
        assumption

theorem applyRegion_pres {a : State} (x0 x1 x2) (h0 : Pres a x0) : PresP a (applyRegion x0 x1 x2) := by
  unfold applyRegion
  extract_lets +onlyGivenNames y6
  clear_value y6
  extract_lets +onlyGivenNames y7
  clear_value y7
  extract_lets +onlyGivenNames y8
  clear_value y8
  extract_lets +onlyGivenNames y9
  clear_value y9
  extract_lets +onlyGivenNames y10
  clear_value y10
  extract_lets +onlyGivenNames y11
  clear_value y11
  extract_lets +onlyGivenNames y12
  clear_value y12
  extract_lets +onlyGivenNames y13
  clear_value y13
  refine presP_ite ?_ ?_
  · refine presP_mk ?_
    apply regionDone_pres
    assumption
  · refine presP_ite ?_ ?_
    · refine presP_mk ?_
      assumption
    · apply readRegion_pres
      apply meetsAny_pres
      assumption

theorem rebuildGrads_pres {a : State} (x0 x1) (h0 : Pres a x0) : Pres a (rebuildGrads x0 x1) := by
  unfold rebuildGrads
  refine pres_foldl ?_ ?_
  · assumption
  · intro _
    intro _
    intro _
    extract_lets +onlyGivenNames y8
    clear_value y8
    apply wrBytes_pres
    assumption

theorem rebuildRegions_pres {a : State} (x0 x1 x2) (h2 : PresP a x2) : PresP a (rebuildRegions x0 x1 x2) := by
  unfold rebuildRegions
  extract_lets +onlyGivenNames y6
  clear_value y6
  apply rebuildAfter_pres
  apply applyList_pres
  · intro _
    intro _
    intro _
    apply applyRegion_pres
    assumption
  · apply rebuildGrads_pres
    refine presP_fst ?_
    assumption

theorem writeRedo_pres {a : State} (x0 x1 x2) (h0 : Pres a x0) : Pres a (writeRedo x0 x1 x2) := by
  unfold writeRedo
  extract_lets +onlyGivenNames y6
  (refine pres_absorb (a := a) y6 ?_ (fun _ => ?_); rotate_left; clear_value y6; rotate_right)
  · dsimp only [y6]
    apply countMem_pres
    assumption
  · extract_lets +onlyGivenNames y8
    (refine pres_absorb (a := a) y8 ?_ (fun _ => ?_); rotate_left; clear_value y8; rotate_right)
    · dsimp only [y8]
      refine pres_ite ?_ ?_
      · assumption
      · apply wrBytes_pres
        apply countMem_pres
        assumption
    · apply wrBytes_pres
      assumption

theorem applyRow_pres {a : State} (x0 x1 x2 x3) (h0 : Pres a x0) : PresP a (applyRow x0 x1 x2 x3) := by
  unfold applyRow
  split
  split
  · refine presP_mk ?_
    apply noteFenced_pres
    refine pres_of_pair (by assumption) ?_
    apply resolveRow_pres
    assumption
  · extract_lets +onlyGivenNames y25
    clear_value y25
    extract_lets +onlyGivenNames y26
    clear_value y26
    extract_lets +onlyGivenNames y27
    clear_value y27
    extract_lets +onlyGivenNames y28
    clear_value y28
    extract_lets +onlyGivenNames y29
    clear_value y29
    extract_lets +onlyGivenNames y30
    clear_value y30
    split
    · refine presP_mk ?_
      refine pres_of_pair (by assumption) ?_
      apply resolveRow_pres
      assumption
    · refine presP_mk ?_
      refine pres_of_pair (by assumption) ?_
      apply resolveRow_pres
      assumption
    · split
      split
      refine presP_ite ?_ ?_
      · refine presP_mk ?_
        refine pres_of_pair (by assumption) ?_
        apply meets_pres
        refine pres_of_pair (by assumption) ?_
        apply meets_pres
        refine pres_of_pair (by assumption) ?_
        apply resolveRow_pres
        assumption
      · extract_lets +onlyGivenNames y47
        clear_value y47
        extract_lets +onlyGivenNames y48
        clear_value y48
        split
        extract_lets +onlyGivenNames y55
        clear_value y55
        extract_lets +onlyGivenNames y56
        (refine pres_absorb (a := a) y56 ?_ (fun _ => ?_); rotate_left; clear_value y56; rotate_right)
        · dsimp only [y56]
          apply countMem_pres
          refine pres_of_pair (by assumption) ?_
          apply meets_pres
          refine pres_of_pair (by assumption) ?_
          apply meets_pres
          refine pres_of_pair (by assumption) ?_
          apply resolveRow_pres
          assumption
        · extract_lets +onlyGivenNames y58
          (refine pres_absorb (a := a) y58 ?_ (fun _ => ?_); rotate_left; clear_value y58; rotate_right)
          · dsimp only [y58]
            refine pres_ite ?_ ?_
            · assumption
            · apply countMem_pres
              assumption
          · extract_lets +onlyGivenNames y60
            (refine pres_absorb (a := a) y60 ?_ (fun _ => ?_); rotate_left; clear_value y60; rotate_right)
            · dsimp only [y60]
              apply writeRedo_pres
              apply updHome_pres
              assumption
            · extract_lets +onlyGivenNames y62
              (refine pres_absorb (a := a) y62 ?_ (fun _ => ?_); rotate_left; clear_value y62; rotate_right)
              · dsimp only [y62]
                refine pres_ite ?_ ?_
                · apply bumpUnit_pres
                  assumption
                · assumption
              · refine presP_mk ?_
                refine pres_ite ?_ ?_
                · apply bump_pres
                  assumption
                · apply bump_pres
                  apply bump_pres
                  assumption
  · refine presP_mk ?_
    refine pres_of_pair (by assumption) ?_
    apply resolveRow_pres
    assumption

theorem rebuildRow_pres {a : State} (x0 x1 x2) (h2 : PresP a x2) : PresP a (rebuildRow x0 x1 x2) := by
  unfold rebuildRow
  apply applyRow_pres
  refine presP_fst ?_
  assumption

theorem rebuildStep_pres {a : State} (x0 x1 x2) (h0 : Pres a x0) : PresP a (rebuildStep x0 x1 x2) := by
  unfold rebuildStep
  apply rebuildRegions_pres
  apply applyList_pres
  · intro _
    intro _
    intro _
    apply rebuildRow_pres
    apply updateUnit_pres
    assumption
  · assumption

theorem rebuildRecord_pres {a : State} (x0 x1) (h0 : Pres a x0) : PresO a (rebuildRecord x0 x1) := by
  unfold rebuildRecord
  dsimp only
  split
  · split
    · exact presO_none
    · refine presO_some ?_
      apply updGate_pres
      refine pres_of_pair (by assumption) ?_
      apply rebuildStep_pres
      assumption
  · refine presO_some ?_
    apply updGate_pres
    assumption
  · refine presO_some ?_
    apply updGate_pres
    assumption

theorem rebuildArrived_pres {a : State} (x0 x1 x2 x3 x4) (h0 : Pres a x0) (h1 : Pres a x1) : Pres a (rebuildArrived x0 x1 x2 x3 x4) := by
  unfold rebuildArrived
  split
  · assumption
  · split
    · apply reply_pres
      refine presO_of_eq (by assumption) ?_
      apply rebuildRecord_pres
      assumption
    · assumption

theorem recordAnswer_pres {a : State} (x0 x1 x2 x3) (h0 : Pres a x0) (h3 : PresO a x3) : Pres a (recordAnswer x0 x1 x2 x3) := by
  unfold recordAnswer
  split
  · apply reply_pres
    exact presO_of_some (by assumption)
  · apply reply_pres
    assumption

theorem recordArrived_pres {a : State} (x0 x1 x2 x3) (h0 : Pres a x0) : Pres a (recordArrived x0 x1 x2 x3) := by
  unfold recordArrived
  split
  · assumption
  · apply recordAnswer_pres
    · assumption
    · apply journalWrite_pres
      assumption

theorem journalArrived_pres {a : State} (x0 x1 x2) (h0 : Pres a x0) : Pres a (journalArrived x0 x1 x2) := by
  unfold journalArrived
  extract_lets +onlyGivenNames y6
  clear_value y6
  extract_lets +onlyGivenNames y7
  (refine presP_absorb (a := a) y7 ?_ (fun _ => ?_); rotate_left; clear_value y7; rotate_right)
  · dsimp only [y7]
    apply joinParts_pres
    apply takeArrival_pres
    assumption
  · rename_i r9_0
    refine pres_ite ?_ ?_
    · apply rebuildArrived_pres
      · assumption
      · refine presP_fst ?_
        assumption
    · refine pres_ite ?_ ?_
      · apply reply_pres
        apply takeArrival_pres
        assumption
      · refine pres_ite ?_ ?_
        · apply reply_pres
          apply takeArrival_pres
          assumption
        · apply recordArrived_pres
          refine presP_fst ?_
          assumption

theorem execJournal_pres {a : State} (x0 x1) (h1 : Pres a x1) : PresX a (execJournal x0 x1) := by
  unfold execJournal
  refine presX_next ?_
  split
  · apply journalOwn_pres
    assumption
  · split
    · refine pres_ite ?_ ?_
      · apply onArrival_pres
        · assumption
        · apply journalArrived_pres
          assumption
      · assumption
    · assumption

theorem collConfirm_pres {a : State} (x0 x1) (h0 : Pres a x0) : Pres a (collConfirm x0 x1) := by
  unfold collConfirm
  apply reply_pres
  assumption

theorem collArrive_pres {a : State} (x0 x1 x2) (h0 : Pres a x0) : Pres a (collArrive x0 x1 x2) := by
  unfold collArrive
  extract_lets +onlyGivenNames y6
  clear_value y6
  extract_lets +onlyGivenNames y7
  clear_value y7
  extract_lets +onlyGivenNames y8
  clear_value y8
  extract_lets +onlyGivenNames y9
  clear_value y9
  extract_lets +onlyGivenNames y10
  clear_value y10
  extract_lets +onlyGivenNames y11
  clear_value y11
  extract_lets +onlyGivenNames y12
  clear_value y12
  extract_lets +onlyGivenNames y13
  clear_value y13
  refine pres_ite ?_ ?_
  · apply collConfirm_pres
    apply takeArrival_pres
    assumption
  · split
    · apply collConfirm_pres
      apply axisMismatch_pres
      apply putColl_pres
      apply takeArrival_pres
      assumption
    · split
      · extract_lets +onlyGivenNames y26
        clear_value y26
        refine pres_ite ?_ ?_
        · apply collConfirm_pres
          apply collTake_pres
          apply putColl_pres
          apply takeArrival_pres
          assumption
        · extract_lets +onlyGivenNames y27
          (refine pres_absorb (a := a) y27 ?_ (fun _ => ?_); rotate_left; clear_value y27; rotate_right)
          · dsimp only [y27]
            refine pres_ite ?_ ?_
            · assumption
            · apply bump_pres
              assumption
          · apply collConfirm_pres
            apply putColl_pres
            apply takeArrival_pres
            assumption
      · refine pres_ite ?_ ?_
        · assumption
        · apply collConfirm_pres
          apply putColl_pres
          apply bump_pres
          apply takeArrival_pres
          assumption

theorem execColl_pres {a : State} (x0 x1) (h1 : Pres a x1) : PresX a (execColl x0 x1) := by
  unfold execColl
  refine presX_next ?_
  split
  · assumption
  · split
    · dsimp only
      refine pres_ite ?_ ?_
      · apply onArrival_pres
        · assumption
        · apply collArrive_pres
          assumption
      · assumption
    · assumption

theorem collLose_pres {a : State} (x0 x1 x2) (h0 : Pres a x0) : Pres a (collLose x0 x1 x2) := by
  unfold collLose
  extract_lets +onlyGivenNames y6
  (refine pres_absorb (a := a) y6 ?_ (fun _ => ?_); rotate_left; clear_value y6; rotate_right)
  · dsimp only [y6]
    apply dropReq_pres
    assumption
  · extract_lets +onlyGivenNames y8
    clear_value y8
    split
    · refine pres_ite ?_ ?_
      · apply collFault_pres
        assumption
      · assumption
    · assumption

theorem sendLate_pres {a : State} (x0 x1) (h0 : Pres a x0) : Pres a (sendLate x0 x1) := by
  unfold sendLate
  extract_lets +onlyGivenNames y5
  clear_value y5
  extract_lets +onlyGivenNames y6
  clear_value y6
  refine pres_ite ?_ ?_
  · assumption
  · extract_lets +onlyGivenNames y7
    (refine pres_absorb (a := a) y7 ?_ (fun _ => ?_); rotate_left; clear_value y7; rotate_right)
    · dsimp only [y7]
      apply updReq_pres
      assumption
    · split
      · split
        · refine pres_of_pair (by assumption) ?_
          apply sendMsg_pres
          assumption
        · apply collLose_pres
          refine pres_of_pair (by assumption) ?_
          apply sendMsg_pres
          assumption
      · apply journalOut_pres
        assumption
      · refine pres_ite ?_ ?_
        · assumption
        · split
          · refine pres_of_pair (by assumption) ?_
            refine presP_ite ?_ ?_
            · apply updateOut_pres
              assumption
            · apply sendMsg_pres
              assumption
          · apply faultReq_pres
            refine pres_of_pair (by assumption) ?_
            refine presP_ite ?_ ?_
            · apply updateOut_pres
              assumption
            · apply sendMsg_pres
              assumption

theorem tileRun_pres {a : State} (x0 x1)  : PresM a (tileRun x0 x1) := by
  unfold tileRun
  split
  · apply loadWRun_pres
  · apply mmStart_pres
  · apply drainRun_pres
  · apply scoreStart_pres
  · apply valueStart_pres
  · apply tileSaveRun_pres
  · apply tileRestoreRun_pres
  · apply spsStart_pres

theorem pumpTiles_pres {a : State} (x0 x1 x2) (h0 : Pres a x0) : Pres a (pumpTiles x0 x1 x2) := by
  induction x2 generalizing x0 x1 with
  | zero =>
    unfold pumpTiles
    assumption
  | succ x ih =>
    unfold pumpTiles
    split
    · assumption
    · refine pres_ite ?_ ?_
      · assumption
      · apply ih
        apply serveOp_pres
        · assumption
        · intro _
          intro _
          refine presM_bind ?_ ?_
          · apply tileRun_pres
          · intro _
            extract_lets +onlyGivenNames y19
            clear_value y19
            refine presM_modify ?_
            intro _
            intro _
            apply updOp_pres
            assumption

theorem smpResume_pres {a : State} (x0 x1) (h0 : Pres a x0) : Pres a (smpResume x0 x1) := by
  unfold smpResume
  split
  · extract_lets +onlyGivenNames y15
    clear_value y15
    refine pres_ite ?_ ?_
    · assumption
    · apply serveOp_pres
      · refine pres_mk_of ?_ rfl rfl rfl rfl rfl
        assumption
      · intro _
        intro _
        refine presM_bind ?_ ?_
        · apply ownOp_pres
        · intro _
          apply smpFit_pres
  · assumption

theorem smpPump_pres {a : State} (x0 x1) (h0 : Pres a x0) : Pres a (smpPump x0 x1) := by
  unfold smpPump
  refine pres_foldl ?_ ?_
  · assumption
  · intro _
    intro _
    intro _
    apply smpResume_pres
    assumption

theorem goOn_pres {a : State} (x0 x1 x2) (h0 : Pres a x0) : Pres a (goOn x0 x1 x2) := by
  unfold goOn
  split
  · apply pumpTiles_pres
    apply tileStep_pres
    assumption
  · apply pumpTiles_pres
    apply tileStep_pres
    assumption
  · apply strmSettle_pres
    apply updStrm_pres
    assumption
  · apply rowPump_pres
    assumption
  · apply smpPump_pres
    assumption
  · apply vecPump_pres
    assumption
  · assumption

theorem retryRun_pres {a : State} (n : Nat) (run : Ctx → Cm Stand) (c : Ctx) (e : retryRun n = some run) : PresM a (run c) := by
  unfold retryRun at e
  split at e
  all_goals first | (injection e with e; subst e) | (cases e)
  · dsimp only [copyDef]
    apply listRun_pres
  · dsimp only [loadDef]
    apply listRun_pres
  · dsimp only [storeDef]
    apply listRun_pres
  · dsimp only [encDef]
    apply encRun_pres
  · dsimp only [sfillDef]
    apply sfillRun_pres
  · dsimp only [loadWDef]
    apply inOrder_pres
    intro _
    apply loadWRun_pres
  · dsimp only [mmDef]
    apply mmRun_pres
  · dsimp only [drainDef]
    apply inOrder_pres
    intro _
    apply drainRun_pres
  · dsimp only [scoreDef]
    apply scoreRun_pres
  · dsimp only [valueDef]
    apply valueRun_pres
  · dsimp only [tileSaveDef]
    apply inOrder_pres
    intro _
    apply tileSaveRun_pres
  · dsimp only [tileRestoreDef]
    apply inOrder_pres
    intro _
    apply tileRestoreRun_pres
  · dsimp only [spsDef]
    apply spsRun_pres
  · dsimp only [spsDef]
    apply spsRun_pres
  · dsimp only [spsDef]
    apply spsRun_pres
  · dsimp only [spsDef]
    apply spsRun_pres
  · dsimp only [mapDef]
    apply mapRun_pres
  · dsimp only [softmaxDef]
    apply softmaxRun_pres
  · dsimp only [normDef]
    apply normRun_pres
  · dsimp only [vcastDef]
    apply vcastRun_pres
  · dsimp only [padDef]
    apply padRun_pres
  · dsimp only [reduceDef]
    apply reduceRun_pres
  · dsimp only [bindDef]
    apply bindRun_pres
  · dsimp only [smpDef]
    apply smpRun_pres
  · dsimp only [smpDef]
    apply smpRun_pres
  · dsimp only [smpDef]
    apply smpRun_pres
  · dsimp only [smpDef]
    apply smpRun_pres
  · dsimp only [smpDef]
    apply smpRun_pres
  · dsimp only [smpDef]
    apply smpRun_pres
  · dsimp only [aliasDef]
    apply aliasRun_pres
  · dsimp only [gatherDef]
    apply rowRun_pres
    intro _
    apply gatherAddrs_pres
  · dsimp only [gatherDef]
    apply rowRun_pres
    intro _
    apply gatherAddrs_pres
  · dsimp only [scatterDef]
    apply scatterRun_pres
  · dsimp only [flushDef]
    apply flushTaint_pres
  · dsimp only [moveDef]
    apply rowRun_pres
    intro _
    apply moveAddrs_pres
  · dsimp only [popDef]
    apply rowRun_pres
    intro _
    apply popAddrs_pres
  · dsimp only [collDef]
    apply collRun_pres
  · dsimp only [collDef]
    apply collRun_pres
  · dsimp only [collDef]
    apply collRun_pres
  · dsimp only [collDef]
    apply collRun_pres
  · dsimp only [fillDef]
    apply fillRun_pres
  · dsimp only [liteDef]
    apply liteRun_pres
  · dsimp only [noiseDef]
    apply noiseRun_pres
  · dsimp only [scanDef]
    apply scanRun_pres
  · dsimp only [drawDef]
    apply drawRun_pres
  · dsimp only [hloadDef]
    apply hloadRun_pres
  · dsimp only [predictDef]
    apply predictRun_pres
  · dsimp only [auditDef]
    apply predictRun_pres

end Sys2Proof.Machine
end

