-- ==== Sys2Proof/Laws/Kept6.lean ====
section
/-!
SUPPORT. What the functions of the machine keep, runAgain to nearCopied: one lemma a function, each over the lemmas of those it calls.
-/
namespace Sys2Proof.Machine
open Sys2Proof

theorem runAgain_pres {a : State} (x0 x1 x2) (h0 : Pres a x0) : Pres a (runAgain x0 x1 x2) := by
  unfold runAgain
  split
  · assumption
  · rename_i run hrun
    have hr : PresM a (catchAwait (run (opCtx x1 x2))) := catchAwait_pres _ (retryRun_pres _ _ _ hrun)
    dsimp only
    split
    · rename_i e
      have hs := presM_ok e hr (updOp_pres _ _ _ h0)
      apply fencedOp_pres
      · apply updOp_pres
        assumption
      · assumption
    · rename_i e
      have hs := presM_ok e hr (updOp_pres _ _ _ h0)
      apply askFar_pres
      apply updOp_pres
      assumption
    · rename_i e
      have hs := presM_ok e hr (updOp_pres _ _ _ h0)
      apply updOp_pres
      assumption
    · rename_i e
      have hs := presM_error e hr (updOp_pres _ _ _ h0)
      refine pres_ite ?_ ?_
      · assumption
      · refine pres_ite ?_ ?_
        · apply fencedOp_pres
          · assumption
          · assumption
        · apply engineFault_pres
          assumption

theorem goFurther_pres {a : State} (x0 x1) (h0 : Pres a x0) : Pres a (goFurther x0 x1) := by
  unfold goFurther
  split
  · refine pres_ite ?_ ?_
    · assumption
    · extract_lets +onlyGivenNames y10
      (refine pres_absorb (a := a) y10 ?_ (fun _ => ?_); rotate_left; clear_value y10; rotate_right)
      · dsimp only [y10]
        apply updOp_pres
        assumption
      · apply goOn_pres
        refine pres_ite ?_ ?_
        · apply runAgain_pres
          assumption
        · assumption
  · assumption

theorem replyDone_pres {a : State} (x0) (h0 : Pres a x0) : Pres a (replyDone x0) := by
  unfold replyDone
  extract_lets +onlyGivenNames y4
  (refine pres_absorb (a := a) y4 ?_ (fun _ => ?_); rotate_left; clear_value y4; rotate_right)
  · dsimp only [y4]
    refine pres_foldl ?_ ?_
    · apply pumpHeld_pres
      assumption
    · intro _
      intro _
      intro _
      apply sendLate_pres
      assumption
  · extract_lets +onlyGivenNames y6
    (refine pres_absorb (a := a) y6 ?_ (fun _ => ?_); rotate_left; clear_value y6; rotate_right)
    · dsimp only [y6]
      refine pres_foldl ?_ ?_
      · assumption
      · intro _
        intro _
        intro _
        apply goFurther_pres
        assumption
    · refine pres_foldl ?_ ?_
      · assumption
      · intro _
        intro _
        intro _
        refine pres_ite ?_ ?_
        · apply runRefills_pres
          assumption
        · assumption

theorem landRow_pres {a : State} (x0 x1 x2 x3 x4)  : PresM a (landRow x0 x1 x2 x3 x4) := by
  unfold landRow
  refine presM_get_bind ?_
  intro _
  intro _
  dsimp only
  refine presM_ite ?_ ?_
  · refine presM_bind ?_ ?_
    · refine presM_modify ?_
      intro _
      intro _
      apply updRow_pres
      assumption
    · intro _
      refine presM_bind ?_ ?_
      · apply gatherGo_pres
      · intro _
        apply gatherEnd_pres
  · refine presM_bind ?_ ?_
    · apply countIf_pres
    · intro _
      split
      · refine presM_ite ?_ ?_
        · refine presM_bind ?_ ?_
          · apply count_pres
          · intro _
            refine presM_ite ?_ ?_
            · refine presM_bind ?_ ?_
              · apply missRow_pres
              · intro _
                refine presM_bind ?_ ?_
                · apply gatherGo_pres
                · intro _
                  apply gatherEnd_pres
            · refine presM_bind ?_ ?_
              · apply count_pres
              · intro _
                refine presM_bind ?_ ?_
                · apply countIf_pres
                · intro _
                  refine presM_bind ?_ ?_
                  · apply countIf_pres
                  · intro _
                    refine presM_bind ?_ ?_
                    · apply countIf_pres
                    · intro _
                      refine presM_bind ?_ ?_
                      · refine presM_modify ?_
                        intro _
                        intro _
                        apply updRow_pres
                        assumption
                      · intro _
                        refine presM_bind ?_ ?_
                        · apply landAt_pres
                        · intro _
                          refine presM_bind ?_ ?_
                          · apply gatherGo_pres
                          · intro _
                            apply gatherEnd_pres
        · refine presM_ite ?_ ?_
          · refine presM_bind ?_ ?_
            · apply missRow_pres
            · intro _
              refine presM_bind ?_ ?_
              · apply gatherGo_pres
              · intro _
                apply gatherEnd_pres
          · refine presM_bind ?_ ?_
            · apply count_pres
            · intro _
              refine presM_bind ?_ ?_
              · apply countIf_pres
              · intro _
                refine presM_bind ?_ ?_
                · apply countIf_pres
                · intro _
                  refine presM_bind ?_ ?_
                  · apply countIf_pres
                  · intro _
                    refine presM_bind ?_ ?_
                    · refine presM_modify ?_
                      intro _
                      intro _
                      apply updRow_pres
                      assumption
                    · intro _
                      refine presM_bind ?_ ?_
                      · apply landAt_pres
                      · intro _
                        refine presM_bind ?_ ?_
                        · apply gatherGo_pres
                        · intro _
                          apply gatherEnd_pres
      · refine presM_ite ?_ ?_
        · refine presM_bind ?_ ?_
          · apply missRow_pres
          · intro _
            refine presM_bind ?_ ?_
            · apply gatherGo_pres
            · intro _
              apply gatherEnd_pres
        · refine presM_bind ?_ ?_
          · apply count_pres
          · intro _
            refine presM_bind ?_ ?_
            · apply countIf_pres
            · intro _
              refine presM_bind ?_ ?_
              · apply countIf_pres
              · intro _
                refine presM_bind ?_ ?_
                · apply countIf_pres
                · intro _
                  refine presM_bind ?_ ?_
                  · refine presM_modify ?_
                    intro _
                    intro _
                    apply updRow_pres
                    assumption
                  · intro _
                    refine presM_bind ?_ ?_
                    · apply landAt_pres
                    · intro _
                      refine presM_bind ?_ ?_
                      · apply gatherGo_pres
                      · intro _
                        apply gatherEnd_pres

theorem rowAnswer_pres {a : State} (x0 x1 x2 x3 x4 x5) (h0 : Pres a x0) : Pres a (rowAnswer x0 x1 x2 x3 x4 x5) := by
  unfold rowAnswer
  split
  · extract_lets +onlyGivenNames y18
    (refine pres_absorb (a := a) y18 ?_ (fun _ => ?_); rotate_left; clear_value y18; rotate_right)
    · dsimp only [y18]
      apply updReq_pres
      assumption
    · apply serveOp_pres
      · assumption
      · intro _
        intro _
        refine presM_bind ?_ ?_
        · refine presM_modify ?_
          intro _
          intro _
          apply dropReq_pres
          assumption
        · intro _
          apply landRow_pres
  · apply answerReq_pres
    assumption

theorem rowAnswered_pres {a : State} (x0 x1 x2 x3 x4 x5) (h0 : Pres a x0) : Pres a (rowAnswered x0 x1 x2 x3 x4 x5) := by
  unfold rowAnswered
  dsimp only
  split
  · apply rowPump_pres
    apply rowAnswer_pres
    assumption
  · apply rowAnswer_pres
    assumption

theorem rowOwn_pres {a : State} (x0 x1 x2 x3) (h0 : Pres a x0) : Pres a (rowOwn x0 x1 x2 x3) := by
  unfold rowOwn
  apply rowAnswered_pres
  assumption

theorem updateAnswer_pres {a : State} (x0 x1 x2 x3 x4) (h0 : Pres a x0) : Pres a (updateAnswer x0 x1 x2 x3 x4) := by
  unfold updateAnswer
  dsimp only
  split
  · split
    · apply opAnswered_pres
      apply dropReq_pres
      assumption
    · apply dropReq_pres
      assumption
  · apply faultReq_pres
    apply taint_pres
    apply bump_pres
    assumption
  · apply updReq_pres
    apply bump_pres
    assumption
  · apply faultReq_pres
    apply taint_pres
    assumption
  · apply faultReq_pres
    apply taint_pres
    assumption
  · apply faultReq_pres
    apply taint_pres
    assumption

theorem journalAnswer_pres {a : State} (x0 x1 x2 x3 x4) (h0 : Pres a x0) : Pres a (journalAnswer x0 x1 x2 x3 x4) := by
  unfold journalAnswer
  dsimp only
  split
  · apply rebuildSettle_pres
    apply tryAck_pres
    apply journalDone_pres
    assumption
  · apply updReq_pres
    apply journalWaits_pres
    assumption
  · apply updReq_pres
    assumption

theorem ownReply_pres {a : State} (x0 x1 x2 x3 x4) (h0 : Pres a x0) : Pres a (ownReply x0 x1 x2 x3 x4) := by
  unfold ownReply
  refine presO_getD ?_ ?_
  · apply dropped_pres
    assumption
  · split
    · apply rowOwn_pres
      assumption
    · apply rowOwn_pres
      assumption
    · apply updateAnswer_pres
      assumption
    · apply journalAnswer_pres
      assumption
    · apply answerReq_pres
      assumption

theorem mgrReplied_pres {a : State} (x0 x1 x2) (h0 : Pres a x0) : Pres a (mgrReplied x0 x1 x2) := by
  unfold mgrReplied
  split
  · assumption
  · dsimp only
    split
    · split
      · refine pres_ite ?_ ?_
        · apply opAnswered_pres
          apply bump_pres
          apply updGate_pres
          assumption
        · apply qFault_pres
          apply dropOp_pres
          apply bump_pres
          apply updGate_pres
          assumption
      · apply bump_pres
        apply updGate_pres
        assumption
    · apply smSettle_pres
      apply updGate_pres
      apply bump_pres
      apply updGate_pres
      assumption

theorem rowPiece_pres {a : State} (x0 x1 x2 x3) (h0 : Pres a x0) : Pres a (rowPiece x0 x1 x2 x3) := by
  unfold rowPiece
  dsimp only
  refine pres_ite ?_ ?_
  · apply rowAnswer_pres
    assumption
  · refine pres_ite ?_ ?_
    · apply rowAnswer_pres
      assumption
    · apply updReq_pres
      assumption

theorem farData_pres {a : State} (x0 x1 x2 x3) (h0 : Pres a x0) : Pres a (farData x0 x1 x2 x3) := by
  unfold farData
  split
  · apply farLanded_pres
    apply updWanted_pres
    apply dropReq_pres
    assumption
  · apply dropReq_pres
    assumption

theorem farReply_pres {a : State} (x0 x1 x2 x3) (h0 : Pres a x0) : Pres a (farReply x0 x1 x2 x3) := by
  unfold farReply
  extract_lets +onlyGivenNames y7
  clear_value y7
  refine presO_getD ?_ ?_
  · apply dropped_pres
    assumption
  · split
    · extract_lets +onlyGivenNames y12
      clear_value y12
      apply rowPump_pres
      apply rowPiece_pres
      assumption
    · extract_lets +onlyGivenNames y12
      clear_value y12
      apply rowPump_pres
      apply rowPiece_pres
      assumption
    · apply updateAnswer_pres
      assumption
    · apply journalAnswer_pres
      assumption
    · refine pres_ite ?_ ?_
      · apply collLose_pres
        assumption
      · apply answerReq_pres
        assumption
    · refine pres_ite ?_ ?_
      · refine pres_ite ?_ ?_
        · apply pieceData_pres
          assumption
        · apply answerReq_pres
          assumption
      · split
        · apply pieceDone_pres
          assumption
        · apply faultReq_pres
          assumption
        · apply faultReq_pres
          assumption
        · apply faultReq_pres
          assumption
    · refine pres_ite ?_ ?_
      · apply farData_pres
        assumption
      · apply answerReq_pres
        assumption
    · apply answerReq_pres
      assumption

theorem takeReply_pres {a : State} (x0 x1 x2) (h0 : Pres a x0) : Pres a (takeReply x0 x1 x2) := by
  unfold takeReply
  extract_lets +onlyGivenNames y6
  (refine pres_absorb (a := a) y6 ?_ (fun _ => ?_); rotate_left; clear_value y6; rotate_right)
  · dsimp only [y6]
    apply takeArrival_pres
    assumption
  · refine pres_ite ?_ ?_
    · refine pres_ite ?_ ?_
      · refine pres_ite ?_ ?_
        · apply overEthernet_pres
          assumption
        · assumption
      · apply mgrReplied_pres
        assumption
    · split
      · extract_lets +onlyGivenNames y14
        (refine pres_absorb (a := a) y14 ?_ (fun _ => ?_); rotate_left; clear_value y14; rotate_right)
        · dsimp only [y14]
          apply landMsg_pres
          assumption
        · apply farReply_pres
          refine pres_ite ?_ ?_
          · apply carryFenced_pres
            assumption
          · assumption
      · refine pres_ite ?_ ?_
        · apply bump_pres
          assumption
        · assumption

theorem anyReply_pres {a : State} (x0 x1 x2) (h0 : Pres a x0) : Pres a (anyReply x0 x1 x2) := by
  unfold anyReply
  apply replyDone_pres
  split
  · split
    · split
      · refine pres_ite ?_ ?_
        · apply ownReply_pres
          assumption
        · assumption
      · assumption
    · assumption
  · split
    · refine pres_ite ?_ ?_
      · apply takeReply_pres
        assumption
      · assumption
    · assumption

theorem execReplyData_pres {a : State} (x0 x1) (h1 : Pres a x1) : PresX a (execReplyData x0 x1) := by
  unfold execReplyData
  refine presX_next ?_
  apply anyReply_pres
  assumption

theorem execReplyAck_pres {a : State} (x0 x1) (h1 : Pres a x1) : PresX a (execReplyAck x0 x1) := by
  unfold execReplyAck
  refine presX_next ?_
  apply anyReply_pres
  assumption

theorem lanesOccur_pres {a : State} (x0 x1 x2) (h0 : Pres a x0) : Pres a (lanesOccur x0 x1 x2) := by
  unfold lanesOccur
  refine pres_foldl ?_ ?_
  · assumption
  · intro _
    intro _
    intro _
    apply occur_pres
    assumption

theorem tellPartner_pres {a : State} (x0 x1) (h0 : Pres a x0) : Pres a (tellPartner x0 x1) := by
  unfold tellPartner
  apply emit_pres
  assumption

theorem execLinkTrained_pres {a : State} (x0 x1 x2) (h2 : Pres a x2) : PresX a (execLinkTrained x0 x1 x2) := by
  unfold execLinkTrained
  refine presX_next ?_
  extract_lets +onlyGivenNames y6
  clear_value y6
  refine pres_ite ?_ ?_
  · assumption
  · extract_lets +onlyGivenNames y7
    clear_value y7
    extract_lets +onlyGivenNames y8
    clear_value y8
    refine pres_ite ?_ ?_
    · extract_lets +onlyGivenNames y9
      (refine pres_absorb (a := a) y9 ?_ (fun _ => ?_); rotate_left; clear_value y9; rotate_right)
      · dsimp only [y9]
        apply lanesOccur_pres
        apply updLink_pres
        assumption
      · refine pres_ite ?_ ?_
        · apply retireRes_pres
          assumption
        · assumption
    · extract_lets +onlyGivenNames y9
      clear_value y9
      extract_lets +onlyGivenNames y10
      (refine pres_absorb (a := a) y10 ?_ (fun _ => ?_); rotate_left; clear_value y10; rotate_right)
      · dsimp only [y10]
        apply linkChanged_pres
        apply tellPartner_pres
        apply updLink_pres
        assumption
      · extract_lets +onlyGivenNames y12
        (refine pres_absorb (a := a) y12 ?_ (fun _ => ?_); rotate_left; clear_value y12; rotate_right)
        · dsimp only [y12]
          refine pres_ite ?_ ?_
          · apply bump_pres
            assumption
          · assumption
        · refine pres_ite ?_ ?_
          · assumption
          · apply lanesOccur_pres
            apply bump_pres
            apply degrade_pres
            assumption

theorem execLinkReset_pres {a : State} (x0 x1) (h1 : Pres a x1) : PresX a (execLinkReset x0 x1) := by
  unfold execLinkReset
  refine presX_next ?_
  apply linkReset_pres
  assumption

theorem updPower_pres {a : State} (x0 x1) (h0 : Pres a x0) : Pres a (updPower x0 x1) := by
  unfold updPower
  refine pres_mk_of ?_ rfl rfl rfl rfl rfl
  assumption

theorem setDiv_pres {a : State} (x0 x1 x2) (h0 : Pres a x0) : Pres a (setDiv x0 x1 x2) := by
  unfold setDiv
  refine pres_ite ?_ ?_
  · assumption
  · apply bump_pres
    apply updPower_pres
    assumption

theorem applyNext_pres {a : State} (x0 x1) (h0 : Pres a x0) : Pres a (applyNext x0 x1) := by
  unfold applyNext
  split
  · apply setDiv_pres
    apply updPower_pres
    assumption
  · assumption

theorem wakeHold_pres {a : State} (x0) (h0 : Pres a x0) : Pres a (wakeHold x0) := by
  unfold wakeHold
  dsimp only
  apply releaseRows_pres
  refine pres_foldl ?_ ?_
  · apply updPower_pres
    assumption
  · intro _
    intro _
    intro _
    refine pres_ite ?_ ?_
    · assumption
    · apply applyNext_pres
      assumption

theorem wokenBy_pres {a : State} (x0 x1) (h0 : Pres a x0) : Pres a (wokenBy x0 x1) := by
  unfold wokenBy
  split
  · assumption
  · refine pres_ite ?_ ?_
    · apply wakeHold_pres
      assumption
    · assumption

theorem barAccess_pres {a : State} (x0) (h0 : Pres a x0) : Pres a (barAccess x0) := by
  unfold barAccess
  apply wokenBy_pres
  assumption

theorem dropBell_pres {a : State} (x0) (h0 : Pres a x0) : Pres a (dropBell x0) := by
  unfold dropBell
  apply raiseEvt_pres
  apply bump_pres
  assumption

theorem bell_pres {a : State} (x0) (h0 : Pres a x0) : Pres a (bell x0) := by
  unfold bell
  apply bump_pres
  assumption

theorem updSq_pres {a : State} (x0 x1 x2) (h0 : Pres a x0) : Pres a (updSq x0 x1 x2) := by
  unfold updSq
  refine pres_mk_of ?_ rfl rfl rfl rfl rfl
  assumption

theorem takeTail_pres {a : State} (x0 x1 x2) (h0 : Pres a x0) : Pres a (takeTail x0 x1 x2) := by
  unfold takeTail
  refine pres_ite ?_ ?_
  · apply dropBell_pres
    assumption
  · apply bell_pres
    apply updSq_pres
    assumption

theorem execSqTail_pres {a : State} (x0 x1 x2 x3) (h3 : Pres a x3) : PresX a (execSqTail x0 x1 x2 x3) := by
  unfold execSqTail
  refine presX_next ?_
  dsimp only
  refine pres_ite ?_ ?_
  · apply dropBell_pres
    apply barAccess_pres
    assumption
  · refine pres_ite ?_ ?_
    · apply takeTail_pres
      apply barAccess_pres
      assumption
    · apply bell_pres
      apply updSq_pres
      apply barAccess_pres
      assumption

theorem updCq_pres {a : State} (x0 x1 x2) (h0 : Pres a x0) : Pres a (updCq x0 x1 x2) := by
  unfold updCq
  refine pres_mk_of ?_ rfl rfl rfl rfl rfl
  assumption

theorem recordOut_pres {a : State} (x0 x1) (h0 : Pres a x0) : Pres a (recordOut x0 x1) := by
  unfold recordOut
  extract_lets +onlyGivenNames y5
  clear_value y5
  extract_lets +onlyGivenNames y6
  clear_value y6
  refine pres_ite ?_ ?_
  · apply leaveDone_pres
    assumption
  · assumption

theorem releaseHeld_pres {a : State} (x0 x1 x2) (h0 : Pres a x0) : Pres a (releaseHeld x0 x1 x2) := by
  induction x2 generalizing x0 x1 with
  | zero =>
    unfold releaseHeld
    assumption
  | succ x ih =>
    unfold releaseHeld
    split
    · assumption
    · split
      · apply ih
        apply recordOut_pres
        apply cqSignal_pres
        refine pres_mk_of ?_ rfl rfl rfl rfl rfl
        refine pres_of_pair (by assumption) ?_
        apply writeRec_pres
        assumption
      · refine pres_of_pair (by assumption) ?_
        apply writeRec_pres
        assumption

theorem ackFault_pres {a : State} (x0 x1 x2) (h0 : Pres a x0) : Pres a (ackFault x0 x1 x2) := by
  unfold ackFault
  refine pres_ite ?_ ?_
  · apply freeSlot_pres
    assumption
  · assumption

theorem ackRecord_pres {a : State} (x0 x1) (h0 : Pres a x0) : Pres a (ackRecord x0 x1) := by
  unfold ackRecord
  dsimp only
  refine pres_ite ?_ ?_
  · apply ackFault_pres
    assumption
  · assumption

theorem execCqHead_pres {a : State} (x0 x1 x2 x3) (h3 : Pres a x3) : PresX a (execCqHead x0 x1 x2 x3) := by
  unfold execCqHead
  refine presX_next ?_
  dsimp only
  refine pres_ite ?_ ?_
  · apply dropBell_pres
    apply barAccess_pres
    assumption
  · refine pres_ite ?_ ?_
    · apply dropBell_pres
      apply barAccess_pres
      assumption
    · apply releaseHeld_pres
      refine pres_foldl ?_ ?_
      · apply bell_pres
        apply updCq_pres
        apply barAccess_pres
        assumption
      · intro _
        intro _
        intro _
        apply ackRecord_pres
        assumption

theorem readEntry_pres {a : State} (x0 x1 x2) (h0 : Pres a x0) : PresP a (readEntry x0 x1 x2) := by
  unfold readEntry
  dsimp only
  refine presP_ite ?_ ?_
  · split
    · refine presP_mk ?_
      refine presM_ok (by assumption) ?_ ?_
      · apply readLocal_pres
      · assumption
    · refine presP_mk ?_
      refine presM_error (by assumption) ?_ ?_
      · apply readLocal_pres
      · assumption
  · split
    · refine presP_mk ?_
      apply bump_pres
      refine pres_of_pair (by assumption) ?_
      apply rdHost_pres
      assumption
    · refine presP_mk ?_
      apply raiseEvt_pres
      refine pres_of_pair (by assumption) ?_
      apply rdHost_pres
      assumption

theorem fetchEntries_pres {a : State} (x0 x1 x2) (h0 : Pres a x0) : Pres a (fetchEntries x0 x1 x2) := by
  induction x2 generalizing x0 x1 with
  | zero =>
    unfold fetchEntries
    assumption
  | succ x ih =>
    unfold fetchEntries
    dsimp only
    split
    · apply updSq_pres
      refine pres_of_pair (by assumption) ?_
      apply readEntry_pres
      assumption
    · apply ih
      apply bump_pres
      apply updSq_pres
      refine pres_of_pair (by assumption) ?_
      apply readEntry_pres
      assumption

theorem execRingFetch_pres {a : State} (x0 x1) (h1 : Pres a x1) : PresX a (execRingFetch x0 x1) := by
  unfold execRingFetch
  refine presX_next ?_
  dsimp only
  refine pres_ite ?_ ?_
  · assumption
  · apply fetchEntries_pres
    assumption

theorem execCompletionRecord_pres {a : State} (x0 x1) (h1 : Pres a x1) : PresX a (execCompletionRecord x0 x1) := by
  unfold execCompletionRecord
  refine presX_next ?_
  apply releaseHeld_pres
  assumption

theorem execCqCoalTimer_pres {a : State} (x0 x1) (h1 : Pres a x1) : PresX a (execCqCoalTimer x0 x1) := by
  unfold execCqCoalTimer
  refine presX_next ?_
  refine pres_ite ?_ ?_
  · apply cqSignal_pres
    assumption
  · assumption

theorem orphanTask_pres {a : State} (x0 x1) (h0 : Pres a x0) : Pres a (orphanTask x0 x1) := by
  unfold orphanTask
  extract_lets +onlyGivenNames y5
  clear_value y5
  split
  · assumption
  · apply freeSlot_pres
    apply leaveFlows_pres
    assumption
  · refine pres_ite ?_ ?_
    · apply updSlot_pres
      assumption
    · apply freeSlot_pres
      extract_lets +onlyGivenNames y10
      (refine pres_absorb (a := a) y10 ?_ (fun _ => ?_); rotate_left; clear_value y10; rotate_right)
      · dsimp only [y10]
        apply leaveFlows_pres
        assumption
      · refine pres_mk_of ?_ rfl rfl rfl rfl rfl
        assumption
  · apply updSlot_pres
    assumption
  · apply updSlot_pres
    assumption
  · apply updSlot_pres
    assumption
  · apply leaveDone_pres
    assumption
  · apply freeSlot_pres
    assumption

theorem disableCfg_pres {a : State} (x0 x1 x2) (h0 : Pres a x0) : Pres a (disableCfg x0 x1 x2) := by
  unfold disableCfg
  dsimp only
  apply setAct_pres
  apply setSh_pres
  assumption

theorem resetFunctions_pres {a : State} (x0 x1) (h0 : Pres a x0) : Pres a (resetFunctions x0 x1) := by
  unfold resetFunctions
  dsimp only
  apply settleJob_pres
  refine pres_mk_of ?_ rfl rfl rfl rfl rfl
  refine pres_foldl ?_ ?_
  · refine pres_foldl ?_ ?_
    · refine pres_foldl ?_ ?_
      · assumption
      · intro _
        intro _
        intro _
        apply orphanTask_pres
        assumption
    · intro _
      intro _
      intro _
      apply disableCfg_pres
      assumption
  · intro _
    intro _
    intro _
    apply disableCfg_pres
    assumption

theorem execFunctionLevelReset_pres {a : State} (x0 x1) (h1 : Pres a x1) : PresX a (execFunctionLevelReset x0 x1) := by
  unfold execFunctionLevelReset
  refine presX_next ?_
  refine pres_ite ?_ ?_
  · dsimp only
    refine pres_mk_of ?_ rfl rfl rfl rfl rfl
    apply resetFunctions_pres
    assumption
  · apply resetFunctions_pres
    assumption

theorem execHotReset_pres {a : State} (x0 x1) (h1 : Pres a x1) : PresX a (execHotReset x0 x1) := by
  unfold execHotReset
  refine presX_next ?_
  dsimp only
  refine pres_mk_of ?_ rfl rfl rfl rfl rfl
  apply resetFunctions_pres
  assumption

theorem execApertureRead_pres {a : State} (x0 x1 x2) (h2 : Pres a x2) : PresX a (execApertureRead x0 x1 x2) := by
  unfold execApertureRead
  refine presX_next ?_
  extract_lets +onlyGivenNames y6
  (refine pres_absorb (a := a) y6 ?_ (fun _ => ?_); rotate_left; clear_value y6; rotate_right)
  · dsimp only [y6]
    apply barAccess_pres
    assumption
  · rename_i r8_0
    extract_lets +onlyGivenNames y8
    clear_value y8
    extract_lets +onlyGivenNames y9
    clear_value y9
    extract_lets +onlyGivenNames y10
    clear_value y10
    refine pres_ite ?_ ?_
    · assumption
    · extract_lets +onlyGivenNames y11
      (refine pres_absorb (a := a) y11 ?_ (fun _ => ?_); rotate_left; clear_value y11; rotate_right)
      · dsimp only [y11]
        refine pres_ite ?_ ?_
        · apply bump_pres
          assumption
        · assumption
      · rename_i r13_0
        extract_lets +onlyGivenNames y13
        (refine presP_absorb (a := a) y13 ?_ (fun _ => ?_); rotate_left; clear_value y13; rotate_right)
        · dsimp only [y13]
          refine presP_ite ?_ ?_
          · refine presP_mk ?_
            assumption
          · apply serveRead_pres
            assumption
        · rename_i r15_0
          apply emit_pres
          refine presP_fst ?_
          assumption

theorem execApertureWrite_pres {a : State} (x0 x1 x2) (h2 : Pres a x2) : PresX a (execApertureWrite x0 x1 x2) := by
  unfold execApertureWrite
  refine presX_next ?_
  dsimp only
  refine pres_ite ?_ ?_
  · apply barAccess_pres
    assumption
  · refine pres_ite ?_ ?_
    · apply bump_pres
      apply barAccess_pres
      assumption
    · refine presP_fst ?_
      apply serveWrite_pres
      apply barAccess_pres
      assumption

theorem pageWrite_pres {a : State} (x0 x1 x2 x3) (h0 : Pres a x0) (h3 : ∀ s, Pres a s → Pres a (x3 s)) : Pres a (pageWrite x0 x1 x2 x3) := by
  unfold pageWrite
  dsimp only
  refine pres_ite ?_ ?_
  · apply wokenBy_pres
    assumption
  · refine pres_ite ?_ ?_
    · apply addCnt_pres
      apply wokenBy_pres
      assumption
    · apply_assumption
      apply wokenBy_pres
      assumption

theorem xlateForget_pres {a : State} (x0 x1) (h0 : Pres a x0) : Pres a (xlateForget x0 x1) := by
  unfold xlateForget
  dsimp only
  refine pres_mk_of ?_ rfl rfl rfl rfl rfl
  assumption

theorem writeXlateInv_pres {a : State} (x0 x1) (h0 : Pres a x0) : Pres a (writeXlateInv x0 x1) := by
  unfold writeXlateInv
  refine pres_ite ?_ ?_
  · dsimp only
    refine pres_mk_of ?_ rfl rfl rfl rfl rfl
    apply xlateForget_pres
    assumption
  · assumption

theorem execXlateInv_pres {a : State} (x0 x1 x2) (h2 : Pres a x2) : PresX a (execXlateInv x0 x1 x2) := by
  unfold execXlateInv
  refine presX_next ?_
  apply pageWrite_pres
  · assumption
  · intro _
    intro _
    apply writeXlateInv_pres
    assumption

theorem execXlateInvDone_pres {a : State} (x0) (h0 : Pres a x0) : PresX a (execXlateInvDone x0) := by
  unfold execXlateInvDone
  refine presX_next ?_
  split
  · assumption
  · dsimp only
    refine pres_foldl ?_ ?_
    · refine pres_mk_of ?_ rfl rfl rfl rfl rfl
      apply xlateForget_pres
      assumption
    · intro _
      intro _
      intro _
      apply releaseHeld_pres
      assumption

theorem updFw_pres {a : State} (x0 x1) (h0 : Pres a x0) : Pres a (updFw x0 x1) := by
  unfold updFw
  refine pres_mk_of ?_ rfl rfl rfl rfl rfl
  assumption

theorem commitSvnNow_pres {a : State} (x0) (h0 : Pres a x0) : Pres a (commitSvnNow x0) := by
  unfold commitSvnNow
  refine pres_ite ?_ ?_
  · apply updFw_pres
    assumption
  · assumption

theorem writeFwCtl_pres {a : State} (x0 x1) (h0 : Pres a x0) : Pres a (writeFwCtl x0 x1) := by
  unfold writeFwCtl
  dsimp only
  refine pres_ite ?_ ?_
  · refine pres_ite ?_ ?_
    · apply commitSvnNow_pres
      assumption
    · assumption
  · apply updFw_pres
    refine pres_ite ?_ ?_
    · apply commitSvnNow_pres
      assumption
    · assumption

theorem execFwStart_pres {a : State} (x0 x1 x2) (h2 : Pres a x2) : PresX a (execFwStart x0 x1 x2) := by
  unfold execFwStart
  refine presX_next ?_
  apply pageWrite_pres
  · assumption
  · intro _
    intro _
    apply writeFwCtl_pres
    assumption

theorem execFwUpdateDone_pres {a : State} (x0 x1) (h1 : Pres a x1) : PresX a (execFwUpdateDone x0 x1) := by
  unfold execFwUpdateDone
  refine presX_next ?_
  refine pres_ite ?_ ?_
  · assumption
  · split
    dsimp only
    apply raiseEvt_pres
    apply updFw_pres
    assumption

theorem execCommitSvn_pres {a : State} (x0 x1) (h1 : Pres a x1) : PresX a (execCommitSvn x0 x1) := by
  unfold execCommitSvn
  refine presX_next ?_
  apply pageWrite_pres
  · assumption
  · intro _
    intro _
    apply writeFwCtl_pres
    assumption

theorem requestCommit_pres {a : State} (x0 x1) (h0 : Pres a x0) : Pres a (requestCommit x0 x1) := by
  unfold requestCommit
  refine pres_ite ?_ ?_
  · apply updPage_pres
    assumption
  · apply raiseEvt_pres
    apply updPage_pres
    assumption

theorem execCommit_pres {a : State} (x0 x1 x2) (h2 : Pres a x2) : PresX a (execCommit x0 x1 x2) := by
  unfold execCommit
  refine presX_next ?_
  apply pageWrite_pres
  · assumption
  · intro _
    intro _
    apply requestCommit_pres
    assumption

theorem dropMem_pres {a : State} (x0 x1 x2) (h0 : Pres a x0) : Pres a (dropMem x0 x1 x2) := by
  refine ⟨fun k => ?_, h0.host, h0.pool, h0.pending, h0.part⟩
  exact Tab.wf_keep (p := fun a _ => !decide (x1 ≤ a ∧ a < x1 + x2)) (h0.mem k)

theorem lose_pres {a : State} (x0 x1 x2) (h0 : Pres a x0) : Pres a (lose x0 x1 x2) := by
  unfold lose
  dsimp only
  refine pres_mk_of ?_ rfl rfl rfl rfl rfl
  apply dropMem_pres
  assumption

theorem dropLines_pres {a : State} (x0 x1 x2) (h0 : Pres a x0) : Pres a (dropLines x0 x1 x2) := by
  unfold dropLines
  dsimp only
  apply bump_pres
  refine pres_mk_of ?_ rfl rfl rfl rfl rfl
  assumption

theorem commitCache_pres {a : State} (x0 x1) (h0 : Pres a x0) : Pres a (commitCache x0 x1) := by
  unfold commitCache
  dsimp only
  apply bump_pres
  refine pres_mk_of ?_ rfl rfl rfl rfl rfl
  refine pres_ite ?_ ?_
  · apply dropLines_pres
    assumption
  · apply dropLines_pres
    assumption

theorem orderDiv_pres {a : State} (x0 x1 x2) (h0 : Pres a x0) : Pres a (orderDiv x0 x1 x2) := by
  unfold orderDiv
  apply updPower_pres
  assumption

theorem refresh_pres {a : State} (x0 x1) (h0 : Pres a x0) : Pres a (refresh x0 x1) := by
  unfold refresh
  apply updPower_pres
  apply orderDiv_pres
  assumption

theorem refreshAll_pres {a : State} (x0) (h0 : Pres a x0) : Pres a (refreshAll x0) := by
  unfold refreshAll
  refine pres_foldl ?_ ?_
  · assumption
  · intro _
    intro _
    intro _
    apply refresh_pres
    assumption

theorem judgeKept_pres {a : State} (x0 x1) (h0 : Pres a x0) : Pres a (judgeKept x0 x1) := by
  unfold judgeKept
  refine pres_foldl ?_ ?_
  · apply updSq_pres
    assumption
  · intro _
    intro _
    intro _
    refine pres_ite ?_ ?_
    · apply dropBell_pres
      assumption
    · apply updSq_pres
      assumption

theorem commitHIF_pres {a : State} (x0 x1) (h0 : Pres a x0) (h1 : Pres a x1) : Pres a (commitHIF x0 x1) := by
  unfold commitHIF
  dsimp only
  apply settleJob_pres
  refine pres_foldl ?_ ?_
  · refine pres_foldl ?_ ?_
    · refine pres_ite ?_ ?_
      · refine pres_mk_of ?_ rfl rfl rfl rfl rfl
        refine pres_ite ?_ ?_
        · refine pres_mk_of ?_ rfl rfl rfl rfl rfl
          assumption
        · assumption
      · refine pres_ite ?_ ?_
        · refine pres_mk_of ?_ rfl rfl rfl rfl rfl
          assumption
        · assumption
    · intro _
      intro _
      intro _
      apply cqSignal_pres
      apply releaseHeld_pres
      assumption
  · intro _
    intro _
    intro _
    apply judgeKept_pres
    assumption

theorem commitEffect_pres {a : State} (x0 x1 x2) (h0 : Pres a x0) (h1 : Pres a x1) : Pres a (commitEffect x0 x1 x2) := by
  unfold commitEffect
  dsimp only
  split
  · refine pres_mk_of ?_ rfl rfl rfl rfl rfl
    assumption
  · refine pres_foldl ?_ ?_
    · assumption
    · intro _
      intro _
      intro _
      apply lose_pres
      assumption
  · apply commitCache_pres
    refine pres_ite ?_ ?_
    · refine pres_foldl ?_ ?_
      · assumption
      · intro _
        intro _
        intro _
        apply lose_pres
        assumption
    · assumption
  · apply refreshAll_pres
    assumption
  · apply commitHIF_pres
    · assumption
    · assumption
  · assumption

theorem copyShadow_pres {a : State} (x0 x1) (h0 : Pres a x0) : Pres a (copyShadow x0 x1) := by
  unfold copyShadow
  refine pres_foldl ?_ ?_
  · assumption
  · intro _
    intro _
    intro _
    refine pres_mk_of ?_ rfl rfl rfl rfl rfl
    assumption

theorem relock_pres {a : State} (x0 x1) (h0 : Pres a x0) : Pres a (relock x0 x1) := by
  unfold relock
  dsimp only
  apply updPage_pres
  refine pres_foldl ?_ ?_
  · assumption
  · intro _
    intro _
    intro _
    refine pres_mk_of ?_ rfl rfl rfl rfl rfl
    assumption

theorem selTurn_pres {a : State} (x0 x1) (h0 : Pres a x0) : Pres a (selTurn x0 x1) := by
  unfold selTurn
  refine pres_ite ?_ ?_
  · assumption
  · split
    · apply updOp_pres
      assumption
    · assumption

theorem applyCommit_pres {a : State} (x0 x1) (h0 : Pres a x0) : Pres a (applyCommit x0 x1) := by
  unfold applyCommit
  extract_lets +onlyGivenNames y5
  (refine pres_absorb (a := a) y5 ?_ (fun _ => ?_); rotate_left; clear_value y5; rotate_right)
  · dsimp only [y5]
    apply updPage_pres
    refine pres_mk_of ?_ rfl rfl rfl rfl rfl
    assumption
  · extract_lets +onlyGivenNames y7
    (refine pres_absorb (a := a) y7 ?_ (fun _ => ?_); rotate_left; clear_value y7; rotate_right)
    · dsimp only [y7]
      split
      · apply raiseErr_pres
        apply updPage_pres
        refine pres_mk_of ?_ rfl rfl rfl rfl rfl
        assumption
      · refine pres_ite ?_ ?_
        · apply commitGh_pres
          assumption
        · apply commitEffect_pres
          · assumption
          · apply copyShadow_pres
            assumption
    · extract_lets +onlyGivenNames y9
      (refine pres_absorb (a := a) y9 ?_ (fun _ => ?_); rotate_left; clear_value y9; rotate_right)
      · dsimp only [y9]
        apply raiseEvt_pres
        assumption
      · extract_lets +onlyGivenNames y11
        (refine pres_absorb (a := a) y11 ?_ (fun _ => ?_); rotate_left; clear_value y11; rotate_right)
        · dsimp only [y11]
          refine pres_ite ?_ ?_
          · apply relock_pres
            assumption
          · assumption
        · refine pres_ite ?_ ?_
          · apply smpPump_pres
            assumption
          · refine pres_ite ?_ ?_
            · apply rowPump_pres
              assumption
            · refine pres_ite ?_ ?_
              · apply selTurn_pres
                assumption
              · assumption

theorem execCommitApply_pres {a : State} (x0 x1) (h1 : Pres a x1) : PresX a (execCommitApply x0 x1) := by
  unfold execCommitApply
  refine presX_next ?_
  refine pres_ite ?_ ?_
  · apply applyCommit_pres
    assumption
  · assumption

theorem setEnable_pres {a : State} (x0 x1 x2) (h0 : Pres a x0) : Pres a (setEnable x0 x1 x2) := by
  unfold setEnable
  refine pres_ite ?_ ?_
  · assumption
  · dsimp only
    refine pres_ite ?_ ?_
    · apply updPage_pres
      assumption
    · refine pres_ite ?_ ?_
      · apply smpPump_pres
        apply updPage_pres
        assumption
      · refine pres_ite ?_ ?_
        · apply rowPump_pres
          apply updPage_pres
          assumption
        · apply updPage_pres
          assumption

theorem execCtrlEnable_pres {a : State} (x0 x1 x2 x3) (h3 : Pres a x3) : PresX a (execCtrlEnable x0 x1 x2 x3) := by
  unfold execCtrlEnable
  refine presX_next ?_
  apply pageWrite_pres
  · assumption
  · intro _
    intro _
    apply setEnable_pres
    assumption

theorem fenceRequest_pres {a : State} (x0 x1) (h0 : Pres a x0) : Pres a (fenceRequest x0 x1) := by
  unfold fenceRequest
  dsimp only
  refine pres_ite ?_ ?_
  · apply applyCommit_pres
    split
    · apply fencePav_pres
      assumption
    · apply fenceCore_pres
      assumption
    · apply fenceUnit_pres
      assumption
    · apply fenceSmp_pres
      apply fenceSmp_pres
      assumption
    · apply fenceUnit_pres
      assumption
    · apply fenceUnit_pres
      assumption
    · apply fenceOrang_pres
      assumption
    · apply fenceLink_pres
      assumption
    · assumption
  · split
    · apply fencePav_pres
      assumption
    · apply fenceCore_pres
      assumption
    · apply fenceUnit_pres
      assumption
    · apply fenceSmp_pres
      apply fenceSmp_pres
      assumption
    · apply fenceUnit_pres
      assumption
    · apply fenceUnit_pres
      assumption
    · apply fenceOrang_pres
      assumption
    · apply fenceLink_pres
      assumption
    · assumption

theorem execFenceReq_pres {a : State} (x0 x1 x2) (h2 : Pres a x2) : PresX a (execFenceReq x0 x1 x2) := by
  unfold execFenceReq
  refine presX_next ?_
  apply pageWrite_pres
  · assumption
  · intro _
    intro _
    refine pres_ite ?_ ?_
    · apply fenceRequest_pres
      assumption
    · assumption

theorem rejectWrite_pres {a : State} (x0 x1) (h0 : Pres a x0) : Pres a (rejectWrite x0 x1) := by
  unfold rejectWrite
  apply raiseErr_pres
  assumption

theorem unlock_pres {a : State} (x0 x1 x2 x3) (h0 : Pres a x0) : Pres a (unlock x0 x1 x2 x3) := by
  unfold unlock
  refine pres_ite ?_ ?_
  · assumption
  · refine pres_ite ?_ ?_
    · apply rejectWrite_pres
      assumption
    · apply updPage_pres
      assumption

theorem execExpertUnlock_pres {a : State} (x0 x1 x2 x3) (h3 : Pres a x3) : PresX a (execExpertUnlock x0 x1 x2 x3) := by
  unfold execExpertUnlock
  refine presX_next ?_
  apply pageWrite_pres
  · assumption
  · intro _
    intro _
    apply unlock_pres
    assumption

theorem lock_pres {a : State} (x0 x1) (h0 : Pres a x0) : Pres a (lock x0 x1) := by
  unfold lock
  refine pres_ite ?_ ?_
  · assumption
  · refine pres_ite ?_ ?_
    · apply updPage_pres
      assumption
    · apply relock_pres
      assumption

theorem execExpertRelock_pres {a : State} (x0 x1 x2) (h2 : Pres a x2) : PresX a (execExpertRelock x0 x1 x2) := by
  unfold execExpertRelock
  refine presX_next ?_
  apply pageWrite_pres
  · assumption
  · intro _
    intro _
    apply lock_pres
    assumption

theorem beginReset_pres {a : State} (x0 x1) (h0 : Pres a x0) : PresO a (beginReset x0 x1) := by
  unfold beginReset
  split
  · refine presO_some ?_
    apply updDom_pres
    assumption
  · exact presO_none

theorem wakePav_pres {a : State} (x0 x1) (h0 : Pres a x0) : Pres a (wakePav x0 x1) := by
  unfold wakePav
  refine pres_ite ?_ ?_
  · assumption
  · apply releaseRows_pres
    apply applyNext_pres
    apply bump_pres
    apply updPower_pres
    assumption

theorem wakeFor_pres {a : State} (x0 x1) (h0 : Pres a x0) : Pres a (wakeFor x0 x1) := by
  unfold wakeFor
  dsimp only
  split
  · apply wakePav_pres
    refine pres_ite ?_ ?_
    · apply wakeHold_pres
      assumption
    · assumption
  · refine pres_ite ?_ ?_
    · apply wakeHold_pres
      assumption
    · assumption

theorem coreWithPav_pres {a : State} (x0 x1 x2) (h1 : Pres a x1) : Pres a (coreWithPav x0 x1 x2) := by
  unfold coreWithPav
  apply updDom_pres
  assumption

theorem fenceSent_pres {a : State} (x0 x1) (h0 : Pres a x0) : Pres a (fenceSent x0 x1) := by
  unfold fenceSent
  refine pres_foldl ?_ ?_
  · assumption
  · intro _
    intro _
    intro _
    split
    · refine pres_ite ?_ ?_
      · split
        · assumption
        · apply updateAnswer_pres
          assumption
        · apply fenceReq_pres
          apply noteFenced_pres
          assumption
      · assumption
    · assumption

theorem coreLoses_pres {a : State} (x0 x1 x2) (h0 : Pres a x0) : Pres a (coreLoses x0 x1 x2) := by
  unfold coreLoses
  extract_lets +onlyGivenNames y6
  (refine pres_absorb (a := a) y6 ?_ (fun _ => ?_); rotate_left; clear_value y6; rotate_right)
  · dsimp only [y6]
    apply flushWaiters_pres
    refine pres_mk_of ?_ rfl rfl rfl rfl rfl
    assumption
  · extract_lets +onlyGivenNames y8
    (refine pres_absorb (a := a) y8 ?_ (fun _ => ?_); rotate_left; clear_value y8; rotate_right)
    · dsimp only [y8]
      apply fenceSent_pres
      assumption
    · extract_lets +onlyGivenNames y10
      (refine pres_absorb (a := a) y10 ?_ (fun _ => ?_); rotate_left; clear_value y10; rotate_right)
      · dsimp only [y10]
        apply faultTasks_pres
        assumption
      · apply bump_pres
        refine pres_mk_of ?_ rfl rfl rfl rfl rfl
        assumption

theorem fenceHeldRows_pres {a : State} (x0 x1) (h0 : Pres a x0) : Pres a (fenceHeldRows x0 x1) := by
  unfold fenceHeldRows
  extract_lets +onlyGivenNames y5
  clear_value y5
  extract_lets +onlyGivenNames y6
  clear_value y6
  extract_lets +onlyGivenNames y7
  clear_value y7
  extract_lets +onlyGivenNames y8
  (refine pres_absorb (a := a) y8 ?_ (fun _ => ?_); rotate_left; clear_value y8; rotate_right)
  · dsimp only [y8]
    refine pres_mk_of ?_ rfl rfl rfl rfl rfl
    assumption
  · refine pres_foldl ?_ ?_
    · assumption
    · intro _
      intro _
      intro _
      apply reply_pres
      apply carryFenced_pres
      assumption

theorem dropUnits_pres {a : State} (x0 x1) (h0 : Pres a x0) : Pres a (dropUnits x0 x1) := by
  unfold dropUnits
  (refine updRng_pres _ _ _ ?_ (fun h => ?_); rotate_left; (first | exact h | exact Nat.zero_le _ | (simp_all; done) | (simp_all; omega)))
  refine pres_mk_of ?_ rfl rfl rfl rfl rfl
  assumption

theorem pavLoses_pres {a : State} (x0 x1) (h0 : Pres a x0) : Pres a (pavLoses x0 x1) := by
  unfold pavLoses
  dsimp only
  apply dropUnits_pres
  apply fenceSent_pres
  apply fenceHeldRows_pres
  refine pres_foldl ?_ ?_
  · refine pres_mk_of ?_ rfl rfl rfl rfl rfl
    apply faultUnit_pres
    refine pres_mk_of ?_ rfl rfl rfl rfl rfl
    refine pres_foldl ?_ ?_
    · apply faultTasks_pres
      assumption
    · intro _
      intro _
      intro _
      apply coreLoses_pres
      assumption
  · intro _
    intro _
    intro _
    apply taint_pres
    assumption

theorem pavReset_pres {a : State} (x0 x1 x2) (h0 : Pres a x0) : Pres a (pavReset x0 x1 x2) := by
  unfold pavReset
  refine pres_ite ?_ ?_
  · assumption
  · split
    · assumption
    · dsimp only
      apply occur_pres
      apply bump_pres
      apply pavLoses_pres
      refine pres_foldl ?_ ?_
      · apply wakeFor_pres
        refine presO_of_eq (by assumption) ?_
        apply beginReset_pres
        assumption
      · intro _
        intro _
        intro _
        apply coreWithPav_pres
        assumption

theorem groupReset_pres {a : State} (x0 x1 x2 x3) (h0 : Pres a x0) : Pres a (groupReset x0 x1 x2 x3) := by
  unfold groupReset
  refine pres_ite ?_ ?_
  · assumption
  · split
    · assumption
    · dsimp only
      apply occur_pres
      apply fenceSent_pres
      apply wakeFor_pres
      refine presO_of_eq (by assumption) ?_
      apply beginReset_pres
      assumption

theorem pageReset_pres {a : State} (x0 x1 x2) (h0 : Pres a x0) : Pres a (pageReset x0 x1 x2) := by
  unfold pageReset
  dsimp only
  refine pres_ite ?_ ?_
  · assumption
  · refine pres_ite ?_ ?_
    · apply pavReset_pres
      assumption
    · refine pres_ite ?_ ?_
      · apply linkReset_pres
        assumption
      · refine pres_ite ?_ ?_
        · refine pres_foldl ?_ ?_
          · assumption
          · intro _
            intro _
            intro _
            apply groupReset_pres
            assumption
        · refine pres_ite ?_ ?_
          · assumption
          · split
            · assumption
            · apply occur_pres
              refine pres_ite ?_ ?_
              · apply fenceSent_pres
                apply faultUnit_pres
                apply wakeFor_pres
                refine presO_of_eq (by assumption) ?_
                apply beginReset_pres
                assumption
              · apply faultUnit_pres
                apply wakeFor_pres
                refine presO_of_eq (by assumption) ?_
                apply beginReset_pres
                assumption

theorem execSoftReset_pres {a : State} (x0 x1 x2) (h2 : Pres a x2) : PresX a (execSoftReset x0 x1 x2) := by
  unfold execSoftReset
  refine presX_next ?_
  apply pageWrite_pres
  · assumption
  · intro _
    intro _
    apply pageReset_pres
    assumption

theorem permanentFault_pres {a : State} (x0 x1 x2) (h0 : Pres a x0) : Pres a (permanentFault x0 x1 x2) := by
  unfold permanentFault
  dsimp only
  refine pres_ite ?_ ?_
  · apply retireOne_pres
    apply injTaken_pres
    assumption
  · refine pres_ite ?_ ?_
    · apply retireOne_pres
      apply injTaken_pres
      assumption
    · refine pres_ite ?_ ?_
      · apply retireOne_pres
        apply injTaken_pres
        assumption
      · assumption

theorem coreReset_pres {a : State} (x0 x1 x2) (h0 : Pres a x0) : Pres a (coreReset x0 x1 x2) := by
  unfold coreReset
  dsimp only
  refine pres_ite ?_ ?_
  · assumption
  · split
    · assumption
    · apply occur_pres
      apply coreLoses_pres
      apply wakeFor_pres
      refine presO_of_eq (by assumption) ?_
      apply beginReset_pres
      assumption

theorem domReset_pres {a : State} (x0 x1 x2) (h0 : Pres a x0) : Pres a (domReset x0 x1 x2) := by
  unfold domReset
  split
  · apply coreReset_pres
    assumption
  · apply pavReset_pres
    assumption
  · apply linkReset_pres
    assumption
  · apply groupReset_pres
    assumption
  · refine pres_ite ?_ ?_
    · apply pavReset_pres
      assumption
    · apply pageReset_pres
      assumption
  · assumption

theorem fireInjection_pres {a : State} (x0 x1) (h0 : Pres a x0) : Pres a (fireInjection x0 x1) := by
  unfold fireInjection
  dsimp only
  refine pres_ite ?_ ?_
  · apply domReset_pres
    apply injTaken_pres
    assumption
  · assumption

theorem armInjection_pres {a : State} (x0 x1 x2) (h0 : Pres a x0) : Pres a (armInjection x0 x1 x2) := by
  unfold armInjection
  dsimp only
  refine pres_ite ?_ ?_
  · apply rejectWrite_pres
    assumption
  · refine pres_ite ?_ ?_
    · apply permanentFault_pres
      apply updPage_pres
      assumption
    · apply fireInjection_pres
      apply updPage_pres
      assumption

theorem execErrInject_pres {a : State} (x0 x1 x2 x3) (h3 : Pres a x3) : PresX a (execErrInject x0 x1 x2 x3) := by
  unfold execErrInject
  refine presX_next ?_
  apply pageWrite_pres
  · assumption
  · intro _
    intro _
    apply armInjection_pres
    assumption

theorem clearCounts_pres {a : State} (x0 x1 x2 x3) (h0 : Pres a x0) : Pres a (clearCounts x0 x1 x2 x3) := by
  unfold clearCounts
  refine pres_mk_of ?_ rfl rfl rfl rfl rfl
  assumption

theorem clearObject_pres {a : State} (x0 x1) (h0 : Pres a x0) : Pres a (clearObject x0 x1) := by
  unfold clearObject
  split
  refine pres_mk_of ?_ rfl rfl rfl rfl rfl
  assumption

theorem clearWrite_pres {a : State} (x0 x1 x2) (h0 : Pres a x0) : Pres a (clearWrite x0 x1 x2) := by
  unfold clearWrite
  dsimp only
  refine pres_ite ?_ ?_
  · refine pres_mk_of ?_ rfl rfl rfl rfl rfl
    refine pres_ite ?_ ?_
    · refine pres_mk_of ?_ rfl rfl rfl rfl rfl
      refine pres_ite ?_ ?_
      · apply clearObject_pres
        refine pres_ite ?_ ?_
        · split
          · apply clearCounts_pres
            refine pres_ite ?_ ?_
            · split
              · apply clearCounts_pres
                assumption
              · assumption
            · assumption
          · refine pres_ite ?_ ?_
            · split
              · apply clearCounts_pres
                assumption
              · assumption
            · assumption
        · refine pres_ite ?_ ?_
          · split
            · apply clearCounts_pres
              assumption
            · assumption
          · assumption
      · refine pres_ite ?_ ?_
        · split
          · apply clearCounts_pres
            refine pres_ite ?_ ?_
            · split
              · apply clearCounts_pres
                assumption
              · assumption
            · assumption
          · refine pres_ite ?_ ?_
            · split
              · apply clearCounts_pres
                assumption
              · assumption
            · assumption
        · refine pres_ite ?_ ?_
          · split
            · apply clearCounts_pres
              assumption
            · assumption
          · assumption
    · refine pres_ite ?_ ?_
      · apply clearObject_pres
        refine pres_ite ?_ ?_
        · split
          · apply clearCounts_pres
            refine pres_ite ?_ ?_
            · split
              · apply clearCounts_pres
                assumption
              · assumption
            · assumption
          · refine pres_ite ?_ ?_
            · split
              · apply clearCounts_pres
                assumption
              · assumption
            · assumption
        · refine pres_ite ?_ ?_
          · split
            · apply clearCounts_pres
              assumption
            · assumption
          · assumption
      · refine pres_ite ?_ ?_
        · split
          · apply clearCounts_pres
            refine pres_ite ?_ ?_
            · split
              · apply clearCounts_pres
                assumption
              · assumption
            · assumption
          · refine pres_ite ?_ ?_
            · split
              · apply clearCounts_pres
                assumption
              · assumption
            · assumption
        · refine pres_ite ?_ ?_
          · split
            · apply clearCounts_pres
              assumption
            · assumption
          · assumption
  · refine pres_ite ?_ ?_
    · refine pres_mk_of ?_ rfl rfl rfl rfl rfl
      refine pres_ite ?_ ?_
      · apply clearObject_pres
        refine pres_ite ?_ ?_
        · split
          · apply clearCounts_pres
            refine pres_ite ?_ ?_
            · split
              · apply clearCounts_pres
                assumption
              · assumption
            · assumption
          · refine pres_ite ?_ ?_
            · split
              · apply clearCounts_pres
                assumption
              · assumption
            · assumption
        · refine pres_ite ?_ ?_
          · split
            · apply clearCounts_pres
              assumption
            · assumption
          · assumption
      · refine pres_ite ?_ ?_
        · split
          · apply clearCounts_pres
            refine pres_ite ?_ ?_
            · split
              · apply clearCounts_pres
                assumption
              · assumption
            · assumption
          · refine pres_ite ?_ ?_
            · split
              · apply clearCounts_pres
                assumption
              · assumption
            · assumption
        · refine pres_ite ?_ ?_
          · split
            · apply clearCounts_pres
              assumption
            · assumption
          · assumption
    · refine pres_ite ?_ ?_
      · apply clearObject_pres
        refine pres_ite ?_ ?_
        · split
          · apply clearCounts_pres
            refine pres_ite ?_ ?_
            · split
              · apply clearCounts_pres
                assumption
              · assumption
            · assumption
          · refine pres_ite ?_ ?_
            · split
              · apply clearCounts_pres
                assumption
              · assumption
            · assumption
        · refine pres_ite ?_ ?_
          · split
            · apply clearCounts_pres
              assumption
            · assumption
          · assumption
      · refine pres_ite ?_ ?_
        · split
          · apply clearCounts_pres
            refine pres_ite ?_ ?_
            · split
              · apply clearCounts_pres
                assumption
              · assumption
            · assumption
          · refine pres_ite ?_ ?_
            · split
              · apply clearCounts_pres
                assumption
              · assumption
            · assumption
        · refine pres_ite ?_ ?_
          · split
            · apply clearCounts_pres
              assumption
            · assumption
          · assumption

theorem execCntClear_pres {a : State} (x0 x1 x2 x3) (h3 : Pres a x3) : PresX a (execCntClear x0 x1 x2 x3) := by
  unfold execCntClear
  refine presX_next ?_
  apply pageWrite_pres
  · assumption
  · intro _
    intro _
    apply clearWrite_pres
    assumption

theorem execErrLatchClear_pres {a : State} (x0 x1 x2) (h2 : Pres a x2) : PresX a (execErrLatchClear x0 x1 x2) := by
  unfold execErrLatchClear
  refine presX_next ?_
  apply pageWrite_pres
  · assumption
  · intro _
    intro _
    refine pres_ite ?_ ?_
    · refine pres_mk_of ?_ rfl rfl rfl rfl rfl
      assumption
    · assumption

theorem execFaultAck_pres {a : State} (x0 x1 x2 x3) (h3 : Pres a x3) : PresX a (execFaultAck x0 x1 x2 x3) := by
  unfold execFaultAck
  refine presX_next ?_
  apply pageWrite_pres
  · assumption
  · intro _
    intro _
    apply ackFault_pres
    assumption

theorem seedDraw_pres {a : State} (x0 x1) (h0 : Pres a x0) : PresP a (seedDraw x0 x1) := by
  unfold seedDraw
  split
  · refine presP_mk ?_
    (refine updRng_pres _ _ _ ?_ (fun h => ?_); rotate_left; (first | exact h | exact Nat.zero_le _ | (simp_all; done) | (simp_all; omega)))
    assumption
  · refine presP_mk ?_
    apply bump_pres
    (refine updRng_pres _ _ _ ?_ (fun h => ?_); rotate_left; (first | exact h | exact Nat.zero_le _ | (simp_all; done) | (simp_all; omega)))
    assumption

theorem elapseObject_pres {a : State} (x0 x1) (h0 : Pres a x0) : Pres a (elapseObject x0 x1) := by
  unfold elapseObject
  extract_lets +onlyGivenNames y5
  clear_value y5
  refine pres_ite ?_ ?_
  · assumption
  · split
    refine pres_mk_of ?_ rfl rfl rfl rfl rfl
    refine pres_of_pair (by assumption) ?_
    apply takeFree_pres
    assumption

theorem elapseCopy_pres {a : State} (x0 x1) (h0 : Pres a x0) : Pres a (elapseCopy x0 x1) := by
  unfold elapseCopy
  split
  · assumption
  · extract_lets +onlyGivenNames y10
    clear_value y10
    split
    extract_lets +onlyGivenNames y17
    clear_value y17
    apply bump_pres
    apply updChan_pres
    refine pres_of_pair (by assumption) ?_
    apply takeFree_pres
    assumption

theorem elapse_pres {a : State} (x0 x1 x2) (h0 : Pres a x0) : Pres a (elapse x0 x1 x2) := by
  unfold elapse
  refine pres_ite ?_ ?_
  · apply elapseObject_pres
    assumption
  · refine pres_ite ?_ ?_
    · apply elapseCopy_pres
      assumption
    · refine pres_ite ?_ ?_
      · split
        refine pres_ite ?_ ?_
        · apply addCnt_pres
          refine pres_of_pair (by assumption) ?_
          apply takeFree_pres
          assumption
        · apply bump_pres
          refine pres_of_pair (by assumption) ?_
          apply takeFree_pres
          assumption
      · assumption

theorem elapseFor_pres {a : State} (x0 x1 x2) (h0 : Pres a x0) : Pres a (elapseFor x0 x1 x2) := by
  unfold elapseFor
  split
  · refine pres_foldl ?_ ?_
    · assumption
    · intro _
      intro _
      intro _
      apply elapse_pres
      assumption
  · apply elapse_pres
    assumption

theorem selEnd_pres {a : State} (x0 x1) (h0 : Pres a x0) : Pres a (selEnd x0 x1) := by
  unfold selEnd
  refine pres_ite ?_ ?_
  · assumption
  · apply selTurn_pres
    assumption

theorem readReg_pres {a : State} (x0 x1 x2) (h0 : Pres a x0) : PresP a (readReg x0 x1 x2) := by
  unfold readReg
  extract_lets +onlyGivenNames y6
  clear_value y6
  refine presP_ite ?_ ?_
  · refine presP_mk ?_
    apply addCnt_pres
    assumption
  · extract_lets +onlyGivenNames y7
    clear_value y7
    split
    · refine presP_mk ?_
      refine pres_mk_of ?_ rfl rfl rfl rfl rfl
      assumption
    · extract_lets +onlyGivenNames y12
      (refine pres_absorb (a := a) y12 ?_ (fun _ => ?_); rotate_left; clear_value y12; rotate_right)
      · dsimp only [y12]
        apply elapseFor_pres
        assumption
      · split
        extract_lets +onlyGivenNames y20
        clear_value y20
        refine presP_ite ?_ ?_
        · refine presP_mk ?_
          refine pres_mk_of ?_ rfl rfl rfl rfl rfl
          refine pres_of_pair (by assumption) ?_
          refine presP_ite ?_ ?_
          · apply takeFree_pres
            assumption
          · refine presP_mk ?_
            assumption
        · refine presP_mk ?_
          refine pres_of_pair (by assumption) ?_
          refine presP_ite ?_ ?_
          · apply takeFree_pres
            assumption
          · refine presP_mk ?_
            assumption

theorem readOne_pres {a : State} (x0 x1 x2) (h0 : Pres a x0) : PresP a (readOne x0 x1 x2) := by
  unfold readOne
  refine presP_ite ?_ ?_
  · apply seedDraw_pres
    assumption
  · apply readReg_pres
    assumption

theorem readSized_pres {a : State} (x0 x1 x2 x3) (h0 : Pres a x0) : Pres a (readSized x0 x1 x2 x3) := by
  unfold readSized
  split
  refine pres_ite ?_ ?_
  · split
    apply emit_pres
    refine pres_of_pair (by assumption) ?_
    apply readOne_pres
    refine pres_of_pair (by assumption) ?_
    apply readOne_pres
    assumption
  · apply emit_pres
    refine pres_of_pair (by assumption) ?_
    apply readOne_pres
    assumption

theorem execRegisterLoRead_pres {a : State} (x0 x1 x2 x3 x4) (h4 : Pres a x4) : PresX a (execRegisterLoRead x0 x1 x2 x3 x4) := by
  unfold execRegisterLoRead
  refine presX_next ?_
  dsimp only
  refine pres_ite ?_ ?_
  · apply readSized_pres
    apply wokenBy_pres
    assumption
  · apply wokenBy_pres
    assumption

theorem execSeedDrawLo_pres {a : State} (x0 x1) (h1 : Pres a x1) : PresX a (execSeedDrawLo x0 x1) := by
  unfold execSeedDrawLo
  dsimp only
  refine presX_next ?_
  apply emit_pres
  refine presP_fst ?_
  apply seedDraw_pres
  assumption

theorem expertWrite_pres {a : State} (x0 x1 x2) (h0 : Pres a x0) (h2 : Pres a x2) : Pres a (expertWrite x0 x1 x2) := by
  unfold expertWrite
  refine pres_ite ?_ ?_
  · assumption
  · apply raiseErr_pres
    assumption

theorem nearRetireWrite_pres {a : State} (x0 x1 x2) (h0 : Pres a x0) : Pres a (nearRetireWrite x0 x1 x2) := by
  unfold nearRetireWrite
  refine pres_ite ?_ ?_
  · assumption
  · apply retireNear_pres
    assumption

theorem execNearRetireCmd_pres {a : State} (x0 x1 x2 x3) (h3 : Pres a x3) : PresX a (execNearRetireCmd x0 x1 x2 x3) := by
  unfold execNearRetireCmd
  refine presX_next ?_
  apply pageWrite_pres
  · assumption
  · intro _
    intro _
    apply expertWrite_pres
    · assumption
    · apply nearRetireWrite_pres
      assumption

theorem farRetireWrite_pres {a : State} (x0 x1 x2) (h0 : Pres a x0) : Pres a (farRetireWrite x0 x1 x2) := by
  unfold farRetireWrite
  dsimp only
  refine pres_ite ?_ ?_
  · apply rejectWrite_pres
    assumption
  · refine pres_ite ?_ ?_
    · assumption
    · refine pres_ite ?_ ?_
      · apply retireFar_pres
        assumption
      · refine pres_ite ?_ ?_
        · assumption
        · apply retireFar_pres
          assumption

theorem execFarRetireCmd_pres {a : State} (x0 x1 x2 x3) (h3 : Pres a x3) : PresX a (execFarRetireCmd x0 x1 x2 x3) := by
  unfold execFarRetireCmd
  refine presX_next ?_
  apply pageWrite_pres
  · assumption
  · intro _
    intro _
    apply expertWrite_pres
    · assumption
    · apply farRetireWrite_pres
      assumption

theorem enterHold_pres {a : State} (x0 x1) (h0 : Pres a x0) : Pres a (enterHold x0 x1) := by
  unfold enterHold
  refine pres_ite ?_ ?_
  · apply bump_pres
    apply updPower_pres
    assumption
  · assumption

theorem zeroRange_pres {a : State} (x0 x1 x2) (h0 : Pres a x0) : Pres a (zeroRange x0 x1 x2) := by
  unfold zeroRange
  dsimp only
  refine pres_mk_of ?_ rfl rfl rfl rfl rfl
  apply dropMem_pres
  assumption

theorem dropScratch_pres {a : State} (x0 x1) (h0 : Pres a x0) : Pres a (dropScratch x0 x1) := by
  unfold dropScratch
  dsimp only
  refine pres_mk_of ?_ rfl rfl rfl rfl rfl
  apply zeroRange_pres
  assumption

theorem enterNap_pres {a : State} (x0 x1) (h0 : Pres a x0) : Pres a (enterNap x0 x1) := by
  unfold enterNap
  refine pres_ite ?_ ?_
  · assumption
  · apply bump_pres
    apply updPower_pres
    apply dropUnits_pres
    apply dropScratch_pres
    assumption

theorem evalPav_pres {a : State} (x0 x1 x2) (h0 : Pres a x0) : PresP a (evalPav x0 x1 x2) := by
  unfold evalPav
  split
  · refine presP_mk ?_
    apply wakePav_pres
    assumption
  · refine presP_mk ?_
    apply enterHold_pres
    assumption
  · refine presP_ite ?_ ?_
    · refine presP_mk ?_
      apply enterNap_pres
      assumption
    · refine presP_mk ?_
      assumption

theorem linksDown_pres {a : State} (x0) (h0 : Pres a x0) : Pres a (linksDown x0) := by
  unfold linksDown
  refine pres_foldl ?_ ?_
  · assumption
  · intro _
    intro _
    intro _
    dsimp only
    refine pres_ite ?_ ?_
    · apply linkDrop_pres
      assumption
    · assumption

theorem dropCaches_pres {a : State} (x0 x1) (h0 : Pres a x0) : Pres a (dropCaches x0 x1) := by
  unfold dropCaches
  dsimp only
  refine pres_mk_of ?_ rfl rfl rfl rfl rfl
  refine pres_foldl ?_ ?_
  · assumption
  · intro _
    intro _
    intro _
    apply bump_pres
    assumption

theorem notReady_pres {a : State} (x0) (h0 : Pres a x0) : Pres a (notReady x0) := by
  unfold notReady
  apply updGate_pres
  assumption

theorem dropFar_pres {a : State} (x0 x1) (h0 : Pres a x0) : Pres a (dropFar x0 x1) := by
  unfold dropFar
  dsimp only
  refine pres_mk_of ?_ rfl rfl rfl rfl rfl
  refine pres_foldl ?_ ?_
  · assumption
  · intro _
    intro _
    intro _
    refine pres_ite ?_ ?_
    · assumption
    · apply lose_pres
      assumption

theorem cleanChans_pres {a : State} (x0) (h0 : Pres a x0) : Pres a (cleanChans x0) := by
  unfold cleanChans
  refine pres_mk_of ?_ rfl rfl rfl rfl rfl
  assumption

theorem dropNear_pres {a : State} (x0) (h0 : Pres a x0) : Pres a (dropNear x0) := by
  unfold dropNear
  extract_lets +onlyGivenNames y4
  (refine pres_absorb (a := a) y4 ?_ (fun _ => ?_); rotate_left; clear_value y4; rotate_right)
  · dsimp only [y4]
    apply zeroRange_pres
    assumption
  · apply cleanChans_pres
    refine pres_mk_of ?_ rfl rfl rfl rfl rfl
    assumption

theorem dropAll_pres {a : State} (x0) (h0 : Pres a x0) : Pres a (dropAll x0) := by
  unfold dropAll
  dsimp only
  refine pres_mk_of ?_ rfl rfl rfl rfl rfl
  refine pres_foldl ?_ ?_
  · assumption
  · intro _
    intro _
    intro _
    apply dropUnits_pres
    apply dropScratch_pres
    assumption

theorem enterModule_pres {a : State} (x0 x1) (h0 : Pres a x0) : Pres a (enterModule x0 x1) := by
  unfold enterModule
  dsimp only
  split
  · apply updPower_pres
    apply linksDown_pres
    assumption
  · apply dropCaches_pres
    refine pres_foldl ?_ ?_
    · apply updPower_pres
      apply linksDown_pres
      assumption
    · intro _
      intro _
      intro _
      apply dropUnits_pres
      apply dropScratch_pres
      assumption
  · apply notReady_pres
    apply dropFar_pres
    apply dropNear_pres
    apply dropAll_pres
    apply dropCaches_pres
    apply updPower_pres
    apply updPower_pres
    apply linksDown_pres
    assumption
  · refine pres_mk_of ?_ rfl rfl rfl rfl rfl
    apply updPower_pres
    apply notReady_pres
    apply dropFar_pres
    apply dropNear_pres
    apply dropAll_pres
    refine pres_mk_of ?_ rfl rfl rfl rfl rfl
    apply updPower_pres
    apply linksDown_pres
    assumption

theorem evalMod_pres {a : State} (x0 x1) (h0 : Pres a x0) : PresP a (evalMod x0 x1) := by
  unfold evalMod
  refine presP_ite ?_ ?_
  · refine presP_mk ?_
    refine pres_ite ?_ ?_
    · apply wakeHold_pres
      assumption
    · assumption
  · refine presP_ite ?_ ?_
    · refine presP_mk ?_
      assumption
    · refine presP_ite ?_ ?_
      · refine presP_mk ?_
        assumption
      · refine presP_mk ?_
        apply enterModule_pres
        assumption

theorem requestDone_pres {a : State} (x0 x1 x2) (h0 : Pres a x0) : Pres a (requestDone x0 x1 x2) := by
  unfold requestDone
  apply updPower_pres
  assumption

theorem serveRequests_pres {a : State} (x0 x1) (h0 : Pres a x0) : Pres a (serveRequests x0 x1) := by
  induction x1 generalizing x0 with
  | zero =>
    unfold serveRequests
    assumption
  | succ x ih =>
    unfold serveRequests
    dsimp only
    split
    · assumption
    · refine pres_ite ?_ ?_
      · assumption
      · apply ih
        apply requestDone_pres
        refine presP_fst ?_
        refine presP_ite ?_ ?_
        · apply evalPav_pres
          apply updPower_pres
          assumption
        · apply evalMod_pres
          apply updPower_pres
          assumption

theorem powerRequest_pres {a : State} (x0 x1 x2 x3) (h0 : Pres a x0) : Pres a (powerRequest x0 x1 x2 x3) := by
  unfold powerRequest
  dsimp only
  apply serveRequests_pres
  apply updPower_pres
  assumption

theorem powerWrite_pres {a : State} (x0 x1 x2 x3 x4) (h0 : Pres a x0) : Pres a (powerWrite x0 x1 x2 x3 x4) := by
  unfold powerWrite
  dsimp only
  refine pres_ite ?_ ?_
  · apply powerRequest_pres
    apply wokenBy_pres
    assumption
  · apply wokenBy_pres
    assumption

theorem execPavReqRun_pres {a : State} (x0 x1 x2) (h2 : Pres a x2) : PresX a (execPavReqRun x0 x1 x2) := by
  unfold execPavReqRun
  refine presX_next ?_
  apply powerWrite_pres
  assumption

theorem execPavReqHold_pres {a : State} (x0 x1 x2) (h2 : Pres a x2) : PresX a (execPavReqHold x0 x1 x2) := by
  unfold execPavReqHold
  refine presX_next ?_
  apply powerWrite_pres
  assumption

theorem execPavReqNap_pres {a : State} (x0 x1 x2) (h2 : Pres a x2) : PresX a (execPavReqNap x0 x1 x2) := by
  unfold execPavReqNap
  refine presX_next ?_
  apply powerWrite_pres
  assumption

theorem execModReqRun_pres {a : State} (x0 x1) (h1 : Pres a x1) : PresX a (execModReqRun x0 x1) := by
  unfold execModReqRun
  refine presX_next ?_
  apply powerWrite_pres
  assumption

theorem execModReqHold_pres {a : State} (x0 x1) (h1 : Pres a x1) : PresX a (execModReqHold x0 x1) := by
  unfold execModReqHold
  refine presX_next ?_
  apply powerWrite_pres
  assumption

theorem execModReqNap_pres {a : State} (x0 x1) (h1 : Pres a x1) : PresX a (execModReqNap x0 x1) := by
  unfold execModReqNap
  refine presX_next ?_
  apply powerWrite_pres
  assumption

theorem execModReqRest_pres {a : State} (x0 x1) (h1 : Pres a x1) : PresX a (execModReqRest x0 x1) := by
  unfold execModReqRest
  refine presX_next ?_
  apply powerWrite_pres
  assumption

theorem execModReqDormant_pres {a : State} (x0 x1) (h1 : Pres a x1) : PresX a (execModReqDormant x0 x1) := by
  unfold execModReqDormant
  refine presX_next ?_
  apply powerWrite_pres
  assumption

theorem enterTest_pres {a : State} (x0) (h0 : Pres a x0) : Pres a (enterTest x0) := by
  unfold enterTest
  refine pres_ite ?_ ?_
  · assumption
  · apply notReady_pres
    dsimp only
    refine pres_mk_of ?_ rfl rfl rfl rfl rfl
    apply updGate_pres
    assumption

theorem serveDue_pres {a : State} (x0) (h0 : Pres a x0) : Pres a (serveDue x0) := by
  unfold serveDue
  refine pres_foldl ?_ ?_
  · apply updGate_pres
    assumption
  · intro _
    intro _
    intro _
    apply retireRes_pres
    assumption

theorem struck_pres {a : State} (x0) (h0 : PresP a x0) : Pres a (struck x0) := by
  unfold struck
  refine presP_fst ?_
  assumption

theorem copyStrike_pres {a : State} (x0 x1 x2) (h0 : Pres a x0) : Pres a (copyStrike x0 x1 x2) := by
  unfold copyStrike
  extract_lets +onlyGivenNames y6
  clear_value y6
  refine pres_foldl ?_ ?_
  · assumption
  · intro _
    intro _
    intro _
    apply struck_pres
    apply strike_pres
    assumption

theorem latchCopy_pres {a : State} (x0 x1 x2) (h0 : Pres a x0) : Pres a (latchCopy x0 x1 x2) := by
  unfold latchCopy
  split
  · apply latchErr_pres
    assumption
  · assumption

theorem nearCopied_pres {a : State} (x0 x1) (h0 : Pres a x0) : Pres a (nearCopied x0 x1) := by
  unfold nearCopied
  extract_lets +onlyGivenNames y5
  clear_value y5
  extract_lets +onlyGivenNames y6
  (refine pres_absorb (a := a) y6 ?_ (fun _ => ?_); rotate_left; clear_value y6; rotate_right)
  · dsimp only [y6]
    apply copyStrike_pres
    assumption
  · extract_lets +onlyGivenNames y8
    clear_value y8
    extract_lets +onlyGivenNames y9
    clear_value y9
    extract_lets +onlyGivenNames y10
    clear_value y10
    extract_lets +onlyGivenNames y11
    (refine pres_absorb (a := a) y11 ?_ (fun _ => ?_); rotate_left; clear_value y11; rotate_right)
    · dsimp only [y11]
      apply updChan_pres
      apply markNear_pres
      assumption
    · extract_lets +onlyGivenNames y13
      (refine pres_absorb (a := a) y13 ?_ (fun _ => ?_); rotate_left; clear_value y13; rotate_right)
      · dsimp only [y13]
        apply bump_pres
        assumption
      · apply addRecord_pres
        apply latchCopy_pres
        assumption

end Sys2Proof.Machine
end

