-- ==== Sys2Proof/Laws/Kept7.lean ====
section
/-!
SUPPORT. What the functions of the machine keep, frameCopied to execChannelGroupReset: one lemma a function, each over the lemmas of those it calls.
-/
namespace Sys2Proof.Machine
open Sys2Proof

theorem frameCopied_pres {a : State} (x0 x1 x2) (h0 : Pres a x0) : Pres a (frameCopied x0 x1 x2) := by
  unfold frameCopied
  extract_lets +onlyGivenNames y6
  clear_value y6
  extract_lets +onlyGivenNames y7
  (refine pres_absorb (a := a) y7 ?_ (fun _ => ?_); rotate_left; clear_value y7; rotate_right)
  · dsimp only [y7]
    apply copyStrike_pres
    assumption
  · extract_lets +onlyGivenNames y9
    (refine pres_absorb (a := a) y9 ?_ (fun _ => ?_); rotate_left; clear_value y9; rotate_right)
    · dsimp only [y9]
      apply latchCopy_pres
      assumption
    · extract_lets +onlyGivenNames y11
      clear_value y11
      extract_lets +onlyGivenNames y12
      (refine pres_absorb (a := a) y12 ?_ (fun _ => ?_); rotate_left; clear_value y12; rotate_right)
      · dsimp only [y12]
        apply updChan_pres
        assumption
      · extract_lets +onlyGivenNames y14
        (refine pres_absorb (a := a) y14 ?_ (fun _ => ?_); rotate_left; clear_value y14; rotate_right)
        · dsimp only [y14]
          apply degrade_pres
          apply bump_pres
          assumption
        · extract_lets +onlyGivenNames y16
          (refine pres_absorb (a := a) y16 ?_ (fun _ => ?_); rotate_left; clear_value y16; rotate_right)
          · dsimp only [y16]
            apply addRecord_pres
            assumption
          · refine pres_ite ?_ ?_
            · apply retireFar_pres
              assumption
            · assumption

theorem remapWhole_pres {a : State} (x0 x1) (h0 : Pres a x0) : Pres a (remapWhole x0 x1) := by
  unfold remapWhole
  apply updChan_pres
  assumption

theorem wholeCopied_pres {a : State} (x0 x1) (h0 : Pres a x0) : Pres a (wholeCopied x0 x1) := by
  unfold wholeCopied
  extract_lets +onlyGivenNames y5
  clear_value y5
  extract_lets +onlyGivenNames y6
  clear_value y6
  extract_lets +onlyGivenNames y7
  clear_value y7
  extract_lets +onlyGivenNames y8
  (refine pres_absorb (a := a) y8 ?_ (fun _ => ?_); rotate_left; clear_value y8; rotate_right)
  · dsimp only [y8]
    refine pres_foldl ?_ ?_
    · assumption
    · intro _
      intro _
      intro _
      apply copyStrike_pres
      assumption
  · extract_lets +onlyGivenNames y10
    (refine pres_absorb (a := a) y10 ?_ (fun _ => ?_); rotate_left; clear_value y10; rotate_right)
    · dsimp only [y10]
      apply latchCopy_pres
      assumption
    · extract_lets +onlyGivenNames y12
      (refine pres_absorb (a := a) y12 ?_ (fun _ => ?_); rotate_left; clear_value y12; rotate_right)
      · dsimp only [y12]
        apply degrade_pres
        apply bump_pres
        apply remapWhole_pres
        assumption
      · apply addRecord_pres
        assumption

theorem farCopied_pres {a : State} (x0 x1) (h0 : Pres a x0) : Pres a (farCopied x0 x1) := by
  unfold farCopied
  split
  · assumption
  · apply frameCopied_pres
    assumption
  · apply wholeCopied_pres
    assumption

theorem finishCopies_pres {a : State} (x0 x1) (h0 : Pres a x0) : Pres a (finishCopies x0 x1) := by
  induction x1 generalizing x0 with
  | zero =>
    unfold finishCopies
    assumption
  | succ x ih =>
    unfold finishCopies
    split
    · apply ih
      apply serveDue_pres
      refine pres_ite ?_ ?_
      · apply nearCopied_pres
        assumption
      · apply farCopied_pres
        assumption
    · assumption

theorem emptyMem_pres {a : State} (x0) (h0 : Pres a x0) : Pres a (emptyMem x0) :=
  ⟨fun _ => rfl, h0.host, h0.pool, h0.pending, h0.part⟩

theorem writeLayout_pres {a : State} (x0 x1) (h0 : Pres a x0) : Pres a (writeLayout x0 x1) := by
  unfold writeLayout
  refine pres_ite ?_ ?_
  · assumption
  · extract_lets +onlyGivenNames y5
    (refine pres_absorb (a := a) y5 ?_ (fun _ => ?_); rotate_left; clear_value y5; rotate_right)
    · dsimp only [y5]
      apply setBoth_pres
      assumption
    · apply updGate_pres
      assumption

theorem fwPair_pres {a : State} (x0 x1 x2 x3) (h0 : Pres a x0) : Pres a (fwPair x0 x1 x2 x3) := by
  unfold fwPair
  apply setBoth_pres
  apply setBoth_pres
  assumption

theorem firmwareValues_pres {a : State} (x0) (h0 : Pres a x0) : Pres a (firmwareValues x0) := by
  unfold firmwareValues
  dsimp only
  apply fwPair_pres
  apply fwPair_pres
  apply setBoth_pres
  apply fwPair_pres
  apply fwPair_pres
  refine pres_foldl ?_ ?_
  · assumption
  · intro _
    intro _
    intro _
    apply fwPair_pres
    apply fwPair_pres
    apply fwPair_pres
    apply fwPair_pres
    assumption

theorem modReadyUp_pres {a : State} (x0) (h0 : Pres a x0) : Pres a (modReadyUp x0) := by
  unfold modReadyUp
  apply raiseEvt_pres
  apply updGate_pres
  assumption

theorem startUpEnd_pres {a : State} (x0 x1) (h0 : Pres a x0) : Pres a (startUpEnd x0 x1) := by
  unfold startUpEnd
  dsimp only
  refine pres_ite ?_ ?_
  · apply modReadyUp_pres
    refine pres_foldl ?_ ?_
    · apply updPower_pres
      refine presP_fst ?_
      apply takeFree_pres
      apply writeLayout_pres
      apply firmwareValues_pres
      refine pres_foldl ?_ ?_
      · apply cleanChans_pres
        apply finishCopies_pres
        refine pres_foldl ?_ ?_
        · apply emptyMem_pres
          assumption
        · intro _
          intro _
          intro _
          apply retireRes_pres
          assumption
      · intro _
        intro _
        intro _
        (refine updRng_pres _ _ _ ?_ (fun h => ?_); rotate_left; (first | exact h | exact Nat.zero_le _ | (simp_all; done) | (simp_all; omega)))
        assumption
    · intro _
      intro _
      intro _
      apply applyNext_pres
      apply refresh_pres
      assumption
  · refine pres_foldl ?_ ?_
    · apply updPower_pres
      refine presP_fst ?_
      apply takeFree_pres
      apply writeLayout_pres
      apply firmwareValues_pres
      refine pres_foldl ?_ ?_
      · apply cleanChans_pres
        apply finishCopies_pres
        refine pres_foldl ?_ ?_
        · apply emptyMem_pres
          assumption
        · intro _
          intro _
          intro _
          apply retireRes_pres
          assumption
      · intro _
        intro _
        intro _
        (refine updRng_pres _ _ _ ?_ (fun h => ?_); rotate_left; (first | exact h | exact Nat.zero_le _ | (simp_all; done) | (simp_all; omega)))
        assumption
    · intro _
      intro _
      intro _
      apply applyNext_pres
      apply refresh_pres
      assumption

theorem applyEntry_pres {a : State} (x0 x1) (h0 : Pres a x0) : Pres a (applyEntry x0 x1) := by
  unfold applyEntry
  extract_lets +onlyGivenNames y5
  clear_value y5
  extract_lets +onlyGivenNames y6
  clear_value y6
  dsimp only
  split
  · apply updDom_pres
    refine pres_ite ?_ ?_
    · apply degrade_pres
      assumption
    · assumption
  · split
    · refine pres_ite ?_ ?_
      · refine pres_mk_of ?_ rfl rfl rfl rfl rfl
        apply updChan_pres
        apply markNear_pres
        refine pres_ite ?_ ?_
        · apply degrade_pres
          assumption
        · assumption
      · apply updChan_pres
        apply markNear_pres
        refine pres_ite ?_ ?_
        · apply degrade_pres
          assumption
        · assumption
    · refine pres_ite ?_ ?_
      · apply degrade_pres
        assumption
      · assumption
  · apply remapWhole_pres
    apply takeWhole_pres
    refine pres_ite ?_ ?_
    · apply degrade_pres
      assumption
    · assumption
  · refine pres_ite ?_ ?_
    · refine pres_mk_of ?_ rfl rfl rfl rfl rfl
      apply updChan_pres
      refine pres_ite ?_ ?_
      · apply degrade_pres
        assumption
      · assumption
    · apply updGate_pres
      apply updChan_pres
      refine pres_ite ?_ ?_
      · apply degrade_pres
        assumption
      · assumption
  · apply updPage_pres
    apply updDom_pres
    apply updLink_pres
    refine pres_ite ?_ ?_
    · apply degrade_pres
      assumption
    · assumption
  · apply updLink_pres
    refine pres_ite ?_ ?_
    · apply degrade_pres
      assumption
    · assumption
  · refine pres_ite ?_ ?_
    · apply updPage_pres
      apply updDom_pres
      refine pres_ite ?_ ?_
      · apply degrade_pres
        assumption
      · assumption
    · apply updDom_pres
      refine pres_ite ?_ ?_
      · apply degrade_pres
        assumption
      · assumption
  · apply updPage_pres
    apply updDom_pres
    refine pres_ite ?_ ?_
    · apply degrade_pres
      assumption
    · assumption
  · apply updPage_pres
    apply updDom_pres
    refine pres_ite ?_ ?_
    · apply degrade_pres
      assumption
    · assumption
  · apply updPage_pres
    apply updDom_pres
    refine pres_ite ?_ ?_
    · apply degrade_pres
      assumption
    · assumption
  · (refine updRng_pres _ _ _ ?_ (fun h => ?_); rotate_left; (first | exact h | exact Nat.zero_le _ | (simp_all; done) | (simp_all; omega)))
    apply updPage_pres
    refine pres_ite ?_ ?_
    · apply degrade_pres
      assumption
    · assumption
  · refine pres_ite ?_ ?_
    · apply updPage_pres
      refine pres_ite ?_ ?_
      · apply degrade_pres
        assumption
      · assumption
    · refine pres_ite ?_ ?_
      · apply updPage_pres
        refine pres_ite ?_ ?_
        · apply degrade_pres
          assumption
        · assumption
      · apply updPage_pres
        apply updDom_pres
        refine pres_ite ?_ ?_
        · apply degrade_pres
          assumption
        · assumption
  · apply updGate_pres
    refine pres_ite ?_ ?_
    · apply degrade_pres
      assumption
    · assumption
  · refine pres_ite ?_ ?_
    · apply degrade_pres
      assumption
    · assumption

theorem startUp_pres {a : State} (x0 x1) (h0 : Pres a x0) : Pres a (startUp x0 x1) := by
  unfold startUp
  dsimp only
  split
  · apply updPower_pres
    apply updPower_pres
    assumption
  · refine pres_ite ?_ ?_
    · refine pres_mk_of ?_ rfl rfl rfl rfl rfl
      apply updPower_pres
      apply updPower_pres
      assumption
    · apply startUpEnd_pres
      refine pres_foldl ?_ ?_
      · refine pres_mk_of ?_ rfl rfl rfl rfl rfl
        apply updPower_pres
        apply updPower_pres
        assumption
      · intro _
        intro _
        intro _
        apply applyEntry_pres
        assumption

theorem baseState_pres {a : State} (x0) (h0 : Pres a x0) : Pres a (baseState x0) :=
  ⟨fun _ => rfl, h0.host, fun _ _ h => absurd h List.not_mem_nil, h0.pending, h0.part⟩

theorem leaveTest_pres {a : State} (x0 x1) (h0 : Pres a x0) : Pres a (leaveTest x0 x1) := by
  unfold leaveTest
  refine pres_ite ?_ ?_
  · apply startUp_pres
    apply baseState_pres
    assumption
  · assumption

theorem writeTest_pres {a : State} (x0 x1 x2) (h0 : Pres a x0) : Pres a (writeTest x0 x1 x2) := by
  unfold writeTest
  dsimp only
  split
  · refine pres_ite ?_ ?_
    · apply updGate_pres
      assumption
    · apply updGate_pres
      apply addCnt_pres
      assumption
  · refine pres_ite ?_ ?_
    · assumption
    · refine pres_ite ?_ ?_
      · apply enterTest_pres
        assumption
      · apply updGate_pres
        apply addCnt_pres
        assumption
  · apply leaveTest_pres
    assumption
  · apply rejectWrite_pres
    assumption

theorem execTestModeEnter_pres {a : State} (x0 x1) (h1 : Pres a x1) : PresX a (execTestModeEnter x0 x1) := by
  unfold execTestModeEnter
  refine presX_next ?_
  apply pageWrite_pres
  · assumption
  · intro _
    intro _
    apply writeTest_pres
    apply writeTest_pres
    assumption

theorem execTestModeExit_pres {a : State} (x0 x1 x2) (h2 : Pres a x2) : PresX a (execTestModeExit x0 x1 x2) := by
  unfold execTestModeExit
  refine presX_next ?_
  apply pageWrite_pres
  · assumption
  · intro _
    intro _
    apply leaveTest_pres
    assumption

theorem clearNoise_pres {a : State} (x0 x1) (h0 : Pres a x0) : Pres a (clearNoise x0 x1) := by
  unfold clearNoise
  dsimp only
  refine pres_ite ?_ ?_
  · assumption
  · (refine updRng_pres _ _ _ ?_ (fun h => ?_); rotate_left; (first | exact h | exact Nat.zero_le _ | (simp_all; done) | (simp_all; omega)))
    apply updPage_pres
    apply updGate_pres
    assumption

theorem execNoiseClear_pres {a : State} (x0 x1) (h1 : Pres a x1) : PresX a (execNoiseClear x0 x1) := by
  unfold execNoiseClear
  refine presX_next ?_
  apply clearNoise_pres
  assumption

theorem windowBytes_pres {a : State} (x0 x1 x2 x3) (h0 : Pres a x0) : PresP a (windowBytes x0 x1 x2 x3) := by
  induction x3 generalizing x0 x1 x2 with
  | zero =>
    unfold windowBytes
    refine presP_mk ?_
    assumption
  | succ x ih =>
    unfold windowBytes
    dsimp only
    refine presP_mk ?_
    refine presP_fst ?_
    apply ih
    refine presP_fst ?_
    refine presP_ite ?_ ?_
    · apply takeFree_pres
      assumption
    · refine presP_mk ?_
      assumption

theorem clearWindow_pres {a : State} (x0 x1) (h0 : Pres a x0) : Pres a (clearWindow x0 x1) := by
  unfold clearWindow
  dsimp only
  refine pres_ite ?_ ?_
  · apply clearObject_pres
    apply clearCounts_pres
    assumption
  · apply clearCounts_pres
    assumption

theorem snapRecords_pres {a : State} (x0 x1 x2) (h0 : Pres a x0) : PresP a (snapRecords x0 x1 x2) := by
  induction x2 generalizing x0 x1 with
  | nil =>
    unfold snapRecords
    refine presP_mk ?_
    assumption
  | cons x xs ih =>
    unfold snapRecords
    dsimp only
    refine presP_mk ?_
    refine presP_fst ?_
    apply ih
    refine pres_ite ?_ ?_
    · apply clearWindow_pres
      refine presP_fst ?_
      apply windowBytes_pres
      refine pres_foldl ?_ ?_
      · assumption
      · intro _
        intro _
        intro _
        apply elapseFor_pres
        assumption
    · refine presP_fst ?_
      apply windowBytes_pres
      refine pres_foldl ?_ ?_
      · assumption
      · intro _
        intro _
        intro _
        apply elapseFor_pres
        assumption

theorem snapshot_pres {a : State} (x0 x1) (h0 : Pres a x0) : Pres a (snapshot x0 x1) := by
  unfold snapshot
  dsimp only
  refine pres_ite ?_ ?_
  · assumption
  · apply addCnt_pres
    refine pres_mk_of ?_ rfl rfl rfl rfl rfl
    apply clearPoison_pres
    apply countMem_pres
    apply wrBytes_pres
    refine presP_fst ?_
    apply snapRecords_pres
    refine presP_fst ?_
    apply takeFree_pres
    assumption

theorem execBlvSnapshot_pres {a : State} (x0 x1 x2) (h2 : Pres a x2) : PresX a (execBlvSnapshot x0 x1 x2) := by
  unfold execBlvSnapshot
  refine presX_next ?_
  apply pageWrite_pres
  · assumption
  · intro _
    intro _
    apply snapshot_pres
    assumption

theorem execSnapPeriodTick_pres {a : State} (x0) (h0 : Pres a x0) : PresX a (execSnapPeriodTick x0) := by
  unfold execSnapPeriodTick
  refine presX_next ?_
  refine pres_ite ?_ ?_
  · apply snapshot_pres
    assumption
  · assumption

theorem writeCtrl_pres {a : State} (x0 x1 x2 x3) (h0 : Pres a x0) : Pres a (writeCtrl x0 x1 x2 x3) := by
  unfold writeCtrl
  refine pres_ite ?_ ?_
  · apply rejectWrite_pres
    assumption
  · dsimp only
    refine pres_ite ?_ ?_
    · refine pres_ite ?_ ?_
      · apply fenceRequest_pres
        refine pres_ite ?_ ?_
        · apply unlock_pres
          apply setEnable_pres
          assumption
        · apply lock_pres
          apply setEnable_pres
          assumption
      · refine pres_ite ?_ ?_
        · apply unlock_pres
          apply setEnable_pres
          assumption
        · apply lock_pres
          apply setEnable_pres
          assumption
    · refine pres_ite ?_ ?_
      · apply pageReset_pres
        refine pres_ite ?_ ?_
        · apply unlock_pres
          apply setEnable_pres
          assumption
        · apply lock_pres
          apply setEnable_pres
          assumption
      · refine pres_ite ?_ ?_
        · apply unlock_pres
          apply setEnable_pres
          assumption
        · apply lock_pres
          apply setEnable_pres
          assumption

theorem writeHeader_pres {a : State} (x0 x1 x2 x3 x4) (h0 : Pres a x0) : Pres a (writeHeader x0 x1 x2 x3 x4) := by
  unfold writeHeader
  split
  · apply writeCtrl_pres
    assumption
  · apply raisePage_pres
    assumption
  · apply raisePage_pres
    assumption
  · apply raisePage_pres
    assumption
  · apply raisePage_pres
    assumption
  · apply armInjection_pres
    assumption
  · refine pres_ite ?_ ?_
    · apply requestCommit_pres
      assumption
    · assumption
  · assumption

theorem writeCommand_pres {a : State} (x0 x1 x2 x3 x4) (h0 : Pres a x0) : Pres a (writeCommand x0 x1 x2 x3 x4) := by
  unfold writeCommand
  dsimp only
  split
  · apply ackFault_pres
    assumption
  · apply nearRetireWrite_pres
    assumption
  · apply farRetireWrite_pres
    assumption
  · apply writeTest_pres
    assumption
  · refine pres_ite ?_ ?_
    · apply clearNoise_pres
      assumption
    · assumption
  · refine pres_ite ?_ ?_
    · apply rejectWrite_pres
      assumption
    · apply powerRequest_pres
      assumption
  · refine pres_ite ?_ ?_
    · apply rejectWrite_pres
      assumption
    · apply powerRequest_pres
      assumption
  · apply writeFwCtl_pres
    assumption
  · apply writeXlateInv_pres
    assumption
  · refine pres_ite ?_ ?_
    · apply snapshot_pres
      assumption
    · assumption
  · apply clearWrite_pres
    assumption

theorem writeReg_pres {a : State} (x0 x1 x2 x3 x4) (h0 : Pres a x0) : Pres a (writeReg x0 x1 x2 x3 x4) := by
  unfold writeReg
  refine pres_ite ?_ ?_
  · apply writeHeader_pres
    assumption
  · split
    · assumption
    · dsimp only
      refine pres_ite ?_ ?_
      · apply expertWrite_pres
        · assumption
        · split
          · apply writeCommand_pres
            assumption
          · refine pres_ite ?_ ?_
            · apply rejectWrite_pres
              assumption
            · apply setSh_pres
              assumption
          · refine pres_ite ?_ ?_
            · apply rejectWrite_pres
              assumption
            · apply setSh_pres
              assumption
          · assumption
      · split
        · apply writeCommand_pres
          assumption
        · refine pres_ite ?_ ?_
          · apply rejectWrite_pres
            assumption
          · apply setSh_pres
            assumption
        · refine pres_ite ?_ ?_
          · apply rejectWrite_pres
            assumption
          · apply setSh_pres
            assumption
        · assumption

theorem writeSized_pres {a : State} (x0 x1 x2 x3 x4 x5) (h0 : Pres a x0) : Pres a (writeSized x0 x1 x2 x3 x4 x5) := by
  unfold writeSized
  refine pres_ite ?_ ?_
  · apply writeReg_pres
    assumption
  · refine pres_ite ?_ ?_
    · apply writeReg_pres
      apply writeReg_pres
      assumption
    · apply rejectWrite_pres
      assumption

theorem execRegisterWrite_pres {a : State} (x0 x1 x2 x3 x4 x5) (h5 : Pres a x5) : PresX a (execRegisterWrite x0 x1 x2 x3 x4 x5) := by
  unfold execRegisterWrite
  refine presX_next ?_
  apply pageWrite_pres
  · assumption
  · intro _
    intro _
    apply writeSized_pres
    assumption

theorem execTagBusyRetry_pres {a : State} (x0 x1) (h1 : Pres a x1) : PresX a (execTagBusyRetry x0 x1) := by
  unfold execTagBusyRetry
  refine presX_next ?_
  split
  · refine pres_ite ?_ ?_
    · apply sendOwn_pres
      assumption
    · assumption
  · assumption

theorem putStrm_pres {a : State} (x0 x1)  : PresM a (putStrm x0 x1) := by
  unfold putStrm
  refine presM_modify ?_
  intro _
  intro _
  refine pres_mk_of ?_ rfl rfl rfl rfl rfl
  assumption

theorem issueReq_pres {a : State} (x0 x1 x2)  : PresM a (issueReq x0 x1 x2) := by
  unfold issueReq
  refine presM_get_bind ?_
  intro _
  intro _
  extract_lets +onlyGivenNames y7
  clear_value y7
  split
  refine presM_ite ?_ ?_
  · refine presM_bind ?_ ?_
    · refine presM_set ?_
      refine pres_of_pair (by assumption) ?_
      apply addReq_pres
      assumption
    · intro _
      exact presM_pure _
  · split
    · refine presM_bind ?_ ?_
      · refine presM_set ?_
        refine pres_of_pair (by assumption) ?_
        apply sendMsg_pres
        refine pres_of_pair (by assumption) ?_
        apply addReq_pres
        assumption
      · intro _
        exact presM_pure _
    · refine presM_bind ?_ ?_
      · refine presM_set ?_
        apply dropReq_pres
        refine pres_of_pair (by assumption) ?_
        apply sendMsg_pres
        refine pres_of_pair (by assumption) ?_
        apply addReq_pres
        assumption
      · intro _
        exact presM_throw _

theorem issueAll_pres {a : State} (x0 x1 x2)  : PresM a (issueAll x0 x1 x2) := by
  induction x1 generalizing x0 x2 with
  | zero =>
    unfold issueAll
    exact presM_pure _
  | succ x ih =>
    unfold issueAll
    refine presM_ite ?_ ?_
    · exact presM_pure _
    · refine presM_bind ?_ ?_
      · apply issueReq_pres
      · intro _
        apply ih

theorem issueNext_pres {a : State} (x0 x1) : PresM a (issueNext x0 x1) := by
  unfold issueNext
  refine presM_get_bind ?_
  intro _
  intro _
  split
  · refine presM_bind ?_ ?_
    · apply putStrm_pres
    · intro _
      apply issueAll_pres
  · split
    · refine presM_ite ?_ ?_
      · refine presM_bind ?_ ?_
        · apply issueReq_pres
        · intro _
          apply putStrm_pres
      · exact presM_pure _
    · exact presM_pure _

theorem strmBad_pres {a : State} (x0 x1 x2) (h0 : Pres a x0) : Pres a (strmBad x0 x1 x2) := by
  unfold strmBad
  apply strmSettle_pres
  apply updStrm_pres
  assumption

theorem strmIssue_pres {a : State} (x0 x1) (h0 : Pres a x0) : Pres a (strmIssue x0 x1) := by
  unfold strmIssue
  split
  · refine pres_ite ?_ ?_
    · assumption
    · split
      · refine presM_ok (by assumption) ?_ ?_
        · apply issueNext_pres
        · assumption
      · apply strmBad_pres
        refine presM_error (by assumption) ?_ ?_
        · apply issueNext_pres
        · assumption
  · assumption

theorem strmStart_pres {a : State} (x0 x1 x2) (h0 : Pres a x0) : Pres a (strmStart x0 x1 x2) := by
  unfold strmStart
  dsimp only
  split
  · refine pres_ite ?_ ?_
    · assumption
    · apply updOp_pres
      apply updStrm_pres
      assumption
  · assumption

theorem strmServe_pres {a : State} (x0 x1 x2) (h0 : Pres a x0) (h2 : ∀ y z, PresM a (x2 y z)) : Pres a (strmServe x0 x1 x2) := by
  unfold strmServe
  split
  · split
    · apply strmSettle_pres
      apply updOp_pres
      apply addWaits_pres
      · assumption
      · refine presM_ok (by assumption) ?_ ?_
        · apply_assumption
        · assumption
    · refine pres_ite ?_ ?_
      · assumption
      · refine pres_ite ?_ ?_
        · apply updStrm_pres
          apply awaitOp_pres
          assumption
        · refine pres_ite ?_ ?_
          · apply updStrm_pres
            apply fencedOp_pres
            · assumption
            · refine presM_error (by assumption) ?_ ?_
              · apply_assumption
              · assumption
          · apply strmBad_pres
            refine presM_error (by assumption) ?_ ?_
            · apply_assumption
            · assumption
  · assumption

theorem pumpFill_pres {a : State} (x0 x1)  : PresM a (pumpFill x0 x1) := by
  unfold pumpFill
  refine presM_get_bind ?_
  intro _
  intro _
  refine presM_ite ?_ ?_
  · apply putStrm_pres
  · dsimp only
    refine presM_ite ?_ ?_
    · refine presM_bind ?_ ?_
      · apply issueReq_pres
      · intro _
        apply putStrm_pres
    · exact presM_pure _

theorem encCount_pres {a : State} (x0 x1 x2 x3 x4 x5) : PresM a (encCount x0 x1 x2 x3 x4 x5) := by
  unfold encCount
  refine presM_bind ?_ ?_
  · apply count_pres
  · intro _
    refine presM_bind ?_ ?_
    · apply count_pres
    · intro _
      refine presM_bind ?_ ?_
      · apply count_pres
      · intro _
        apply count_pres

theorem encUsed_pres {a : State} (x0 x1 x2) : PresM a (encUsed x0 x1 x2) := by
  unfold encUsed
  refine presM_get_bind ?_
  intro _
  intro _
  refine presM_bind ?_ ?_
  · apply holdIf_pres
  · intro _
    refine presM_bind ?_ ?_
    · apply writeNat_pres
    · intro _
      refine presM_bind ?_ ?_
      · apply encCount_pres
      · intro _
        apply putStrm_pres

theorem encDesc_pres {a : State} (x0 x1 x2 x3)  : PresM a (encDesc x0 x1 x2 x3) := by
  unfold encDesc
  refine presM_bind ?_ ?_
  · apply faultIf_pres
  · intro _
    refine presM_bind ?_ ?_
    · apply readNat_pres
    · intro _
      dsimp only
      refine presM_ite ?_ ?_
      · refine presM_bind ?_ ?_
        · apply failWith_pres
        · intro _
          exact presM_pure _
      · exact presM_pure _

theorem rowOf_pres {a : State} (x0 x1 x2)  : PresM a (rowOf x0 x1 x2) := by
  unfold rowOf
  apply rowPart_pres

theorem bmRows_pres {a : State} (x0 x1 x2 x3 x4 x5 x6)  : PresM a (bmRows x0 x1 x2 x3 x4 x5 x6) := by
  induction x4 generalizing x0 x1 x2 x3 x5 x6 with
  | zero =>
    unfold bmRows
    exact presM_pure _
  | succ x ih =>
    unfold bmRows
    refine presM_bind ?_ ?_
    · apply rowOf_pres
    · intro _
      split
      split
      refine presM_bind ?_ ?_
      · apply encCount_pres
      · intro _
        refine presM_bind ?_ ?_
        · apply failIf_pres
        · intro _
          refine presM_bind ?_ ?_
          · apply writeT_pres
          · intro _
            refine presM_bind ?_ ?_
            · apply writeNat_pres
            · intro _
              refine presM_bind ?_ ?_
              · apply report_pres
              · intro _
                refine presM_bind ?_ ?_
                · apply encCount_pres
                · intro _
                  apply ih

theorem putRow_pres {a : State} (x0 x1 x2 x3 x4 x5)  : PresM a (putRow x0 x1 x2 x3 x4 x5) := by
  unfold putRow
  split
  refine presM_bind ?_ ?_
  · apply writeT_pres
  · intro _
    apply report_pres

theorem encServe_pres {a : State} (x0 x1)  : PresM a (encServe x0 x1) := by
  unfold encServe
  extract_lets +onlyGivenNames y4
  clear_value y4
  extract_lets +onlyGivenNames y5
  clear_value y5
  refine presM_bind ?_ ?_
  · apply encDesc_pres
  · intro _
    refine presM_bind ?_ ?_
    · apply encDesc_pres
    · intro _
      refine presM_bind ?_ ?_
      · apply failIf_pres
      · intro _
        extract_lets +onlyGivenNames y9
        clear_value y9
        refine presM_ite ?_ ?_
        · refine presM_bind ?_ ?_
          · apply bmRows_pres
          · intro _
            apply putStrm_pres
        · refine presM_bind ?_ ?_
          · apply each_pres
            intro _
            refine presM_bind ?_ ?_
            · apply rowOf_pres
            · intro _
              refine presM_bind ?_ ?_
              · apply putRow_pres
              · intro _
                apply encCount_pres
          · intro _
            apply putStrm_pres

theorem pumpEnc_pres {a : State} (x0 x1) : PresM a (pumpEnc x0 x1) := by
  unfold pumpEnc
  split
  · apply encUsed_pres
  · apply encServe_pres

theorem reach_pres {a : State} (x0 x1 x2 x3 x4)  : PresM a (reach x0 x1 x2 x3 x4) := by
  induction x3 generalizing x0 x1 x2 x4 with
  | zero =>
    unfold reach
    exact presM_pure _
  | succ x ih =>
    unfold reach
    refine presM_ite ?_ ?_
    · exact presM_pure _
    · dsimp only
      refine presM_ite ?_ ?_
      · refine presM_bind ?_ ?_
        · apply failWith_pres
        · intro _
          refine presM_bind ?_ ?_
          · apply faultIf_pres
          · intro _
            refine presM_bind ?_ ?_
            · apply readNat_pres
            · intro _
              split
              · exact presM_throw _
              · refine presM_get_bind ?_
                intro _
                intro _
                refine presM_ite ?_ ?_
                · apply ih
                · refine presM_ite ?_ ?_
                  · refine presM_bind ?_ ?_
                    · apply access_pres
                    · intro _
                      apply ih
                  · apply ih
      · refine presM_bind ?_ ?_
        · apply faultIf_pres
        · intro _
          refine presM_bind ?_ ?_
          · apply readNat_pres
          · intro _
            split
            · exact presM_throw _
            · refine presM_get_bind ?_
              intro _
              intro _
              refine presM_ite ?_ ?_
              · apply ih
              · refine presM_ite ?_ ?_
                · refine presM_bind ?_ ?_
                  · apply access_pres
                  · intro _
                    apply ih
                · apply ih

theorem readGate_pres {a : State} (x0 x1)  : PresM a (readGate x0 x1) := by
  unfold readGate
  refine presM_ite ?_ ?_
  · exact presM_pure _
  · refine presM_ite ?_ ?_
    · exact presM_pure _
    · refine presM_bind ?_ ?_
      · apply readNat_pres
      · intro _
        exact presM_pure _

theorem nextPiece_pres {a : State} (x0 x1)  : PresM a (nextPiece x0 x1) := by
  unfold nextPiece
  refine presM_bind ?_ ?_
  · apply reach_pres
  · intro _
    refine presM_bind ?_ ?_
    · apply reach_pres
    · intro _
      dsimp only
      refine presM_ite ?_ ?_
      · refine presM_bind ?_ ?_
        · apply readGate_pres
        · intro _
          refine presM_get_bind ?_
          intro _
          intro _
          refine presM_ite ?_ ?_
          · exact presM_pure _
          · exact presM_pure _
      · refine presM_ite ?_ ?_
        · exact presM_pure _
        · refine presM_ite ?_ ?_
          · apply failWith_pres
          · refine presM_ite ?_ ?_
            · refine presM_bind ?_ ?_
              · apply access_pres
              · intro _
                refine presM_ite ?_ ?_
                · refine presM_bind ?_ ?_
                  · apply access_pres
                  · intro _
                    refine presM_get_bind ?_
                    intro _
                    intro _
                    refine presM_bind ?_ ?_
                    · apply countIf_pres
                    · intro _
                      refine presM_bind ?_ ?_
                      · apply count_pres
                      · intro _
                        exact presM_pure _
                · refine presM_get_bind ?_
                  intro _
                  intro _
                  refine presM_bind ?_ ?_
                  · apply countIf_pres
                  · intro _
                    refine presM_bind ?_ ?_
                    · apply count_pres
                    · intro _
                      exact presM_pure _
            · refine presM_ite ?_ ?_
              · refine presM_bind ?_ ?_
                · apply access_pres
                · intro _
                  refine presM_get_bind ?_
                  intro _
                  intro _
                  refine presM_bind ?_ ?_
                  · apply countIf_pres
                  · intro _
                    refine presM_bind ?_ ?_
                    · apply count_pres
                    · intro _
                      exact presM_pure _
              · refine presM_get_bind ?_
                intro _
                intro _
                refine presM_bind ?_ ?_
                · apply countIf_pres
                · intro _
                  refine presM_bind ?_ ?_
                  · apply count_pres
                  · intro _
                    exact presM_pure _

theorem pumpList_pres {a : State} (x0 x1 x2)  : PresM a (pumpList x0 x1 x2) := by
  induction x1 generalizing x0 x2 with
  | zero =>
    unfold pumpList
    apply putStrm_pres
  | succ x ih =>
    unfold pumpList
    refine presM_get_bind ?_
    intro _
    intro _
    refine presM_ite ?_ ?_
    · apply putStrm_pres
    · refine presM_bind ?_ ?_
      · apply nextPiece_pres
      · intro _
        split
        refine presM_ite ?_ ?_
        · apply ih
        · apply putStrm_pres

theorem streamStep_pres {a : State} (x0 x1 x2)  : PresM a (streamStep x0 x1 x2) := by
  unfold streamStep
  refine presM_ite ?_ ?_
  · apply pumpFill_pres
  · refine presM_ite ?_ ?_
    · apply pumpEnc_pres
    · apply pumpList_pres

theorem execStmPieceIssue_pres {a : State} (x0 x1) (h1 : Pres a x1) : PresX a (execStmPieceIssue x0 x1) := by
  unfold execStmPieceIssue
  refine presX_next ?_
  split
  · extract_lets +onlyGivenNames y10
    (refine pres_absorb (a := a) y10 ?_ (fun _ => ?_); rotate_left; clear_value y10; rotate_right)
    · dsimp only [y10]
      apply strmIssue_pres
      apply strmStart_pres
      assumption
    · refine pres_ite ?_ ?_
      · apply strmServe_pres
        · assumption
        · intro _
          intro _
          apply streamStep_pres
      · assumption
  · assumption

theorem gateStep_pres {a : State} (x0 x1)  : PresM a (gateStep x0 x1) := by
  unfold gateStep
  refine presM_bind ?_ ?_
  · apply readGate_pres
  · intro _
    apply putStrm_pres

theorem execGatePoll_pres {a : State} (x0 x1) (h1 : Pres a x1) : PresX a (execGatePoll x0 x1) := by
  unfold execGatePoll
  refine presX_next ?_
  refine pres_ite ?_ ?_
  · apply strmServe_pres
    · assumption
    · intro _
      intro _
      apply gateStep_pres
  · assumption

theorem padTarget_pres {a : State} (x0 x1)  : PresM a (padTarget x0 x1) := by
  unfold padTarget
  refine presM_ite ?_ ?_
  · exact presM_pure _
  · dsimp only
    refine presM_bind ?_ ?_
    · apply collect_pres
      intro _
      apply rowBits_pres
    · intro _
      refine presM_bind ?_ ?_
      · refine presM_ite ?_ ?_
        · exact presM_pure _
        · apply readNat_pres
      · intro _
        exact presM_pure _

theorem padClimb_pres {a : State} (x0 x1 x2 x3 x4 x5 x6) : PresM a (padClimb x0 x1 x2 x3 x4 x5 x6) := by
  induction x1 generalizing x0 x2 x3 x4 x5 x6 with
  | zero =>
    unfold padClimb
    exact presM_pure _
  | succ x ih =>
    unfold padClimb
    refine presM_ite ?_ ?_
    · exact presM_pure _
    · refine presM_ite ?_ ?_
      · apply ih
      · extract_lets +onlyGivenNames y12
        clear_value y12
        split
        · exact presM_pure _
        · split
          refine presM_bind ?_ ?_
          · apply count_pres
          · intro _
            refine presM_bind ?_ ?_
            · apply writeT_pres
            · intro _
              apply ih

theorem padInto_pres {a : State} (x0 x1 x2)  : PresM a (padInto x0 x1 x2) := by
  unfold padInto
  split
  · exact presM_pure _
  · split
    refine presM_bind ?_ ?_
    · apply count_pres
    · intro _
      exact presM_pure _

theorem putPart_pres {a : State} (x0 x1 x2 x3 x4 x5)  : PresM a (putPart x0 x1 x2 x3 x4 x5) := by
  unfold putPart
  split
  dsimp only
  refine presM_ite ?_ ?_
  · refine presM_bind ?_ ?_
    · apply writeT_pres
    · intro _
      refine presM_ite ?_ ?_
      · refine presM_bind ?_ ?_
        · apply access_pres
        · intro _
          refine presM_bind ?_ ?_
          · apply readRaw_pres
          · intro _
            refine presM_bind ?_ ?_
            · apply writeT_pres
            · intro _
              apply report_pres
      · refine presM_bind ?_ ?_
        · apply writeT_pres
        · intro _
          apply report_pres
  · refine presM_ite ?_ ?_
    · refine presM_bind ?_ ?_
      · apply access_pres
      · intro _
        refine presM_bind ?_ ?_
        · apply readRaw_pres
        · intro _
          refine presM_bind ?_ ?_
          · apply writeT_pres
          · intro _
            apply report_pres
    · refine presM_bind ?_ ?_
      · apply writeT_pres
      · intro _
        apply report_pres

theorem vecOut_pres {a : State} (x0 x1 x2 x3 x4)  : PresM a (vecOut x0 x1 x2 x3 x4) := by
  unfold vecOut
  refine presM_bind ?_ ?_
  · apply putPart_pres
  · intro _
    apply count_pres

theorem padEnd_pres {a : State} (x0 x1)  : PresM a (padEnd x0 x1) := by
  unfold padEnd
  dsimp only
  refine presM_bind ?_ ?_
  · apply each_pres
    intro _
    apply vecOut_pres
  · intro _
    refine presM_ite ?_ ?_
    · refine presM_bind ?_ ?_
      · apply writeNat_pres
      · intro _
        refine presM_bind ?_ ?_
        · refine presM_modify ?_
          intro _
          intro _
          apply scrambleAll_pres
          assumption
        · intro _
          refine presM_bind ?_ ?_
          · apply putVwork_pres
          · intro _
            refine presM_modify ?_
            intro _
            intro _
            apply updOp_pres
            assumption
    · refine presM_bind ?_ ?_
      · refine presM_modify ?_
        intro _
        intro _
        apply scrambleAll_pres
        assumption
      · intro _
        refine presM_bind ?_ ?_
        · apply putVwork_pres
        · intro _
          refine presM_modify ?_
          intro _
          intro _
          apply updOp_pres
          assumption

theorem padArrive_pres {a : State} (x0 x1 x2 x3) : PresM a (padArrive x0 x1 x2 x3) := by
  unfold padArrive
  extract_lets +onlyGivenNames y6
  clear_value y6
  refine presM_bind ?_ ?_
  · apply padTarget_pres
  · intro _
    refine presM_bind ?_ ?_
    · apply faultIf_pres
    · intro _
      refine presM_bind ?_ ?_
      · apply readT_pres
      · intro _
        extract_lets +onlyGivenNames y10
        clear_value y10
        extract_lets +onlyGivenNames y11
        clear_value y11
        dsimp only
        refine presM_ite ?_ ?_
        · refine presM_bind ?_ ?_
          · apply padClimb_pres
          · intro _
            split
            · refine presM_bind ?_ ?_
              · apply padInto_pres
              · intro _
                apply padEnd_pres
            · apply putVwork_pres
        · refine presM_bind ?_ ?_
          · apply padInto_pres
          · intro _
            refine presM_ite ?_ ?_
            · apply padEnd_pres
            · apply putVwork_pres

theorem padStep_pres {a : State} (x0 x1 x2 x3 x4 x5 x6) : PresM a (padStep x0 x1 x2 x3 x4 x5 x6) := by
  unfold padStep
  refine presM_bind ?_ ?_
  · refine presM_modify ?_
    intro _
    intro _
    apply dropReq_pres
    apply updOp_pres
    assumption
  · intro _
    apply padArrive_pres

theorem execPartialArrival_pres {a : State} (x0 x1 x2) (h2 : Pres a x2) : PresX a (execPartialArrival x0 x1 x2) := by
  unfold execPartialArrival
  refine presX_next ?_
  split
  · apply vecPump_pres
    apply serveOp_pres
    · assumption
    · intro _
      intro _
      apply padStep_pres
  · assumption

theorem vecRow_pres {a : State} (x0 x1 x2 x3)  : PresM a (vecRow x0 x1 x2 x3) := by
  unfold vecRow
  refine presM_bind ?_ ?_
  · apply rowPart_pres
  · intro _
    exact presM_pure _

theorem mapStep_pres {a : State} (x0 x1)  : PresM a (mapStep x0 x1) := by
  unfold mapStep
  extract_lets +onlyGivenNames y4
  clear_value y4
  refine presM_bind ?_ ?_
  · apply vecRow_pres
  · intro _
    refine presM_bind ?_ ?_
    · refine presM_ite ?_ ?_
      · apply vecRow_pres
      · exact presM_pure _
    · intro _
      refine presM_bind ?_ ?_
      · refine presM_ite ?_ ?_
        · apply readNat_pres
        · exact presM_pure _
      · intro _
        apply vecOut_pres

theorem softmaxStep_pres {a : State} (x0 x1)  : PresM a (softmaxStep x0 x1) := by
  unfold softmaxStep
  extract_lets +onlyGivenNames y4
  clear_value y4
  extract_lets +onlyGivenNames y5
  clear_value y5
  refine presM_bind ?_ ?_
  · apply vecRow_pres
  · intro _
    extract_lets +onlyGivenNames y7
    clear_value y7
    refine presM_bind ?_ ?_
    · refine presM_ite ?_ ?_
      · exact presM_pure _
      · apply readNat_pres
    · intro _
      refine presM_bind ?_ ?_
      · refine presM_ite ?_ ?_
        · exact presM_pure _
        · apply readNat_pres
      · intro _
        extract_lets +onlyGivenNames y10
        clear_value y10
        extract_lets +onlyGivenNames y11
        clear_value y11
        extract_lets +onlyGivenNames y12
        clear_value y12
        extract_lets +onlyGivenNames y13
        clear_value y13
        extract_lets +onlyGivenNames y14
        clear_value y14
        extract_lets +onlyGivenNames y15
        clear_value y15
        refine presM_bind ?_ ?_
        · apply writeNat_pres
        · intro _
          refine presM_bind ?_ ?_
          · apply writeNat_pres
          · intro _
            refine presM_bind ?_ ?_
            · apply countIf_pres
            · intro _
              refine presM_ite ?_ ?_
              · refine presM_bind ?_ ?_
                · apply vecOut_pres
                · intro _
                  apply vecOut_pres
              · apply vecOut_pres

theorem fp32Vec_pres {a : State} (x0 x1 x2)  : PresM a (fp32Vec x0 x1 x2) := by
  unfold fp32Vec
  refine presM_bind ?_ ?_
  · apply readT_pres
  · intro _
    exact presM_pure _

theorem normStep_pres {a : State} (x0 x1)  : PresM a (normStep x0 x1) := by
  unfold normStep
  dsimp only
  refine presM_bind ?_ ?_
  · apply vecRow_pres
  · intro _
    refine presM_ite ?_ ?_
    · apply vecOut_pres
    · refine presM_ite ?_ ?_
      · apply vecOut_pres
      · refine presM_bind ?_ ?_
        · refine presM_ite ?_ ?_
          · exact presM_pure _
          · apply fp32Vec_pres
        · intro _
          refine presM_bind ?_ ?_
          · refine presM_ite ?_ ?_
            · exact presM_pure _
            · apply fp32Vec_pres
          · intro _
            apply vecOut_pres

theorem vcastStep_pres {a : State} (x0 x1)  : PresM a (vcastStep x0 x1) := by
  unfold vcastStep
  refine presM_bind ?_ ?_
  · apply vecRow_pres
  · intro _
    dsimp only
    refine presM_bind ?_ ?_
    · apply putPart_pres
    · intro _
      refine presM_bind ?_ ?_
      · apply count_pres
      · intro _
        apply countIf_pres

theorem reduceStep_pres {a : State} (x0 x1)  : PresM a (reduceStep x0 x1) := by
  unfold reduceStep
  extract_lets +onlyGivenNames y4
  clear_value y4
  extract_lets +onlyGivenNames y5
  clear_value y5
  refine presM_ite ?_ ?_
  · refine presM_bind ?_ ?_
    · apply collect_pres
      intro _
      refine presM_bind ?_ ?_
      · apply rowPart_pres
      · intro _
        exact presM_pure _
    · intro _
      extract_lets +onlyGivenNames y7
      clear_value y7
      extract_lets +onlyGivenNames y8
      clear_value y8
      refine presM_bind ?_ ?_
      · apply writeNat_pres
      · intro _
        extract_lets +onlyGivenNames y10
        clear_value y10
        extract_lets +onlyGivenNames y11
        clear_value y11
        extract_lets +onlyGivenNames y12
        clear_value y12
        dsimp only
        refine presM_ite ?_ ?_
        · refine presM_bind ?_ ?_
          · refine presM_modify ?_
            intro _
            intro _
            refine pres_mk_of ?_ rfl rfl rfl rfl rfl
            assumption
          · intro _
            refine presM_bind ?_ ?_
            · apply count_pres
            · intro _
              exact presM_pure _
        · refine presM_bind ?_ ?_
          · apply count_pres
          · intro _
            exact presM_pure _
  · refine presM_bind ?_ ?_
    · apply vecRow_pres
    · intro _
      refine presM_bind ?_ ?_
      · apply vecOut_pres
      · intro _
        exact presM_pure _

theorem vecStep_pres {a : State} (x0 x1 x2 x3)  : PresM a (vecStep x0 x1 x2 x3) := by
  unfold vecStep
  split
  · exact presM_pure _
  · refine presM_bind ?_ ?_
    · refine presM_modify ?_
      intro _
      intro _
      apply updOp_pres
      assumption
    · intro _
      refine presM_bind ?_ ?_
      · split
        · refine presM_bind ?_ ?_
          · apply mapStep_pres
          · intro _
            exact presM_pure _
        · refine presM_bind ?_ ?_
          · apply softmaxStep_pres
          · intro _
            exact presM_pure _
        · refine presM_bind ?_ ?_
          · apply normStep_pres
          · intro _
            exact presM_pure _
        · refine presM_bind ?_ ?_
          · apply vcastStep_pres
          · intro _
            exact presM_pure _
        · apply reduceStep_pres
      · intro _
        refine presM_ite ?_ ?_
        · refine presM_bind ?_ ?_
          · apply putVwork_pres
          · intro _
            refine presM_modify ?_
            intro _
            intro _
            apply updOp_pres
            assumption
        · apply putVwork_pres

theorem execVecOperation_pres {a : State} (x0 x1) (h1 : Pres a x1) : PresX a (execVecOperation x0 x1) := by
  unfold execVecOperation
  refine presX_next ?_
  refine pres_ite ?_ ?_
  · assumption
  · split
    · assumption
    · apply vecPump_pres
      apply serveOp_pres
      · assumption
      · intro _
        intro _
        apply vecStep_pres

theorem execGroupSummary_pres {a : State} (x0 x1) (h1 : Pres a x1) : PresX a (execGroupSummary x0 x1) := by
  unfold execGroupSummary
  refine presX_next ?_
  split
  · refine pres_ite ?_ ?_
    · apply absorb_pres
      refine pres_mk_of ?_ rfl rfl rfl rfl rfl
      assumption
    · assumption
  · assumption

theorem execSmpGangJoin_pres {a : State} (x0 x1 x2 x3) (h3 : Pres a x3) : PresX a (execSmpGangJoin x0 x1 x2 x3) := by
  unfold execSmpGangJoin
  refine presX_next ?_
  split
  · refine pres_ite ?_ ?_
    · apply updOp_pres
      assumption
    · assumption
  · assumption

theorem applyEnd_pres {a : State} (x0 x1 x2 x3) (h3 : PresP a x3) : Pres a (applyEnd x0 x1 x2 x3) := by
  unfold applyEnd
  apply updHome_pres
  refine presP_fst ?_
  assumption

theorem applyMoves_pres {a : State} (x0 x1 x2 x3) (h3 : PresP a x3) : Pres a (applyMoves x0 x1 x2 x3) := by
  unfold applyMoves
  extract_lets +onlyGivenNames y7
  clear_value y7
  refine pres_ite ?_ ?_
  · extract_lets +onlyGivenNames y8
    (refine pres_absorb (a := a) y8 ?_ (fun _ => ?_); rotate_left; clear_value y8; rotate_right)
    · dsimp only [y8]
      apply updHome_pres
      refine presP_fst ?_
      assumption
    · split
      apply applyEnd_pres
      apply applyList_pres
      · intro _
        intro _
        intro _
        apply moveBlock_pres
        assumption
      · assumption
  · apply applyEnd_pres
    refine presP_mk ?_
    refine presP_fst ?_
    assumption

theorem movesOn_pres {a : State} (x0 x1) (h0 : Pres a x0) : Pres a (movesOn x0 x1) := by
  unfold movesOn
  split
  · refine pres_ite ?_ ?_
    · apply applyMoves_pres
      refine presP_mk ?_
      assumption
    · assumption
  · assumption

theorem execHomeApplied_pres {a : State} (x0 x1) (h1 : Pres a x1) : PresX a (execHomeApplied x0 x1) := by
  unfold execHomeApplied
  extract_lets +onlyGivenNames y5
  (refine pres_absorb (a := a) y5 ?_ (fun _ => ?_); rotate_left; clear_value y5; rotate_right)
  · dsimp only [y5]
    apply movesOn_pres
    assumption
  · refine presX_next ?_
    split
    · refine pres_ite ?_ ?_
      · apply releaseRows_pres
        apply updHome_pres
        assumption
      · assumption
    · assumption

theorem staleSlots_pres {a : State} (x0) (h0 : Pres a x0) : Pres a (staleSlots x0) := by
  unfold staleSlots
  dsimp only
  refine pres_mk_of ?_ rfl rfl rfl rfl rfl
  assumption

theorem stepApplied_pres {a : State} (x0 x1) (h0 : Pres a x0) : Pres a (stepApplied x0 x1) := by
  unfold stepApplied
  dsimp only
  refine pres_foldl ?_ ?_
  · apply staleSlots_pres
    apply clearStep_pres
    apply stepBits_pres
    refine pres_mk_of ?_ rfl rfl rfl rfl rfl
    assumption
  · intro _
    intro _
    intro _
    apply rowPump_pres
    assumption

theorem reportApplied_pres {a : State} (x0 x1) (h0 : Pres a x0) : Pres a (reportApplied x0 x1) := by
  unfold reportApplied
  apply stepEnded_pres
  refine presP_fst ?_
  apply mgrSend_pres
  apply stepApplied_pres
  assumption

theorem execModuleStepApplied_pres {a : State} (x0) (h0 : Pres a x0) : PresX a (execModuleStepApplied x0) := by
  unfold execModuleStepApplied
  refine presX_next ?_
  split
  · apply reportApplied_pres
    assumption
  · assumption

theorem applyRegions_pres {a : State} (x0 x1 x2 x3) (h3 : PresP a x3) : Pres a (applyRegions x0 x1 x2 x3) := by
  unfold applyRegions
  extract_lets +onlyGivenNames y7
  clear_value y7
  refine pres_ite ?_ ?_
  · apply applyMoves_pres
    apply applyList_pres
    · intro _
      intro _
      intro _
      apply applyRegion_pres
      assumption
    · refine presP_fst ?_
      assumption
  · apply applyMoves_pres
    refine presP_mk ?_
    refine presP_fst ?_
    assumption

theorem applyGo_pres {a : State} (x0 x1 x2 x3) (h0 : Pres a x0) : Pres a (applyGo x0 x1 x2 x3) := by
  unfold applyGo
  apply applyRegions_pres
  apply applyList_pres
  · intro _
    intro _
    intro _
    apply applyRow_pres
    assumption
  · assumption

theorem execApplyStart_pres {a : State} (x0 x1) (h1 : Pres a x1) : PresX a (execApplyStart x0 x1) := by
  unfold execApplyStart
  refine presX_next ?_
  split
  · dsimp only
    refine pres_ite ?_ ?_
    · apply applyGo_pres
      assumption
    · assumption
  · assumption

theorem redoRow_pres {a : State} (x0 x1) (h0 : Pres a x0) : Pres a (redoRow x0 x1) := by
  unfold redoRow
  split
  · refine pres_ite ?_ ?_
    · apply writeRedo_pres
      assumption
    · assumption
  · assumption

theorem execApplyResume_pres {a : State} (x0 x1) (h1 : Pres a x1) : PresX a (execApplyResume x0 x1) := by
  unfold execApplyResume
  refine presX_next ?_
  split
  · refine pres_ite ?_ ?_
    · apply applyGo_pres
      apply redoRow_pres
      apply bumpUnit_pres
      assumption
    · assumption
  · assumption

theorem execStagedUpdateRelease_pres {a : State} (x0 x1) (h1 : Pres a x1) : PresX a (execStagedUpdateRelease x0 x1) := by
  unfold execStagedUpdateRelease
  refine presX_next ?_
  split
  · refine pres_ite ?_ ?_
    · dsimp only
      refine pres_ite ?_ ?_
      · apply updReq_pres
        assumption
      · refine presP_fst ?_
        apply updateOut_pres
        apply updReq_pres
        assumption
    · assumption
  · assumption

theorem loadGrant_pres {a : State} (x0 x1)  : PresM a (loadGrant x0 x1) := by
  unfold loadGrant
  dsimp only
  refine presM_ite ?_ ?_
  · refine presM_bind ?_ ?_
    · refine presM_modify ?_
      intro _
      intro _
      apply updHslot_pres
      assumption
    · intro _
      refine presM_get_bind ?_
      intro _
      intro _
      refine presM_bind ?_ ?_
      · apply collect_pres
        intro _
        refine presM_bind ?_ ?_
        · apply rowPart_pres
        · intro _
          exact presM_pure _
      · intro _
        refine presM_bind ?_ ?_
        · apply writeLocal_pres
        · intro _
          refine presM_ite ?_ ?_
          · refine presM_bind ?_ ?_
            · refine presM_modify ?_
              intro _
              intro _
              apply updHslot_pres
              assumption
            · intro _
              refine presM_bind ?_ ?_
              · apply putHwork_pres
              · intro _
                refine presM_modify ?_
                intro _
                intro _
                apply updOp_pres
                assumption
          · apply putHwork_pres
  · refine presM_get_bind ?_
    intro _
    intro _
    refine presM_bind ?_ ?_
    · apply collect_pres
      intro _
      refine presM_bind ?_ ?_
      · apply rowPart_pres
      · intro _
        exact presM_pure _
    · intro _
      refine presM_bind ?_ ?_
      · apply writeLocal_pres
      · intro _
        refine presM_ite ?_ ?_
        · refine presM_bind ?_ ?_
          · refine presM_modify ?_
            intro _
            intro _
            apply updHslot_pres
            assumption
          · intro _
            refine presM_bind ?_ ?_
            · apply putHwork_pres
            · intro _
              refine presM_modify ?_
              intro _
              intro _
              apply updOp_pres
              assumption
        · apply putHwork_pres

theorem hloadGrant_pres {a : State} (x0 x1)  : PresM a (hloadGrant x0 x1) := by
  unfold hloadGrant
  refine presM_get_bind ?_
  intro _
  intro _
  dsimp only
  refine presM_ite ?_ ?_
  · refine presM_bind ?_ ?_
    · apply count_pres
    · intro _
      refine presM_ite ?_ ?_
      · refine presM_bind ?_ ?_
        · refine presM_modify ?_
          intro _
          intro _
          apply updHslot_pres
          assumption
        · intro _
          apply putHwork_pres
      · apply putHwork_pres
  · refine presM_bind ?_ ?_
    · apply count_pres
    · intro _
      apply loadGrant_pres

theorem biasOf_pres {a : State} (x0 x1 x2)  : PresM a (biasOf x0 x1 x2) := by
  unfold biasOf
  refine presM_ite ?_ ?_
  · exact presM_pure _
  · apply readNat_pres

theorem bf16Row_pres {a : State} (x0 x1 x2)  : PresM a (bf16Row x0 x1 x2) := by
  unfold bf16Row
  refine presM_bind ?_ ?_
  · apply readT_pres
  · intro _
    exact presM_pure _

theorem inactive_pres {a : State} (x0 x1 x2 x3)  : PresM a (inactive x0 x1 x2 x3) := by
  unfold inactive
  refine presM_get_bind ?_
  intro _
  intro _
  dsimp only
  refine presM_bind ?_ ?_
  · apply collect_pres
    intro _
    apply biasOf_pres
  · intro _
    refine presM_ite ?_ ?_
    · refine presM_bind ?_ ?_
      · apply readLocal_pres
      · intro _
        exact presM_pure _
    · refine presM_bind ?_ ?_
      · apply collect_pres
        intro _
        apply bf16Row_pres
      · intro _
        refine presM_bind ?_ ?_
        · apply collect_pres
          intro _
          apply bf16Row_pres
        · intro _
          exact presM_pure _

theorem decideGroup_pres {a : State} (x0 x1 x2)  : PresM a (decideGroup x0 x1 x2) := by
  unfold decideGroup
  refine presM_get_bind ?_
  intro _
  intro _
  dsimp only
  refine presM_ite ?_ ?_
  · exact presM_pure _
  · refine presM_bind ?_ ?_
    · apply collect_pres
      intro _
      apply rowPart_pres
    · intro _
      refine presM_bind ?_ ?_
      · apply inactive_pres
      · intro _
        exact presM_pure _

theorem auditEnd_pres {a : State} (x0)  : PresM a (auditEnd x0) := by
  unfold auditEnd
  refine presM_get_bind ?_
  intro _
  intro _
  dsimp only
  refine presM_ite ?_ ?_
  · refine presM_bind ?_ ?_
    · apply count_pres
    · intro _
      refine presM_modify ?_
      intro _
      intro _
      apply raiseEvt_pres
      apply updHslot_pres
      assumption
  · exact presM_pure _

theorem auditGroup_pres {a : State} (x0 x1 x2)  : PresM a (auditGroup x0 x1 x2) := by
  unfold auditGroup
  refine presM_get_bind ?_
  intro _
  intro _
  dsimp only
  refine presM_bind ?_ ?_
  · apply readNat_pres
  · intro _
    refine presM_bind ?_ ?_
    · apply readT_pres
    · intro _
      refine presM_bind ?_ ?_
      · apply collect_pres
        intro _
        refine presM_bind ?_ ?_
        · apply collect_pres
          intro _
          refine presM_bind ?_ ?_
          · apply rowPart_pres
          · intro _
            exact presM_pure _
        · intro _
          exact presM_pure _
      · intro _
        refine presM_bind ?_ ?_
        · apply count_pres
        · intro _
          refine presM_bind ?_ ?_
          · apply count_pres
          · intro _
            refine presM_modify ?_
            intro _
            intro _
            apply updHslot_pres
            assumption

theorem prefetch_pres {a : State} (x0 x1 x2 x3) (h3 : Pres a x3) : Pres a (prefetch x0 x1 x2 x3) := by
  unfold prefetch
  extract_lets +onlyGivenNames y7
  clear_value y7
  extract_lets +onlyGivenNames y8
  clear_value y8
  refine pres_ite ?_ ?_
  · assumption
  · refine pres_foldl ?_ ?_
    · assumption
    · intro _
      intro _
      intro _
      extract_lets +onlyGivenNames y12
      clear_value y12
      extract_lets +onlyGivenNames y13
      clear_value y13
      refine pres_foldl ?_ ?_
      · assumption
      · intro _
        intro _
        intro _
        refine pres_ite ?_ ?_
        · apply countMem_pres
          assumption
        · assumption

theorem skipRow_pres {a : State} (x0 x1 x2 x3)  : PresM a (skipRow x0 x1 x2 x3) := by
  unfold skipRow
  dsimp only
  refine presM_bind ?_ ?_
  · apply each_pres
    intro _
    apply writeNat_pres
  · intro _
    apply report_pres

theorem writeGroup_pres {a : State} (x0 x1 x2 x3 x4 x5)  : PresM a (writeGroup x0 x1 x2 x3 x4 x5) := by
  unfold writeGroup
  refine presM_get_bind ?_
  intro _
  intro _
  extract_lets +onlyGivenNames y10
  clear_value y10
  extract_lets +onlyGivenNames y11
  clear_value y11
  extract_lets +onlyGivenNames y12
  clear_value y12
  extract_lets +onlyGivenNames y13
  clear_value y13
  refine presM_bind ?_ ?_
  · apply writeT_pres
  · intro _
    refine presM_bind ?_ ?_
    · apply writeT_pres
    · intro _
      dsimp only
      refine presM_ite ?_ ?_
      · refine presM_bind ?_ ?_
        · apply each_pres
          intro _
          apply skipRow_pres
        · intro _
          refine presM_bind ?_ ?_
          · apply count_pres
          · intro _
            refine presM_bind ?_ ?_
            · apply count_pres
            · intro _
              refine presM_bind ?_ ?_
              · apply count_pres
              · intro _
                refine presM_bind ?_ ?_
                · apply countIf_pres
                · intro _
                  refine presM_modify ?_
                  intro _
                  intro _
                  apply prefetch_pres
                  assumption
      · refine presM_bind ?_ ?_
        · apply count_pres
        · intro _
          refine presM_bind ?_ ?_
          · apply count_pres
          · intro _
            refine presM_bind ?_ ?_
            · apply count_pres
            · intro _
              refine presM_bind ?_ ?_
              · apply countIf_pres
              · intro _
                refine presM_modify ?_
                intro _
                intro _
                apply prefetch_pres
                assumption

theorem predictBegin_pres {a : State} (x0 x1 x2)  : PresM a (predictBegin x0 x1 x2) := by
  unfold predictBegin
  refine presM_get_bind ?_
  intro _
  intro _
  dsimp only
  refine presM_bind ?_ ?_
  · apply failIf_pres
  · intro _
    refine presM_bind ?_ ?_
    · apply faultIf_pres
    · intro _
      refine presM_bind ?_ ?_
      · apply failIf_pres
      · intro _
        refine presM_bind ?_ ?_
        · apply failIf_pres
        · intro _
          refine presM_bind ?_ ?_
          · apply failIf_pres
          · intro _
            apply countIf_pres

theorem groupGrant_pres {a : State} (x0 x1 x2)  : PresM a (groupGrant x0 x1 x2) := by
  unfold groupGrant
  dsimp only
  refine presM_ite ?_ ?_
  · refine presM_bind ?_ ?_
    · apply predictBegin_pres
    · intro _
      refine presM_get_bind ?_
      intro _
      intro _
      refine presM_bind ?_ ?_
      · refine presM_ite ?_ ?_
        · exact presM_pure _
        · apply decideGroup_pres
      · intro _
        refine presM_ite ?_ ?_
        · refine presM_bind ?_ ?_
          · apply count_pres
          · intro _
            apply putHwork_pres
        · refine presM_bind ?_ ?_
          · apply count_pres
          · intro _
            refine presM_ite ?_ ?_
            · refine presM_bind ?_ ?_
              · apply auditGroup_pres
              · intro _
                refine presM_ite ?_ ?_
                · refine presM_ite ?_ ?_
                  · refine presM_bind ?_ ?_
                    · apply auditEnd_pres
                    · intro _
                      refine presM_bind ?_ ?_
                      · apply putHwork_pres
                      · intro _
                        refine presM_modify ?_
                        intro _
                        intro _
                        apply updOp_pres
                        assumption
                  · refine presM_bind ?_ ?_
                    · apply putHwork_pres
                    · intro _
                      refine presM_modify ?_
                      intro _
                      intro _
                      apply updOp_pres
                      assumption
                · apply putHwork_pres
            · refine presM_bind ?_ ?_
              · apply writeGroup_pres
              · intro _
                refine presM_ite ?_ ?_
                · refine presM_ite ?_ ?_
                  · refine presM_bind ?_ ?_
                    · apply auditEnd_pres
                    · intro _
                      refine presM_bind ?_ ?_
                      · apply putHwork_pres
                      · intro _
                        refine presM_modify ?_
                        intro _
                        intro _
                        apply updOp_pres
                        assumption
                  · refine presM_bind ?_ ?_
                    · apply putHwork_pres
                    · intro _
                      refine presM_modify ?_
                      intro _
                      intro _
                      apply updOp_pres
                      assumption
                · apply putHwork_pres
  · refine presM_get_bind ?_
    intro _
    intro _
    refine presM_bind ?_ ?_
    · refine presM_ite ?_ ?_
      · exact presM_pure _
      · apply decideGroup_pres
    · intro _
      refine presM_ite ?_ ?_
      · refine presM_bind ?_ ?_
        · apply count_pres
        · intro _
          apply putHwork_pres
      · refine presM_bind ?_ ?_
        · apply count_pres
        · intro _
          refine presM_ite ?_ ?_
          · refine presM_bind ?_ ?_
            · apply auditGroup_pres
            · intro _
              refine presM_ite ?_ ?_
              · refine presM_ite ?_ ?_
                · refine presM_bind ?_ ?_
                  · apply auditEnd_pres
                  · intro _
                    refine presM_bind ?_ ?_
                    · apply putHwork_pres
                    · intro _
                      refine presM_modify ?_
                      intro _
                      intro _
                      apply updOp_pres
                      assumption
                · refine presM_bind ?_ ?_
                  · apply putHwork_pres
                  · intro _
                    refine presM_modify ?_
                    intro _
                    intro _
                    apply updOp_pres
                    assumption
              · apply putHwork_pres
          · refine presM_bind ?_ ?_
            · apply writeGroup_pres
            · intro _
              refine presM_ite ?_ ?_
              · refine presM_ite ?_ ?_
                · refine presM_bind ?_ ?_
                  · apply auditEnd_pres
                  · intro _
                    refine presM_bind ?_ ?_
                    · apply putHwork_pres
                    · intro _
                      refine presM_modify ?_
                      intro _
                      intro _
                      apply updOp_pres
                      assumption
                · refine presM_bind ?_ ?_
                  · apply putHwork_pres
                  · intro _
                    refine presM_modify ?_
                    intro _
                    intro _
                    apply updOp_pres
                    assumption
              · apply putHwork_pres

theorem hdgStep_pres {a : State} (x0 x1 x2 x3 x4)  : PresM a (hdgStep x0 x1 x2 x3 x4) := by
  unfold hdgStep
  split
  · exact presM_pure _
  · refine presM_bind ?_ ?_
    · refine presM_modify ?_
      intro _
      intro _
      apply updOp_pres
      assumption
    · intro _
      refine presM_ite ?_ ?_
      · apply hloadGrant_pres
      · apply groupGrant_pres

theorem execHdgGrant_pres {a : State} (x0 x1) (h1 : Pres a x1) : PresX a (execHdgGrant x0 x1) := by
  unfold execHdgGrant
  refine presX_next ?_
  refine pres_ite ?_ ?_
  · assumption
  · split
    · assumption
    · apply serveOp_pres
      · assumption
      · intro _
        intro _
        apply hdgStep_pres

theorem execHdgGrantSplit_pres {a : State} (x0 x1) (h1 : Pres a x1) : PresX a (execHdgGrantSplit x0 x1) := by
  unfold execHdgGrantSplit
  refine presX_next ?_
  split
  · assumption
  · apply bump_pres
    refine pres_mk_of ?_ rfl rfl rfl rfl rfl
    assumption

theorem selSplit_pres {a : State} (x0 x1) (h0 : Pres a x0) : Pres a (selSplit x0 x1) := by
  unfold selSplit
  extract_lets +onlyGivenNames y5
  (refine pres_absorb (a := a) y5 ?_ (fun _ => ?_); rotate_left; clear_value y5; rotate_right)
  · dsimp only [y5]
    apply selTurn_pres
    assumption
  · extract_lets +onlyGivenNames y7
    clear_value y7
    split
    · assumption
    · apply selEnd_pres
      apply bump_pres
      apply updOp_pres
      assumption

theorem execSelGrantSplit_pres {a : State} (x0 x1) (h1 : Pres a x1) : PresX a (execSelGrantSplit x0 x1) := by
  unfold execSelGrantSplit
  refine presX_next ?_
  apply selSplit_pres
  assumption

theorem mergeTurn_pres {a : State} (x0 x1) (h0 : Pres a x0) : Pres a (mergeTurn x0 x1) := by
  unfold mergeTurn
  refine pres_ite ?_ ?_
  · assumption
  · split
    · apply updOp_pres
      assumption
    · assumption

theorem mergeSplit_pres {a : State} (x0 x1) (h0 : Pres a x0) : Pres a (mergeSplit x0 x1) := by
  unfold mergeSplit
  extract_lets +onlyGivenNames y5
  (refine pres_absorb (a := a) y5 ?_ (fun _ => ?_); rotate_left; clear_value y5; rotate_right)
  · dsimp only [y5]
    apply mergeTurn_pres
    assumption
  · extract_lets +onlyGivenNames y7
    clear_value y7
    split
    · apply mergeTurn_pres
      apply bump_pres
      apply updOp_pres
      assumption
    · assumption

theorem execMergeGrantSplit_pres {a : State} (x0 x1) (h1 : Pres a x1) : PresX a (execMergeGrantSplit x0 x1) := by
  unfold execMergeGrantSplit
  refine presX_next ?_
  apply mergeSplit_pres
  assumption

theorem countBurst_pres {a : State} (x0 x1) (h0 : Pres a x0) : Pres a (countBurst x0 x1) := by
  unfold countBurst
  dsimp only
  refine pres_ite ?_ ?_
  · apply occur_pres
    apply updGate_pres
    assumption
  · apply updGate_pres
    assumption

theorem scrubAtom_pres {a : State} (x0 x1 x2) (h0 : Pres a x0) : Pres a (scrubAtom x0 x1 x2) := by
  unfold scrubAtom
  dsimp only
  refine pres_ite ?_ ?_
  · assumption
  · split
    · assumption
    · apply countBurst_pres
      apply noteCe_pres
      assumption
    · refine pres_ite ?_ ?_
      · assumption
      · apply occur_pres
        apply noteUe_pres
        apply poisonAtom_pres
        assumption

theorem execPatrolScrub_pres {a : State} (x0 x1 x2 x3) (h3 : Pres a x3) : PresX a (execPatrolScrub x0 x1 x2 x3) := by
  unfold execPatrolScrub
  refine presX_next ?_
  dsimp only
  refine pres_ite ?_ ?_
  · apply scrubAtom_pres
    assumption
  · refine pres_ite ?_ ?_
    · apply bump_pres
      apply scrubAtom_pres
      assumption
    · refine pres_ite ?_ ?_
      · apply bump_pres
        apply scrubAtom_pres
        assumption
      · apply scrubAtom_pres
        assumption

theorem execRetireCopyDone_pres {a : State} (x0 x1) (h1 : Pres a x1) : PresX a (execRetireCopyDone x0 x1) := by
  unfold execRetireCopyDone
  refine presX_next ?_
  refine pres_ite ?_ ?_
  · assumption
  · apply serveDue_pres
    refine pres_ite ?_ ?_
    · apply nearCopied_pres
      assumption
    · apply farCopied_pres
      assumption

theorem execZeroingDone_pres {a : State} (x0 x1 x2) (h2 : Pres a x2) : PresX a (execZeroingDone x0 x1 x2) := by
  unfold execZeroingDone
  refine presX_next ?_
  dsimp only
  refine pres_ite ?_ ?_
  · assumption
  · refine pres_ite ?_ ?_
    · apply modReadyUp_pres
      apply updPower_pres
      assumption
    · apply updPower_pres
      assumption

theorem execPinLoad_pres {a : State} (x0 x1 x2) (h2 : Pres a x2) : PresX a (execPinLoad x0 x1 x2) := by
  unfold execPinLoad
  refine presX_next ?_
  extract_lets +onlyGivenNames y6
  clear_value y6
  extract_lets +onlyGivenNames y7
  clear_value y7
  extract_lets +onlyGivenNames y8
  clear_value y8
  extract_lets +onlyGivenNames y9
  clear_value y9
  refine pres_ite ?_ ?_
  · assumption
  · refine pres_ite ?_ ?_
    · assumption
    · refine pres_ite ?_ ?_
      · extract_lets +onlyGivenNames y10
        clear_value y10
        refine pres_ite ?_ ?_
        · assumption
        · apply bump_pres
          refine pres_mk_of ?_ rfl rfl rfl rfl rfl
          assumption
      · extract_lets +onlyGivenNames y10
        (refine pres_absorb (a := a) y10 ?_ (fun _ => ?_); rotate_left; clear_value y10; rotate_right)
        · dsimp only [y10]
          apply putLine_pres
          assumption
        · refine pres_ite ?_ ?_
          · apply bump_pres
            assumption
          · assumption

theorem execDirtyWriteback_pres {a : State} (x0 x1 x2) (h2 : Pres a x2) : PresX a (execDirtyWriteback x0 x1 x2) := by
  unfold execDirtyWriteback
  refine presX_next ?_
  dsimp only
  split
  · refine pres_ite ?_ ?_
    · assumption
    · apply bump_pres
      apply updSet_pres
      assumption
  · assumption

theorem execChannelGroupReset_pres {a : State} (x0 x1 x2) (h2 : Pres a x2) : PresX a (execChannelGroupReset x0 x1 x2) := by
  unfold execChannelGroupReset
  refine presX_next ?_
  apply groupReset_pres
  assumption

end Sys2Proof.Machine
end

