-- ==== Sys2Proof/Laws/Kept8.lean ====
section
/-!
SUPPORT. What the functions of the machine keep, execCoreReset to exec: one lemma a function, each over the lemmas of those it calls.
-/
namespace Sys2Proof.Machine
open Sys2Proof

theorem execCoreReset_pres {a : State} (x0 x1) (h1 : Pres a x1) : PresX a (execCoreReset x0 x1) := by
  unfold execCoreReset
  refine presX_next ?_
  apply coreReset_pres
  assumption

theorem execPavilionReset_pres {a : State} (x0 x1) (h1 : Pres a x1) : PresX a (execPavilionReset x0 x1) := by
  unfold execPavilionReset
  refine presX_next ?_
  apply pavReset_pres
  assumption

theorem execBlockPageReset_pres {a : State} (x0 x1) (h1 : Pres a x1) : PresX a (execBlockPageReset x0 x1) := by
  unfold execBlockPageReset
  refine presX_next ?_
  apply pageReset_pres
  assumption

theorem wakeRetries_pres {a : State} (x0) (h0 : Pres a x0) : Pres a (wakeRetries x0) := by
  unfold wakeRetries
  refine pres_mk_of ?_ rfl rfl rfl rfl rfl
  assumption

theorem domBack_pres {a : State} (x0 x1) (h0 : Pres a x0) : Pres a (domBack x0 x1) := by
  unfold domBack
  dsimp only
  split
  · refine pres_foldl ?_ ?_
    · apply updDom_pres
      assumption
    · intro _
      intro _
      intro _
      apply updDom_pres
      assumption
  · apply updDom_pres
    assumption

theorem resetDone_pres {a : State} (x0 x1) (h0 : Pres a x0) : Pres a (resetDone x0 x1) := by
  unfold resetDone
  split
  · refine pres_mk_of ?_ rfl rfl rfl rfl rfl
    assumption
  · dsimp only
    refine pres_ite ?_ ?_
    · assumption
    · apply serveRequests_pres
      apply fireInjection_pres
      apply wakeRetries_pres
      apply raiseEvt_pres
      apply domBack_pres
      assumption

theorem execResetDone_pres {a : State} (x0 x1) (h1 : Pres a x1) : PresX a (execResetDone x0 x1) := by
  unfold execResetDone
  refine presX_next ?_
  apply resetDone_pres
  assumption

theorem countRetry_pres {a : State} (x0 x1) (h0 : Pres a x0) : Pres a (countRetry x0 x1) := by
  unfold countRetry
  split
  · apply bump_pres
    assumption
  · assumption

theorem retryReq_pres {a : State} (x0 x1) (h0 : Pres a x0) : Pres a (retryReq x0 x1) := by
  unfold retryReq
  split
  · refine pres_ite ?_ ?_
    · assumption
    · extract_lets +onlyGivenNames y10
      (refine pres_absorb (a := a) y10 ?_ (fun _ => ?_); rotate_left; clear_value y10; rotate_right)
      · dsimp only [y10]
        split
        · apply countRetry_pres
          assumption
        · assumption
      · extract_lets +onlyGivenNames y12
        clear_value y12
        extract_lets +onlyGivenNames y13
        (refine pres_absorb (a := a) y13 ?_ (fun _ => ?_); rotate_left; clear_value y13; rotate_right)
        · dsimp only [y13]
          apply updReq_pres
          assumption
        · refine pres_ite ?_ ?_
          · split
            · refine pres_of_pair (by assumption) ?_
              apply sendMsg_pres
              assumption
            · apply faultReq_pres
              refine pres_of_pair (by assumption) ?_
              apply sendMsg_pres
              assumption
          · refine pres_ite ?_ ?_
            · split
              · refine pres_of_pair (by assumption) ?_
                apply sendMsg_pres
                assumption
              · apply collLose_pres
                refine pres_of_pair (by assumption) ?_
                apply sendMsg_pres
                assumption
            · refine pres_ite ?_ ?_
              · apply emit_pres
                assumption
              · refine pres_ite ?_ ?_
                · apply sendOwn_pres
                  assumption
                · split
                  · refine pres_of_pair (by assumption) ?_
                    apply sendMsg_pres
                    assumption
                  · apply faultReq_pres
                    refine pres_of_pair (by assumption) ?_
                    apply sendMsg_pres
                    assumption
  · assumption

theorem retryOp_pres {a : State} (x0 x1) (h0 : Pres a x0) : Pres a (retryOp x0 x1) := by
  unfold retryOp
  split
  · refine pres_ite ?_ ?_
    · apply goFurther_pres
      assumption
    · refine pres_ite ?_ ?_
      · assumption
      · extract_lets +onlyGivenNames y10
        (refine pres_absorb (a := a) y10 ?_ (fun _ => ?_); rotate_left; clear_value y10; rotate_right)
        · dsimp only [y10]
          refine pres_ite ?_ ?_
          · assumption
          · apply countRetry_pres
            apply updOp_pres
            assumption
        · apply goOn_pres
          refine pres_ite ?_ ?_
          · apply runAgain_pres
            assumption
          · assumption
  · assumption

theorem retryRefill_pres {a : State} (x0 x1) (h0 : Pres a x0) : Pres a (retryRefill x0 x1) := by
  unfold retryRefill
  split
  · assumption
  · refine pres_ite ?_ ?_
    · apply updDense_pres
      assumption
    · refine pres_ite ?_ ?_
      · apply runRefills_pres
        assumption
      · refine pres_ite ?_ ?_
        · assumption
        · apply runRefills_pres
          apply bump_pres
          assumption

theorem execReadRetry_pres {a : State} (x0 x1) (h1 : Pres a x1) : PresX a (execReadRetry x0 x1) := by
  unfold execReadRetry
  refine presX_next ?_
  split
  · apply retryReq_pres
    assumption
  · apply retryOp_pres
    assumption
  · apply retryRefill_pres
    assumption

theorem timeOut_pres {a : State} (x0 x1 x2) (h0 : Pres a x0) : Pres a (timeOut x0 x1 x2) := by
  unfold timeOut
  dsimp only
  split
  · refine pres_mk_of ?_ rfl rfl rfl rfl rfl
    apply occur_pres
    split
    · apply raiseErr_pres
      apply addCnt_pres
      assumption
    · apply addCnt_pres
      assumption
  · split
    · apply updReq_pres
      refine pres_mk_of ?_ rfl rfl rfl rfl rfl
      apply occur_pres
      split
      · apply raiseErr_pres
        apply addCnt_pres
        assumption
      · apply addCnt_pres
        assumption
    · apply updateAnswer_pres
      refine pres_mk_of ?_ rfl rfl rfl rfl rfl
      apply occur_pres
      split
      · apply raiseErr_pres
        apply addCnt_pres
        assumption
      · apply addCnt_pres
        assumption
    · split
      · refine pres_ite ?_ ?_
        · apply updReq_pres
          apply fenceReq_pres
          refine pres_mk_of ?_ rfl rfl rfl rfl rfl
          apply occur_pres
          split
          · apply raiseErr_pres
            apply addCnt_pres
            assumption
          · apply addCnt_pres
            assumption
        · apply fenceReq_pres
          refine pres_mk_of ?_ rfl rfl rfl rfl rfl
          apply occur_pres
          split
          · apply raiseErr_pres
            apply addCnt_pres
            assumption
          · apply addCnt_pres
            assumption
      · apply fenceReq_pres
        refine pres_mk_of ?_ rfl rfl rfl rfl rfl
        apply occur_pres
        split
        · apply raiseErr_pres
          apply addCnt_pres
          assumption
        · apply addCnt_pres
          assumption

theorem execRequestTimeout_pres {a : State} (x0 x1) (h1 : Pres a x1) : PresX a (execRequestTimeout x0 x1) := by
  unfold execRequestTimeout
  refine presX_next ?_
  split
  · refine pres_ite ?_ ?_
    · apply timeOut_pres
      assumption
    · assumption
  · assumption

theorem domFault_pres {a : State} (x0 x1 x2) (h0 : Pres a x0) : Pres a (domFault x0 x1 x2) := by
  unfold domFault
  dsimp only
  refine pres_ite ?_ ?_
  · apply retireRes_pres
    assumption
  · apply domReset_pres
    apply updDom_pres
    assumption

theorem execHangDetect_pres {a : State} (x0 x1 x2) (h2 : Pres a x2) : PresX a (execHangDetect x0 x1 x2) := by
  unfold execHangDetect
  refine presX_next ?_
  refine pres_ite ?_ ?_
  · apply domFault_pres
    assumption
  · assumption

theorem execInternalStateError_pres {a : State} (x0 x1 x2) (h2 : Pres a x2) : PresX a (execInternalStateError x0 x1 x2) := by
  unfold execInternalStateError
  refine presX_next ?_
  apply domFault_pres
  assumption

theorem execGatehouseTakeover_pres {a : State} (x0) (h0 : Pres a x0) : PresX a (execGatehouseTakeover x0) := by
  unfold execGatehouseTakeover
  refine presX_next ?_
  refine pres_ite ?_ ?_
  · assumption
  · apply addRecord_pres
    apply addCnt_pres
    apply updGate_pres
    assumption

theorem execDroop_pres {a : State} (x0 x1 x2) (h2 : Pres a x2) : PresX a (execDroop x0 x1 x2) := by
  unfold execDroop
  refine presX_next ?_
  refine pres_ite ?_ ?_
  · assumption
  · apply addCnt_pres
    assumption

theorem setTemp_pres {a : State} (x0 x1 x2) (h0 : Pres a x0) : Pres a (setTemp x0 x1 x2) := by
  unfold setTemp
  apply updPower_pres
  assumption

theorem protect_pres {a : State} (x0 x1) (h0 : Pres a x0) : Pres a (protect x0 x1) := by
  unfold protect
  apply refresh_pres
  refine pres_ite ?_ ?_
  · apply bump_pres
    assumption
  · assumption

theorem execThermalHot_pres {a : State} (x0 x1) (h1 : Pres a x1) : PresX a (execThermalHot x0 x1) := by
  unfold execThermalHot
  refine presX_next ?_
  refine pres_ite ?_ ?_
  · assumption
  · split
    dsimp only
    refine pres_ite ?_ ?_
    · apply protect_pres
      apply bump_pres
      apply setTemp_pres
      apply updPower_pres
      refine pres_of_pair (by assumption) ?_
      apply takeFree_pres
      assumption
    · apply bump_pres
      apply setTemp_pres
      apply updPower_pres
      refine pres_of_pair (by assumption) ?_
      apply takeFree_pres
      assumption

theorem protectiveShutdown_pres {a : State} (x0 x1 x2) (h0 : Pres a x0) : Pres a (protectiveShutdown x0 x1 x2) := by
  unfold protectiveShutdown
  refine pres_ite ?_ ?_
  · assumption
  · dsimp only
    refine pres_mk_of ?_ rfl rfl rfl rfl rfl
    apply baseState_pres
    assumption

theorem execThermalTrip_pres {a : State} (x0 x1) (h1 : Pres a x1) : PresX a (execThermalTrip x0 x1) := by
  unfold execThermalTrip
  refine presX_next ?_
  split
  apply protectiveShutdown_pres
  apply setTemp_pres
  refine pres_of_pair (by assumption) ?_
  apply takeFree_pres
  assumption

theorem electricalStep_pres {a : State} (x0) (h0 : Pres a x0) : Pres a (electricalStep x0) := by
  unfold electricalStep
  refine pres_ite ?_ ?_
  · apply updPower_pres
    assumption
  · refine pres_foldl ?_ ?_
    · apply updPower_pres
      assumption
    · intro _
      intro _
      intro _
      apply protect_pres
      assumption

theorem execElectricalOverload_pres {a : State} (x0) (h0 : Pres a x0) : PresX a (execElectricalOverload x0) := by
  unfold execElectricalOverload
  refine presX_next ?_
  refine pres_ite ?_ ?_
  · apply electricalStep_pres
    assumption
  · assumption

theorem execInputVoltageFault_pres {a : State} (x0) (h0 : Pres a x0) : PresX a (execInputVoltageFault x0) := by
  unfold execInputVoltageFault
  refine presX_next ?_
  refine pres_ite ?_ ?_
  · assumption
  · split
    dsimp only
    apply protectiveShutdown_pres
    apply updPower_pres
    refine pres_of_pair (by assumption) ?_
    apply takeFree_pres
    assumption

theorem thermalSlow_pres {a : State} (x0 x1) (h0 : Pres a x0) : Pres a (thermalSlow x0 x1) := by
  unfold thermalSlow
  apply refresh_pres
  apply updPower_pres
  assumption

theorem thermalRelease_pres {a : State} (x0 x1) (h0 : Pres a x0) : Pres a (thermalRelease x0 x1) := by
  unfold thermalRelease
  apply refresh_pres
  apply updPower_pres
  assumption

theorem thermalDie_pres {a : State} (x0 x1 x2) (h0 : Pres a x0) : Pres a (thermalDie x0 x1 x2) := by
  unfold thermalDie
  dsimp only
  refine pres_ite ?_ ?_
  · apply setTemp_pres
    assumption
  · refine pres_ite ?_ ?_
    · refine pres_ite ?_ ?_
      · apply thermalSlow_pres
        apply updPower_pres
        apply setTemp_pres
        assumption
      · apply updPower_pres
        apply updPower_pres
        apply setTemp_pres
        assumption
    · refine pres_ite ?_ ?_
      · refine pres_ite ?_ ?_
        · apply updPower_pres
          apply setTemp_pres
          assumption
        · refine pres_ite ?_ ?_
          · apply thermalRelease_pres
            apply updPower_pres
            apply setTemp_pres
            assumption
          · apply updPower_pres
            apply updPower_pres
            apply setTemp_pres
            assumption
      · apply updPower_pres
        apply setTemp_pres
        assumption

theorem execThermalLoopPeriod_pres {a : State} (x0 x1) (h1 : Pres a x1) : PresX a (execThermalLoopPeriod x0 x1) := by
  unfold execThermalLoopPeriod
  refine presX_next ?_
  refine pres_ite ?_ ?_
  · assumption
  · dsimp only
    refine pres_ite ?_ ?_
    · refine pres_foldl ?_ ?_
      · assumption
      · intro _
        intro _
        intro _
        apply thermalDie_pres
        assumption
    · refine pres_foldl ?_ ?_
      · refine pres_foldl ?_ ?_
        · assumption
        · intro _
          intro _
          intro _
          apply thermalDie_pres
          assumption
      · intro _
        intro _
        intro _
        refine pres_ite ?_ ?_
        · assumption
        · apply addCnt_pres
          assumption

theorem slowPavs_pres {a : State} (x0 x1 x2 x3) (h3 : Pres a x3) : Pres a (slowPavs x0 x1 x2 x3) := by
  induction x1 generalizing x0 x2 x3 with
  | zero =>
    unfold slowPavs
    assumption
  | succ x ih =>
    unfold slowPavs
    split
    · apply ih
      apply refresh_pres
      apply updPower_pres
      assumption
    · assumption

theorem powerOver_pres {a : State} (x0 x1 x2) (h0 : Pres a x0) : Pres a (powerOver x0 x1 x2) := by
  unfold powerOver
  dsimp only
  refine pres_ite ?_ ?_
  · apply slowPavs_pres
    assumption
  · refine pres_ite ?_ ?_
    · refine pres_foldl ?_ ?_
      · assumption
      · intro _
        intro _
        intro _
        apply bump_pres
        apply refresh_pres
        apply updPower_pres
        assumption
    · apply bump_pres
      assumption

theorem powerUnder_pres {a : State} (x0 x1) (h0 : Pres a x0) : Pres a (powerUnder x0 x1) := by
  unfold powerUnder
  dsimp only
  split
  · apply refresh_pres
    apply updPower_pres
    assumption
  · split
    · apply refresh_pres
      apply updPower_pres
      assumption
    · assumption

theorem execPowerLoopPeriod_pres {a : State} (x0 x1 x2 x3) (h3 : Pres a x3) : PresX a (execPowerLoopPeriod x0 x1 x2 x3) := by
  unfold execPowerLoopPeriod
  refine presX_next ?_
  refine pres_ite ?_ ?_
  · assumption
  · dsimp only
    refine pres_ite ?_ ?_
    · apply updPower_pres
      assumption
    · refine pres_ite ?_ ?_
      · apply powerOver_pres
        apply updPower_pres
        apply updPower_pres
        assumption
      · refine pres_ite ?_ ?_
        · refine pres_ite ?_ ?_
          · apply updPower_pres
            apply updPower_pres
            assumption
          · apply powerUnder_pres
            apply updPower_pres
            apply updPower_pres
            assumption
        · apply updPower_pres
          apply updPower_pres
          assumption

theorem execAutoHold_pres {a : State} (x0 x1) (h1 : Pres a x1) : PresX a (execAutoHold x0 x1) := by
  unfold execAutoHold
  refine presX_next ?_
  refine pres_ite ?_ ?_
  · apply enterHold_pres
    assumption
  · assumption

theorem wokenRequests_pres {a : State} (x0 x1) (h0 : Pres a x0) : Pres a (wokenRequests x0 x1) := by
  unfold wokenRequests
  dsimp only
  refine pres_foldl ?_ ?_
  · apply updPower_pres
    assumption
  · intro _
    intro _
    intro _
    apply requestDone_pres
    assumption

theorem execPavilionWake_pres {a : State} (x0 x1) (h1 : Pres a x1) : PresX a (execPavilionWake x0 x1) := by
  unfold execPavilionWake
  refine presX_next ?_
  refine pres_ite ?_ ?_
  · apply wokenRequests_pres
    apply wakePav_pres
    assumption
  · assumption

theorem wakeRest_pres {a : State} (x0) (h0 : Pres a x0) : Pres a (wakeRest x0) := by
  unfold wakeRest
  dsimp only
  refine pres_foldl ?_ ?_
  · refine pres_mk_of ?_ rfl rfl rfl rfl rfl
    apply updPower_pres
    assumption
  · intro _
    intro _
    intro _
    apply applyNext_pres
    assumption

theorem wakeDormant_pres {a : State} (x0 x1) (h0 : Pres a x0) : Pres a (wakeDormant x0 x1) := by
  unfold wakeDormant
  apply startUpEnd_pres
  assumption

theorem leaveTripped_pres {a : State} (x0 x1) (h0 : Pres a x0) : Pres a (leaveTripped x0 x1) := by
  unfold leaveTripped
  refine pres_ite ?_ ?_
  · apply startUp_pres
    apply baseState_pres
    assumption
  · assumption

theorem moduleWake_pres {a : State} (x0 x1 x2) (h0 : Pres a x0) : Pres a (moduleWake x0 x1 x2) := by
  unfold moduleWake
  split
  · refine pres_ite ?_ ?_
    · assumption
    · apply wakeHold_pres
      assumption
  · refine pres_ite ?_ ?_
    · assumption
    · apply wakeHold_pres
      assumption
  · refine pres_ite ?_ ?_
    · assumption
    · apply wakeRest_pres
      assumption
  · refine pres_ite ?_ ?_
    · apply wakeDormant_pres
      assumption
    · assumption
  · refine pres_ite ?_ ?_
    · apply leaveTripped_pres
      assumption
    · assumption
  · assumption

theorem execModuleWake_pres {a : State} (x0 x1 x2) (h2 : Pres a x2) : PresX a (execModuleWake x0 x1 x2) := by
  unfold execModuleWake
  refine presX_next ?_
  apply moduleWake_pres
  assumption

theorem execDutyWindow_pres {a : State} (x0 x1) (h1 : Pres a x1) : PresX a (execDutyWindow x0 x1) := by
  unfold execDutyWindow
  refine presX_next ?_
  refine pres_ite ?_ ?_
  · assumption
  · dsimp only
    refine pres_ite ?_ ?_
    · apply addCnt_pres
      refine pres_mk_of ?_ rfl rfl rfl rfl rfl
      apply updPower_pres
      assumption
    · refine pres_mk_of ?_ rfl rfl rfl rfl rfl
      apply updPower_pres
      assumption

theorem execDividerChange_pres {a : State} (x0 x1) (h1 : Pres a x1) : PresX a (execDividerChange x0 x1) := by
  unfold execDividerChange
  refine presX_next ?_
  refine pres_ite ?_ ?_
  · assumption
  · apply applyNext_pres
    assumption

theorem execPllLockLoss_pres {a : State} (x0 x1) (h1 : Pres a x1) : PresX a (execPllLockLoss x0 x1) := by
  unfold execPllLockLoss
  refine presX_next ?_
  refine pres_ite ?_ ?_
  · assumption
  · dsimp only
    refine pres_ite ?_ ?_
    · apply pavReset_pres
      apply updPower_pres
      apply bump_pres
      assumption
    · refine pres_foldl ?_ ?_
      · refine pres_foldl ?_ ?_
        · apply updPower_pres
          apply bump_pres
          assumption
        · intro _
          intro _
          intro _
          apply groupReset_pres
          assumption
      · intro _
        intro _
        intro _
        apply linkReset_pres
        assumption

theorem execPllRelock_pres {a : State} (x0 x1 x2) (h2 : Pres a x2) : PresX a (execPllRelock x0 x1 x2) := by
  unfold execPllRelock
  refine presX_next ?_
  refine pres_ite ?_ ?_
  · assumption
  · refine pres_ite ?_ ?_
    · apply updPower_pres
      assumption
    · refine pres_ite ?_ ?_
      · assumption
      · apply fenceOrang_pres
        assumption

theorem execReferenceLoss_pres {a : State} (x0) (h0 : Pres a x0) : PresX a (execReferenceLoss x0) := by
  unfold execReferenceLoss
  refine presX_next ?_
  refine pres_ite ?_ ?_
  · apply updPower_pres
    assumption
  · assumption

theorem execReferenceHoldoverExpiry_pres {a : State} (x0) (h0 : Pres a x0) : PresX a (execReferenceHoldoverExpiry x0) := by
  unfold execReferenceHoldoverExpiry
  refine presX_next ?_
  refine pres_ite ?_ ?_
  · apply protectiveShutdown_pres
    assumption
  · assumption

theorem execPowerOn_pres {a : State} (x0 x1) (h1 : Pres a x1) : PresX a (execPowerOn x0 x1) := by
  unfold execPowerOn
  refine presX_next ?_
  apply startUp_pres
  apply baseState_pres
  assumption

theorem execPerst_pres {a : State} (x0 x1) (h1 : Pres a x1) : PresX a (execPerst x0 x1) := by
  unfold execPerst
  refine presX_next ?_
  split
  · apply wakeRest_pres
    assumption
  · apply wakeDormant_pres
    assumption
  · apply leaveTripped_pres
    assumption
  · assumption
  · apply startUp_pres
    apply baseState_pres
    assumption

theorem execSmbusCommand_pres {a : State} (x0 x1 x2) (h2 : Pres a x2) : PresX a (execSmbusCommand x0 x1 x2) := by
  unfold execSmbusCommand
  refine presX_next ?_
  split
  · apply emit_pres
    assumption
  · refine pres_ite ?_ ?_
    · assumption
    · apply moduleWake_pres
      apply emit_pres
      assumption

theorem execMgmtDatagram_pres {a : State} (x0 x1) (h1 : Pres a x1) : PresX a (execMgmtDatagram x0 x1) := by
  unfold execMgmtDatagram
  refine presX_next ?_
  split
  · dsimp only
    refine pres_ite ?_ ?_
    · apply wokenBy_pres
      assumption
    · refine pres_ite ?_ ?_
      · apply mgrReplied_pres
        apply wokenBy_pres
        assumption
      · apply updGate_pres
        apply wokenBy_pres
        assumption
  · refine pres_ite ?_ ?_
    · apply readSized_pres
      apply wokenBy_pres
      assumption
    · apply wokenBy_pres
      assumption
  · apply pageWrite_pres
    · assumption
    · intro _
      intro _
      apply writeSized_pres
      assumption

theorem serveNoise_pres {a : State} (x0 x1 x2) (h0 : Pres a x0) : Pres a (serveNoise x0 x1 x2) := by
  induction x2 generalizing x0 x1 with
  | zero =>
    unfold serveNoise
    assumption
  | succ x ih =>
    unfold serveNoise
    refine pres_ite ?_ ?_
    · assumption
    · split
      · assumption
      · apply ih
        apply serveOp_pres
        · assumption
        · intro _
          intro _
          refine presM_bind ?_ ?_
          · apply noiseBlocks_pres
          · intro _
            refine presM_bind ?_ ?_
            · apply noiseWrote_pres
            · intro _
              refine presM_modify ?_
              intro _
              intro _
              apply updOp_pres
              assumption

theorem execNoiseBlock_pres {a : State} (x0 x1) (h1 : Pres a x1) : PresX a (execNoiseBlock x0 x1) := by
  unfold execNoiseBlock
  refine presX_next ?_
  split
  · rename_i hc
    refine serveNoise_pres _ _ _ (updRng_pres _ _ _ (bump_pres _ _ _ _ (pres_of_eqs h1 rfl rfl rfl rfl rfl)) (fun _ => ?_))
    have hp : (rng x1 x0).pool.length < 64 := hc.2
    have hb : ∀ (s : State) (p o n : Nat), (bump s p o n).rngs = s.rngs := by
      intro s p o n
      unfold bump
      dsimp only
      split <;> rfl
    dsimp only
    rw [List.length_append, rng, hb]
    exact hp
  · exact h1

theorem execHealthTestFail_pres {a : State} (x0 x1 x2 x3) (h3 : Pres a x3) : PresX a (execHealthTestFail x0 x1 x2 x3) := by
  unfold execHealthTestFail
  refine presX_next ?_
  extract_lets +onlyGivenNames y7
  clear_value y7
  extract_lets +onlyGivenNames y8
  clear_value y8
  refine pres_ite ?_ ?_
  · assumption
  · extract_lets +onlyGivenNames y9
    (refine pres_absorb (a := a) y9 ?_ (fun _ => ?_); rotate_left; clear_value y9; rotate_right)
    · dsimp only [y9]
      (refine updRng_pres _ _ _ ?_ (fun h => ?_); rotate_left; (first | exact h | exact Nat.zero_le _ | (simp_all; done) | (simp_all; omega)))
      assumption
    · extract_lets +onlyGivenNames y11
      (refine pres_absorb (a := a) y11 ?_ (fun _ => ?_); rotate_left; clear_value y11; rotate_right)
      · dsimp only [y11]
        apply raiseEvt_pres
        apply bump_pres
        assumption
      · extract_lets +onlyGivenNames y13
        (refine pres_absorb (a := a) y13 ?_ (fun _ => ?_); rotate_left; clear_value y13; rotate_right)
        · dsimp only [y13]
          refine pres_foldl ?_ ?_
          · assumption
          · intro _
            intro _
            intro _
            apply noiseFail_pres
            assumption
        · apply occur_pres
          apply updGate_pres
          assumption

theorem execNoiseRestart_pres {a : State} (x0 x1) (h1 : Pres a x1) : PresX a (execNoiseRestart x0 x1) := by
  unfold execNoiseRestart
  refine presX_next ?_
  refine pres_ite ?_ ?_
  · (refine updRng_pres _ _ _ ?_ (fun h => ?_); rotate_left; (first | exact h | exact Nat.zero_le _ | (simp_all; done) | (simp_all; omega)))
    assumption
  · assumption

theorem execStartupTestPass_pres {a : State} (x0 x1) (h1 : Pres a x1) : PresX a (execStartupTestPass x0 x1) := by
  unfold execStartupTestPass
  refine presX_next ?_
  refine pres_ite ?_ ?_
  · (refine updRng_pres _ _ _ ?_ (fun h => ?_); rotate_left; (first | exact h | exact Nat.zero_le _ | (simp_all; done) | (simp_all; omega)))
    assumption
  · assumption

theorem SJob_count_pres {a : State} (x0 x1 x2)  : PresM a (SJob.count x0 x1 x2) := by
  unfold SJob.count
  apply count_pres

theorem SJob_reads_pres {a : State} (x0 x1 x2)  : PresM a (SJob.reads x0 x1 x2) := by
  unfold SJob.reads
  refine presM_get_bind ?_
  intro _
  intro _
  refine presM_bind ?_ ?_
  · apply SJob_count_pres
  · intro _
    refine presM_ite ?_ ?_
    · apply SJob_count_pres
    · exact presM_pure _

theorem SJob_read_pres {a : State} (x0 x1 x2 x3)  : PresM a (SJob.read x0 x1 x2 x3) := by
  unfold SJob.read
  refine presM_get_bind ?_
  intro _
  intro _
  refine presM_bind ?_ ?_
  · apply asEngine_pres
    apply readRaw_pres
  · intro _
    exact presM_pure _

theorem SJob_node_pres {a : State} (x0 x1)  : PresM a (SJob.node x0 x1) := by
  unfold SJob.node
  refine presM_ite ?_ ?_
  · refine presM_bind ?_ ?_
    · apply SJob_count_pres
    · intro _
      exact presM_pure _
  · dsimp only
    refine presM_bind ?_ ?_
    · apply SJob_reads_pres
    · intro _
      refine presM_bind ?_ ?_
      · apply SJob_read_pres
      · intro _
        refine presM_ite ?_ ?_
        · refine presM_bind ?_ ?_
          · apply SJob_count_pres
          · intro _
            exact presM_pure _
        · exact presM_pure _

theorem SJob_block_pres {a : State} (x0 x1 x2 x3 x4 x5) : PresM a (SJob.block x0 x1 x2 x3 x4 x5) := by
  unfold SJob.block
  refine presM_bind ?_ ?_
  · apply collect_pres
    intro _
    extract_lets +onlyGivenNames y9
    clear_value y9
    refine presM_bind ?_ ?_
    · apply SJob_read_pres
    · intro _
      exact presM_pure _
  · intro _
    exact presM_pure _

theorem SJob_weightOf_pres {a : State} (x0 x1) : PresM a (SJob.weightOf x0 x1) := by
  unfold SJob.weightOf
  extract_lets +onlyGivenNames y4
  clear_value y4
  extract_lets +onlyGivenNames y5
  clear_value y5
  refine presM_ite ?_ ?_
  · refine presM_bind ?_ ?_
    · apply SJob_count_pres
    · intro _
      exact presM_pure _
  · exact presM_pure _

theorem SJob_weights_pres {a : State} (x0 x1 x2 x3) : PresM a (SJob.weights x0 x1 x2 x3) := by
  unfold SJob.weights
  refine presM_bind ?_ ?_
  · apply SJob_block_pres
  · intro _
    apply collect_pres
    intro _
    apply SJob_weightOf_pres

theorem freeEntry_pres {a : State}  : PresM a (freeEntry) := by
  unfold freeEntry
  refine presM_get_bind ?_
  intro _
  intro _
  split
  refine presM_bind ?_ ?_
  · refine presM_set ?_
    refine pres_of_pair (by assumption) ?_
    apply takeFree_pres
    assumption
  · intro _
    exact presM_pure _

theorem SJob_buildNode_pres {a : State} (x0 x1)  : PresM a (SJob.buildNode x0 x1) := by
  unfold SJob.buildNode
  refine presM_get_bind ?_
  intro _
  intro _
  refine presM_bind ?_ ?_
  · apply SJob_node_pres
  · intro _
    refine presM_ite ?_ ?_
    · refine presM_bind ?_ ?_
      · apply SJob_reads_pres
      · intro _
        refine presM_bind ?_ ?_
        · apply SJob_weights_pres
        · intro _
          extract_lets +onlyGivenNames y9
          clear_value y9
          refine presM_bind ?_ ?_
          · apply collect_pres
            intro _
            split
            · exact presM_pure _
            · apply freeEntry_pres
          · intro _
            refine presM_ite ?_ ?_
            · refine presM_bind ?_ ?_
              · apply writeLocal_pres
              · intro _
                refine presM_modify ?_
                intro _
                intro _
                apply updSlot_pres
                assumption
            · exact presM_pure _
    · exact presM_pure _

theorem SJob_build_pres {a : State} (x0) : PresM a (SJob.build x0) := by
  unfold SJob.build
  refine presM_get_bind ?_
  intro _
  intro _
  extract_lets +onlyGivenNames y5
  clear_value y5
  refine presM_ite ?_ ?_
  · apply each_pres
    intro _
    apply SJob_buildNode_pres
  · exact presM_pure _

theorem SJob_put_pres {a : State} (x0 x1 x2)  : PresM a (SJob.put x0 x1 x2) := by
  unfold SJob.put
  apply writeLocal_pres

theorem SJob_seedAt_pres {a : State} (x0 x1)  : PresM a (SJob.seedAt x0 x1) := by
  unfold SJob.seedAt
  extract_lets +onlyGivenNames y4
  clear_value y4
  refine presM_bind ?_ ?_
  · apply asEngine_pres
    apply readRaw_pres
  · intro _
    extract_lets +onlyGivenNames y6
    clear_value y6
    refine presM_bind ?_ ?_
    · apply failIf_pres
    · intro _
      exact presM_pure _

theorem SJob_assign_pres {a : State} (x0 x1 x2 x3 x4)  : PresM a (SJob.assign x0 x1 x2 x3 x4) := by
  unfold SJob.assign
  dsimp only
  refine presM_ite ?_ ?_
  · exact presM_pure _
  · refine presM_ite ?_ ?_
    · apply failWith_pres
    · refine presM_bind ?_ ?_
      · apply SJob_count_pres
      · intro _
        exact presM_pure _

theorem SJob_assignAll_pres {a : State} (x0 x1 x2 x3 x4)  : PresM a (SJob.assignAll x0 x1 x2 x3 x4) := by
  induction x4 generalizing x0 x1 x2 x3 with
  | nil =>
    unfold SJob.assignAll
    exact presM_pure _
  | cons x xs ih =>
    unfold SJob.assignAll
    refine presM_bind ?_ ?_
    · apply SJob_assign_pres
    · intro _
      dsimp only
      refine presM_ite ?_ ?_
      · refine presM_bind ?_ ?_
        · apply SJob_count_pres
        · intro _
          refine presM_bind ?_ ?_
          · apply ih
          · intro _
            exact presM_pure _
      · refine presM_bind ?_ ?_
        · apply ih
        · intro _
          exact presM_pure _

theorem SJob_gap_pres {a : State} (x0 x1 x2 x3) : PresM a (SJob.gap x0 x1 x2 x3) := by
  unfold SJob.gap
  extract_lets +onlyGivenNames y6
  clear_value y6
  refine presM_modify ?_
  intro _
  intro _
  apply wrBytes_pres
  assumption

theorem SJob_taker_pres {a : State} (x0 x1 x2) : PresM a (SJob.taker x0 x1 x2) := by
  unfold SJob.taker
  refine presM_ite ?_ ?_
  · exact presM_pure _
  · refine presM_get_bind ?_
    intro _
    intro _
    split
    refine presM_bind ?_ ?_
    · refine presM_set ?_
      refine pres_of_pair (by assumption) ?_
      apply takeFree_pres
      assumption
    · intro _
      exact presM_pure _

theorem SJob_chunked_pres {a : State} {α β : Type} (x2 : Sys2Proof.Machine.SJob) (x3 : ℕ) (x4 : Sys2Proof.Machine.SJob → α → Sys2Proof.Machine.Cm β) (x5 : List α) (h4 : ∀ s t, PresM a (x4 s t)) : PresM a (SJob.chunked x2 x3 x4 x5) := by
  unfold SJob.chunked
  refine presM_get_bind ?_
  intro _
  intro _
  extract_lets +onlyGivenNames y11
  clear_value y11
  refine presM_bind ?_ ?_
  · apply collect_pres
    intro _
    refine presM_bind ?_ ?_
    · apply SJob_taker_pres
    · intro _
      apply collect_pres
      intro _
      apply_assumption
  · intro _
    exact presM_pure _

theorem lowerBound_pres {a : State} (x0 x1 x2 x3 x4 x5) (h0 : ∀ s, PresM a (x0 s)) : PresM a (lowerBound x0 x1 x2 x3 x4 x5) := by
  induction x2 generalizing x0 x1 x3 x4 x5 with
  | zero =>
    unfold lowerBound
    exact presM_pure _
  | succ x ih =>
    unfold lowerBound
    refine presM_ite ?_ ?_
    · extract_lets +onlyGivenNames y13
      clear_value y13
      refine presM_bind ?_ ?_
      · refine presM_ite ?_ ?_
        · apply_assumption
        · exact presM_pure _
      · intro _
        extract_lets +onlyGivenNames y15
        clear_value y15
        refine presM_ite ?_ ?_
        · apply ih
          intro _
          apply_assumption
        · apply ih
          intro _
          apply_assumption
    · exact presM_pure _

theorem SJob_search_pres {a : State} (x0 x1 x2 x3 x4 x5 x6 x7 x8 x9) : PresM a (SJob.search x0 x1 x2 x3 x4 x5 x6 x7 x8 x9) := by
  unfold SJob.search
  refine presM_bind ?_ ?_
  · apply lowerBound_pres
    intro _
    refine presM_bind ?_ ?_
    · apply SJob_read_pres
    · intro _
      exact presM_pure _
  · intro _
    split
    refine presM_get_bind ?_
    intro _
    intro _
    extract_lets +onlyGivenNames y18
    clear_value y18
    refine presM_ite ?_ ?_
    · exact presM_pure _
    · exact presM_pure _

theorem SJob_range_pres {a : State} (x0 x1 x2)  : PresM a (SJob.range x0 x1 x2) := by
  unfold SJob.range
  dsimp only
  refine presM_ite ?_ ?_
  · exact presM_pure _
  · refine presM_bind ?_ ?_
    · apply SJob_reads_pres
    · intro _
      refine presM_bind ?_ ?_
      · apply SJob_search_pres
      · intro _
        refine presM_bind ?_ ?_
        · apply SJob_search_pres
        · intro _
          exact presM_pure _

theorem SJob_adjacent_pres {a : State} (x0 x1 x2 x3)  : PresM a (SJob.adjacent x0 x1 x2 x3) := by
  unfold SJob.adjacent
  refine presM_bind ?_ ?_
  · apply SJob_range_pres
  · intro _
    split
    refine presM_bind ?_ ?_
    · apply SJob_reads_pres
    · intro _
      refine presM_bind ?_ ?_
      · apply SJob_search_pres
      · intro _
        split
        refine presM_ite ?_ ?_
        · refine presM_bind ?_ ?_
          · refine presM_ite ?_ ?_
            · refine presM_bind ?_ ?_
              · apply SJob_read_pres
              · intro _
                exact presM_pure _
            · exact presM_pure _
          · intro _
            exact presM_pure _
        · exact presM_pure _

theorem SJob_attempts_pres {a : State} (x0 x1 x2 x3 x4 x5 x6 x7 x8)  : PresM a (SJob.attempts x0 x1 x2 x3 x4 x5 x6 x7 x8) := by
  induction x6 generalizing x0 x1 x2 x3 x4 x5 x7 x8 with
  | zero =>
    unfold SJob.attempts
    refine presM_bind ?_ ?_
    · apply SJob_count_pres
    · intro _
      exact presM_pure _
  | succ x ih =>
    unfold SJob.attempts
    extract_lets +onlyGivenNames y19
    clear_value y19
    extract_lets +onlyGivenNames y20
    clear_value y20
    refine presM_bind ?_ ?_
    · apply SJob_count_pres
    · intro _
      refine presM_bind ?_ ?_
      · apply SJob_reads_pres
      · intro _
        refine presM_bind ?_ ?_
        · apply SJob_read_pres
        · intro _
          refine presM_ite ?_ ?_
          · exact presM_pure _
          · extract_lets +onlyGivenNames y24
            clear_value y24
            extract_lets +onlyGivenNames y25
            clear_value y25
            extract_lets +onlyGivenNames y26
            clear_value y26
            extract_lets +onlyGivenNames y27
            clear_value y27
            refine presM_bind ?_ ?_
            · refine presM_ite ?_ ?_
              · exact presM_pure _
              · refine presM_bind ?_ ?_
                · apply SJob_adjacent_pres
                · intro _
                  exact presM_pure _
            · intro _
              refine presM_ite ?_ ?_
              · exact presM_pure _
              · apply ih

theorem SJob_weight_pres {a : State} (x0 x1 x2)  : PresM a (SJob.weight x0 x1 x2) := by
  unfold SJob.weight
  refine presM_bind ?_ ?_
  · apply SJob_read_pres
  · intro _
    apply SJob_weightOf_pres

theorem SJob_emit_pres {a : State} (x0 x1 x2 x3 x4 x5)  : PresM a (SJob.emit x0 x1 x2 x3 x4 x5) := by
  unfold SJob.emit
  refine presM_bind ?_ ?_
  · split
    · exact presM_pure _
    · refine presM_bind ?_ ?_
      · apply SJob_reads_pres
      · intro _
        apply SJob_read_pres
  · intro _
    refine presM_bind ?_ ?_
    · split
      · exact presM_pure _
      · refine presM_ite ?_ ?_
        · refine presM_bind ?_ ?_
          · apply SJob_reads_pres
          · intro _
            apply SJob_weight_pres
        · exact presM_pure _
    · intro _
      refine presM_bind ?_ ?_
      · refine presM_ite ?_ ?_
        · refine presM_bind ?_ ?_
          · apply SJob_reads_pres
          · intro _
            apply SJob_read_pres
        · exact presM_pure _
      · intro _
        exact presM_pure _

theorem SJob_walkStep_pres {a : State} (x0 x1 x2)  : PresM a (SJob.walkStep x0 x1 x2) := by
  unfold SJob.walkStep
  refine presM_ite ?_ ?_
  · exact presM_pure _
  · refine presM_bind ?_ ?_
    · apply SJob_node_pres
    · intro _
      refine presM_bind ?_ ?_
      · apply SJob_range_pres
      · intro _
        split
        refine presM_ite ?_ ?_
        · refine presM_bind ?_ ?_
          · apply SJob_count_pres
          · intro _
            refine presM_bind ?_ ?_
            · apply SJob_count_pres
            · intro _
              exact presM_pure _
        · refine presM_bind ?_ ?_
          · apply SJob_attempts_pres
          · intro _
            split
            refine presM_bind ?_ ?_
            · apply SJob_emit_pres
            · intro _
              exact presM_pure _

theorem SJob_scan_pres {a : State} (x0 x1 x2)  : PresM a (SJob.scan x0 x1 x2) := by
  unfold SJob.scan
  refine presM_bind ?_ ?_
  · apply SJob_node_pres
  · intro _
    refine presM_bind ?_ ?_
    · apply SJob_range_pres
    · intro _
      split
      refine presM_ite ?_ ?_
      · refine presM_bind ?_ ?_
        · apply SJob_count_pres
        · intro _
          exact presM_pure _
      · refine presM_bind ?_ ?_
        · apply SJob_reads_pres
        · intro _
          refine presM_bind ?_ ?_
          · apply SJob_block_pres
          · intro _
            refine presM_bind ?_ ?_
            · refine presM_ite ?_ ?_
              · exact presM_pure _
              · apply SJob_weights_pres
            · intro _
              exact presM_pure _

theorem SJob_layer_pres {a : State} (x0 x1 x2)  : PresM a (SJob.layer x0 x1 x2) := by
  unfold SJob.layer
  extract_lets +onlyGivenNames y5
  clear_value y5
  refine presM_bind ?_ ?_
  · apply failIf_pres
  · intro _
    extract_lets +onlyGivenNames y7
    clear_value y7
    extract_lets +onlyGivenNames y8
    clear_value y8
    dsimp only
    refine presM_ite ?_ ?_
    · refine presM_bind ?_ ?_
      · apply SJob_count_pres
      · intro _
        apply collect_pres
        intro _
        apply collect_pres
        intro _
        apply SJob_emit_pres
    · apply collect_pres
      intro _
      apply collect_pres
      intro _
      apply SJob_emit_pres

theorem SJob_floyd_pres {a : State} (x0 x1 x2 x3 x4 x5)  : PresM a (SJob.floyd x0 x1 x2 x3 x4 x5) := by
  unfold SJob.floyd
  dsimp only
  refine presM_ite ?_ ?_
  · apply collect_pres
    intro _
    apply SJob_emit_pres
  · refine presM_bind ?_ ?_
    · apply SJob_count_pres
    · intro _
      apply collect_pres
      intro _
      apply SJob_emit_pres

theorem SJob_inverse_pres {a : State} (x0 x1 x2 x3 x4 x5)  : PresM a (SJob.inverse x0 x1 x2 x3 x4 x5) := by
  unfold SJob.inverse
  extract_lets +onlyGivenNames y8
  clear_value y8
  refine presM_bind ?_ ?_
  · apply SJob_reads_pres
  · intro _
    refine presM_bind ?_ ?_
    · apply SJob_block_pres
    · intro _
      refine presM_bind ?_ ?_
      · apply SJob_weights_pres
      · intro _
        refine presM_ite ?_ ?_
        · refine presM_bind ?_ ?_
          · apply SJob_count_pres
          · intro _
            exact presM_pure _
        · extract_lets +onlyGivenNames y12
          clear_value y12
          extract_lets +onlyGivenNames y13
          clear_value y13
          refine presM_bind ?_ ?_
          · apply SJob_count_pres
          · intro _
            apply collect_pres
            intro _
            extract_lets +onlyGivenNames y16
            clear_value y16
            extract_lets +onlyGivenNames y17
            clear_value y17
            extract_lets +onlyGivenNames y18
            clear_value y18
            apply SJob_emit_pres

theorem SJob_aliasDraw_pres {a : State} (x0 x1 x2 x3 x4 x5)  : PresM a (SJob.aliasDraw x0 x1 x2 x3 x4 x5) := by
  unfold SJob.aliasDraw
  dsimp only
  refine presM_ite ?_ ?_
  · refine presM_bind ?_ ?_
    · apply failWith_pres
    · intro _
      refine presM_bind ?_ ?_
      · apply SJob_count_pres
      · intro _
        refine presM_bind ?_ ?_
        · apply collect_pres
          intro _
          refine presM_bind ?_ ?_
          · apply SJob_reads_pres
          · intro _
            refine presM_bind ?_ ?_
            · apply SJob_read_pres
            · intro _
              refine presM_ite ?_ ?_
              · refine presM_bind ?_ ?_
                · apply SJob_count_pres
                · intro _
                  exact presM_pure _
              · refine presM_bind ?_ ?_
                · apply SJob_emit_pres
                · intro _
                  exact presM_pure _
        · intro _
          exact presM_pure _
  · refine presM_bind ?_ ?_
    · apply SJob_count_pres
    · intro _
      refine presM_bind ?_ ?_
      · apply collect_pres
        intro _
        refine presM_bind ?_ ?_
        · apply SJob_reads_pres
        · intro _
          refine presM_bind ?_ ?_
          · apply SJob_read_pres
          · intro _
            refine presM_ite ?_ ?_
            · refine presM_bind ?_ ?_
              · apply SJob_count_pres
              · intro _
                exact presM_pure _
            · refine presM_bind ?_ ?_
              · apply SJob_emit_pres
              · intro _
                exact presM_pure _
      · intro _
        exact presM_pure _

theorem SJob_reservoir_pres {a : State} (x0 x1 x2 x3 x4 x5)  : PresM a (SJob.reservoir x0 x1 x2 x3 x4 x5) := by
  unfold SJob.reservoir
  extract_lets +onlyGivenNames y8
  clear_value y8
  refine presM_bind ?_ ?_
  · apply SJob_reads_pres
  · intro _
    refine presM_bind ?_ ?_
    · apply SJob_count_pres
    · intro _
      refine presM_bind ?_ ?_
      · apply SJob_block_pres
      · intro _
        refine presM_bind ?_ ?_
        · apply SJob_weights_pres
        · intro _
          extract_lets +onlyGivenNames y13
          clear_value y13
          apply collect_pres
          intro _
          apply SJob_emit_pres

theorem SJob_before_pres {a : State} (x0 x1 x2 x3 x4 x5 x6)  : PresM a (SJob.before x0 x1 x2 x3 x4 x5 x6) := by
  unfold SJob.before
  refine presM_bind ?_ ?_
  · apply SJob_reads_pres
  · intro _
    refine presM_bind ?_ ?_
    · apply SJob_search_pres
    · intro _
      refine presM_ite ?_ ?_
      · refine presM_bind ?_ ?_
        · apply SJob_count_pres
        · intro _
          exact presM_pure _
      · refine presM_ite ?_ ?_
        · apply collect_pres
          intro _
          apply SJob_emit_pres
        · apply SJob_floyd_pres

theorem SJob_dest_pres {a : State} (x0 x1 x2 x3)  : PresM a (SJob.dest x0 x1 x2 x3) := by
  unfold SJob.dest
  refine presM_bind ?_ ?_
  · apply SJob_node_pres
  · intro _
    refine presM_bind ?_ ?_
    · apply SJob_range_pres
    · intro _
      split
      refine presM_ite ?_ ?_
      · refine presM_bind ?_ ?_
        · apply SJob_count_pres
        · intro _
          dsimp only
          refine presM_ite ?_ ?_
          · refine presM_bind ?_ ?_
            · apply SJob_count_pres
            · intro _
              exact presM_pure _
          · exact presM_pure _
      · split
        · apply SJob_floyd_pres
        · refine presM_ite ?_ ?_
          · apply SJob_inverse_pres
          · apply SJob_aliasDraw_pres
        · apply SJob_reservoir_pres
        · apply SJob_before_pres

theorem SJob_lists_pres {a : State} (x0 x1 x2)  : PresM a (SJob.lists x0 x1 x2) := by
  unfold SJob.lists
  refine presM_ite ?_ ?_
  · refine presM_bind ?_ ?_
    · apply SJob_chunked_pres
      intro _
      intro _
      apply SJob_walkStep_pres
    · intro _
      exact presM_pure _
  · extract_lets +onlyGivenNames y5
    clear_value y5
    refine presM_bind ?_ ?_
    · refine presM_ite ?_ ?_
      · refine presM_bind ?_ ?_
        · apply SJob_chunked_pres
          intro _
          intro _
          apply SJob_scan_pres
        · intro _
          apply SJob_layer_pres
      · apply SJob_chunked_pres
        intro _
        intro _
        apply SJob_dest_pres
    · intro _
      exact presM_pure _

theorem SJob_array_pres {a : State} (x0 x1 x2 x3)  : PresM a (SJob.array x0 x1 x2 x3) := by
  unfold SJob.array
  refine presM_ite ?_ ?_
  · exact presM_pure _
  · refine presM_ite ?_ ?_
    · apply failWith_pres
    · refine presM_bind ?_ ?_
      · apply SJob_gap_pres
      · intro _
        refine presM_bind ?_ ?_
        · apply SJob_put_pres
        · intro _
          exact presM_pure _

theorem SJob_putHop_pres {a : State} (x0 x1 x2 x3)  : PresM a (SJob.putHop x0 x1 x2 x3) := by
  unfold SJob.putHop
  dsimp only
  refine presM_bind ?_ ?_
  · apply failIf_pres
  · intro _
    refine presM_bind ?_ ?_
    · apply SJob_assignAll_pres
    · intro _
      refine presM_bind ?_ ?_
      · apply SJob_array_pres
      · intro _
        refine presM_bind ?_ ?_
        · apply SJob_array_pres
        · intro _
          refine presM_bind ?_ ?_
          · apply SJob_array_pres
          · intro _
            refine presM_bind ?_ ?_
            · apply SJob_array_pres
            · intro _
              refine presM_bind ?_ ?_
              · apply SJob_array_pres
              · intro _
                refine presM_bind ?_ ?_
                · apply SJob_array_pres
                · intro _
                  refine presM_bind ?_ ?_
                  · apply SJob_array_pres
                  · intro _
                    refine presM_bind ?_ ?_
                    · apply SJob_array_pres
                    · intro _
                      exact presM_pure _

theorem SJob_runHops_pres {a : State} (x0 x1 x2 x3)  : PresM a (SJob.runHops x0 x1 x2 x3) := by
  induction x1 generalizing x0 x2 x3 with
  | zero =>
    unfold SJob.runHops
    exact presM_pure _
  | succ x ih =>
    unfold SJob.runHops
    refine presM_bind ?_ ?_
    · apply SJob_lists_pres
    · intro _
      dsimp only
      refine presM_bind ?_ ?_
      · apply SJob_putHop_pres
      · intro _
        apply ih

theorem SJob_trellis_pres {a : State} (x0)  : PresM a (SJob.trellis x0) := by
  unfold SJob.trellis
  refine presM_bind ?_ ?_
  · apply SJob_put_pres
  · intro _
    refine presM_bind ?_ ?_
    · apply failIf_pres
    · intro _
      refine presM_bind ?_ ?_
      · apply collect_pres
        intro _
        apply SJob_seedAt_pres
      · intro _
        refine presM_bind ?_ ?_
        · apply SJob_assignAll_pres
        · intro _
          split
          refine presM_bind ?_ ?_
          · apply SJob_put_pres
          · intro _
            refine presM_bind ?_ ?_
            · apply SJob_gap_pres
            · intro _
              dsimp only
              refine presM_bind ?_ ?_
              · apply SJob_runHops_pres
              · intro _
                refine presM_bind ?_ ?_
                · apply SJob_put_pres
                · intro _
                  refine presM_bind ?_ ?_
                  · apply SJob_gap_pres
                  · intro _
                    refine presM_ite ?_ ?_
                    · refine presM_bind ?_ ?_
                      · apply SJob_put_pres
                      · intro _
                        refine presM_bind ?_ ?_
                        · apply SJob_gap_pres
                        · intro _
                          refine presM_bind ?_ ?_
                          · apply each_pres
                            intro _
                            apply SJob_put_pres
                          · intro _
                            refine presM_bind ?_ ?_
                            · apply SJob_put_pres
                            · intro _
                              refine presM_bind ?_ ?_
                              · apply SJob_put_pres
                              · intro _
                                exact presM_pure _
                    · refine presM_bind ?_ ?_
                      · apply each_pres
                        intro _
                        apply SJob_put_pres
                      · intro _
                        refine presM_bind ?_ ?_
                        · apply SJob_put_pres
                        · intro _
                          refine presM_bind ?_ ?_
                          · apply SJob_put_pres
                          · intro _
                            exact presM_pure _

theorem SJob_serve_pres {a : State} (x0)  : PresM a (SJob.serve x0) := by
  unfold SJob.serve
  refine presM_fun ?_
  intro _
  intro _
  split
  · dsimp only [resState]
    apply updSlot_pres
    apply scramble_pres
    refine presM_ok (by assumption) ?_ ?_
    · apply SJob_trellis_pres
    · assumption
  · split
    · dsimp only [resState]
      refine presM_error (by assumption) ?_ ?_
      · apply SJob_trellis_pres
      · assumption
    · dsimp only [resState]
      apply updSlot_pres
      apply updOp_pres
      apply wrB_pres
      refine presM_error (by assumption) ?_ ?_
      · apply SJob_trellis_pres
      · assumption

theorem smpFinish_pres {a : State} (x0 x1) (h0 : Pres a x0) : Pres a (smpFinish x0 x1) := by
  unfold smpFinish
  split
  · refine pres_ite ?_ ?_
    · assumption
    · apply serveOp_pres
      · assumption
      · intro _
        intro _
        refine presM_get_bind ?_
        intro _
        intro _
        refine presM_bind ?_ ?_
        · refine presM_ite ?_ ?_
          · apply SJob_build_pres
          · apply SJob_serve_pres
        · intro _
          refine presM_modify ?_
          intro _
          intro _
          apply updOp_pres
          refine pres_mk_of ?_ rfl rfl rfl rfl rfl
          assumption
  · assumption

theorem tileWork_pres {a : State} (x0 x1 x2) (h0 : Pres a x0) : Pres a (tileWork x0 x1 x2) := by
  unfold tileWork
  extract_lets +onlyGivenNames y6
  (refine pres_absorb (a := a) y6 ?_ (fun _ => ?_); rotate_left; clear_value y6; rotate_right)
  · dsimp only [y6]
    apply pumpTiles_pres
    apply pumpRefills_pres
    assumption
  · split
    · assumption
    · refine pres_ite ?_ ?_
      · assumption
      · apply pumpTiles_pres
        apply tileStep_pres
        assumption

theorem selFinish_pres {a : State} (x0 x1 x2) (h0 : Pres a x0) : Pres a (selFinish x0 x1 x2) := by
  unfold selFinish
  extract_lets +onlyGivenNames y6
  (refine pres_absorb (a := a) y6 ?_ (fun _ => ?_); rotate_left; clear_value y6; rotate_right)
  · dsimp only [y6]
    apply selTurn_pres
    assumption
  · apply updOp_pres
    assumption

theorem mergeFinish_pres {a : State} (x0 x1) (h0 : Pres a x0) : Pres a (mergeFinish x0 x1) := by
  unfold mergeFinish
  have h1 : Pres a (pavs.foldl mergeTurn x0) := by
    refine pres_foldl ?_ ?_
    · assumption
    · intro _
      intro _
      intro _
      apply mergeTurn_pres
      assumption
  revert h1
  generalize pavs.foldl mergeTurn x0 = y
  intro h1
  dsimp only
  split
  · refine pres_foldl ?_ ?_
    · apply updOp_pres
      assumption
    · intro _
      intro _
      intro _
      apply mergeTurn_pres
      assumption
  · assumption

theorem finishWork_pres {a : State} (x0 x1) (h0 : Pres a x0) : Pres a (finishWork x0 x1) := by
  unfold finishWork
  split
  · split
    · apply smpFinish_pres
      assumption
    · apply tileWork_pres
      assumption
    · apply tileWork_pres
      assumption
    · apply rowPump_pres
      assumption
    · apply selFinish_pres
      assumption
    · apply mergeFinish_pres
      assumption
    · assumption
  · assumption

theorem afterOp_pres {a : State} (x0 x1) (h0 : Pres a x0) : Pres a (afterOp x0 x1) := by
  unfold afterOp
  split
  · refine pres_foldl ?_ ?_
    · assumption
    · intro _
      intro _
      intro _
      apply rowPump_pres
      assumption
  · apply vecPump_pres
    assumption
  · apply selEnd_pres
    assumption
  · assumption

theorem frameDone_pres {a : State} (x0 x1) (h0 : Pres a x0) : Pres a (frameDone x0 x1) := by
  unfold frameDone
  apply wrB_pres
  assumption

theorem completeOp_pres {a : State} (x0 x1 x2) (h0 : Pres a x0) : Pres a (completeOp x0 x1 x2) := by
  unfold completeOp
  dsimp only
  split
  · refine pres_ite ?_ ?_
    · refine pres_ite ?_ ?_
      · apply frameDone_pres
        split
        · apply sendTarget_pres
          refine pres_foldl ?_ ?_
          · apply dropOp_pres
            assumption
          · intro _
            intro _
            intro _
            apply bump_pres
            assumption
        · refine pres_foldl ?_ ?_
          · apply dropOp_pres
            assumption
          · intro _
            intro _
            intro _
            apply bump_pres
            assumption
      · split
        · apply sendTarget_pres
          refine pres_foldl ?_ ?_
          · apply dropOp_pres
            assumption
          · intro _
            intro _
            intro _
            apply bump_pres
            assumption
        · refine pres_foldl ?_ ?_
          · apply dropOp_pres
            assumption
          · intro _
            intro _
            intro _
            apply bump_pres
            assumption
    · apply updThr_pres
      split
      · apply setThrReg_pres
        split
        · apply sendTarget_pres
          refine pres_foldl ?_ ?_
          · apply dropOp_pres
            assumption
          · intro _
            intro _
            intro _
            apply bump_pres
            assumption
        · refine pres_foldl ?_ ?_
          · apply dropOp_pres
            assumption
          · intro _
            intro _
            intro _
            apply bump_pres
            assumption
      · split
        · apply sendTarget_pres
          refine pres_foldl ?_ ?_
          · apply dropOp_pres
            assumption
          · intro _
            intro _
            intro _
            apply bump_pres
            assumption
        · refine pres_foldl ?_ ?_
          · apply dropOp_pres
            assumption
          · intro _
            intro _
            intro _
            apply bump_pres
            assumption
  · apply postFor_pres
    split
    · apply sendTarget_pres
      refine pres_foldl ?_ ?_
      · apply dropOp_pres
        assumption
      · intro _
        intro _
        intro _
        apply bump_pres
        assumption
    · refine pres_foldl ?_ ?_
      · apply dropOp_pres
        assumption
      · intro _
        intro _
        intro _
        apply bump_pres
        assumption

theorem execCommandCompletion_pres {a : State} (x0 x1) (h1 : Pres a x1) : PresX a (execCommandCompletion x0 x1) := by
  unfold execCommandCompletion
  refine presX_next ?_
  extract_lets +onlyGivenNames y5
  (refine pres_absorb (a := a) y5 ?_ (fun _ => ?_); rotate_left; clear_value y5; rotate_right)
  · dsimp only [y5]
    apply finishWork_pres
    assumption
  · split
    · refine pres_ite ?_ ?_
      · apply afterOp_pres
        apply completeOp_pres
        assumption
      · assumption
    · assumption

theorem execUndefinedOpcode_pres {a : State} (x0 x1 x2) (h2 : Pres a x2) : PresX a (execUndefinedOpcode x0 x1 x2) := by
  unfold execUndefinedOpcode
  dsimp only
  split
  · exact presX_fault _
  · split
    · exact presX_refused _
    · refine presX_next ?_
      split
      · refine pres_ite ?_ ?_
        · apply faultTask_pres
          assumption
        · assumption
      · split
        · assumption
        · apply qFault_pres
          apply qPop_pres
          assumption

theorem execConfigurationRequest_pres {a : State} (x0 x1 x2 x3) (h3 : Pres a x3) : PresX a (execConfigurationRequest x0 x1 x2 x3) := by
  unfold execConfigurationRequest
  refine presX_next ?_
  refine pres_ite ?_ ?_
  · assumption
  · refine pres_ite ?_ ?_
    · apply emit_pres
      assumption
    · dsimp only
      apply emit_pres
      split
      · refine pres_ite ?_ ?_
        · assumption
        · refine pres_mk_of ?_ rfl rfl rfl rfl rfl
          assumption
      · assumption

theorem execMsixTableWrite_pres {a : State} (x0 x1 x2 x3 x4) (h4 : Pres a x4) : PresX a (execMsixTableWrite x0 x1 x2 x3 x4) := by
  unfold execMsixTableWrite
  refine presX_next ?_
  dsimp only
  refine pres_ite ?_ ?_
  · apply interrupt_pres
    refine pres_mk_of ?_ rfl rfl rfl rfl rfl
    apply barAccess_pres
    assumption
  · refine pres_mk_of ?_ rfl rfl rfl rfl rfl
    apply barAccess_pres
    assumption

theorem execPcieLinkChange_pres {a : State} (x0 x1 x2 x3 x4 x5) (h5 : Pres a x5) : PresX a (execPcieLinkChange x0 x1 x2 x3 x4 x5) := by
  unfold execPcieLinkChange
  refine presX_next ?_
  refine pres_ite ?_ ?_
  · assumption
  · dsimp only
    refine pres_mk_of ?_ rfl rfl rfl rfl rfl
    assumption

theorem execHotRelease_pres {a : State} (x0 x1) (h1 : Pres a x1) : PresX a (execHotRelease x0 x1) := by
  unfold execHotRelease
  refine presX_next ?_
  refine pres_ite ?_ ?_
  · assumption
  · split
    dsimp only
    refine pres_ite ?_ ?_
    · apply refresh_pres
      apply setTemp_pres
      apply updPower_pres
      refine pres_of_pair (by assumption) ?_
      apply takeFree_pres
      assumption
    · apply setTemp_pres
      apply updPower_pres
      refine pres_of_pair (by assumption) ?_
      apply takeFree_pres
      assumption

theorem execElectricalProtectionPeriod_pres {a : State} (x0 x1) (h1 : Pres a x1) : PresX a (execElectricalProtectionPeriod x0 x1) := by
  unfold execElectricalProtectionPeriod
  refine presX_next ?_
  refine pres_ite ?_ ?_
  · assumption
  · refine pres_ite ?_ ?_
    · apply electricalStep_pres
      assumption
    · refine pres_ite ?_ ?_
      · apply refreshAll_pres
        apply updPower_pres
        assumption
      · apply updPower_pres
        assumption

theorem execReferenceRestored_pres {a : State} (x0) (h0 : Pres a x0) : PresX a (execReferenceRestored x0) := by
  unfold execReferenceRestored
  refine presX_next ?_
  refine pres_ite ?_ ?_
  · assumption
  · apply updPower_pres
    assumption

theorem execSupplyRemoved_pres {a : State} (x0) (h0 : Pres a x0) : PresX a (execSupplyRemoved x0) := by
  unfold execSupplyRemoved
  refine presX_next ?_
  dsimp only
  refine pres_mk_of ?_ rfl rfl rfl rfl rfl
  apply baseState_pres
  assumption

theorem execGatehousePairFailure_pres {a : State} (x0) (h0 : Pres a x0) : PresX a (execGatehousePairFailure x0) := by
  unfold execGatehousePairFailure
  refine presX_next ?_
  split
  · apply addRecord_pres
    apply updGate_pres
    assumption
  · apply notReady_pres
    apply updGate_pres
    assumption
  · assumption

theorem exec_pres {a : State} (x0 x1) (h1 : Pres a x1) : PresX a (exec x0 x1) := by
  unfold exec
  split
  · apply execNop_pres
    assumption
  · apply execStmCopy_pres
    assumption
  · apply execStmLoad_pres
    assumption
  · apply execStmStore_pres
    assumption
  · apply execStmStoreEnc_pres
    assumption
  · apply execStmFill_pres
    assumption
  · apply execStmLoadreg_pres
    assumption
  · apply execStmStorereg_pres
    assumption
  · apply execDnsLoadW_pres
    assumption
  · apply execDnsMm_pres
    assumption
  · apply execDnsDrain_pres
    assumption
  · apply execDnsAttnScore_pres
    assumption
  · apply execDnsAttnValue_pres
    assumption
  · apply execDnsTileSave_pres
    assumption
  · apply execDnsTileRestore_pres
    assumption
  · apply execSpsBm64_pres
    assumption
  · apply execSpsCoo16_pres
    assumption
  · apply execSpsSegment_pres
    assumption
  · apply execSpsAuto_pres
    assumption
  · apply execVecMap_pres
    assumption
  · apply execVecSoftmax_pres
    assumption
  · apply execVecNorm_pres
    assumption
  · apply execVecCast_pres
    assumption
  · apply execVecPartialAdd_pres
    assumption
  · apply execVecReduce_pres
    assumption
  · apply execNumBind_pres
    assumption
  · apply execSmpUniform_pres
    assumption
  · apply execSmpAlias_pres
    assumption
  · apply execSmpReservoir_pres
    assumption
  · apply execSmpLayerwise_pres
    assumption
  · apply execSmpWalk2_pres
    assumption
  · apply execSmpTemporal_pres
    assumption
  · apply execSmpAliasBuild_pres
    assumption
  · apply execRowGather_pres
    assumption
  · apply execRowGatherPool_pres
    assumption
  · apply execRowScatter_pres
    assumption
  · apply execRowMergeFlush_pres
    assumption
  · apply execRowMove_pres
    assumption
  · apply execRowPopRead_pres
    assumption
  · apply execColReduce_pres
    assumption
  · apply execColAllreduce_pres
    assumption
  · apply execColReduceScatter_pres
    assumption
  · apply execColAllgather_pres
    assumption
  · apply execRngFill_pres
    assumption
  · apply execRngLiteFill_pres
    assumption
  · apply execRngNoiseRead_pres
    assumption
  · apply execSelScan_pres
    assumption
  · apply execSelDraw_pres
    assumption
  · apply execHdgLoad_pres
    assumption
  · apply execHdgPredict_pres
    assumption
  · apply execHdgAuditRead_pres
    assumption
  · apply execTask_pres
    assumption
  · apply execSignal_pres
    assumption
  · apply execFence_pres
    assumption
  · apply execAtomic_pres
    assumption
  · apply execCancel_pres
    assumption
  · apply execMgrMsg_pres
    assumption
  · apply execEndThread_pres
    assumption
  · apply execPrioSet_pres
    assumption
  · apply execFlagSet_pres
    assumption
  · apply execPlacement_pres
    assumption
  · apply execPreemptionCheck_pres
    assumption
  · apply execQuantumEnd_pres
    assumption
  · apply execHeadReserve_pres
    assumption
  · apply execContextSave_pres
    assumption
  · apply execTaskDone_pres
    assumption
  · apply execOrderedRelease_pres
    assumption
  · apply execCoolingEnd_pres
    assumption
  · apply execHubSegmentPlace_pres
    assumption
  · apply execHubPartialAdd_pres
    assumption
  · apply execProfile_pres
    assumption
  · apply execJobStart_pres
    assumption
  · apply execStepOpen_pres
    assumption
  · apply execOpenPrepare_pres
    assumption
  · apply execOpenGo_pres
    assumption
  · apply execStepSeal_pres
    assumption
  · apply execStageAck_pres
    assumption
  · apply execStepCommit_pres
    assumption
  · apply execStepAbort_pres
    assumption
  · apply execApplied_pres
    assumption
  · apply execTaint_pres
    assumption
  · apply execCheckpoint_pres
    assumption
  · apply execHeartbeat_pres
    assumption
  · apply execHeartbeatTick_pres
    assumption
  · apply execHeartbeatMiss_pres
    assumption
  · apply execLost_pres
    assumption
  · apply execHalt_pres
    assumption
  · apply execResume_pres
    assumption
  · apply execRemap_pres
    assumption
  · apply execRebuild_pres
    assumption
  · apply execMirrorReset_pres
    assumption
  · apply execDecision_pres
    assumption
  · apply execMgrResendTimeout_pres
    assumption
  · apply execStandbyTakeover_pres
    assumption
  · apply execProfileActivation_pres
    assumption
  · apply execDataFlit_pres
    assumption
  · apply execIdleFlit_pres
    assumption
  · apply execNak_pres
    assumption
  · apply execNakRepeat_pres
    assumption
  · apply execAckInterval_pres
    assumption
  · apply execFlitSlot_pres
    assumption
  · apply execForward_pres
    assumption
  · apply execRead_pres
    assumption
  · apply execWrite_pres
    assumption
  · apply execFabricAtomic_pres
    assumption
  · apply execFabricSignal_pres
    assumption
  · apply execRowFetch_pres
    assumption
  · apply execRowCheck_pres
    assumption
  · apply execRowUpdate_pres
    assumption
  · apply execJournal_pres
    assumption
  · apply execColl_pres
    assumption
  · apply execReplyData_pres
    assumption
  · apply execReplyAck_pres
    assumption
  · apply execLinkTrained_pres
    assumption
  · apply execLinkReset_pres
    assumption
  · apply execSqTail_pres
    assumption
  · apply execCqHead_pres
    assumption
  · apply execRingFetch_pres
    assumption
  · apply execCompletionRecord_pres
    assumption
  · apply execCqCoalTimer_pres
    assumption
  · apply execFunctionLevelReset_pres
    assumption
  · apply execHotReset_pres
    assumption
  · apply execApertureRead_pres
    assumption
  · apply execApertureWrite_pres
    assumption
  · apply execXlateInv_pres
    assumption
  · apply execXlateInvDone_pres
    assumption
  · apply execFwStart_pres
    assumption
  · apply execFwUpdateDone_pres
    assumption
  · apply execCommitSvn_pres
    assumption
  · apply execCommit_pres
    assumption
  · apply execCommitApply_pres
    assumption
  · apply execCtrlEnable_pres
    assumption
  · apply execFenceReq_pres
    assumption
  · apply execExpertUnlock_pres
    assumption
  · apply execExpertRelock_pres
    assumption
  · apply execSoftReset_pres
    assumption
  · apply execErrInject_pres
    assumption
  · apply execCntClear_pres
    assumption
  · apply execErrLatchClear_pres
    assumption
  · apply execFaultAck_pres
    assumption
  · apply execRegisterLoRead_pres
    assumption
  · apply execSeedDrawLo_pres
    assumption
  · apply execNearRetireCmd_pres
    assumption
  · apply execFarRetireCmd_pres
    assumption
  · apply execPavReqRun_pres
    assumption
  · apply execPavReqHold_pres
    assumption
  · apply execPavReqNap_pres
    assumption
  · apply execModReqRun_pres
    assumption
  · apply execModReqHold_pres
    assumption
  · apply execModReqNap_pres
    assumption
  · apply execModReqRest_pres
    assumption
  · apply execModReqDormant_pres
    assumption
  · apply execTestModeEnter_pres
    assumption
  · apply execTestModeExit_pres
    assumption
  · apply execNoiseClear_pres
    assumption
  · apply execBlvSnapshot_pres
    assumption
  · apply execSnapPeriodTick_pres
    assumption
  · apply execRegisterWrite_pres
    assumption
  · apply execTagBusyRetry_pres
    assumption
  · apply execStmPieceIssue_pres
    assumption
  · apply execGatePoll_pres
    assumption
  · apply execPartialArrival_pres
    assumption
  · apply execVecOperation_pres
    assumption
  · apply execGroupSummary_pres
    assumption
  · apply execSmpGangJoin_pres
    assumption
  · apply execHomeApplied_pres
    assumption
  · apply execModuleStepApplied_pres
    assumption
  · apply execApplyStart_pres
    assumption
  · apply execApplyResume_pres
    assumption
  · apply execStagedUpdateRelease_pres
    assumption
  · apply execHdgGrant_pres
    assumption
  · apply execHdgGrantSplit_pres
    assumption
  · apply execSelGrantSplit_pres
    assumption
  · apply execMergeGrantSplit_pres
    assumption
  · apply execPatrolScrub_pres
    assumption
  · apply execRetireCopyDone_pres
    assumption
  · apply execZeroingDone_pres
    assumption
  · apply execPinLoad_pres
    assumption
  · apply execDirtyWriteback_pres
    assumption
  · apply execChannelGroupReset_pres
    assumption
  · apply execCoreReset_pres
    assumption
  · apply execPavilionReset_pres
    assumption
  · apply execBlockPageReset_pres
    assumption
  · apply execResetDone_pres
    assumption
  · apply execReadRetry_pres
    assumption
  · apply execRequestTimeout_pres
    assumption
  · apply execHangDetect_pres
    assumption
  · apply execInternalStateError_pres
    assumption
  · apply execGatehouseTakeover_pres
    assumption
  · apply execDroop_pres
    assumption
  · apply execThermalHot_pres
    assumption
  · apply execThermalTrip_pres
    assumption
  · apply execElectricalOverload_pres
    assumption
  · apply execInputVoltageFault_pres
    assumption
  · apply execThermalLoopPeriod_pres
    assumption
  · apply execPowerLoopPeriod_pres
    assumption
  · apply execAutoHold_pres
    assumption
  · apply execPavilionWake_pres
    assumption
  · apply execModuleWake_pres
    assumption
  · apply execDutyWindow_pres
    assumption
  · apply execDividerChange_pres
    assumption
  · apply execPllLockLoss_pres
    assumption
  · apply execPllRelock_pres
    assumption
  · apply execReferenceLoss_pres
    assumption
  · apply execReferenceHoldoverExpiry_pres
    assumption
  · apply execPowerOn_pres
    assumption
  · apply execPerst_pres
    assumption
  · apply execSmbusCommand_pres
    assumption
  · apply execMgmtDatagram_pres
    assumption
  · apply execNoiseBlock_pres
    assumption
  · apply execHealthTestFail_pres
    assumption
  · apply execNoiseRestart_pres
    assumption
  · apply execStartupTestPass_pres
    assumption
  · apply execCommandCompletion_pres
    assumption
  · apply execUndefinedOpcode_pres
    assumption
  · apply execConfigurationRequest_pres
    assumption
  · apply execMsixTableWrite_pres
    assumption
  · apply execPcieLinkChange_pres
    assumption
  · apply execHotRelease_pres
    assumption
  · apply execElectricalProtectionPeriod_pres
    assumption
  · apply execReferenceRestored_pres
    assumption
  · apply execSupplyRemoved_pres
    assumption
  · apply execGatehousePairFailure_pres
    assumption

end Sys2Proof.Machine
end

