-- ==== Sys2Proof/Laws/State.lean ====
section
/-!
SUPPORT. What each named update of the state leaves as it was, a field at a time, and what the tables that it changes read as afterwards.
-/
namespace Sys2Proof.Machine
open Sys2Proof

/-! ### `updPage` -/

section updPage
variable (s : State) (n : Nat) (f : Page → Page)
@[simp] theorem updPage_pending : (updPage s n f).pending = s.pending := rfl
@[simp] theorem updPage_part : (updPage s n f).part = s.part := rfl
@[simp] theorem updPage_mem : (updPage s n f).mem = s.mem := rfl
@[simp] theorem updPage_hostMem : (updPage s n f).hostMem = s.hostMem := rfl
@[simp] theorem updPage_tags : (updPage s n f).tags = s.tags := rfl
@[simp] theorem updPage_poison : (updPage s n f).poison = s.poison := rfl
@[simp] theorem updPage_regs : (updPage s n f).regs = s.regs := rfl
@[simp] theorem updPage_doms : (updPage s n f).doms = s.doms := rfl
@[simp] theorem updPage_slots : (updPage s n f).slots = s.slots := rfl
@[simp] theorem updPage_accepts : (updPage s n f).accepts = s.accepts := rfl
@[simp] theorem updPage_aflows : (updPage s n f).aflows = s.aflows := rfl
@[simp] theorem updPage_oflows : (updPage s n f).oflows = s.oflows := rfl
@[simp] theorem updPage_heads : (updPage s n f).heads = s.heads := rfl
@[simp] theorem updPage_thrs : (updPage s n f).thrs = s.thrs := rfl
@[simp] theorem updPage_ops : (updPage s n f).ops = s.ops := rfl
@[simp] theorem updPage_nextOp : (updPage s n f).nextOp = s.nextOp := rfl
@[simp] theorem updPage_reqs : (updPage s n f).reqs = s.reqs := rfl
@[simp] theorem updPage_nextReq : (updPage s n f).nextReq = s.nextReq := rfl
@[simp] theorem updPage_sqs : (updPage s n f).sqs = s.sqs := rfl
@[simp] theorem updPage_cqs : (updPage s n f).cqs = s.cqs := rfl
@[simp] theorem updPage_tagWait : (updPage s n f).tagWait = s.tagWait := rfl
@[simp] theorem updPage_applied : (updPage s n f).applied = s.applied := rfl
@[simp] theorem updPage_lastOpen : (updPage s n f).lastOpen = s.lastOpen := rfl
@[simp] theorem updPage_steps : (updPage s n f).steps = s.steps := rfl
@[simp] theorem updPage_dutyHeld : (updPage s n f).dutyHeld = s.dutyHeld := rfl
@[simp] theorem updPage_sets : (updPage s n f).sets = s.sets := rfl
@[simp] theorem updPage_msix : (updPage s n f).msix = s.msix := rfl
@[simp] theorem updPage_pcie : (updPage s n f).pcie = s.pcie := rfl
@[simp] theorem updPage_xlate : (updPage s n f).xlate = s.xlate := rfl
@[simp] theorem updPage_xlateInv : (updPage s n f).xlateInv = s.xlateInv := rfl
@[simp] theorem updPage_txq : (updPage s n f).txq = s.txq := rfl
@[simp] theorem updPage_streams : (updPage s n f).streams = s.streams := rfl
@[simp] theorem updPage_links : (updPage s n f).links = s.links := rfl
@[simp] theorem updPage_inbox : (updPage s n f).inbox = s.inbox := rfl
@[simp] theorem updPage_out : (updPage s n f).out = s.out := rfl
@[simp] theorem updPage_testMode : (updPage s n f).testMode = s.testMode := rfl
@[simp] theorem updPage_rngs : (updPage s n f).rngs = s.rngs := rfl
@[simp] theorem updPage_noiseCount : (updPage s n f).noiseCount = s.noiseCount := rfl
@[simp] theorem updPage_numSlots : (updPage s n f).numSlots = s.numSlots := rfl
@[simp] theorem updPage_sums : (updPage s n f).sums = s.sums := rfl
@[simp] theorem updPage_strms : (updPage s n f).strms = s.strms := rfl
@[simp] theorem updPage_dense : (updPage s n f).dense = s.dense := rfl
@[simp] theorem updPage_walks : (updPage s n f).walks = s.walks := rfl
@[simp] theorem updPage_hubs : (updPage s n f).hubs = s.hubs := rfl
@[simp] theorem updPage_nextHub : (updPage s n f).nextHub = s.nextHub := rfl
@[simp] theorem updPage_hslots : (updPage s n f).hslots = s.hslots := rfl
@[simp] theorem updPage_hworks : (updPage s n f).hworks = s.hworks := rfl
@[simp] theorem updPage_vworks : (updPage s n f).vworks = s.vworks := rfl
@[simp] theorem updPage_replay : (updPage s n f).replay = s.replay := rfl
@[simp] theorem updPage_saves : (updPage s n f).saves = s.saves := rfl
@[simp] theorem updPage_objs : (updPage s n f).objs = s.objs := rfl
@[simp] theorem updPage_sworks : (updPage s n f).sworks = s.sworks := rfl
@[simp] theorem updPage_dworks : (updPage s n f).dworks = s.dworks := rfl
@[simp] theorem updPage_rcache : (updPage s n f).rcache = s.rcache := rfl
@[simp] theorem updPage_pinRefused : (updPage s n f).pinRefused = s.pinRefused := rfl
@[simp] theorem updPage_chans : (updPage s n f).chans = s.chans := rfl
@[simp] theorem updPage_spares : (updPage s n f).spares = s.spares := rfl
@[simp] theorem updPage_latches : (updPage s n f).latches = s.latches := rfl
@[simp] theorem updPage_gworks : (updPage s n f).gworks = s.gworks := rfl
@[simp] theorem updPage_moves : (updPage s n f).moves = s.moves := rfl
@[simp] theorem updPage_bcache : (updPage s n f).bcache = s.bcache := rfl
@[simp] theorem updPage_pops : (updPage s n f).pops = s.pops := rfl
@[simp] theorem updPage_homes : (updPage s n f).homes = s.homes := rfl
@[simp] theorem updPage_heldRows : (updPage s n f).heldRows = s.heldRows := rfl
@[simp] theorem updPage_moved : (updPage s n f).moved = s.moved := rfl
@[simp] theorem updPage_mwins : (updPage s n f).mwins = s.mwins := rfl
@[simp] theorem updPage_origins : (updPage s n f).origins = s.origins := rfl
@[simp] theorem updPage_flushKeys : (updPage s n f).flushKeys = s.flushKeys := rfl
@[simp] theorem updPage_parts : (updPage s n f).parts = s.parts := rfl
@[simp] theorem updPage_journal : (updPage s n f).journal = s.journal := rfl
@[simp] theorem updPage_jtail : (updPage s n f).jtail = s.jtail := rfl
@[simp] theorem updPage_jseq : (updPage s n f).jseq = s.jseq := rfl
@[simp] theorem updPage_jckpt : (updPage s n f).jckpt = s.jckpt := rfl
@[simp] theorem updPage_sqSlots : (updPage s n f).sqSlots = s.sqSlots := rfl
@[simp] theorem updPage_nearRetired : (updPage s n f).nearRetired = s.nearRetired := rfl
@[simp] theorem updPage_power : (updPage s n f).power = s.power := rfl
@[simp] theorem updPage_fw : (updPage s n f).fw = s.fw := rfl
@[simp] theorem updPage_gate : (updPage s n f).gate = s.gate := rfl
@[simp] theorem updPage_colls : (updPage s n f).colls = s.colls := rfl
@[simp] theorem updPage_snapSeq : (updPage s n f).snapSeq = s.snapSeq := rfl
@[simp] theorem updPage_cfgFail : (updPage s n f).cfgFail = s.cfgFail := rfl
@[simp] theorem updPage_lost : (updPage s n f).lost = s.lost := rfl
@[simp] theorem updPage_fresh : (updPage s n f).fresh = s.fresh := rfl
end updPage

/-! ### `updDom` -/

section updDom
variable (s : State) (k : Nat) (f : Domain → Domain)
@[simp] theorem updDom_pending : (updDom s k f).pending = s.pending := rfl
@[simp] theorem updDom_part : (updDom s k f).part = s.part := rfl
@[simp] theorem updDom_mem : (updDom s k f).mem = s.mem := rfl
@[simp] theorem updDom_hostMem : (updDom s k f).hostMem = s.hostMem := rfl
@[simp] theorem updDom_tags : (updDom s k f).tags = s.tags := rfl
@[simp] theorem updDom_poison : (updDom s k f).poison = s.poison := rfl
@[simp] theorem updDom_regs : (updDom s k f).regs = s.regs := rfl
@[simp] theorem updDom_pages : (updDom s k f).pages = s.pages := rfl
@[simp] theorem updDom_slots : (updDom s k f).slots = s.slots := rfl
@[simp] theorem updDom_accepts : (updDom s k f).accepts = s.accepts := rfl
@[simp] theorem updDom_aflows : (updDom s k f).aflows = s.aflows := rfl
@[simp] theorem updDom_oflows : (updDom s k f).oflows = s.oflows := rfl
@[simp] theorem updDom_heads : (updDom s k f).heads = s.heads := rfl
@[simp] theorem updDom_thrs : (updDom s k f).thrs = s.thrs := rfl
@[simp] theorem updDom_ops : (updDom s k f).ops = s.ops := rfl
@[simp] theorem updDom_nextOp : (updDom s k f).nextOp = s.nextOp := rfl
@[simp] theorem updDom_reqs : (updDom s k f).reqs = s.reqs := rfl
@[simp] theorem updDom_nextReq : (updDom s k f).nextReq = s.nextReq := rfl
@[simp] theorem updDom_sqs : (updDom s k f).sqs = s.sqs := rfl
@[simp] theorem updDom_cqs : (updDom s k f).cqs = s.cqs := rfl
@[simp] theorem updDom_tagWait : (updDom s k f).tagWait = s.tagWait := rfl
@[simp] theorem updDom_applied : (updDom s k f).applied = s.applied := rfl
@[simp] theorem updDom_lastOpen : (updDom s k f).lastOpen = s.lastOpen := rfl
@[simp] theorem updDom_steps : (updDom s k f).steps = s.steps := rfl
@[simp] theorem updDom_dutyHeld : (updDom s k f).dutyHeld = s.dutyHeld := rfl
@[simp] theorem updDom_sets : (updDom s k f).sets = s.sets := rfl
@[simp] theorem updDom_msix : (updDom s k f).msix = s.msix := rfl
@[simp] theorem updDom_pcie : (updDom s k f).pcie = s.pcie := rfl
@[simp] theorem updDom_xlate : (updDom s k f).xlate = s.xlate := rfl
@[simp] theorem updDom_xlateInv : (updDom s k f).xlateInv = s.xlateInv := rfl
@[simp] theorem updDom_txq : (updDom s k f).txq = s.txq := rfl
@[simp] theorem updDom_streams : (updDom s k f).streams = s.streams := rfl
@[simp] theorem updDom_links : (updDom s k f).links = s.links := rfl
@[simp] theorem updDom_inbox : (updDom s k f).inbox = s.inbox := rfl
@[simp] theorem updDom_out : (updDom s k f).out = s.out := rfl
@[simp] theorem updDom_testMode : (updDom s k f).testMode = s.testMode := rfl
@[simp] theorem updDom_rngs : (updDom s k f).rngs = s.rngs := rfl
@[simp] theorem updDom_noiseCount : (updDom s k f).noiseCount = s.noiseCount := rfl
@[simp] theorem updDom_numSlots : (updDom s k f).numSlots = s.numSlots := rfl
@[simp] theorem updDom_sums : (updDom s k f).sums = s.sums := rfl
@[simp] theorem updDom_strms : (updDom s k f).strms = s.strms := rfl
@[simp] theorem updDom_dense : (updDom s k f).dense = s.dense := rfl
@[simp] theorem updDom_walks : (updDom s k f).walks = s.walks := rfl
@[simp] theorem updDom_hubs : (updDom s k f).hubs = s.hubs := rfl
@[simp] theorem updDom_nextHub : (updDom s k f).nextHub = s.nextHub := rfl
@[simp] theorem updDom_hslots : (updDom s k f).hslots = s.hslots := rfl
@[simp] theorem updDom_hworks : (updDom s k f).hworks = s.hworks := rfl
@[simp] theorem updDom_vworks : (updDom s k f).vworks = s.vworks := rfl
@[simp] theorem updDom_replay : (updDom s k f).replay = s.replay := rfl
@[simp] theorem updDom_saves : (updDom s k f).saves = s.saves := rfl
@[simp] theorem updDom_objs : (updDom s k f).objs = s.objs := rfl
@[simp] theorem updDom_sworks : (updDom s k f).sworks = s.sworks := rfl
@[simp] theorem updDom_dworks : (updDom s k f).dworks = s.dworks := rfl
@[simp] theorem updDom_rcache : (updDom s k f).rcache = s.rcache := rfl
@[simp] theorem updDom_pinRefused : (updDom s k f).pinRefused = s.pinRefused := rfl
@[simp] theorem updDom_chans : (updDom s k f).chans = s.chans := rfl
@[simp] theorem updDom_spares : (updDom s k f).spares = s.spares := rfl
@[simp] theorem updDom_latches : (updDom s k f).latches = s.latches := rfl
@[simp] theorem updDom_gworks : (updDom s k f).gworks = s.gworks := rfl
@[simp] theorem updDom_moves : (updDom s k f).moves = s.moves := rfl
@[simp] theorem updDom_bcache : (updDom s k f).bcache = s.bcache := rfl
@[simp] theorem updDom_pops : (updDom s k f).pops = s.pops := rfl
@[simp] theorem updDom_homes : (updDom s k f).homes = s.homes := rfl
@[simp] theorem updDom_heldRows : (updDom s k f).heldRows = s.heldRows := rfl
@[simp] theorem updDom_moved : (updDom s k f).moved = s.moved := rfl
@[simp] theorem updDom_mwins : (updDom s k f).mwins = s.mwins := rfl
@[simp] theorem updDom_origins : (updDom s k f).origins = s.origins := rfl
@[simp] theorem updDom_flushKeys : (updDom s k f).flushKeys = s.flushKeys := rfl
@[simp] theorem updDom_parts : (updDom s k f).parts = s.parts := rfl
@[simp] theorem updDom_journal : (updDom s k f).journal = s.journal := rfl
@[simp] theorem updDom_jtail : (updDom s k f).jtail = s.jtail := rfl
@[simp] theorem updDom_jseq : (updDom s k f).jseq = s.jseq := rfl
@[simp] theorem updDom_jckpt : (updDom s k f).jckpt = s.jckpt := rfl
@[simp] theorem updDom_sqSlots : (updDom s k f).sqSlots = s.sqSlots := rfl
@[simp] theorem updDom_nearRetired : (updDom s k f).nearRetired = s.nearRetired := rfl
@[simp] theorem updDom_power : (updDom s k f).power = s.power := rfl
@[simp] theorem updDom_fw : (updDom s k f).fw = s.fw := rfl
@[simp] theorem updDom_gate : (updDom s k f).gate = s.gate := rfl
@[simp] theorem updDom_colls : (updDom s k f).colls = s.colls := rfl
@[simp] theorem updDom_snapSeq : (updDom s k f).snapSeq = s.snapSeq := rfl
@[simp] theorem updDom_cfgFail : (updDom s k f).cfgFail = s.cfgFail := rfl
@[simp] theorem updDom_lost : (updDom s k f).lost = s.lost := rfl
@[simp] theorem updDom_fresh : (updDom s k f).fresh = s.fresh := rfl
end updDom

/-! ### `updSlot` -/

section updSlot
variable (s : State) (k : Nat) (f : Slot → Slot)
@[simp] theorem updSlot_pending : (updSlot s k f).pending = s.pending := rfl
@[simp] theorem updSlot_part : (updSlot s k f).part = s.part := rfl
@[simp] theorem updSlot_mem : (updSlot s k f).mem = s.mem := rfl
@[simp] theorem updSlot_hostMem : (updSlot s k f).hostMem = s.hostMem := rfl
@[simp] theorem updSlot_tags : (updSlot s k f).tags = s.tags := rfl
@[simp] theorem updSlot_poison : (updSlot s k f).poison = s.poison := rfl
@[simp] theorem updSlot_regs : (updSlot s k f).regs = s.regs := rfl
@[simp] theorem updSlot_pages : (updSlot s k f).pages = s.pages := rfl
@[simp] theorem updSlot_doms : (updSlot s k f).doms = s.doms := rfl
@[simp] theorem updSlot_accepts : (updSlot s k f).accepts = s.accepts := rfl
@[simp] theorem updSlot_aflows : (updSlot s k f).aflows = s.aflows := rfl
@[simp] theorem updSlot_oflows : (updSlot s k f).oflows = s.oflows := rfl
@[simp] theorem updSlot_heads : (updSlot s k f).heads = s.heads := rfl
@[simp] theorem updSlot_thrs : (updSlot s k f).thrs = s.thrs := rfl
@[simp] theorem updSlot_ops : (updSlot s k f).ops = s.ops := rfl
@[simp] theorem updSlot_nextOp : (updSlot s k f).nextOp = s.nextOp := rfl
@[simp] theorem updSlot_reqs : (updSlot s k f).reqs = s.reqs := rfl
@[simp] theorem updSlot_nextReq : (updSlot s k f).nextReq = s.nextReq := rfl
@[simp] theorem updSlot_sqs : (updSlot s k f).sqs = s.sqs := rfl
@[simp] theorem updSlot_cqs : (updSlot s k f).cqs = s.cqs := rfl
@[simp] theorem updSlot_tagWait : (updSlot s k f).tagWait = s.tagWait := rfl
@[simp] theorem updSlot_applied : (updSlot s k f).applied = s.applied := rfl
@[simp] theorem updSlot_lastOpen : (updSlot s k f).lastOpen = s.lastOpen := rfl
@[simp] theorem updSlot_steps : (updSlot s k f).steps = s.steps := rfl
@[simp] theorem updSlot_dutyHeld : (updSlot s k f).dutyHeld = s.dutyHeld := rfl
@[simp] theorem updSlot_sets : (updSlot s k f).sets = s.sets := rfl
@[simp] theorem updSlot_msix : (updSlot s k f).msix = s.msix := rfl
@[simp] theorem updSlot_pcie : (updSlot s k f).pcie = s.pcie := rfl
@[simp] theorem updSlot_xlate : (updSlot s k f).xlate = s.xlate := rfl
@[simp] theorem updSlot_xlateInv : (updSlot s k f).xlateInv = s.xlateInv := rfl
@[simp] theorem updSlot_txq : (updSlot s k f).txq = s.txq := rfl
@[simp] theorem updSlot_streams : (updSlot s k f).streams = s.streams := rfl
@[simp] theorem updSlot_links : (updSlot s k f).links = s.links := rfl
@[simp] theorem updSlot_inbox : (updSlot s k f).inbox = s.inbox := rfl
@[simp] theorem updSlot_out : (updSlot s k f).out = s.out := rfl
@[simp] theorem updSlot_testMode : (updSlot s k f).testMode = s.testMode := rfl
@[simp] theorem updSlot_rngs : (updSlot s k f).rngs = s.rngs := rfl
@[simp] theorem updSlot_noiseCount : (updSlot s k f).noiseCount = s.noiseCount := rfl
@[simp] theorem updSlot_numSlots : (updSlot s k f).numSlots = s.numSlots := rfl
@[simp] theorem updSlot_sums : (updSlot s k f).sums = s.sums := rfl
@[simp] theorem updSlot_strms : (updSlot s k f).strms = s.strms := rfl
@[simp] theorem updSlot_dense : (updSlot s k f).dense = s.dense := rfl
@[simp] theorem updSlot_walks : (updSlot s k f).walks = s.walks := rfl
@[simp] theorem updSlot_hubs : (updSlot s k f).hubs = s.hubs := rfl
@[simp] theorem updSlot_nextHub : (updSlot s k f).nextHub = s.nextHub := rfl
@[simp] theorem updSlot_hslots : (updSlot s k f).hslots = s.hslots := rfl
@[simp] theorem updSlot_hworks : (updSlot s k f).hworks = s.hworks := rfl
@[simp] theorem updSlot_vworks : (updSlot s k f).vworks = s.vworks := rfl
@[simp] theorem updSlot_replay : (updSlot s k f).replay = s.replay := rfl
@[simp] theorem updSlot_saves : (updSlot s k f).saves = s.saves := rfl
@[simp] theorem updSlot_objs : (updSlot s k f).objs = s.objs := rfl
@[simp] theorem updSlot_sworks : (updSlot s k f).sworks = s.sworks := rfl
@[simp] theorem updSlot_dworks : (updSlot s k f).dworks = s.dworks := rfl
@[simp] theorem updSlot_rcache : (updSlot s k f).rcache = s.rcache := rfl
@[simp] theorem updSlot_pinRefused : (updSlot s k f).pinRefused = s.pinRefused := rfl
@[simp] theorem updSlot_chans : (updSlot s k f).chans = s.chans := rfl
@[simp] theorem updSlot_spares : (updSlot s k f).spares = s.spares := rfl
@[simp] theorem updSlot_latches : (updSlot s k f).latches = s.latches := rfl
@[simp] theorem updSlot_gworks : (updSlot s k f).gworks = s.gworks := rfl
@[simp] theorem updSlot_moves : (updSlot s k f).moves = s.moves := rfl
@[simp] theorem updSlot_bcache : (updSlot s k f).bcache = s.bcache := rfl
@[simp] theorem updSlot_pops : (updSlot s k f).pops = s.pops := rfl
@[simp] theorem updSlot_homes : (updSlot s k f).homes = s.homes := rfl
@[simp] theorem updSlot_heldRows : (updSlot s k f).heldRows = s.heldRows := rfl
@[simp] theorem updSlot_moved : (updSlot s k f).moved = s.moved := rfl
@[simp] theorem updSlot_mwins : (updSlot s k f).mwins = s.mwins := rfl
@[simp] theorem updSlot_origins : (updSlot s k f).origins = s.origins := rfl
@[simp] theorem updSlot_flushKeys : (updSlot s k f).flushKeys = s.flushKeys := rfl
@[simp] theorem updSlot_parts : (updSlot s k f).parts = s.parts := rfl
@[simp] theorem updSlot_journal : (updSlot s k f).journal = s.journal := rfl
@[simp] theorem updSlot_jtail : (updSlot s k f).jtail = s.jtail := rfl
@[simp] theorem updSlot_jseq : (updSlot s k f).jseq = s.jseq := rfl
@[simp] theorem updSlot_jckpt : (updSlot s k f).jckpt = s.jckpt := rfl
@[simp] theorem updSlot_sqSlots : (updSlot s k f).sqSlots = s.sqSlots := rfl
@[simp] theorem updSlot_nearRetired : (updSlot s k f).nearRetired = s.nearRetired := rfl
@[simp] theorem updSlot_power : (updSlot s k f).power = s.power := rfl
@[simp] theorem updSlot_fw : (updSlot s k f).fw = s.fw := rfl
@[simp] theorem updSlot_gate : (updSlot s k f).gate = s.gate := rfl
@[simp] theorem updSlot_colls : (updSlot s k f).colls = s.colls := rfl
@[simp] theorem updSlot_snapSeq : (updSlot s k f).snapSeq = s.snapSeq := rfl
@[simp] theorem updSlot_cfgFail : (updSlot s k f).cfgFail = s.cfgFail := rfl
@[simp] theorem updSlot_lost : (updSlot s k f).lost = s.lost := rfl
@[simp] theorem updSlot_fresh : (updSlot s k f).fresh = s.fresh := rfl
end updSlot

/-! ### `updThr` -/

section updThr
variable (s : State) (k : Nat) (f : Thread → Thread)
@[simp] theorem updThr_pending : (updThr s k f).pending = s.pending := rfl
@[simp] theorem updThr_part : (updThr s k f).part = s.part := rfl
@[simp] theorem updThr_mem : (updThr s k f).mem = s.mem := rfl
@[simp] theorem updThr_hostMem : (updThr s k f).hostMem = s.hostMem := rfl
@[simp] theorem updThr_tags : (updThr s k f).tags = s.tags := rfl
@[simp] theorem updThr_poison : (updThr s k f).poison = s.poison := rfl
@[simp] theorem updThr_regs : (updThr s k f).regs = s.regs := rfl
@[simp] theorem updThr_pages : (updThr s k f).pages = s.pages := rfl
@[simp] theorem updThr_doms : (updThr s k f).doms = s.doms := rfl
@[simp] theorem updThr_slots : (updThr s k f).slots = s.slots := rfl
@[simp] theorem updThr_accepts : (updThr s k f).accepts = s.accepts := rfl
@[simp] theorem updThr_aflows : (updThr s k f).aflows = s.aflows := rfl
@[simp] theorem updThr_oflows : (updThr s k f).oflows = s.oflows := rfl
@[simp] theorem updThr_heads : (updThr s k f).heads = s.heads := rfl
@[simp] theorem updThr_ops : (updThr s k f).ops = s.ops := rfl
@[simp] theorem updThr_nextOp : (updThr s k f).nextOp = s.nextOp := rfl
@[simp] theorem updThr_reqs : (updThr s k f).reqs = s.reqs := rfl
@[simp] theorem updThr_nextReq : (updThr s k f).nextReq = s.nextReq := rfl
@[simp] theorem updThr_sqs : (updThr s k f).sqs = s.sqs := rfl
@[simp] theorem updThr_cqs : (updThr s k f).cqs = s.cqs := rfl
@[simp] theorem updThr_tagWait : (updThr s k f).tagWait = s.tagWait := rfl
@[simp] theorem updThr_applied : (updThr s k f).applied = s.applied := rfl
@[simp] theorem updThr_lastOpen : (updThr s k f).lastOpen = s.lastOpen := rfl
@[simp] theorem updThr_steps : (updThr s k f).steps = s.steps := rfl
@[simp] theorem updThr_dutyHeld : (updThr s k f).dutyHeld = s.dutyHeld := rfl
@[simp] theorem updThr_sets : (updThr s k f).sets = s.sets := rfl
@[simp] theorem updThr_msix : (updThr s k f).msix = s.msix := rfl
@[simp] theorem updThr_pcie : (updThr s k f).pcie = s.pcie := rfl
@[simp] theorem updThr_xlate : (updThr s k f).xlate = s.xlate := rfl
@[simp] theorem updThr_xlateInv : (updThr s k f).xlateInv = s.xlateInv := rfl
@[simp] theorem updThr_txq : (updThr s k f).txq = s.txq := rfl
@[simp] theorem updThr_streams : (updThr s k f).streams = s.streams := rfl
@[simp] theorem updThr_links : (updThr s k f).links = s.links := rfl
@[simp] theorem updThr_inbox : (updThr s k f).inbox = s.inbox := rfl
@[simp] theorem updThr_out : (updThr s k f).out = s.out := rfl
@[simp] theorem updThr_testMode : (updThr s k f).testMode = s.testMode := rfl
@[simp] theorem updThr_rngs : (updThr s k f).rngs = s.rngs := rfl
@[simp] theorem updThr_noiseCount : (updThr s k f).noiseCount = s.noiseCount := rfl
@[simp] theorem updThr_numSlots : (updThr s k f).numSlots = s.numSlots := rfl
@[simp] theorem updThr_sums : (updThr s k f).sums = s.sums := rfl
@[simp] theorem updThr_strms : (updThr s k f).strms = s.strms := rfl
@[simp] theorem updThr_dense : (updThr s k f).dense = s.dense := rfl
@[simp] theorem updThr_walks : (updThr s k f).walks = s.walks := rfl
@[simp] theorem updThr_hubs : (updThr s k f).hubs = s.hubs := rfl
@[simp] theorem updThr_nextHub : (updThr s k f).nextHub = s.nextHub := rfl
@[simp] theorem updThr_hslots : (updThr s k f).hslots = s.hslots := rfl
@[simp] theorem updThr_hworks : (updThr s k f).hworks = s.hworks := rfl
@[simp] theorem updThr_vworks : (updThr s k f).vworks = s.vworks := rfl
@[simp] theorem updThr_replay : (updThr s k f).replay = s.replay := rfl
@[simp] theorem updThr_saves : (updThr s k f).saves = s.saves := rfl
@[simp] theorem updThr_objs : (updThr s k f).objs = s.objs := rfl
@[simp] theorem updThr_sworks : (updThr s k f).sworks = s.sworks := rfl
@[simp] theorem updThr_dworks : (updThr s k f).dworks = s.dworks := rfl
@[simp] theorem updThr_rcache : (updThr s k f).rcache = s.rcache := rfl
@[simp] theorem updThr_pinRefused : (updThr s k f).pinRefused = s.pinRefused := rfl
@[simp] theorem updThr_chans : (updThr s k f).chans = s.chans := rfl
@[simp] theorem updThr_spares : (updThr s k f).spares = s.spares := rfl
@[simp] theorem updThr_latches : (updThr s k f).latches = s.latches := rfl
@[simp] theorem updThr_gworks : (updThr s k f).gworks = s.gworks := rfl
@[simp] theorem updThr_moves : (updThr s k f).moves = s.moves := rfl
@[simp] theorem updThr_bcache : (updThr s k f).bcache = s.bcache := rfl
@[simp] theorem updThr_pops : (updThr s k f).pops = s.pops := rfl
@[simp] theorem updThr_homes : (updThr s k f).homes = s.homes := rfl
@[simp] theorem updThr_heldRows : (updThr s k f).heldRows = s.heldRows := rfl
@[simp] theorem updThr_moved : (updThr s k f).moved = s.moved := rfl
@[simp] theorem updThr_mwins : (updThr s k f).mwins = s.mwins := rfl
@[simp] theorem updThr_origins : (updThr s k f).origins = s.origins := rfl
@[simp] theorem updThr_flushKeys : (updThr s k f).flushKeys = s.flushKeys := rfl
@[simp] theorem updThr_parts : (updThr s k f).parts = s.parts := rfl
@[simp] theorem updThr_journal : (updThr s k f).journal = s.journal := rfl
@[simp] theorem updThr_jtail : (updThr s k f).jtail = s.jtail := rfl
@[simp] theorem updThr_jseq : (updThr s k f).jseq = s.jseq := rfl
@[simp] theorem updThr_jckpt : (updThr s k f).jckpt = s.jckpt := rfl
@[simp] theorem updThr_sqSlots : (updThr s k f).sqSlots = s.sqSlots := rfl
@[simp] theorem updThr_nearRetired : (updThr s k f).nearRetired = s.nearRetired := rfl
@[simp] theorem updThr_power : (updThr s k f).power = s.power := rfl
@[simp] theorem updThr_fw : (updThr s k f).fw = s.fw := rfl
@[simp] theorem updThr_gate : (updThr s k f).gate = s.gate := rfl
@[simp] theorem updThr_colls : (updThr s k f).colls = s.colls := rfl
@[simp] theorem updThr_snapSeq : (updThr s k f).snapSeq = s.snapSeq := rfl
@[simp] theorem updThr_cfgFail : (updThr s k f).cfgFail = s.cfgFail := rfl
@[simp] theorem updThr_lost : (updThr s k f).lost = s.lost := rfl
@[simp] theorem updThr_fresh : (updThr s k f).fresh = s.fresh := rfl
end updThr

/-! ### `updPower` -/

section updPower
variable (s : State) (f : Power → Power)
@[simp] theorem updPower_pending : (updPower s f).pending = s.pending := rfl
@[simp] theorem updPower_part : (updPower s f).part = s.part := rfl
@[simp] theorem updPower_mem : (updPower s f).mem = s.mem := rfl
@[simp] theorem updPower_hostMem : (updPower s f).hostMem = s.hostMem := rfl
@[simp] theorem updPower_tags : (updPower s f).tags = s.tags := rfl
@[simp] theorem updPower_poison : (updPower s f).poison = s.poison := rfl
@[simp] theorem updPower_regs : (updPower s f).regs = s.regs := rfl
@[simp] theorem updPower_pages : (updPower s f).pages = s.pages := rfl
@[simp] theorem updPower_doms : (updPower s f).doms = s.doms := rfl
@[simp] theorem updPower_slots : (updPower s f).slots = s.slots := rfl
@[simp] theorem updPower_accepts : (updPower s f).accepts = s.accepts := rfl
@[simp] theorem updPower_aflows : (updPower s f).aflows = s.aflows := rfl
@[simp] theorem updPower_oflows : (updPower s f).oflows = s.oflows := rfl
@[simp] theorem updPower_heads : (updPower s f).heads = s.heads := rfl
@[simp] theorem updPower_thrs : (updPower s f).thrs = s.thrs := rfl
@[simp] theorem updPower_ops : (updPower s f).ops = s.ops := rfl
@[simp] theorem updPower_nextOp : (updPower s f).nextOp = s.nextOp := rfl
@[simp] theorem updPower_reqs : (updPower s f).reqs = s.reqs := rfl
@[simp] theorem updPower_nextReq : (updPower s f).nextReq = s.nextReq := rfl
@[simp] theorem updPower_sqs : (updPower s f).sqs = s.sqs := rfl
@[simp] theorem updPower_cqs : (updPower s f).cqs = s.cqs := rfl
@[simp] theorem updPower_tagWait : (updPower s f).tagWait = s.tagWait := rfl
@[simp] theorem updPower_applied : (updPower s f).applied = s.applied := rfl
@[simp] theorem updPower_lastOpen : (updPower s f).lastOpen = s.lastOpen := rfl
@[simp] theorem updPower_steps : (updPower s f).steps = s.steps := rfl
@[simp] theorem updPower_dutyHeld : (updPower s f).dutyHeld = s.dutyHeld := rfl
@[simp] theorem updPower_sets : (updPower s f).sets = s.sets := rfl
@[simp] theorem updPower_msix : (updPower s f).msix = s.msix := rfl
@[simp] theorem updPower_pcie : (updPower s f).pcie = s.pcie := rfl
@[simp] theorem updPower_xlate : (updPower s f).xlate = s.xlate := rfl
@[simp] theorem updPower_xlateInv : (updPower s f).xlateInv = s.xlateInv := rfl
@[simp] theorem updPower_txq : (updPower s f).txq = s.txq := rfl
@[simp] theorem updPower_streams : (updPower s f).streams = s.streams := rfl
@[simp] theorem updPower_links : (updPower s f).links = s.links := rfl
@[simp] theorem updPower_inbox : (updPower s f).inbox = s.inbox := rfl
@[simp] theorem updPower_out : (updPower s f).out = s.out := rfl
@[simp] theorem updPower_testMode : (updPower s f).testMode = s.testMode := rfl
@[simp] theorem updPower_rngs : (updPower s f).rngs = s.rngs := rfl
@[simp] theorem updPower_noiseCount : (updPower s f).noiseCount = s.noiseCount := rfl
@[simp] theorem updPower_numSlots : (updPower s f).numSlots = s.numSlots := rfl
@[simp] theorem updPower_sums : (updPower s f).sums = s.sums := rfl
@[simp] theorem updPower_strms : (updPower s f).strms = s.strms := rfl
@[simp] theorem updPower_dense : (updPower s f).dense = s.dense := rfl
@[simp] theorem updPower_walks : (updPower s f).walks = s.walks := rfl
@[simp] theorem updPower_hubs : (updPower s f).hubs = s.hubs := rfl
@[simp] theorem updPower_nextHub : (updPower s f).nextHub = s.nextHub := rfl
@[simp] theorem updPower_hslots : (updPower s f).hslots = s.hslots := rfl
@[simp] theorem updPower_hworks : (updPower s f).hworks = s.hworks := rfl
@[simp] theorem updPower_vworks : (updPower s f).vworks = s.vworks := rfl
@[simp] theorem updPower_replay : (updPower s f).replay = s.replay := rfl
@[simp] theorem updPower_saves : (updPower s f).saves = s.saves := rfl
@[simp] theorem updPower_objs : (updPower s f).objs = s.objs := rfl
@[simp] theorem updPower_sworks : (updPower s f).sworks = s.sworks := rfl
@[simp] theorem updPower_dworks : (updPower s f).dworks = s.dworks := rfl
@[simp] theorem updPower_rcache : (updPower s f).rcache = s.rcache := rfl
@[simp] theorem updPower_pinRefused : (updPower s f).pinRefused = s.pinRefused := rfl
@[simp] theorem updPower_chans : (updPower s f).chans = s.chans := rfl
@[simp] theorem updPower_spares : (updPower s f).spares = s.spares := rfl
@[simp] theorem updPower_latches : (updPower s f).latches = s.latches := rfl
@[simp] theorem updPower_gworks : (updPower s f).gworks = s.gworks := rfl
@[simp] theorem updPower_moves : (updPower s f).moves = s.moves := rfl
@[simp] theorem updPower_bcache : (updPower s f).bcache = s.bcache := rfl
@[simp] theorem updPower_pops : (updPower s f).pops = s.pops := rfl
@[simp] theorem updPower_homes : (updPower s f).homes = s.homes := rfl
@[simp] theorem updPower_heldRows : (updPower s f).heldRows = s.heldRows := rfl
@[simp] theorem updPower_moved : (updPower s f).moved = s.moved := rfl
@[simp] theorem updPower_mwins : (updPower s f).mwins = s.mwins := rfl
@[simp] theorem updPower_origins : (updPower s f).origins = s.origins := rfl
@[simp] theorem updPower_flushKeys : (updPower s f).flushKeys = s.flushKeys := rfl
@[simp] theorem updPower_parts : (updPower s f).parts = s.parts := rfl
@[simp] theorem updPower_journal : (updPower s f).journal = s.journal := rfl
@[simp] theorem updPower_jtail : (updPower s f).jtail = s.jtail := rfl
@[simp] theorem updPower_jseq : (updPower s f).jseq = s.jseq := rfl
@[simp] theorem updPower_jckpt : (updPower s f).jckpt = s.jckpt := rfl
@[simp] theorem updPower_sqSlots : (updPower s f).sqSlots = s.sqSlots := rfl
@[simp] theorem updPower_nearRetired : (updPower s f).nearRetired = s.nearRetired := rfl
@[simp] theorem updPower_fw : (updPower s f).fw = s.fw := rfl
@[simp] theorem updPower_gate : (updPower s f).gate = s.gate := rfl
@[simp] theorem updPower_colls : (updPower s f).colls = s.colls := rfl
@[simp] theorem updPower_snapSeq : (updPower s f).snapSeq = s.snapSeq := rfl
@[simp] theorem updPower_cfgFail : (updPower s f).cfgFail = s.cfgFail := rfl
@[simp] theorem updPower_lost : (updPower s f).lost = s.lost := rfl
@[simp] theorem updPower_fresh : (updPower s f).fresh = s.fresh := rfl
@[simp] theorem updPower_power : (updPower s f).power = f s.power := rfl
end updPower

/-! ### `updGate` -/

section updGate
variable (s : State) (f : Gate → Gate)
@[simp] theorem updGate_pending : (updGate s f).pending = s.pending := rfl
@[simp] theorem updGate_part : (updGate s f).part = s.part := rfl
@[simp] theorem updGate_mem : (updGate s f).mem = s.mem := rfl
@[simp] theorem updGate_hostMem : (updGate s f).hostMem = s.hostMem := rfl
@[simp] theorem updGate_tags : (updGate s f).tags = s.tags := rfl
@[simp] theorem updGate_poison : (updGate s f).poison = s.poison := rfl
@[simp] theorem updGate_regs : (updGate s f).regs = s.regs := rfl
@[simp] theorem updGate_pages : (updGate s f).pages = s.pages := rfl
@[simp] theorem updGate_doms : (updGate s f).doms = s.doms := rfl
@[simp] theorem updGate_slots : (updGate s f).slots = s.slots := rfl
@[simp] theorem updGate_accepts : (updGate s f).accepts = s.accepts := rfl
@[simp] theorem updGate_aflows : (updGate s f).aflows = s.aflows := rfl
@[simp] theorem updGate_oflows : (updGate s f).oflows = s.oflows := rfl
@[simp] theorem updGate_heads : (updGate s f).heads = s.heads := rfl
@[simp] theorem updGate_thrs : (updGate s f).thrs = s.thrs := rfl
@[simp] theorem updGate_ops : (updGate s f).ops = s.ops := rfl
@[simp] theorem updGate_nextOp : (updGate s f).nextOp = s.nextOp := rfl
@[simp] theorem updGate_reqs : (updGate s f).reqs = s.reqs := rfl
@[simp] theorem updGate_nextReq : (updGate s f).nextReq = s.nextReq := rfl
@[simp] theorem updGate_sqs : (updGate s f).sqs = s.sqs := rfl
@[simp] theorem updGate_cqs : (updGate s f).cqs = s.cqs := rfl
@[simp] theorem updGate_tagWait : (updGate s f).tagWait = s.tagWait := rfl
@[simp] theorem updGate_applied : (updGate s f).applied = s.applied := rfl
@[simp] theorem updGate_lastOpen : (updGate s f).lastOpen = s.lastOpen := rfl
@[simp] theorem updGate_steps : (updGate s f).steps = s.steps := rfl
@[simp] theorem updGate_dutyHeld : (updGate s f).dutyHeld = s.dutyHeld := rfl
@[simp] theorem updGate_sets : (updGate s f).sets = s.sets := rfl
@[simp] theorem updGate_msix : (updGate s f).msix = s.msix := rfl
@[simp] theorem updGate_pcie : (updGate s f).pcie = s.pcie := rfl
@[simp] theorem updGate_xlate : (updGate s f).xlate = s.xlate := rfl
@[simp] theorem updGate_xlateInv : (updGate s f).xlateInv = s.xlateInv := rfl
@[simp] theorem updGate_txq : (updGate s f).txq = s.txq := rfl
@[simp] theorem updGate_streams : (updGate s f).streams = s.streams := rfl
@[simp] theorem updGate_links : (updGate s f).links = s.links := rfl
@[simp] theorem updGate_inbox : (updGate s f).inbox = s.inbox := rfl
@[simp] theorem updGate_out : (updGate s f).out = s.out := rfl
@[simp] theorem updGate_testMode : (updGate s f).testMode = s.testMode := rfl
@[simp] theorem updGate_rngs : (updGate s f).rngs = s.rngs := rfl
@[simp] theorem updGate_noiseCount : (updGate s f).noiseCount = s.noiseCount := rfl
@[simp] theorem updGate_numSlots : (updGate s f).numSlots = s.numSlots := rfl
@[simp] theorem updGate_sums : (updGate s f).sums = s.sums := rfl
@[simp] theorem updGate_strms : (updGate s f).strms = s.strms := rfl
@[simp] theorem updGate_dense : (updGate s f).dense = s.dense := rfl
@[simp] theorem updGate_walks : (updGate s f).walks = s.walks := rfl
@[simp] theorem updGate_hubs : (updGate s f).hubs = s.hubs := rfl
@[simp] theorem updGate_nextHub : (updGate s f).nextHub = s.nextHub := rfl
@[simp] theorem updGate_hslots : (updGate s f).hslots = s.hslots := rfl
@[simp] theorem updGate_hworks : (updGate s f).hworks = s.hworks := rfl
@[simp] theorem updGate_vworks : (updGate s f).vworks = s.vworks := rfl
@[simp] theorem updGate_replay : (updGate s f).replay = s.replay := rfl
@[simp] theorem updGate_saves : (updGate s f).saves = s.saves := rfl
@[simp] theorem updGate_objs : (updGate s f).objs = s.objs := rfl
@[simp] theorem updGate_sworks : (updGate s f).sworks = s.sworks := rfl
@[simp] theorem updGate_dworks : (updGate s f).dworks = s.dworks := rfl
@[simp] theorem updGate_rcache : (updGate s f).rcache = s.rcache := rfl
@[simp] theorem updGate_pinRefused : (updGate s f).pinRefused = s.pinRefused := rfl
@[simp] theorem updGate_chans : (updGate s f).chans = s.chans := rfl
@[simp] theorem updGate_spares : (updGate s f).spares = s.spares := rfl
@[simp] theorem updGate_latches : (updGate s f).latches = s.latches := rfl
@[simp] theorem updGate_gworks : (updGate s f).gworks = s.gworks := rfl
@[simp] theorem updGate_moves : (updGate s f).moves = s.moves := rfl
@[simp] theorem updGate_bcache : (updGate s f).bcache = s.bcache := rfl
@[simp] theorem updGate_pops : (updGate s f).pops = s.pops := rfl
@[simp] theorem updGate_homes : (updGate s f).homes = s.homes := rfl
@[simp] theorem updGate_heldRows : (updGate s f).heldRows = s.heldRows := rfl
@[simp] theorem updGate_moved : (updGate s f).moved = s.moved := rfl
@[simp] theorem updGate_mwins : (updGate s f).mwins = s.mwins := rfl
@[simp] theorem updGate_origins : (updGate s f).origins = s.origins := rfl
@[simp] theorem updGate_flushKeys : (updGate s f).flushKeys = s.flushKeys := rfl
@[simp] theorem updGate_parts : (updGate s f).parts = s.parts := rfl
@[simp] theorem updGate_journal : (updGate s f).journal = s.journal := rfl
@[simp] theorem updGate_jtail : (updGate s f).jtail = s.jtail := rfl
@[simp] theorem updGate_jseq : (updGate s f).jseq = s.jseq := rfl
@[simp] theorem updGate_jckpt : (updGate s f).jckpt = s.jckpt := rfl
@[simp] theorem updGate_sqSlots : (updGate s f).sqSlots = s.sqSlots := rfl
@[simp] theorem updGate_nearRetired : (updGate s f).nearRetired = s.nearRetired := rfl
@[simp] theorem updGate_power : (updGate s f).power = s.power := rfl
@[simp] theorem updGate_fw : (updGate s f).fw = s.fw := rfl
@[simp] theorem updGate_colls : (updGate s f).colls = s.colls := rfl
@[simp] theorem updGate_snapSeq : (updGate s f).snapSeq = s.snapSeq := rfl
@[simp] theorem updGate_cfgFail : (updGate s f).cfgFail = s.cfgFail := rfl
@[simp] theorem updGate_lost : (updGate s f).lost = s.lost := rfl
@[simp] theorem updGate_fresh : (updGate s f).fresh = s.fresh := rfl
@[simp] theorem updGate_gate : (updGate s f).gate = f s.gate := rfl
end updGate

/-! ### `updRng` -/

section updRng
variable (s : State) (p : Nat) (f : Rng → Rng)
@[simp] theorem updRng_pending : (updRng s p f).pending = s.pending := rfl
@[simp] theorem updRng_part : (updRng s p f).part = s.part := rfl
@[simp] theorem updRng_mem : (updRng s p f).mem = s.mem := rfl
@[simp] theorem updRng_hostMem : (updRng s p f).hostMem = s.hostMem := rfl
@[simp] theorem updRng_tags : (updRng s p f).tags = s.tags := rfl
@[simp] theorem updRng_poison : (updRng s p f).poison = s.poison := rfl
@[simp] theorem updRng_regs : (updRng s p f).regs = s.regs := rfl
@[simp] theorem updRng_pages : (updRng s p f).pages = s.pages := rfl
@[simp] theorem updRng_doms : (updRng s p f).doms = s.doms := rfl
@[simp] theorem updRng_slots : (updRng s p f).slots = s.slots := rfl
@[simp] theorem updRng_accepts : (updRng s p f).accepts = s.accepts := rfl
@[simp] theorem updRng_aflows : (updRng s p f).aflows = s.aflows := rfl
@[simp] theorem updRng_oflows : (updRng s p f).oflows = s.oflows := rfl
@[simp] theorem updRng_heads : (updRng s p f).heads = s.heads := rfl
@[simp] theorem updRng_thrs : (updRng s p f).thrs = s.thrs := rfl
@[simp] theorem updRng_ops : (updRng s p f).ops = s.ops := rfl
@[simp] theorem updRng_nextOp : (updRng s p f).nextOp = s.nextOp := rfl
@[simp] theorem updRng_reqs : (updRng s p f).reqs = s.reqs := rfl
@[simp] theorem updRng_nextReq : (updRng s p f).nextReq = s.nextReq := rfl
@[simp] theorem updRng_sqs : (updRng s p f).sqs = s.sqs := rfl
@[simp] theorem updRng_cqs : (updRng s p f).cqs = s.cqs := rfl
@[simp] theorem updRng_tagWait : (updRng s p f).tagWait = s.tagWait := rfl
@[simp] theorem updRng_applied : (updRng s p f).applied = s.applied := rfl
@[simp] theorem updRng_lastOpen : (updRng s p f).lastOpen = s.lastOpen := rfl
@[simp] theorem updRng_steps : (updRng s p f).steps = s.steps := rfl
@[simp] theorem updRng_dutyHeld : (updRng s p f).dutyHeld = s.dutyHeld := rfl
@[simp] theorem updRng_sets : (updRng s p f).sets = s.sets := rfl
@[simp] theorem updRng_msix : (updRng s p f).msix = s.msix := rfl
@[simp] theorem updRng_pcie : (updRng s p f).pcie = s.pcie := rfl
@[simp] theorem updRng_xlate : (updRng s p f).xlate = s.xlate := rfl
@[simp] theorem updRng_xlateInv : (updRng s p f).xlateInv = s.xlateInv := rfl
@[simp] theorem updRng_txq : (updRng s p f).txq = s.txq := rfl
@[simp] theorem updRng_streams : (updRng s p f).streams = s.streams := rfl
@[simp] theorem updRng_links : (updRng s p f).links = s.links := rfl
@[simp] theorem updRng_inbox : (updRng s p f).inbox = s.inbox := rfl
@[simp] theorem updRng_out : (updRng s p f).out = s.out := rfl
@[simp] theorem updRng_testMode : (updRng s p f).testMode = s.testMode := rfl
@[simp] theorem updRng_noiseCount : (updRng s p f).noiseCount = s.noiseCount := rfl
@[simp] theorem updRng_numSlots : (updRng s p f).numSlots = s.numSlots := rfl
@[simp] theorem updRng_sums : (updRng s p f).sums = s.sums := rfl
@[simp] theorem updRng_strms : (updRng s p f).strms = s.strms := rfl
@[simp] theorem updRng_dense : (updRng s p f).dense = s.dense := rfl
@[simp] theorem updRng_walks : (updRng s p f).walks = s.walks := rfl
@[simp] theorem updRng_hubs : (updRng s p f).hubs = s.hubs := rfl
@[simp] theorem updRng_nextHub : (updRng s p f).nextHub = s.nextHub := rfl
@[simp] theorem updRng_hslots : (updRng s p f).hslots = s.hslots := rfl
@[simp] theorem updRng_hworks : (updRng s p f).hworks = s.hworks := rfl
@[simp] theorem updRng_vworks : (updRng s p f).vworks = s.vworks := rfl
@[simp] theorem updRng_replay : (updRng s p f).replay = s.replay := rfl
@[simp] theorem updRng_saves : (updRng s p f).saves = s.saves := rfl
@[simp] theorem updRng_objs : (updRng s p f).objs = s.objs := rfl
@[simp] theorem updRng_sworks : (updRng s p f).sworks = s.sworks := rfl
@[simp] theorem updRng_dworks : (updRng s p f).dworks = s.dworks := rfl
@[simp] theorem updRng_rcache : (updRng s p f).rcache = s.rcache := rfl
@[simp] theorem updRng_pinRefused : (updRng s p f).pinRefused = s.pinRefused := rfl
@[simp] theorem updRng_chans : (updRng s p f).chans = s.chans := rfl
@[simp] theorem updRng_spares : (updRng s p f).spares = s.spares := rfl
@[simp] theorem updRng_latches : (updRng s p f).latches = s.latches := rfl
@[simp] theorem updRng_gworks : (updRng s p f).gworks = s.gworks := rfl
@[simp] theorem updRng_moves : (updRng s p f).moves = s.moves := rfl
@[simp] theorem updRng_bcache : (updRng s p f).bcache = s.bcache := rfl
@[simp] theorem updRng_pops : (updRng s p f).pops = s.pops := rfl
@[simp] theorem updRng_homes : (updRng s p f).homes = s.homes := rfl
@[simp] theorem updRng_heldRows : (updRng s p f).heldRows = s.heldRows := rfl
@[simp] theorem updRng_moved : (updRng s p f).moved = s.moved := rfl
@[simp] theorem updRng_mwins : (updRng s p f).mwins = s.mwins := rfl
@[simp] theorem updRng_origins : (updRng s p f).origins = s.origins := rfl
@[simp] theorem updRng_flushKeys : (updRng s p f).flushKeys = s.flushKeys := rfl
@[simp] theorem updRng_parts : (updRng s p f).parts = s.parts := rfl
@[simp] theorem updRng_journal : (updRng s p f).journal = s.journal := rfl
@[simp] theorem updRng_jtail : (updRng s p f).jtail = s.jtail := rfl
@[simp] theorem updRng_jseq : (updRng s p f).jseq = s.jseq := rfl
@[simp] theorem updRng_jckpt : (updRng s p f).jckpt = s.jckpt := rfl
@[simp] theorem updRng_sqSlots : (updRng s p f).sqSlots = s.sqSlots := rfl
@[simp] theorem updRng_nearRetired : (updRng s p f).nearRetired = s.nearRetired := rfl
@[simp] theorem updRng_power : (updRng s p f).power = s.power := rfl
@[simp] theorem updRng_fw : (updRng s p f).fw = s.fw := rfl
@[simp] theorem updRng_gate : (updRng s p f).gate = s.gate := rfl
@[simp] theorem updRng_colls : (updRng s p f).colls = s.colls := rfl
@[simp] theorem updRng_snapSeq : (updRng s p f).snapSeq = s.snapSeq := rfl
@[simp] theorem updRng_cfgFail : (updRng s p f).cfgFail = s.cfgFail := rfl
@[simp] theorem updRng_lost : (updRng s p f).lost = s.lost := rfl
@[simp] theorem updRng_fresh : (updRng s p f).fresh = s.fresh := rfl
end updRng

/-! ### `updLink` -/

section updLink
variable (s : State) (l : Nat) (f : Link → Link)
@[simp] theorem updLink_pending : (updLink s l f).pending = s.pending := rfl
@[simp] theorem updLink_part : (updLink s l f).part = s.part := rfl
@[simp] theorem updLink_mem : (updLink s l f).mem = s.mem := rfl
@[simp] theorem updLink_hostMem : (updLink s l f).hostMem = s.hostMem := rfl
@[simp] theorem updLink_tags : (updLink s l f).tags = s.tags := rfl
@[simp] theorem updLink_poison : (updLink s l f).poison = s.poison := rfl
@[simp] theorem updLink_regs : (updLink s l f).regs = s.regs := rfl
@[simp] theorem updLink_pages : (updLink s l f).pages = s.pages := rfl
@[simp] theorem updLink_doms : (updLink s l f).doms = s.doms := rfl
@[simp] theorem updLink_slots : (updLink s l f).slots = s.slots := rfl
@[simp] theorem updLink_accepts : (updLink s l f).accepts = s.accepts := rfl
@[simp] theorem updLink_aflows : (updLink s l f).aflows = s.aflows := rfl
@[simp] theorem updLink_oflows : (updLink s l f).oflows = s.oflows := rfl
@[simp] theorem updLink_heads : (updLink s l f).heads = s.heads := rfl
@[simp] theorem updLink_thrs : (updLink s l f).thrs = s.thrs := rfl
@[simp] theorem updLink_ops : (updLink s l f).ops = s.ops := rfl
@[simp] theorem updLink_nextOp : (updLink s l f).nextOp = s.nextOp := rfl
@[simp] theorem updLink_reqs : (updLink s l f).reqs = s.reqs := rfl
@[simp] theorem updLink_nextReq : (updLink s l f).nextReq = s.nextReq := rfl
@[simp] theorem updLink_sqs : (updLink s l f).sqs = s.sqs := rfl
@[simp] theorem updLink_cqs : (updLink s l f).cqs = s.cqs := rfl
@[simp] theorem updLink_tagWait : (updLink s l f).tagWait = s.tagWait := rfl
@[simp] theorem updLink_applied : (updLink s l f).applied = s.applied := rfl
@[simp] theorem updLink_lastOpen : (updLink s l f).lastOpen = s.lastOpen := rfl
@[simp] theorem updLink_steps : (updLink s l f).steps = s.steps := rfl
@[simp] theorem updLink_dutyHeld : (updLink s l f).dutyHeld = s.dutyHeld := rfl
@[simp] theorem updLink_sets : (updLink s l f).sets = s.sets := rfl
@[simp] theorem updLink_msix : (updLink s l f).msix = s.msix := rfl
@[simp] theorem updLink_pcie : (updLink s l f).pcie = s.pcie := rfl
@[simp] theorem updLink_xlate : (updLink s l f).xlate = s.xlate := rfl
@[simp] theorem updLink_xlateInv : (updLink s l f).xlateInv = s.xlateInv := rfl
@[simp] theorem updLink_txq : (updLink s l f).txq = s.txq := rfl
@[simp] theorem updLink_streams : (updLink s l f).streams = s.streams := rfl
@[simp] theorem updLink_inbox : (updLink s l f).inbox = s.inbox := rfl
@[simp] theorem updLink_out : (updLink s l f).out = s.out := rfl
@[simp] theorem updLink_testMode : (updLink s l f).testMode = s.testMode := rfl
@[simp] theorem updLink_rngs : (updLink s l f).rngs = s.rngs := rfl
@[simp] theorem updLink_noiseCount : (updLink s l f).noiseCount = s.noiseCount := rfl
@[simp] theorem updLink_numSlots : (updLink s l f).numSlots = s.numSlots := rfl
@[simp] theorem updLink_sums : (updLink s l f).sums = s.sums := rfl
@[simp] theorem updLink_strms : (updLink s l f).strms = s.strms := rfl
@[simp] theorem updLink_dense : (updLink s l f).dense = s.dense := rfl
@[simp] theorem updLink_walks : (updLink s l f).walks = s.walks := rfl
@[simp] theorem updLink_hubs : (updLink s l f).hubs = s.hubs := rfl
@[simp] theorem updLink_nextHub : (updLink s l f).nextHub = s.nextHub := rfl
@[simp] theorem updLink_hslots : (updLink s l f).hslots = s.hslots := rfl
@[simp] theorem updLink_hworks : (updLink s l f).hworks = s.hworks := rfl
@[simp] theorem updLink_vworks : (updLink s l f).vworks = s.vworks := rfl
@[simp] theorem updLink_replay : (updLink s l f).replay = s.replay := rfl
@[simp] theorem updLink_saves : (updLink s l f).saves = s.saves := rfl
@[simp] theorem updLink_objs : (updLink s l f).objs = s.objs := rfl
@[simp] theorem updLink_sworks : (updLink s l f).sworks = s.sworks := rfl
@[simp] theorem updLink_dworks : (updLink s l f).dworks = s.dworks := rfl
@[simp] theorem updLink_rcache : (updLink s l f).rcache = s.rcache := rfl
@[simp] theorem updLink_pinRefused : (updLink s l f).pinRefused = s.pinRefused := rfl
@[simp] theorem updLink_chans : (updLink s l f).chans = s.chans := rfl
@[simp] theorem updLink_spares : (updLink s l f).spares = s.spares := rfl
@[simp] theorem updLink_latches : (updLink s l f).latches = s.latches := rfl
@[simp] theorem updLink_gworks : (updLink s l f).gworks = s.gworks := rfl
@[simp] theorem updLink_moves : (updLink s l f).moves = s.moves := rfl
@[simp] theorem updLink_bcache : (updLink s l f).bcache = s.bcache := rfl
@[simp] theorem updLink_pops : (updLink s l f).pops = s.pops := rfl
@[simp] theorem updLink_homes : (updLink s l f).homes = s.homes := rfl
@[simp] theorem updLink_heldRows : (updLink s l f).heldRows = s.heldRows := rfl
@[simp] theorem updLink_moved : (updLink s l f).moved = s.moved := rfl
@[simp] theorem updLink_mwins : (updLink s l f).mwins = s.mwins := rfl
@[simp] theorem updLink_origins : (updLink s l f).origins = s.origins := rfl
@[simp] theorem updLink_flushKeys : (updLink s l f).flushKeys = s.flushKeys := rfl
@[simp] theorem updLink_parts : (updLink s l f).parts = s.parts := rfl
@[simp] theorem updLink_journal : (updLink s l f).journal = s.journal := rfl
@[simp] theorem updLink_jtail : (updLink s l f).jtail = s.jtail := rfl
@[simp] theorem updLink_jseq : (updLink s l f).jseq = s.jseq := rfl
@[simp] theorem updLink_jckpt : (updLink s l f).jckpt = s.jckpt := rfl
@[simp] theorem updLink_sqSlots : (updLink s l f).sqSlots = s.sqSlots := rfl
@[simp] theorem updLink_nearRetired : (updLink s l f).nearRetired = s.nearRetired := rfl
@[simp] theorem updLink_power : (updLink s l f).power = s.power := rfl
@[simp] theorem updLink_fw : (updLink s l f).fw = s.fw := rfl
@[simp] theorem updLink_gate : (updLink s l f).gate = s.gate := rfl
@[simp] theorem updLink_colls : (updLink s l f).colls = s.colls := rfl
@[simp] theorem updLink_snapSeq : (updLink s l f).snapSeq = s.snapSeq := rfl
@[simp] theorem updLink_cfgFail : (updLink s l f).cfgFail = s.cfgFail := rfl
@[simp] theorem updLink_lost : (updLink s l f).lost = s.lost := rfl
@[simp] theorem updLink_fresh : (updLink s l f).fresh = s.fresh := rfl
end updLink

/-! ### `updHome` -/

section updHome
variable (s : State) (u : Nat) (f : Home → Home)
@[simp] theorem updHome_pending : (updHome s u f).pending = s.pending := rfl
@[simp] theorem updHome_part : (updHome s u f).part = s.part := rfl
@[simp] theorem updHome_mem : (updHome s u f).mem = s.mem := rfl
@[simp] theorem updHome_hostMem : (updHome s u f).hostMem = s.hostMem := rfl
@[simp] theorem updHome_tags : (updHome s u f).tags = s.tags := rfl
@[simp] theorem updHome_poison : (updHome s u f).poison = s.poison := rfl
@[simp] theorem updHome_regs : (updHome s u f).regs = s.regs := rfl
@[simp] theorem updHome_pages : (updHome s u f).pages = s.pages := rfl
@[simp] theorem updHome_doms : (updHome s u f).doms = s.doms := rfl
@[simp] theorem updHome_slots : (updHome s u f).slots = s.slots := rfl
@[simp] theorem updHome_accepts : (updHome s u f).accepts = s.accepts := rfl
@[simp] theorem updHome_aflows : (updHome s u f).aflows = s.aflows := rfl
@[simp] theorem updHome_oflows : (updHome s u f).oflows = s.oflows := rfl
@[simp] theorem updHome_heads : (updHome s u f).heads = s.heads := rfl
@[simp] theorem updHome_thrs : (updHome s u f).thrs = s.thrs := rfl
@[simp] theorem updHome_ops : (updHome s u f).ops = s.ops := rfl
@[simp] theorem updHome_nextOp : (updHome s u f).nextOp = s.nextOp := rfl
@[simp] theorem updHome_reqs : (updHome s u f).reqs = s.reqs := rfl
@[simp] theorem updHome_nextReq : (updHome s u f).nextReq = s.nextReq := rfl
@[simp] theorem updHome_sqs : (updHome s u f).sqs = s.sqs := rfl
@[simp] theorem updHome_cqs : (updHome s u f).cqs = s.cqs := rfl
@[simp] theorem updHome_tagWait : (updHome s u f).tagWait = s.tagWait := rfl
@[simp] theorem updHome_applied : (updHome s u f).applied = s.applied := rfl
@[simp] theorem updHome_lastOpen : (updHome s u f).lastOpen = s.lastOpen := rfl
@[simp] theorem updHome_steps : (updHome s u f).steps = s.steps := rfl
@[simp] theorem updHome_dutyHeld : (updHome s u f).dutyHeld = s.dutyHeld := rfl
@[simp] theorem updHome_sets : (updHome s u f).sets = s.sets := rfl
@[simp] theorem updHome_msix : (updHome s u f).msix = s.msix := rfl
@[simp] theorem updHome_pcie : (updHome s u f).pcie = s.pcie := rfl
@[simp] theorem updHome_xlate : (updHome s u f).xlate = s.xlate := rfl
@[simp] theorem updHome_xlateInv : (updHome s u f).xlateInv = s.xlateInv := rfl
@[simp] theorem updHome_txq : (updHome s u f).txq = s.txq := rfl
@[simp] theorem updHome_streams : (updHome s u f).streams = s.streams := rfl
@[simp] theorem updHome_links : (updHome s u f).links = s.links := rfl
@[simp] theorem updHome_inbox : (updHome s u f).inbox = s.inbox := rfl
@[simp] theorem updHome_out : (updHome s u f).out = s.out := rfl
@[simp] theorem updHome_testMode : (updHome s u f).testMode = s.testMode := rfl
@[simp] theorem updHome_rngs : (updHome s u f).rngs = s.rngs := rfl
@[simp] theorem updHome_noiseCount : (updHome s u f).noiseCount = s.noiseCount := rfl
@[simp] theorem updHome_numSlots : (updHome s u f).numSlots = s.numSlots := rfl
@[simp] theorem updHome_sums : (updHome s u f).sums = s.sums := rfl
@[simp] theorem updHome_strms : (updHome s u f).strms = s.strms := rfl
@[simp] theorem updHome_dense : (updHome s u f).dense = s.dense := rfl
@[simp] theorem updHome_walks : (updHome s u f).walks = s.walks := rfl
@[simp] theorem updHome_hubs : (updHome s u f).hubs = s.hubs := rfl
@[simp] theorem updHome_nextHub : (updHome s u f).nextHub = s.nextHub := rfl
@[simp] theorem updHome_hslots : (updHome s u f).hslots = s.hslots := rfl
@[simp] theorem updHome_hworks : (updHome s u f).hworks = s.hworks := rfl
@[simp] theorem updHome_vworks : (updHome s u f).vworks = s.vworks := rfl
@[simp] theorem updHome_replay : (updHome s u f).replay = s.replay := rfl
@[simp] theorem updHome_saves : (updHome s u f).saves = s.saves := rfl
@[simp] theorem updHome_objs : (updHome s u f).objs = s.objs := rfl
@[simp] theorem updHome_sworks : (updHome s u f).sworks = s.sworks := rfl
@[simp] theorem updHome_dworks : (updHome s u f).dworks = s.dworks := rfl
@[simp] theorem updHome_rcache : (updHome s u f).rcache = s.rcache := rfl
@[simp] theorem updHome_pinRefused : (updHome s u f).pinRefused = s.pinRefused := rfl
@[simp] theorem updHome_chans : (updHome s u f).chans = s.chans := rfl
@[simp] theorem updHome_spares : (updHome s u f).spares = s.spares := rfl
@[simp] theorem updHome_latches : (updHome s u f).latches = s.latches := rfl
@[simp] theorem updHome_gworks : (updHome s u f).gworks = s.gworks := rfl
@[simp] theorem updHome_moves : (updHome s u f).moves = s.moves := rfl
@[simp] theorem updHome_bcache : (updHome s u f).bcache = s.bcache := rfl
@[simp] theorem updHome_pops : (updHome s u f).pops = s.pops := rfl
@[simp] theorem updHome_heldRows : (updHome s u f).heldRows = s.heldRows := rfl
@[simp] theorem updHome_moved : (updHome s u f).moved = s.moved := rfl
@[simp] theorem updHome_mwins : (updHome s u f).mwins = s.mwins := rfl
@[simp] theorem updHome_origins : (updHome s u f).origins = s.origins := rfl
@[simp] theorem updHome_flushKeys : (updHome s u f).flushKeys = s.flushKeys := rfl
@[simp] theorem updHome_parts : (updHome s u f).parts = s.parts := rfl
@[simp] theorem updHome_journal : (updHome s u f).journal = s.journal := rfl
@[simp] theorem updHome_jtail : (updHome s u f).jtail = s.jtail := rfl
@[simp] theorem updHome_jseq : (updHome s u f).jseq = s.jseq := rfl
@[simp] theorem updHome_jckpt : (updHome s u f).jckpt = s.jckpt := rfl
@[simp] theorem updHome_sqSlots : (updHome s u f).sqSlots = s.sqSlots := rfl
@[simp] theorem updHome_nearRetired : (updHome s u f).nearRetired = s.nearRetired := rfl
@[simp] theorem updHome_power : (updHome s u f).power = s.power := rfl
@[simp] theorem updHome_fw : (updHome s u f).fw = s.fw := rfl
@[simp] theorem updHome_gate : (updHome s u f).gate = s.gate := rfl
@[simp] theorem updHome_colls : (updHome s u f).colls = s.colls := rfl
@[simp] theorem updHome_snapSeq : (updHome s u f).snapSeq = s.snapSeq := rfl
@[simp] theorem updHome_cfgFail : (updHome s u f).cfgFail = s.cfgFail := rfl
@[simp] theorem updHome_lost : (updHome s u f).lost = s.lost := rfl
@[simp] theorem updHome_fresh : (updHome s u f).fresh = s.fresh := rfl
end updHome

/-! ### `updDense` -/

section updDense
variable (s : State) (c : Nat) (f : Dense → Dense)
@[simp] theorem updDense_pending : (updDense s c f).pending = s.pending := rfl
@[simp] theorem updDense_part : (updDense s c f).part = s.part := rfl
@[simp] theorem updDense_mem : (updDense s c f).mem = s.mem := rfl
@[simp] theorem updDense_hostMem : (updDense s c f).hostMem = s.hostMem := rfl
@[simp] theorem updDense_tags : (updDense s c f).tags = s.tags := rfl
@[simp] theorem updDense_poison : (updDense s c f).poison = s.poison := rfl
@[simp] theorem updDense_regs : (updDense s c f).regs = s.regs := rfl
@[simp] theorem updDense_pages : (updDense s c f).pages = s.pages := rfl
@[simp] theorem updDense_doms : (updDense s c f).doms = s.doms := rfl
@[simp] theorem updDense_slots : (updDense s c f).slots = s.slots := rfl
@[simp] theorem updDense_accepts : (updDense s c f).accepts = s.accepts := rfl
@[simp] theorem updDense_aflows : (updDense s c f).aflows = s.aflows := rfl
@[simp] theorem updDense_oflows : (updDense s c f).oflows = s.oflows := rfl
@[simp] theorem updDense_heads : (updDense s c f).heads = s.heads := rfl
@[simp] theorem updDense_thrs : (updDense s c f).thrs = s.thrs := rfl
@[simp] theorem updDense_ops : (updDense s c f).ops = s.ops := rfl
@[simp] theorem updDense_nextOp : (updDense s c f).nextOp = s.nextOp := rfl
@[simp] theorem updDense_reqs : (updDense s c f).reqs = s.reqs := rfl
@[simp] theorem updDense_nextReq : (updDense s c f).nextReq = s.nextReq := rfl
@[simp] theorem updDense_sqs : (updDense s c f).sqs = s.sqs := rfl
@[simp] theorem updDense_cqs : (updDense s c f).cqs = s.cqs := rfl
@[simp] theorem updDense_tagWait : (updDense s c f).tagWait = s.tagWait := rfl
@[simp] theorem updDense_applied : (updDense s c f).applied = s.applied := rfl
@[simp] theorem updDense_lastOpen : (updDense s c f).lastOpen = s.lastOpen := rfl
@[simp] theorem updDense_steps : (updDense s c f).steps = s.steps := rfl
@[simp] theorem updDense_dutyHeld : (updDense s c f).dutyHeld = s.dutyHeld := rfl
@[simp] theorem updDense_sets : (updDense s c f).sets = s.sets := rfl
@[simp] theorem updDense_msix : (updDense s c f).msix = s.msix := rfl
@[simp] theorem updDense_pcie : (updDense s c f).pcie = s.pcie := rfl
@[simp] theorem updDense_xlate : (updDense s c f).xlate = s.xlate := rfl
@[simp] theorem updDense_xlateInv : (updDense s c f).xlateInv = s.xlateInv := rfl
@[simp] theorem updDense_txq : (updDense s c f).txq = s.txq := rfl
@[simp] theorem updDense_streams : (updDense s c f).streams = s.streams := rfl
@[simp] theorem updDense_links : (updDense s c f).links = s.links := rfl
@[simp] theorem updDense_inbox : (updDense s c f).inbox = s.inbox := rfl
@[simp] theorem updDense_out : (updDense s c f).out = s.out := rfl
@[simp] theorem updDense_testMode : (updDense s c f).testMode = s.testMode := rfl
@[simp] theorem updDense_rngs : (updDense s c f).rngs = s.rngs := rfl
@[simp] theorem updDense_noiseCount : (updDense s c f).noiseCount = s.noiseCount := rfl
@[simp] theorem updDense_numSlots : (updDense s c f).numSlots = s.numSlots := rfl
@[simp] theorem updDense_sums : (updDense s c f).sums = s.sums := rfl
@[simp] theorem updDense_strms : (updDense s c f).strms = s.strms := rfl
@[simp] theorem updDense_walks : (updDense s c f).walks = s.walks := rfl
@[simp] theorem updDense_hubs : (updDense s c f).hubs = s.hubs := rfl
@[simp] theorem updDense_nextHub : (updDense s c f).nextHub = s.nextHub := rfl
@[simp] theorem updDense_hslots : (updDense s c f).hslots = s.hslots := rfl
@[simp] theorem updDense_hworks : (updDense s c f).hworks = s.hworks := rfl
@[simp] theorem updDense_vworks : (updDense s c f).vworks = s.vworks := rfl
@[simp] theorem updDense_replay : (updDense s c f).replay = s.replay := rfl
@[simp] theorem updDense_saves : (updDense s c f).saves = s.saves := rfl
@[simp] theorem updDense_objs : (updDense s c f).objs = s.objs := rfl
@[simp] theorem updDense_sworks : (updDense s c f).sworks = s.sworks := rfl
@[simp] theorem updDense_dworks : (updDense s c f).dworks = s.dworks := rfl
@[simp] theorem updDense_rcache : (updDense s c f).rcache = s.rcache := rfl
@[simp] theorem updDense_pinRefused : (updDense s c f).pinRefused = s.pinRefused := rfl
@[simp] theorem updDense_chans : (updDense s c f).chans = s.chans := rfl
@[simp] theorem updDense_spares : (updDense s c f).spares = s.spares := rfl
@[simp] theorem updDense_latches : (updDense s c f).latches = s.latches := rfl
@[simp] theorem updDense_gworks : (updDense s c f).gworks = s.gworks := rfl
@[simp] theorem updDense_moves : (updDense s c f).moves = s.moves := rfl
@[simp] theorem updDense_bcache : (updDense s c f).bcache = s.bcache := rfl
@[simp] theorem updDense_pops : (updDense s c f).pops = s.pops := rfl
@[simp] theorem updDense_homes : (updDense s c f).homes = s.homes := rfl
@[simp] theorem updDense_heldRows : (updDense s c f).heldRows = s.heldRows := rfl
@[simp] theorem updDense_moved : (updDense s c f).moved = s.moved := rfl
@[simp] theorem updDense_mwins : (updDense s c f).mwins = s.mwins := rfl
@[simp] theorem updDense_origins : (updDense s c f).origins = s.origins := rfl
@[simp] theorem updDense_flushKeys : (updDense s c f).flushKeys = s.flushKeys := rfl
@[simp] theorem updDense_parts : (updDense s c f).parts = s.parts := rfl
@[simp] theorem updDense_journal : (updDense s c f).journal = s.journal := rfl
@[simp] theorem updDense_jtail : (updDense s c f).jtail = s.jtail := rfl
@[simp] theorem updDense_jseq : (updDense s c f).jseq = s.jseq := rfl
@[simp] theorem updDense_jckpt : (updDense s c f).jckpt = s.jckpt := rfl
@[simp] theorem updDense_sqSlots : (updDense s c f).sqSlots = s.sqSlots := rfl
@[simp] theorem updDense_nearRetired : (updDense s c f).nearRetired = s.nearRetired := rfl
@[simp] theorem updDense_power : (updDense s c f).power = s.power := rfl
@[simp] theorem updDense_fw : (updDense s c f).fw = s.fw := rfl
@[simp] theorem updDense_gate : (updDense s c f).gate = s.gate := rfl
@[simp] theorem updDense_colls : (updDense s c f).colls = s.colls := rfl
@[simp] theorem updDense_snapSeq : (updDense s c f).snapSeq = s.snapSeq := rfl
@[simp] theorem updDense_cfgFail : (updDense s c f).cfgFail = s.cfgFail := rfl
@[simp] theorem updDense_lost : (updDense s c f).lost = s.lost := rfl
@[simp] theorem updDense_fresh : (updDense s c f).fresh = s.fresh := rfl
end updDense

/-! ### `updFw` -/

section updFw
variable (s : State) (f : Firmware → Firmware)
@[simp] theorem updFw_pending : (updFw s f).pending = s.pending := rfl
@[simp] theorem updFw_part : (updFw s f).part = s.part := rfl
@[simp] theorem updFw_mem : (updFw s f).mem = s.mem := rfl
@[simp] theorem updFw_hostMem : (updFw s f).hostMem = s.hostMem := rfl
@[simp] theorem updFw_tags : (updFw s f).tags = s.tags := rfl
@[simp] theorem updFw_poison : (updFw s f).poison = s.poison := rfl
@[simp] theorem updFw_regs : (updFw s f).regs = s.regs := rfl
@[simp] theorem updFw_pages : (updFw s f).pages = s.pages := rfl
@[simp] theorem updFw_doms : (updFw s f).doms = s.doms := rfl
@[simp] theorem updFw_slots : (updFw s f).slots = s.slots := rfl
@[simp] theorem updFw_accepts : (updFw s f).accepts = s.accepts := rfl
@[simp] theorem updFw_aflows : (updFw s f).aflows = s.aflows := rfl
@[simp] theorem updFw_oflows : (updFw s f).oflows = s.oflows := rfl
@[simp] theorem updFw_heads : (updFw s f).heads = s.heads := rfl
@[simp] theorem updFw_thrs : (updFw s f).thrs = s.thrs := rfl
@[simp] theorem updFw_ops : (updFw s f).ops = s.ops := rfl
@[simp] theorem updFw_nextOp : (updFw s f).nextOp = s.nextOp := rfl
@[simp] theorem updFw_reqs : (updFw s f).reqs = s.reqs := rfl
@[simp] theorem updFw_nextReq : (updFw s f).nextReq = s.nextReq := rfl
@[simp] theorem updFw_sqs : (updFw s f).sqs = s.sqs := rfl
@[simp] theorem updFw_cqs : (updFw s f).cqs = s.cqs := rfl
@[simp] theorem updFw_tagWait : (updFw s f).tagWait = s.tagWait := rfl
@[simp] theorem updFw_applied : (updFw s f).applied = s.applied := rfl
@[simp] theorem updFw_lastOpen : (updFw s f).lastOpen = s.lastOpen := rfl
@[simp] theorem updFw_steps : (updFw s f).steps = s.steps := rfl
@[simp] theorem updFw_dutyHeld : (updFw s f).dutyHeld = s.dutyHeld := rfl
@[simp] theorem updFw_sets : (updFw s f).sets = s.sets := rfl
@[simp] theorem updFw_msix : (updFw s f).msix = s.msix := rfl
@[simp] theorem updFw_pcie : (updFw s f).pcie = s.pcie := rfl
@[simp] theorem updFw_xlate : (updFw s f).xlate = s.xlate := rfl
@[simp] theorem updFw_xlateInv : (updFw s f).xlateInv = s.xlateInv := rfl
@[simp] theorem updFw_txq : (updFw s f).txq = s.txq := rfl
@[simp] theorem updFw_streams : (updFw s f).streams = s.streams := rfl
@[simp] theorem updFw_links : (updFw s f).links = s.links := rfl
@[simp] theorem updFw_inbox : (updFw s f).inbox = s.inbox := rfl
@[simp] theorem updFw_out : (updFw s f).out = s.out := rfl
@[simp] theorem updFw_testMode : (updFw s f).testMode = s.testMode := rfl
@[simp] theorem updFw_rngs : (updFw s f).rngs = s.rngs := rfl
@[simp] theorem updFw_noiseCount : (updFw s f).noiseCount = s.noiseCount := rfl
@[simp] theorem updFw_numSlots : (updFw s f).numSlots = s.numSlots := rfl
@[simp] theorem updFw_sums : (updFw s f).sums = s.sums := rfl
@[simp] theorem updFw_strms : (updFw s f).strms = s.strms := rfl
@[simp] theorem updFw_dense : (updFw s f).dense = s.dense := rfl
@[simp] theorem updFw_walks : (updFw s f).walks = s.walks := rfl
@[simp] theorem updFw_hubs : (updFw s f).hubs = s.hubs := rfl
@[simp] theorem updFw_nextHub : (updFw s f).nextHub = s.nextHub := rfl
@[simp] theorem updFw_hslots : (updFw s f).hslots = s.hslots := rfl
@[simp] theorem updFw_hworks : (updFw s f).hworks = s.hworks := rfl
@[simp] theorem updFw_vworks : (updFw s f).vworks = s.vworks := rfl
@[simp] theorem updFw_replay : (updFw s f).replay = s.replay := rfl
@[simp] theorem updFw_saves : (updFw s f).saves = s.saves := rfl
@[simp] theorem updFw_objs : (updFw s f).objs = s.objs := rfl
@[simp] theorem updFw_sworks : (updFw s f).sworks = s.sworks := rfl
@[simp] theorem updFw_dworks : (updFw s f).dworks = s.dworks := rfl
@[simp] theorem updFw_rcache : (updFw s f).rcache = s.rcache := rfl
@[simp] theorem updFw_pinRefused : (updFw s f).pinRefused = s.pinRefused := rfl
@[simp] theorem updFw_chans : (updFw s f).chans = s.chans := rfl
@[simp] theorem updFw_spares : (updFw s f).spares = s.spares := rfl
@[simp] theorem updFw_latches : (updFw s f).latches = s.latches := rfl
@[simp] theorem updFw_gworks : (updFw s f).gworks = s.gworks := rfl
@[simp] theorem updFw_moves : (updFw s f).moves = s.moves := rfl
@[simp] theorem updFw_bcache : (updFw s f).bcache = s.bcache := rfl
@[simp] theorem updFw_pops : (updFw s f).pops = s.pops := rfl
@[simp] theorem updFw_homes : (updFw s f).homes = s.homes := rfl
@[simp] theorem updFw_heldRows : (updFw s f).heldRows = s.heldRows := rfl
@[simp] theorem updFw_moved : (updFw s f).moved = s.moved := rfl
@[simp] theorem updFw_mwins : (updFw s f).mwins = s.mwins := rfl
@[simp] theorem updFw_origins : (updFw s f).origins = s.origins := rfl
@[simp] theorem updFw_flushKeys : (updFw s f).flushKeys = s.flushKeys := rfl
@[simp] theorem updFw_parts : (updFw s f).parts = s.parts := rfl
@[simp] theorem updFw_journal : (updFw s f).journal = s.journal := rfl
@[simp] theorem updFw_jtail : (updFw s f).jtail = s.jtail := rfl
@[simp] theorem updFw_jseq : (updFw s f).jseq = s.jseq := rfl
@[simp] theorem updFw_jckpt : (updFw s f).jckpt = s.jckpt := rfl
@[simp] theorem updFw_sqSlots : (updFw s f).sqSlots = s.sqSlots := rfl
@[simp] theorem updFw_nearRetired : (updFw s f).nearRetired = s.nearRetired := rfl
@[simp] theorem updFw_power : (updFw s f).power = s.power := rfl
@[simp] theorem updFw_gate : (updFw s f).gate = s.gate := rfl
@[simp] theorem updFw_colls : (updFw s f).colls = s.colls := rfl
@[simp] theorem updFw_snapSeq : (updFw s f).snapSeq = s.snapSeq := rfl
@[simp] theorem updFw_cfgFail : (updFw s f).cfgFail = s.cfgFail := rfl
@[simp] theorem updFw_lost : (updFw s f).lost = s.lost := rfl
@[simp] theorem updFw_fresh : (updFw s f).fresh = s.fresh := rfl
@[simp] theorem updFw_fw : (updFw s f).fw = f s.fw := rfl
end updFw

/-! ### `emit` -/

section emit
variable (s : State) (o : Out)
@[simp] theorem emit_pending : (emit s o).pending = s.pending := rfl
@[simp] theorem emit_part : (emit s o).part = s.part := rfl
@[simp] theorem emit_mem : (emit s o).mem = s.mem := rfl
@[simp] theorem emit_hostMem : (emit s o).hostMem = s.hostMem := rfl
@[simp] theorem emit_tags : (emit s o).tags = s.tags := rfl
@[simp] theorem emit_poison : (emit s o).poison = s.poison := rfl
@[simp] theorem emit_regs : (emit s o).regs = s.regs := rfl
@[simp] theorem emit_pages : (emit s o).pages = s.pages := rfl
@[simp] theorem emit_doms : (emit s o).doms = s.doms := rfl
@[simp] theorem emit_slots : (emit s o).slots = s.slots := rfl
@[simp] theorem emit_accepts : (emit s o).accepts = s.accepts := rfl
@[simp] theorem emit_aflows : (emit s o).aflows = s.aflows := rfl
@[simp] theorem emit_oflows : (emit s o).oflows = s.oflows := rfl
@[simp] theorem emit_heads : (emit s o).heads = s.heads := rfl
@[simp] theorem emit_thrs : (emit s o).thrs = s.thrs := rfl
@[simp] theorem emit_ops : (emit s o).ops = s.ops := rfl
@[simp] theorem emit_nextOp : (emit s o).nextOp = s.nextOp := rfl
@[simp] theorem emit_reqs : (emit s o).reqs = s.reqs := rfl
@[simp] theorem emit_nextReq : (emit s o).nextReq = s.nextReq := rfl
@[simp] theorem emit_sqs : (emit s o).sqs = s.sqs := rfl
@[simp] theorem emit_cqs : (emit s o).cqs = s.cqs := rfl
@[simp] theorem emit_tagWait : (emit s o).tagWait = s.tagWait := rfl
@[simp] theorem emit_applied : (emit s o).applied = s.applied := rfl
@[simp] theorem emit_lastOpen : (emit s o).lastOpen = s.lastOpen := rfl
@[simp] theorem emit_steps : (emit s o).steps = s.steps := rfl
@[simp] theorem emit_dutyHeld : (emit s o).dutyHeld = s.dutyHeld := rfl
@[simp] theorem emit_sets : (emit s o).sets = s.sets := rfl
@[simp] theorem emit_msix : (emit s o).msix = s.msix := rfl
@[simp] theorem emit_pcie : (emit s o).pcie = s.pcie := rfl
@[simp] theorem emit_xlate : (emit s o).xlate = s.xlate := rfl
@[simp] theorem emit_xlateInv : (emit s o).xlateInv = s.xlateInv := rfl
@[simp] theorem emit_txq : (emit s o).txq = s.txq := rfl
@[simp] theorem emit_streams : (emit s o).streams = s.streams := rfl
@[simp] theorem emit_links : (emit s o).links = s.links := rfl
@[simp] theorem emit_inbox : (emit s o).inbox = s.inbox := rfl
@[simp] theorem emit_testMode : (emit s o).testMode = s.testMode := rfl
@[simp] theorem emit_rngs : (emit s o).rngs = s.rngs := rfl
@[simp] theorem emit_noiseCount : (emit s o).noiseCount = s.noiseCount := rfl
@[simp] theorem emit_numSlots : (emit s o).numSlots = s.numSlots := rfl
@[simp] theorem emit_sums : (emit s o).sums = s.sums := rfl
@[simp] theorem emit_strms : (emit s o).strms = s.strms := rfl
@[simp] theorem emit_dense : (emit s o).dense = s.dense := rfl
@[simp] theorem emit_walks : (emit s o).walks = s.walks := rfl
@[simp] theorem emit_hubs : (emit s o).hubs = s.hubs := rfl
@[simp] theorem emit_nextHub : (emit s o).nextHub = s.nextHub := rfl
@[simp] theorem emit_hslots : (emit s o).hslots = s.hslots := rfl
@[simp] theorem emit_hworks : (emit s o).hworks = s.hworks := rfl
@[simp] theorem emit_vworks : (emit s o).vworks = s.vworks := rfl
@[simp] theorem emit_replay : (emit s o).replay = s.replay := rfl
@[simp] theorem emit_saves : (emit s o).saves = s.saves := rfl
@[simp] theorem emit_objs : (emit s o).objs = s.objs := rfl
@[simp] theorem emit_sworks : (emit s o).sworks = s.sworks := rfl
@[simp] theorem emit_dworks : (emit s o).dworks = s.dworks := rfl
@[simp] theorem emit_rcache : (emit s o).rcache = s.rcache := rfl
@[simp] theorem emit_pinRefused : (emit s o).pinRefused = s.pinRefused := rfl
@[simp] theorem emit_chans : (emit s o).chans = s.chans := rfl
@[simp] theorem emit_spares : (emit s o).spares = s.spares := rfl
@[simp] theorem emit_latches : (emit s o).latches = s.latches := rfl
@[simp] theorem emit_gworks : (emit s o).gworks = s.gworks := rfl
@[simp] theorem emit_moves : (emit s o).moves = s.moves := rfl
@[simp] theorem emit_bcache : (emit s o).bcache = s.bcache := rfl
@[simp] theorem emit_pops : (emit s o).pops = s.pops := rfl
@[simp] theorem emit_homes : (emit s o).homes = s.homes := rfl
@[simp] theorem emit_heldRows : (emit s o).heldRows = s.heldRows := rfl
@[simp] theorem emit_moved : (emit s o).moved = s.moved := rfl
@[simp] theorem emit_mwins : (emit s o).mwins = s.mwins := rfl
@[simp] theorem emit_origins : (emit s o).origins = s.origins := rfl
@[simp] theorem emit_flushKeys : (emit s o).flushKeys = s.flushKeys := rfl
@[simp] theorem emit_parts : (emit s o).parts = s.parts := rfl
@[simp] theorem emit_journal : (emit s o).journal = s.journal := rfl
@[simp] theorem emit_jtail : (emit s o).jtail = s.jtail := rfl
@[simp] theorem emit_jseq : (emit s o).jseq = s.jseq := rfl
@[simp] theorem emit_jckpt : (emit s o).jckpt = s.jckpt := rfl
@[simp] theorem emit_sqSlots : (emit s o).sqSlots = s.sqSlots := rfl
@[simp] theorem emit_nearRetired : (emit s o).nearRetired = s.nearRetired := rfl
@[simp] theorem emit_power : (emit s o).power = s.power := rfl
@[simp] theorem emit_fw : (emit s o).fw = s.fw := rfl
@[simp] theorem emit_gate : (emit s o).gate = s.gate := rfl
@[simp] theorem emit_colls : (emit s o).colls = s.colls := rfl
@[simp] theorem emit_snapSeq : (emit s o).snapSeq = s.snapSeq := rfl
@[simp] theorem emit_cfgFail : (emit s o).cfgFail = s.cfgFail := rfl
@[simp] theorem emit_lost : (emit s o).lost = s.lost := rfl
@[simp] theorem emit_fresh : (emit s o).fresh = s.fresh := rfl
@[simp] theorem emit_out : (emit s o).out = o :: s.out := rfl
end emit

/-! ### `addCnt` -/

section addCnt
variable (s : State) (p o i n : Nat)
@[simp] theorem addCnt_pending : (addCnt s p o i n).pending = s.pending := rfl
@[simp] theorem addCnt_part : (addCnt s p o i n).part = s.part := rfl
@[simp] theorem addCnt_mem : (addCnt s p o i n).mem = s.mem := rfl
@[simp] theorem addCnt_hostMem : (addCnt s p o i n).hostMem = s.hostMem := rfl
@[simp] theorem addCnt_tags : (addCnt s p o i n).tags = s.tags := rfl
@[simp] theorem addCnt_poison : (addCnt s p o i n).poison = s.poison := rfl
@[simp] theorem addCnt_pages : (addCnt s p o i n).pages = s.pages := rfl
@[simp] theorem addCnt_doms : (addCnt s p o i n).doms = s.doms := rfl
@[simp] theorem addCnt_slots : (addCnt s p o i n).slots = s.slots := rfl
@[simp] theorem addCnt_accepts : (addCnt s p o i n).accepts = s.accepts := rfl
@[simp] theorem addCnt_aflows : (addCnt s p o i n).aflows = s.aflows := rfl
@[simp] theorem addCnt_oflows : (addCnt s p o i n).oflows = s.oflows := rfl
@[simp] theorem addCnt_heads : (addCnt s p o i n).heads = s.heads := rfl
@[simp] theorem addCnt_thrs : (addCnt s p o i n).thrs = s.thrs := rfl
@[simp] theorem addCnt_ops : (addCnt s p o i n).ops = s.ops := rfl
@[simp] theorem addCnt_nextOp : (addCnt s p o i n).nextOp = s.nextOp := rfl
@[simp] theorem addCnt_reqs : (addCnt s p o i n).reqs = s.reqs := rfl
@[simp] theorem addCnt_nextReq : (addCnt s p o i n).nextReq = s.nextReq := rfl
@[simp] theorem addCnt_sqs : (addCnt s p o i n).sqs = s.sqs := rfl
@[simp] theorem addCnt_cqs : (addCnt s p o i n).cqs = s.cqs := rfl
@[simp] theorem addCnt_tagWait : (addCnt s p o i n).tagWait = s.tagWait := rfl
@[simp] theorem addCnt_applied : (addCnt s p o i n).applied = s.applied := rfl
@[simp] theorem addCnt_lastOpen : (addCnt s p o i n).lastOpen = s.lastOpen := rfl
@[simp] theorem addCnt_steps : (addCnt s p o i n).steps = s.steps := rfl
@[simp] theorem addCnt_dutyHeld : (addCnt s p o i n).dutyHeld = s.dutyHeld := rfl
@[simp] theorem addCnt_sets : (addCnt s p o i n).sets = s.sets := rfl
@[simp] theorem addCnt_msix : (addCnt s p o i n).msix = s.msix := rfl
@[simp] theorem addCnt_pcie : (addCnt s p o i n).pcie = s.pcie := rfl
@[simp] theorem addCnt_xlate : (addCnt s p o i n).xlate = s.xlate := rfl
@[simp] theorem addCnt_xlateInv : (addCnt s p o i n).xlateInv = s.xlateInv := rfl
@[simp] theorem addCnt_txq : (addCnt s p o i n).txq = s.txq := rfl
@[simp] theorem addCnt_streams : (addCnt s p o i n).streams = s.streams := rfl
@[simp] theorem addCnt_links : (addCnt s p o i n).links = s.links := rfl
@[simp] theorem addCnt_inbox : (addCnt s p o i n).inbox = s.inbox := rfl
@[simp] theorem addCnt_out : (addCnt s p o i n).out = s.out := rfl
@[simp] theorem addCnt_testMode : (addCnt s p o i n).testMode = s.testMode := rfl
@[simp] theorem addCnt_rngs : (addCnt s p o i n).rngs = s.rngs := rfl
@[simp] theorem addCnt_noiseCount : (addCnt s p o i n).noiseCount = s.noiseCount := rfl
@[simp] theorem addCnt_numSlots : (addCnt s p o i n).numSlots = s.numSlots := rfl
@[simp] theorem addCnt_sums : (addCnt s p o i n).sums = s.sums := rfl
@[simp] theorem addCnt_strms : (addCnt s p o i n).strms = s.strms := rfl
@[simp] theorem addCnt_dense : (addCnt s p o i n).dense = s.dense := rfl
@[simp] theorem addCnt_walks : (addCnt s p o i n).walks = s.walks := rfl
@[simp] theorem addCnt_hubs : (addCnt s p o i n).hubs = s.hubs := rfl
@[simp] theorem addCnt_nextHub : (addCnt s p o i n).nextHub = s.nextHub := rfl
@[simp] theorem addCnt_hslots : (addCnt s p o i n).hslots = s.hslots := rfl
@[simp] theorem addCnt_hworks : (addCnt s p o i n).hworks = s.hworks := rfl
@[simp] theorem addCnt_vworks : (addCnt s p o i n).vworks = s.vworks := rfl
@[simp] theorem addCnt_replay : (addCnt s p o i n).replay = s.replay := rfl
@[simp] theorem addCnt_saves : (addCnt s p o i n).saves = s.saves := rfl
@[simp] theorem addCnt_objs : (addCnt s p o i n).objs = s.objs := rfl
@[simp] theorem addCnt_sworks : (addCnt s p o i n).sworks = s.sworks := rfl
@[simp] theorem addCnt_dworks : (addCnt s p o i n).dworks = s.dworks := rfl
@[simp] theorem addCnt_rcache : (addCnt s p o i n).rcache = s.rcache := rfl
@[simp] theorem addCnt_pinRefused : (addCnt s p o i n).pinRefused = s.pinRefused := rfl
@[simp] theorem addCnt_chans : (addCnt s p o i n).chans = s.chans := rfl
@[simp] theorem addCnt_spares : (addCnt s p o i n).spares = s.spares := rfl
@[simp] theorem addCnt_latches : (addCnt s p o i n).latches = s.latches := rfl
@[simp] theorem addCnt_gworks : (addCnt s p o i n).gworks = s.gworks := rfl
@[simp] theorem addCnt_moves : (addCnt s p o i n).moves = s.moves := rfl
@[simp] theorem addCnt_bcache : (addCnt s p o i n).bcache = s.bcache := rfl
@[simp] theorem addCnt_pops : (addCnt s p o i n).pops = s.pops := rfl
@[simp] theorem addCnt_homes : (addCnt s p o i n).homes = s.homes := rfl
@[simp] theorem addCnt_heldRows : (addCnt s p o i n).heldRows = s.heldRows := rfl
@[simp] theorem addCnt_moved : (addCnt s p o i n).moved = s.moved := rfl
@[simp] theorem addCnt_mwins : (addCnt s p o i n).mwins = s.mwins := rfl
@[simp] theorem addCnt_origins : (addCnt s p o i n).origins = s.origins := rfl
@[simp] theorem addCnt_flushKeys : (addCnt s p o i n).flushKeys = s.flushKeys := rfl
@[simp] theorem addCnt_parts : (addCnt s p o i n).parts = s.parts := rfl
@[simp] theorem addCnt_journal : (addCnt s p o i n).journal = s.journal := rfl
@[simp] theorem addCnt_jtail : (addCnt s p o i n).jtail = s.jtail := rfl
@[simp] theorem addCnt_jseq : (addCnt s p o i n).jseq = s.jseq := rfl
@[simp] theorem addCnt_jckpt : (addCnt s p o i n).jckpt = s.jckpt := rfl
@[simp] theorem addCnt_sqSlots : (addCnt s p o i n).sqSlots = s.sqSlots := rfl
@[simp] theorem addCnt_nearRetired : (addCnt s p o i n).nearRetired = s.nearRetired := rfl
@[simp] theorem addCnt_power : (addCnt s p o i n).power = s.power := rfl
@[simp] theorem addCnt_fw : (addCnt s p o i n).fw = s.fw := rfl
@[simp] theorem addCnt_gate : (addCnt s p o i n).gate = s.gate := rfl
@[simp] theorem addCnt_colls : (addCnt s p o i n).colls = s.colls := rfl
@[simp] theorem addCnt_snapSeq : (addCnt s p o i n).snapSeq = s.snapSeq := rfl
@[simp] theorem addCnt_cfgFail : (addCnt s p o i n).cfgFail = s.cfgFail := rfl
@[simp] theorem addCnt_lost : (addCnt s p o i n).lost = s.lost := rfl
@[simp] theorem addCnt_fresh : (addCnt s p o i n).fresh = s.fresh := rfl
end addCnt

/-! ### `wrB` -/

section wrB
variable (s : State) (a : Nat) (v : Byte)
@[simp] theorem wrB_pending : (wrB s a v).pending = s.pending := rfl
@[simp] theorem wrB_part : (wrB s a v).part = s.part := rfl
@[simp] theorem wrB_hostMem : (wrB s a v).hostMem = s.hostMem := rfl
@[simp] theorem wrB_tags : (wrB s a v).tags = s.tags := rfl
@[simp] theorem wrB_poison : (wrB s a v).poison = s.poison := rfl
@[simp] theorem wrB_regs : (wrB s a v).regs = s.regs := rfl
@[simp] theorem wrB_pages : (wrB s a v).pages = s.pages := rfl
@[simp] theorem wrB_doms : (wrB s a v).doms = s.doms := rfl
@[simp] theorem wrB_slots : (wrB s a v).slots = s.slots := rfl
@[simp] theorem wrB_accepts : (wrB s a v).accepts = s.accepts := rfl
@[simp] theorem wrB_aflows : (wrB s a v).aflows = s.aflows := rfl
@[simp] theorem wrB_oflows : (wrB s a v).oflows = s.oflows := rfl
@[simp] theorem wrB_heads : (wrB s a v).heads = s.heads := rfl
@[simp] theorem wrB_thrs : (wrB s a v).thrs = s.thrs := rfl
@[simp] theorem wrB_ops : (wrB s a v).ops = s.ops := rfl
@[simp] theorem wrB_nextOp : (wrB s a v).nextOp = s.nextOp := rfl
@[simp] theorem wrB_reqs : (wrB s a v).reqs = s.reqs := rfl
@[simp] theorem wrB_nextReq : (wrB s a v).nextReq = s.nextReq := rfl
@[simp] theorem wrB_sqs : (wrB s a v).sqs = s.sqs := rfl
@[simp] theorem wrB_cqs : (wrB s a v).cqs = s.cqs := rfl
@[simp] theorem wrB_tagWait : (wrB s a v).tagWait = s.tagWait := rfl
@[simp] theorem wrB_applied : (wrB s a v).applied = s.applied := rfl
@[simp] theorem wrB_lastOpen : (wrB s a v).lastOpen = s.lastOpen := rfl
@[simp] theorem wrB_steps : (wrB s a v).steps = s.steps := rfl
@[simp] theorem wrB_dutyHeld : (wrB s a v).dutyHeld = s.dutyHeld := rfl
@[simp] theorem wrB_sets : (wrB s a v).sets = s.sets := rfl
@[simp] theorem wrB_msix : (wrB s a v).msix = s.msix := rfl
@[simp] theorem wrB_pcie : (wrB s a v).pcie = s.pcie := rfl
@[simp] theorem wrB_xlate : (wrB s a v).xlate = s.xlate := rfl
@[simp] theorem wrB_xlateInv : (wrB s a v).xlateInv = s.xlateInv := rfl
@[simp] theorem wrB_txq : (wrB s a v).txq = s.txq := rfl
@[simp] theorem wrB_streams : (wrB s a v).streams = s.streams := rfl
@[simp] theorem wrB_links : (wrB s a v).links = s.links := rfl
@[simp] theorem wrB_inbox : (wrB s a v).inbox = s.inbox := rfl
@[simp] theorem wrB_out : (wrB s a v).out = s.out := rfl
@[simp] theorem wrB_testMode : (wrB s a v).testMode = s.testMode := rfl
@[simp] theorem wrB_rngs : (wrB s a v).rngs = s.rngs := rfl
@[simp] theorem wrB_noiseCount : (wrB s a v).noiseCount = s.noiseCount := rfl
@[simp] theorem wrB_numSlots : (wrB s a v).numSlots = s.numSlots := rfl
@[simp] theorem wrB_sums : (wrB s a v).sums = s.sums := rfl
@[simp] theorem wrB_strms : (wrB s a v).strms = s.strms := rfl
@[simp] theorem wrB_dense : (wrB s a v).dense = s.dense := rfl
@[simp] theorem wrB_walks : (wrB s a v).walks = s.walks := rfl
@[simp] theorem wrB_hubs : (wrB s a v).hubs = s.hubs := rfl
@[simp] theorem wrB_nextHub : (wrB s a v).nextHub = s.nextHub := rfl
@[simp] theorem wrB_hslots : (wrB s a v).hslots = s.hslots := rfl
@[simp] theorem wrB_hworks : (wrB s a v).hworks = s.hworks := rfl
@[simp] theorem wrB_vworks : (wrB s a v).vworks = s.vworks := rfl
@[simp] theorem wrB_replay : (wrB s a v).replay = s.replay := rfl
@[simp] theorem wrB_saves : (wrB s a v).saves = s.saves := rfl
@[simp] theorem wrB_objs : (wrB s a v).objs = s.objs := rfl
@[simp] theorem wrB_sworks : (wrB s a v).sworks = s.sworks := rfl
@[simp] theorem wrB_dworks : (wrB s a v).dworks = s.dworks := rfl
@[simp] theorem wrB_rcache : (wrB s a v).rcache = s.rcache := rfl
@[simp] theorem wrB_pinRefused : (wrB s a v).pinRefused = s.pinRefused := rfl
@[simp] theorem wrB_chans : (wrB s a v).chans = s.chans := rfl
@[simp] theorem wrB_spares : (wrB s a v).spares = s.spares := rfl
@[simp] theorem wrB_latches : (wrB s a v).latches = s.latches := rfl
@[simp] theorem wrB_gworks : (wrB s a v).gworks = s.gworks := rfl
@[simp] theorem wrB_moves : (wrB s a v).moves = s.moves := rfl
@[simp] theorem wrB_bcache : (wrB s a v).bcache = s.bcache := rfl
@[simp] theorem wrB_pops : (wrB s a v).pops = s.pops := rfl
@[simp] theorem wrB_homes : (wrB s a v).homes = s.homes := rfl
@[simp] theorem wrB_heldRows : (wrB s a v).heldRows = s.heldRows := rfl
@[simp] theorem wrB_moved : (wrB s a v).moved = s.moved := rfl
@[simp] theorem wrB_mwins : (wrB s a v).mwins = s.mwins := rfl
@[simp] theorem wrB_origins : (wrB s a v).origins = s.origins := rfl
@[simp] theorem wrB_flushKeys : (wrB s a v).flushKeys = s.flushKeys := rfl
@[simp] theorem wrB_parts : (wrB s a v).parts = s.parts := rfl
@[simp] theorem wrB_journal : (wrB s a v).journal = s.journal := rfl
@[simp] theorem wrB_jtail : (wrB s a v).jtail = s.jtail := rfl
@[simp] theorem wrB_jseq : (wrB s a v).jseq = s.jseq := rfl
@[simp] theorem wrB_jckpt : (wrB s a v).jckpt = s.jckpt := rfl
@[simp] theorem wrB_sqSlots : (wrB s a v).sqSlots = s.sqSlots := rfl
@[simp] theorem wrB_nearRetired : (wrB s a v).nearRetired = s.nearRetired := rfl
@[simp] theorem wrB_power : (wrB s a v).power = s.power := rfl
@[simp] theorem wrB_fw : (wrB s a v).fw = s.fw := rfl
@[simp] theorem wrB_gate : (wrB s a v).gate = s.gate := rfl
@[simp] theorem wrB_colls : (wrB s a v).colls = s.colls := rfl
@[simp] theorem wrB_snapSeq : (wrB s a v).snapSeq = s.snapSeq := rfl
@[simp] theorem wrB_cfgFail : (wrB s a v).cfgFail = s.cfgFail := rfl
@[simp] theorem wrB_lost : (wrB s a v).lost = s.lost := rfl
@[simp] theorem wrB_fresh : (wrB s a v).fresh = s.fresh := rfl
end wrB

/-! ### `sendSet` -/

section sendSet
variable (s : State) (h : Nat) (b : DWord) (x y : List Nat) (o : Option Nat) (d q : Nat)
@[simp] theorem sendSet_pending : (sendSet s h b x y o d q).pending = s.pending := rfl
@[simp] theorem sendSet_part : (sendSet s h b x y o d q).part = s.part := rfl
@[simp] theorem sendSet_mem : (sendSet s h b x y o d q).mem = s.mem := rfl
@[simp] theorem sendSet_hostMem : (sendSet s h b x y o d q).hostMem = s.hostMem := rfl
@[simp] theorem sendSet_tags : (sendSet s h b x y o d q).tags = s.tags := rfl
@[simp] theorem sendSet_poison : (sendSet s h b x y o d q).poison = s.poison := rfl
@[simp] theorem sendSet_regs : (sendSet s h b x y o d q).regs = s.regs := rfl
@[simp] theorem sendSet_pages : (sendSet s h b x y o d q).pages = s.pages := rfl
@[simp] theorem sendSet_doms : (sendSet s h b x y o d q).doms = s.doms := rfl
@[simp] theorem sendSet_slots : (sendSet s h b x y o d q).slots = s.slots := rfl
@[simp] theorem sendSet_accepts : (sendSet s h b x y o d q).accepts = s.accepts := rfl
@[simp] theorem sendSet_aflows : (sendSet s h b x y o d q).aflows = s.aflows := rfl
@[simp] theorem sendSet_oflows : (sendSet s h b x y o d q).oflows = s.oflows := rfl
@[simp] theorem sendSet_heads : (sendSet s h b x y o d q).heads = s.heads := rfl
@[simp] theorem sendSet_thrs : (sendSet s h b x y o d q).thrs = s.thrs := rfl
@[simp] theorem sendSet_ops : (sendSet s h b x y o d q).ops = s.ops := rfl
@[simp] theorem sendSet_nextOp : (sendSet s h b x y o d q).nextOp = s.nextOp := rfl
@[simp] theorem sendSet_reqs : (sendSet s h b x y o d q).reqs = s.reqs := rfl
@[simp] theorem sendSet_nextReq : (sendSet s h b x y o d q).nextReq = s.nextReq := rfl
@[simp] theorem sendSet_sqs : (sendSet s h b x y o d q).sqs = s.sqs := rfl
@[simp] theorem sendSet_cqs : (sendSet s h b x y o d q).cqs = s.cqs := rfl
@[simp] theorem sendSet_tagWait : (sendSet s h b x y o d q).tagWait = s.tagWait := rfl
@[simp] theorem sendSet_applied : (sendSet s h b x y o d q).applied = s.applied := rfl
@[simp] theorem sendSet_lastOpen : (sendSet s h b x y o d q).lastOpen = s.lastOpen := rfl
@[simp] theorem sendSet_steps : (sendSet s h b x y o d q).steps = s.steps := rfl
@[simp] theorem sendSet_dutyHeld : (sendSet s h b x y o d q).dutyHeld = s.dutyHeld := rfl
@[simp] theorem sendSet_msix : (sendSet s h b x y o d q).msix = s.msix := rfl
@[simp] theorem sendSet_pcie : (sendSet s h b x y o d q).pcie = s.pcie := rfl
@[simp] theorem sendSet_xlate : (sendSet s h b x y o d q).xlate = s.xlate := rfl
@[simp] theorem sendSet_xlateInv : (sendSet s h b x y o d q).xlateInv = s.xlateInv := rfl
@[simp] theorem sendSet_txq : (sendSet s h b x y o d q).txq = s.txq := rfl
@[simp] theorem sendSet_streams : (sendSet s h b x y o d q).streams = s.streams := rfl
@[simp] theorem sendSet_links : (sendSet s h b x y o d q).links = s.links := rfl
@[simp] theorem sendSet_inbox : (sendSet s h b x y o d q).inbox = s.inbox := rfl
@[simp] theorem sendSet_out : (sendSet s h b x y o d q).out = s.out := rfl
@[simp] theorem sendSet_testMode : (sendSet s h b x y o d q).testMode = s.testMode := rfl
@[simp] theorem sendSet_rngs : (sendSet s h b x y o d q).rngs = s.rngs := rfl
@[simp] theorem sendSet_noiseCount : (sendSet s h b x y o d q).noiseCount = s.noiseCount := rfl
@[simp] theorem sendSet_numSlots : (sendSet s h b x y o d q).numSlots = s.numSlots := rfl
@[simp] theorem sendSet_sums : (sendSet s h b x y o d q).sums = s.sums := rfl
@[simp] theorem sendSet_strms : (sendSet s h b x y o d q).strms = s.strms := rfl
@[simp] theorem sendSet_dense : (sendSet s h b x y o d q).dense = s.dense := rfl
@[simp] theorem sendSet_walks : (sendSet s h b x y o d q).walks = s.walks := rfl
@[simp] theorem sendSet_hubs : (sendSet s h b x y o d q).hubs = s.hubs := rfl
@[simp] theorem sendSet_nextHub : (sendSet s h b x y o d q).nextHub = s.nextHub := rfl
@[simp] theorem sendSet_hslots : (sendSet s h b x y o d q).hslots = s.hslots := rfl
@[simp] theorem sendSet_hworks : (sendSet s h b x y o d q).hworks = s.hworks := rfl
@[simp] theorem sendSet_vworks : (sendSet s h b x y o d q).vworks = s.vworks := rfl
@[simp] theorem sendSet_replay : (sendSet s h b x y o d q).replay = s.replay := rfl
@[simp] theorem sendSet_saves : (sendSet s h b x y o d q).saves = s.saves := rfl
@[simp] theorem sendSet_objs : (sendSet s h b x y o d q).objs = s.objs := rfl
@[simp] theorem sendSet_sworks : (sendSet s h b x y o d q).sworks = s.sworks := rfl
@[simp] theorem sendSet_dworks : (sendSet s h b x y o d q).dworks = s.dworks := rfl
@[simp] theorem sendSet_rcache : (sendSet s h b x y o d q).rcache = s.rcache := rfl
@[simp] theorem sendSet_pinRefused : (sendSet s h b x y o d q).pinRefused = s.pinRefused := rfl
@[simp] theorem sendSet_chans : (sendSet s h b x y o d q).chans = s.chans := rfl
@[simp] theorem sendSet_spares : (sendSet s h b x y o d q).spares = s.spares := rfl
@[simp] theorem sendSet_latches : (sendSet s h b x y o d q).latches = s.latches := rfl
@[simp] theorem sendSet_gworks : (sendSet s h b x y o d q).gworks = s.gworks := rfl
@[simp] theorem sendSet_moves : (sendSet s h b x y o d q).moves = s.moves := rfl
@[simp] theorem sendSet_bcache : (sendSet s h b x y o d q).bcache = s.bcache := rfl
@[simp] theorem sendSet_pops : (sendSet s h b x y o d q).pops = s.pops := rfl
@[simp] theorem sendSet_homes : (sendSet s h b x y o d q).homes = s.homes := rfl
@[simp] theorem sendSet_heldRows : (sendSet s h b x y o d q).heldRows = s.heldRows := rfl
@[simp] theorem sendSet_moved : (sendSet s h b x y o d q).moved = s.moved := rfl
@[simp] theorem sendSet_mwins : (sendSet s h b x y o d q).mwins = s.mwins := rfl
@[simp] theorem sendSet_origins : (sendSet s h b x y o d q).origins = s.origins := rfl
@[simp] theorem sendSet_flushKeys : (sendSet s h b x y o d q).flushKeys = s.flushKeys := rfl
@[simp] theorem sendSet_parts : (sendSet s h b x y o d q).parts = s.parts := rfl
@[simp] theorem sendSet_journal : (sendSet s h b x y o d q).journal = s.journal := rfl
@[simp] theorem sendSet_jtail : (sendSet s h b x y o d q).jtail = s.jtail := rfl
@[simp] theorem sendSet_jseq : (sendSet s h b x y o d q).jseq = s.jseq := rfl
@[simp] theorem sendSet_jckpt : (sendSet s h b x y o d q).jckpt = s.jckpt := rfl
@[simp] theorem sendSet_sqSlots : (sendSet s h b x y o d q).sqSlots = s.sqSlots := rfl
@[simp] theorem sendSet_nearRetired : (sendSet s h b x y o d q).nearRetired = s.nearRetired := rfl
@[simp] theorem sendSet_power : (sendSet s h b x y o d q).power = s.power := rfl
@[simp] theorem sendSet_fw : (sendSet s h b x y o d q).fw = s.fw := rfl
@[simp] theorem sendSet_gate : (sendSet s h b x y o d q).gate = s.gate := rfl
@[simp] theorem sendSet_colls : (sendSet s h b x y o d q).colls = s.colls := rfl
@[simp] theorem sendSet_snapSeq : (sendSet s h b x y o d q).snapSeq = s.snapSeq := rfl
@[simp] theorem sendSet_cfgFail : (sendSet s h b x y o d q).cfgFail = s.cfgFail := rfl
@[simp] theorem sendSet_lost : (sendSet s h b x y o d q).lost = s.lost := rfl
@[simp] theorem sendSet_fresh : (sendSet s h b x y o d q).fresh = s.fresh := rfl
end sendSet

/-- `updSlot` changes its own entry. -/
@[simp] theorem slot_updSlot {s : State} {k : Nat} {f : Slot → Slot} : slot (updSlot s k f) k = f (slot s k) := by
  show Tab.get {} (Tab.put {} s.slots k (f (Tab.get {} s.slots k))) k = _
  exact Tab.get_put_same

/-- `updSlot` leaves every other entry as it was. -/
theorem slot_updSlot_other {s : State} {k j : Nat} {f : Slot → Slot} (hj : j ≠ k) :
    slot (updSlot s k f) j = slot s j := by
  show Tab.get {} (Tab.put {} s.slots k (f (Tab.get {} s.slots k))) j = _
  exact Tab.get_put_other hj

/-- `updThr` changes its own entry. -/
@[simp] theorem thr_updThr {s : State} {k : Nat} {f : Thread → Thread} : thr (updThr s k f) k = f (thr s k) := by
  show Tab.get {} (Tab.put {} s.thrs k (f (Tab.get {} s.thrs k))) k = _
  exact Tab.get_put_same

/-- `updThr` leaves every other entry as it was. -/
theorem thr_updThr_other {s : State} {k j : Nat} {f : Thread → Thread} (hj : j ≠ k) :
    thr (updThr s k f) j = thr s j := by
  show Tab.get {} (Tab.put {} s.thrs k (f (Tab.get {} s.thrs k))) j = _
  exact Tab.get_put_other hj

/-- `updPage` changes its own entry. -/
@[simp] theorem page_updPage {s : State} {k : Nat} {f : Page → Page} : page (updPage s k f) k = f (page s k) := by
  show Tab.get {} (Tab.put {} s.pages k (f (Tab.get {} s.pages k))) k = _
  exact Tab.get_put_same

/-- `updPage` leaves every other entry as it was. -/
theorem page_updPage_other {s : State} {k j : Nat} {f : Page → Page} (hj : j ≠ k) :
    page (updPage s k f) j = page s j := by
  show Tab.get {} (Tab.put {} s.pages k (f (Tab.get {} s.pages k))) j = _
  exact Tab.get_put_other hj

/-- `updDom` changes its own entry. -/
@[simp] theorem dom_updDom {s : State} {k : Nat} {f : Domain → Domain} : dom (updDom s k f) k = f (dom s k) := by
  show Tab.get {} (Tab.put {} s.doms k (f (Tab.get {} s.doms k))) k = _
  exact Tab.get_put_same

/-- `updDom` leaves every other entry as it was. -/
theorem dom_updDom_other {s : State} {k j : Nat} {f : Domain → Domain} (hj : j ≠ k) :
    dom (updDom s k f) j = dom s j := by
  show Tab.get {} (Tab.put {} s.doms k (f (Tab.get {} s.doms k))) j = _
  exact Tab.get_put_other hj

/-- `updRng` changes its own entry. -/
@[simp] theorem rng_updRng {s : State} {k : Nat} {f : Rng → Rng} : rng (updRng s k f) k = f (rng s k) := by
  show Tab.get {} (Tab.put {} s.rngs k (f (Tab.get {} s.rngs k))) k = _
  exact Tab.get_put_same

/-- `updRng` leaves every other entry as it was. -/
theorem rng_updRng_other {s : State} {k j : Nat} {f : Rng → Rng} (hj : j ≠ k) :
    rng (updRng s k f) j = rng s j := by
  show Tab.get {} (Tab.put {} s.rngs k (f (Tab.get {} s.rngs k))) j = _
  exact Tab.get_put_other hj

/-- `updLink` changes its own entry. -/
@[simp] theorem link_updLink {s : State} {k : Nat} {f : Link → Link} : link (updLink s k f) k = f (link s k) := by
  show Tab.get {} (Tab.put {} s.links k (f (Tab.get {} s.links k))) k = _
  exact Tab.get_put_same

/-- `updLink` leaves every other entry as it was. -/
theorem link_updLink_other {s : State} {k j : Nat} {f : Link → Link} (hj : j ≠ k) :
    link (updLink s k f) j = link s j := by
  show Tab.get {} (Tab.put {} s.links k (f (Tab.get {} s.links k))) j = _
  exact Tab.get_put_other hj

/-- Counting changes counters only. -/
theorem bump_eq (s : State) (p o n : Nat) : ∃ r, bump s p o n = { s with regs := { s.regs with count := r } } := by
  unfold bump
  dsimp only
  split <;> exact ⟨_, rfl⟩

section bump
variable (s : State) (p o n : Nat)
@[simp] theorem bump_pending : (bump s p o n).pending = s.pending := by obtain ⟨r, h⟩ := bump_eq s p o n; rw [h]
@[simp] theorem bump_part : (bump s p o n).part = s.part := by obtain ⟨r, h⟩ := bump_eq s p o n; rw [h]
@[simp] theorem bump_mem : (bump s p o n).mem = s.mem := by obtain ⟨r, h⟩ := bump_eq s p o n; rw [h]
@[simp] theorem bump_hostMem : (bump s p o n).hostMem = s.hostMem := by obtain ⟨r, h⟩ := bump_eq s p o n; rw [h]
@[simp] theorem bump_tags : (bump s p o n).tags = s.tags := by obtain ⟨r, h⟩ := bump_eq s p o n; rw [h]
@[simp] theorem bump_poison : (bump s p o n).poison = s.poison := by obtain ⟨r, h⟩ := bump_eq s p o n; rw [h]
@[simp] theorem bump_pages : (bump s p o n).pages = s.pages := by obtain ⟨r, h⟩ := bump_eq s p o n; rw [h]
@[simp] theorem bump_doms : (bump s p o n).doms = s.doms := by obtain ⟨r, h⟩ := bump_eq s p o n; rw [h]
@[simp] theorem bump_slots : (bump s p o n).slots = s.slots := by obtain ⟨r, h⟩ := bump_eq s p o n; rw [h]
@[simp] theorem bump_accepts : (bump s p o n).accepts = s.accepts := by obtain ⟨r, h⟩ := bump_eq s p o n; rw [h]
@[simp] theorem bump_aflows : (bump s p o n).aflows = s.aflows := by obtain ⟨r, h⟩ := bump_eq s p o n; rw [h]
@[simp] theorem bump_oflows : (bump s p o n).oflows = s.oflows := by obtain ⟨r, h⟩ := bump_eq s p o n; rw [h]
@[simp] theorem bump_heads : (bump s p o n).heads = s.heads := by obtain ⟨r, h⟩ := bump_eq s p o n; rw [h]
@[simp] theorem bump_thrs : (bump s p o n).thrs = s.thrs := by obtain ⟨r, h⟩ := bump_eq s p o n; rw [h]
@[simp] theorem bump_ops : (bump s p o n).ops = s.ops := by obtain ⟨r, h⟩ := bump_eq s p o n; rw [h]
@[simp] theorem bump_nextOp : (bump s p o n).nextOp = s.nextOp := by obtain ⟨r, h⟩ := bump_eq s p o n; rw [h]
@[simp] theorem bump_reqs : (bump s p o n).reqs = s.reqs := by obtain ⟨r, h⟩ := bump_eq s p o n; rw [h]
@[simp] theorem bump_nextReq : (bump s p o n).nextReq = s.nextReq := by obtain ⟨r, h⟩ := bump_eq s p o n; rw [h]
@[simp] theorem bump_sqs : (bump s p o n).sqs = s.sqs := by obtain ⟨r, h⟩ := bump_eq s p o n; rw [h]
@[simp] theorem bump_cqs : (bump s p o n).cqs = s.cqs := by obtain ⟨r, h⟩ := bump_eq s p o n; rw [h]
@[simp] theorem bump_tagWait : (bump s p o n).tagWait = s.tagWait := by obtain ⟨r, h⟩ := bump_eq s p o n; rw [h]
@[simp] theorem bump_applied : (bump s p o n).applied = s.applied := by obtain ⟨r, h⟩ := bump_eq s p o n; rw [h]
@[simp] theorem bump_lastOpen : (bump s p o n).lastOpen = s.lastOpen := by obtain ⟨r, h⟩ := bump_eq s p o n; rw [h]
@[simp] theorem bump_steps : (bump s p o n).steps = s.steps := by obtain ⟨r, h⟩ := bump_eq s p o n; rw [h]
@[simp] theorem bump_dutyHeld : (bump s p o n).dutyHeld = s.dutyHeld := by obtain ⟨r, h⟩ := bump_eq s p o n; rw [h]
@[simp] theorem bump_sets : (bump s p o n).sets = s.sets := by obtain ⟨r, h⟩ := bump_eq s p o n; rw [h]
@[simp] theorem bump_msix : (bump s p o n).msix = s.msix := by obtain ⟨r, h⟩ := bump_eq s p o n; rw [h]
@[simp] theorem bump_pcie : (bump s p o n).pcie = s.pcie := by obtain ⟨r, h⟩ := bump_eq s p o n; rw [h]
@[simp] theorem bump_xlate : (bump s p o n).xlate = s.xlate := by obtain ⟨r, h⟩ := bump_eq s p o n; rw [h]
@[simp] theorem bump_xlateInv : (bump s p o n).xlateInv = s.xlateInv := by obtain ⟨r, h⟩ := bump_eq s p o n; rw [h]
@[simp] theorem bump_txq : (bump s p o n).txq = s.txq := by obtain ⟨r, h⟩ := bump_eq s p o n; rw [h]
@[simp] theorem bump_streams : (bump s p o n).streams = s.streams := by obtain ⟨r, h⟩ := bump_eq s p o n; rw [h]
@[simp] theorem bump_links : (bump s p o n).links = s.links := by obtain ⟨r, h⟩ := bump_eq s p o n; rw [h]
@[simp] theorem bump_inbox : (bump s p o n).inbox = s.inbox := by obtain ⟨r, h⟩ := bump_eq s p o n; rw [h]
@[simp] theorem bump_out : (bump s p o n).out = s.out := by obtain ⟨r, h⟩ := bump_eq s p o n; rw [h]
@[simp] theorem bump_testMode : (bump s p o n).testMode = s.testMode := by obtain ⟨r, h⟩ := bump_eq s p o n; rw [h]
@[simp] theorem bump_rngs : (bump s p o n).rngs = s.rngs := by obtain ⟨r, h⟩ := bump_eq s p o n; rw [h]
@[simp] theorem bump_noiseCount : (bump s p o n).noiseCount = s.noiseCount := by obtain ⟨r, h⟩ := bump_eq s p o n; rw [h]
@[simp] theorem bump_numSlots : (bump s p o n).numSlots = s.numSlots := by obtain ⟨r, h⟩ := bump_eq s p o n; rw [h]
@[simp] theorem bump_sums : (bump s p o n).sums = s.sums := by obtain ⟨r, h⟩ := bump_eq s p o n; rw [h]
@[simp] theorem bump_strms : (bump s p o n).strms = s.strms := by obtain ⟨r, h⟩ := bump_eq s p o n; rw [h]
@[simp] theorem bump_dense : (bump s p o n).dense = s.dense := by obtain ⟨r, h⟩ := bump_eq s p o n; rw [h]
@[simp] theorem bump_walks : (bump s p o n).walks = s.walks := by obtain ⟨r, h⟩ := bump_eq s p o n; rw [h]
@[simp] theorem bump_hubs : (bump s p o n).hubs = s.hubs := by obtain ⟨r, h⟩ := bump_eq s p o n; rw [h]
@[simp] theorem bump_nextHub : (bump s p o n).nextHub = s.nextHub := by obtain ⟨r, h⟩ := bump_eq s p o n; rw [h]
@[simp] theorem bump_hslots : (bump s p o n).hslots = s.hslots := by obtain ⟨r, h⟩ := bump_eq s p o n; rw [h]
@[simp] theorem bump_hworks : (bump s p o n).hworks = s.hworks := by obtain ⟨r, h⟩ := bump_eq s p o n; rw [h]
@[simp] theorem bump_vworks : (bump s p o n).vworks = s.vworks := by obtain ⟨r, h⟩ := bump_eq s p o n; rw [h]
@[simp] theorem bump_replay : (bump s p o n).replay = s.replay := by obtain ⟨r, h⟩ := bump_eq s p o n; rw [h]
@[simp] theorem bump_saves : (bump s p o n).saves = s.saves := by obtain ⟨r, h⟩ := bump_eq s p o n; rw [h]
@[simp] theorem bump_objs : (bump s p o n).objs = s.objs := by obtain ⟨r, h⟩ := bump_eq s p o n; rw [h]
@[simp] theorem bump_sworks : (bump s p o n).sworks = s.sworks := by obtain ⟨r, h⟩ := bump_eq s p o n; rw [h]
@[simp] theorem bump_dworks : (bump s p o n).dworks = s.dworks := by obtain ⟨r, h⟩ := bump_eq s p o n; rw [h]
@[simp] theorem bump_rcache : (bump s p o n).rcache = s.rcache := by obtain ⟨r, h⟩ := bump_eq s p o n; rw [h]
@[simp] theorem bump_pinRefused : (bump s p o n).pinRefused = s.pinRefused := by obtain ⟨r, h⟩ := bump_eq s p o n; rw [h]
@[simp] theorem bump_chans : (bump s p o n).chans = s.chans := by obtain ⟨r, h⟩ := bump_eq s p o n; rw [h]
@[simp] theorem bump_spares : (bump s p o n).spares = s.spares := by obtain ⟨r, h⟩ := bump_eq s p o n; rw [h]
@[simp] theorem bump_latches : (bump s p o n).latches = s.latches := by obtain ⟨r, h⟩ := bump_eq s p o n; rw [h]
@[simp] theorem bump_gworks : (bump s p o n).gworks = s.gworks := by obtain ⟨r, h⟩ := bump_eq s p o n; rw [h]
@[simp] theorem bump_moves : (bump s p o n).moves = s.moves := by obtain ⟨r, h⟩ := bump_eq s p o n; rw [h]
@[simp] theorem bump_bcache : (bump s p o n).bcache = s.bcache := by obtain ⟨r, h⟩ := bump_eq s p o n; rw [h]
@[simp] theorem bump_pops : (bump s p o n).pops = s.pops := by obtain ⟨r, h⟩ := bump_eq s p o n; rw [h]
@[simp] theorem bump_homes : (bump s p o n).homes = s.homes := by obtain ⟨r, h⟩ := bump_eq s p o n; rw [h]
@[simp] theorem bump_heldRows : (bump s p o n).heldRows = s.heldRows := by obtain ⟨r, h⟩ := bump_eq s p o n; rw [h]
@[simp] theorem bump_moved : (bump s p o n).moved = s.moved := by obtain ⟨r, h⟩ := bump_eq s p o n; rw [h]
@[simp] theorem bump_mwins : (bump s p o n).mwins = s.mwins := by obtain ⟨r, h⟩ := bump_eq s p o n; rw [h]
@[simp] theorem bump_origins : (bump s p o n).origins = s.origins := by obtain ⟨r, h⟩ := bump_eq s p o n; rw [h]
@[simp] theorem bump_flushKeys : (bump s p o n).flushKeys = s.flushKeys := by obtain ⟨r, h⟩ := bump_eq s p o n; rw [h]
@[simp] theorem bump_parts : (bump s p o n).parts = s.parts := by obtain ⟨r, h⟩ := bump_eq s p o n; rw [h]
@[simp] theorem bump_journal : (bump s p o n).journal = s.journal := by obtain ⟨r, h⟩ := bump_eq s p o n; rw [h]
@[simp] theorem bump_jtail : (bump s p o n).jtail = s.jtail := by obtain ⟨r, h⟩ := bump_eq s p o n; rw [h]
@[simp] theorem bump_jseq : (bump s p o n).jseq = s.jseq := by obtain ⟨r, h⟩ := bump_eq s p o n; rw [h]
@[simp] theorem bump_jckpt : (bump s p o n).jckpt = s.jckpt := by obtain ⟨r, h⟩ := bump_eq s p o n; rw [h]
@[simp] theorem bump_sqSlots : (bump s p o n).sqSlots = s.sqSlots := by obtain ⟨r, h⟩ := bump_eq s p o n; rw [h]
@[simp] theorem bump_nearRetired : (bump s p o n).nearRetired = s.nearRetired := by obtain ⟨r, h⟩ := bump_eq s p o n; rw [h]
@[simp] theorem bump_power : (bump s p o n).power = s.power := by obtain ⟨r, h⟩ := bump_eq s p o n; rw [h]
@[simp] theorem bump_fw : (bump s p o n).fw = s.fw := by obtain ⟨r, h⟩ := bump_eq s p o n; rw [h]
@[simp] theorem bump_gate : (bump s p o n).gate = s.gate := by obtain ⟨r, h⟩ := bump_eq s p o n; rw [h]
@[simp] theorem bump_colls : (bump s p o n).colls = s.colls := by obtain ⟨r, h⟩ := bump_eq s p o n; rw [h]
@[simp] theorem bump_snapSeq : (bump s p o n).snapSeq = s.snapSeq := by obtain ⟨r, h⟩ := bump_eq s p o n; rw [h]
@[simp] theorem bump_cfgFail : (bump s p o n).cfgFail = s.cfgFail := by obtain ⟨r, h⟩ := bump_eq s p o n; rw [h]
@[simp] theorem bump_lost : (bump s p o n).lost = s.lost := by obtain ⟨r, h⟩ := bump_eq s p o n; rw [h]
@[simp] theorem bump_fresh : (bump s p o n).fresh = s.fresh := by obtain ⟨r, h⟩ := bump_eq s p o n; rw [h]
end bump

/-- A value written to an active copy is read there. -/
@[simp] theorem getAct_setAct (s : State) (p o i : Nat) (v : Word) : getAct (setAct s p o i v) p o i = v := by
  simp only [getAct, setAct, Tab.get_put_same, regEntry]
  split
  · rename_i h; exact h.symm
  · rfl

/-- A value written to a shadow copy is read there. -/
@[simp] theorem getSh_setSh (s : State) (p o i : Nat) (v : Word) : getSh (setSh s p o i v) p o i = v := by
  simp only [getSh, setSh, Tab.get_put_same, regEntry]
  split
  · rename_i h; exact h.symm
  · rfl

/-- A write of an active copy leaves every other active copy as it was. -/
theorem getAct_setAct_other (s : State) (p o i p' o' i' : Nat) (v : Word) (h : rkey p' o' i' ≠ rkey p o i) :
    getAct (setAct s p o i v) p' o' i' = getAct s p' o' i' := by
  simp only [getAct, setAct, Tab.get_put_other h]

/-- A write of a shadow copy leaves every other shadow copy as it was. -/
theorem getSh_setSh_other (s : State) (p o i p' o' i' : Nat) (v : Word) (h : rkey p' o' i' ≠ rkey p o i) :
    getSh (setSh s p o i v) p' o' i' = getSh s p' o' i' := by
  simp only [getSh, setSh, Tab.get_put_other h]

end Sys2Proof.Machine
end

