-- ==== Sys2Proof/Tests/Slice0.lean ====
section
/-!
SUPPORT. Small tests of the model: what the well-formedness check refuses, and a state and operands that meet the hypotheses of each
statement, for each of its clauses that has any.
-/
/- Each test below waits for the kernel, which checks one at a time. Elaborated side by side, the tests would each hold a thread,
with its stack, until its turn came, and the compile would run out of room for threads; so they are elaborated one after another. -/
set_option Elab.async false

namespace Sys2Proof.Tests
open Sys2Proof Sys2Proof.Machine

/-! ### States for the tests -/

/-- The state after a command that goes on. -/
def after (s : State) (i : Instr) : State :=
  match exec i s with
  | .next t => t
  | _ => s

/-- A command's bits above its opcode, from its words' fields. -/
def body (w : Nat) : Body := BitVec.ofNat 504 (w / 256)
/-- A field of a command: word, lowest bit, value. -/
def fld (word lo v : Nat) : Nat := v * 2 ^ (32 * word + lo)

def thr0 : Thr := ⟨0, 0⟩
/-- The first megabyte of this module's near memory, with every permission. -/
def near0 : BitVec 128 := BitVec.ofNat 128 (7 * 2 ^ 88 + 256 * 2 ^ 32)
/-- The whole scratchpad of the core the task runs on. -/
def pad0 : BitVec 128 := BitVec.ofNat 128 (7 * 2 ^ 88 + 65536 * 2 ^ 32)
/-- A running task in slot 0 that holds both engines. -/
def slot0 : Slot :=
  { st := .running, gen := 1, threads := 1, engDns := true, engSps := true, len := 8, stride := 8, prog := 0x10000, wNear := near0, wSp := pad0, checked := true }
def withSlot (x : Slot) : State := { State.reset with slots := [(0, x)] }
/-- Its one thread runs on core 0. -/
def running : State := { withSlot slot0 with thrs := [(0, { slot := some 0 })] }
/-- Graph descriptor 0 of SMP[0] names one node with an alias table. -/
def graph0 : State := setAct (setAct (setAct running (pg clsSMP 0) 0x248 0 3) (pg clsSMP 0) 0x230 0 1) (pg clsSMP 0) 0x240 0 0x4000
/-- A layer descriptor of one neuron, and its weights' descriptor. -/
def layer0 : State :=
  wrBytes running 0x100 (bytesOf (0x180 + 2 ^ 96 + 2 ^ 160 + 2 ^ 416) 128 ++ bytesOf (0x200 + 2 ^ 64 * 5 + 2 ^ 160 * 64) 32)
/-- The command is accepted, its operands raise no fault, and its task runs on. -/
def runs (d : CmdDef) (w : Nat) (s : State) : Bool := accepts thr0 (body w) d s && (effectOf thr0 (body w) d s).isSome
/-- Queue 0 has fetched one entry. -/
def queued (s : State) (op w : Nat) : State := { s with sqs := [(0, { fetched := [cmdOf op (body w)] })] }
/-- The entry at the head of a queue passes the checks of its words. -/
def entryOk (s : State) (q : QRef) (op w : Nat) (sp : CmdSpec) : Bool :=
  let x := cmdOf op (body w)
  (qHead s q x).isSome && lowest (word0Bad x.toNat op true) (wordsBad x.toNat op sp) == none &&
  (cplTarget x.toNat).bind (fun x => qTargetBad (qPop s q) q (hMod (x.toNat % 2 ^ 36))) == none

/-- A computation serves a command outstanding at an engine. -/
def servesOp (s : State) (id : Nat) (act : Ctx → Op → Cm Unit) : Bool :=
  match getOp s id with
  | some o => (o.tries == 0 || o.due) && o.far.st == 0 && (match act (opCtx id o) o s with | .ok _ _ => true | .error _ _ => false)
  | none => false
/-- A computation serves a stream command. -/
def servesStrm (s : State) (id : Nat) (act : Ctx → Strm → Cm Unit) : Bool :=
  match getOp s id, strm s id with
  | some o, some x => (match act (opCtx id o) x s with | .ok _ _ => true | .error _ _ => false)
  | _, _ => false
/-- Command 0, of thread 0 and of slot 0, is outstanding at a unit. -/
def opOf (opcode : Nat) (u : EUnit) (w : Nat := 0) : Op :=
  { opcode, iss := .thread thr0, slot := some 0, gen := 1, eu := u, cmd := cmdOf opcode (body w), waits := 1 }
def outstanding (o : Op) : State := { running with ops := [(0, some o)], nextOp := 1 }
def filling : State := after running (.stmFill thr0 (body (fld 0 8 2 + fld 5 0 0x40 + fld 7 0 8)))
def gated : State :=
  { outstanding (opOf 1 (.stm 0)) with strms := [(0, some { src := { list := true, mark := true, left := 64 }, dst := { list := false, left := 64 }, started := true })] }
def vecWork (opcode : Nat) (w : VWork) : State := { outstanding (opOf opcode (.vec 0)) with vworks := [(0, some w)] }
def loading : State := after layer0 (.hdgLoad thr0 (body (fld 0 8 2 + fld 5 0 0x100)))
def hubbed (hb : Hub) : State :=
  { outstanding (opOf 0x42 (.sps 0)) with hubs := [(0, some hb)], walks := [(0, some { split := 4 })] }
/-- A VEC_PARTIAL_ADD of two partials; the header of the first has been read. -/
def partial0 : VWork := { recs := [spBase, spBase + 0x1000], tree := true }
def arrived0 : State := { vecWork 0x54 partial0 with reqs := [(0, some { kind := .header, op := some 0, words := [0, 0], st := .answered .ok 0 })] }

/-- A message of a type for this module, with its payload, has arrived on link 0. -/
def arrived (s : State) (mtype : Nat) (payload : List Nat) : State :=
  { s with inbox := [(0, 0, mkMsg s { dst := 0, cls := 2, mtype } (payload.map (BitVec.ofNat 64)))] }
/-- A READY task of slot 1, pinned to core 0 and of high priority, that needs the dense engine; the task that runs has had its quantum. -/
def contended : State :=
  setAct { running with slots := [(0, { slot0 with wSp := 0, quantumDone := true }),
      (1, { st := .ready, gen := 1, threads := 1, prio := 5, engDns := true, checked := true, wSp := BitVec.ofNat 128 (15 * 2 ^ 88 + 2 ^ 32) })] }
    (pg clsDSP 0) 0x104 0 1

/-- A manager message of another module, or of a host, that is next here. -/
def msgOf (words : List Nat) (src : Nat := 1) : MMsg := { src, num := 7, words }
def holding (s : State) (m : MMsg) : State := updGate s (fun g => { g with inq := [m] })
/-- Module 1 of a row of two, whose system manager is module 0. -/
def member : State := setBoth State.reset (pg clsPE 0) 0x118 0 0x00010001
/-- The message comes at the system manager as a host's request. -/
def asked (s : State) (type : Nat) (step : BitVec 32 := 0) (rest : List Nat := []) : Bool :=
  let m := msgOf (mgrWords type step rest)
  mgrComes (holding s m) (.held 0) m type && isRequest (mgrTaken (holding s m) (.held 0) m) m
/-- It comes at a member as its manager's message. -/
def told (type : Nat) (phase : Bool := false) (member : State := member) : Bool :=
  let m := msgOf (mgrWords type 1 [] phase) 0
  mgrComes (holding member m) (.held 0) m type && !isRequest (holding member m) m && !isRequest (mgrTaken (holding member m) (.held 0) m) m

/-- Link 0 is in service. -/
def linked (k : Link) (s : State := State.reset) : State := { s with links := [(0, k)] }
def up0 : Link := { st := 2, lanes := 3 }
/-- Four modules in a row, this one the first. -/
def row4 : State := setBoth State.reset (pg clsPE 0) 0x118 0 0x00000003
def training0 : Training := { lanes := 3, mod := 1, axis := 0, dir := 1, idx := 0, credits := 0 }
def reqOf (kind : ReqKind) (st : ReqSt := .sent) (words : List Nat := []) : Req := { kind, st, words, addr := 0x1000, len := 8 }
def asking (r : Req) (s : State := running) : State := { s with reqs := [(0, some r)] }

/-- The CRC of a list of bytes, its value computed at every byte. -/
def crcFrom (c : Nat) : List Byte → Nat
  | [] => c
  | b :: l => if crcByte c b.toNat = 0 then crcFrom 0 l else crcFrom (crcByte c b.toNat) l

theorem crc32_eq : crc32 = fun l => crcFrom 0xFFFFFFFF l ^^^ 0xFFFFFFFF := by
  funext l
  have h (c : Nat) : l.foldl (fun c b => crcByte c b.toNat) c = crcFrom c l := by
    induction l generalizing c with
    | nil => rfl
    | cons b l ih =>
      rw [List.foldl_cons, ih, crcFrom]
      split
      · rename_i h
        rw [h]
      · rfl
  rw [crc32, h]

/-- Queue and ring register of the HIF page. -/
def hifSet (s : State) (off v : Nat) (idx : Nat := 0) : State := setBoth s hif off idx (BitVec.ofNat 32 v)
/-- The module is ready, and queue 0 of the PF is enabled with a ring of 16 entries in host memory. -/
def ready : State := updGate State.reset (fun g => { g with modReady := true })
def ring0 : State := hifSet ready 0x10C (1 + 4 * 4)

def powered (f : Power → Power) : State := updPower State.reset f
/-- A reset domain in a service of its own. -/
def domAt (k : Nat) (x : Service) : State := { State.reset with doms := [(k, { service := x })] }
/-- The first frame of Orangery 0 is in a pinned range of its row cache. -/
def pinned0 : State := setBoth (setBoth (setBoth State.reset (pg clsFAR 0) 0x110 0 1) (pg clsFAR 0) 0x408 0 8) (pg clsFAR 0) 0x134 0 0x1000000

/-! ### Commands that the check refuses -/

/-- An UNDEFINED_OPCODE whose opcode is defined where it stands is refused by the check. -/
theorem test_wf_defined_opcode : Instr.wf (.undefinedOpcode (.queue .gate) 0) = false := by decide +kernel

/-! ### Steps -/

/-- StepIdlesOnEmptyQueue. -/
theorem test_idle : step State.reset = .next State.reset := rfl

/-- CommandsUseTheQueue. -/
theorem test_commands_go_on : Outcome.goesOn (exec .heartbeatTick State.reset) = true ∧
    Outcome.goesOn (step { State.reset with pending := [.heartbeatTick, .profileActivation] }) = true := by decide +kernel

/-- StepKeepsTables. -/
theorem test_step_from_inv : ({ State.reset with pending := [.heartbeatTick], hostMem := [(0, 1)] } : State).Inv :=
  ⟨by decide +kernel, by decide +kernel, fun _ h => nomatch h⟩

/-- OnlyUndefinedOpcodesStop: another command; an undefined opcode of a thread, of a queue, and a defined one; a production-test opcode. -/
theorem test_undefined_opcodes : (∀ iss w, Instr.heartbeatTick ≠ .undefinedOpcode iss w) ∧
    (permittedAt 8 (.thread thr0) = false ∧ running.testMode = false ∧ canIssue running thr0 (.thread 0) = true) ∧
    (permittedAt 8 (.queue (.host 0)) = false ∧ (qHead (queued State.reset 8 0) (.host 0) (cmdOf 8 (body 0))).isSome = true) ∧
    (permittedAt 0 (.thread thr0) = true ∧ permittedAt 0xA0 (.queue .gate) = true) ∧
    (permittedAt 0xF0 (.thread thr0) = false ∧ ({ State.reset with testMode := true } : State).testMode = true) := by
  refine ⟨fun _ _ h => ?_, ?_⟩
  · cases h
  · decide +kernel

/-! ### Commands that threads issue -/

/-- StreamAndDenseCommandsIssue: STM_FILL, and DNS_TILE_SAVE. -/
theorem test_stream_dense_issue : runs sfillDef (fld 0 8 2 + fld 5 0 0x40 + fld 7 0 8) running = true ∧
    runs tileSaveDef (fld 0 8 2 + fld 5 0 0x40) running = true := by decide +kernel

/-- SparseAndVectorCommandsIssue: HDG_LOAD, and NUM_BIND. -/
theorem test_sparse_vector_issue : runs hloadDef (fld 0 8 2 + fld 5 0 0x100) layer0 = true ∧
    runs bindDef (fld 0 8 2 + fld 4 12 2) running = true := by decide +kernel

/-- GraphCommandsIssue: SMP_ALIAS_BUILD, ROW_POP_READ, and COL_ALLGATHER. -/
theorem test_graph_commands_issue : runs aliasDef (fld 0 8 2 + fld 7 0 1) graph0 = true ∧
    runs popDef (fld 0 8 2 + fld 4 2 1 + fld 6 0 0x100 + fld 8 0 1) running = true ∧
    runs (collDef 0x83 0) (fld 0 8 1 + fld 6 0 1 + fld 7 0 1 + fld 8 0 0x100 + fld 10 0 0x200) running = true := by decide +kernel

/-- RandomAndThreadCommandsIssue, ThreadCommandEffects, NopDoesNothing: RNG_NOISE_READ, NOP, END, FENCE and SIGNAL. -/
theorem test_thread_commands_issue : runs noiseDef (fld 0 8 2 + fld 4 0 1 + fld 5 0 0x100) running = true ∧ runs nopDef 0 running = true ∧
    runs endDef 0 running = true ∧ runs fenceDef (fld 4 0 3) running = true ∧ runs signalDef (fld 4 28 1 + fld 6 0 1) running = true ∧
    targetBad running slot0 (hMod (2 ^ 28)) = none := by decide +kernel

/-- BlockedThreadChangesNothing: a thread of no task. -/
theorem test_blocked_thread : anyThreadCmd State.reset (.nop (.thread thr0) 0) = some (thr0, 0, nopDef) ∧
    canIssue State.reset thr0 (nopDef.eu thr0.core.val) = false := ⟨rfl, by decide +kernel⟩

/-- BadWordsFaultTask: a NOP whose word 4 is not 0 is refused at bit 128. -/
theorem test_bad_words : let c := issueCtx thr0 (body (fld 4 0 1)) nopDef running
    canIssue running thr0 (.thread 0) = true ∧ (fetchFault running (fetchAddr slot0 (thr running 0) (thrIndex running 0 0))).2 = none ∧
    word0Bad c.w 0 false = none ∧ bitsOf c.w 20 4 = 0 ∧
    wordFault running nopDef (issuedCtx thr0 (body (fld 4 0 1)) nopDef running) = some { code := fReservedField, pos := 128 } := by decide +kernel

/-- RetireMovesThreadOn, FaultFencesTask: a task whose function stands, and one whose function has been reset. -/
theorem test_fault_targets : (slot running 0).orphan = false ∧ (slot (withSlot { slot0 with orphan := true }) 0).orphan = true := by decide +kernel

/-- CommandCompletes: a thread's STM_FILL that its thread waits for, a DNS_TILE_SAVE that its engine has done, and a SIGNAL of the Gatehouse's queue with a completion target. -/
theorem test_command_completes : let s : State := { running with
      ops := [(0, some { opcode := 5, iss := .thread thr0, slot := some 0, gen := 1, eu := .stm 0, cpl := some 0 }), (1, some { opcode := 0xA1, cpl := some 0 })],
      thrs := [(0, { slot := some 0, waits := some 0 })] }
    ((getOp s 0).map (fun o => opReady s 0 o && !o.parked) = some true ∧ (thr s (thrKey thr0)).waits = some 0) ∧
    (let d := outstanding { opOf 0x25 (.dns 0) with waits := 0 }
     (getOp (finishWork d 0) 0).map (fun o => opReady (finishWork d 0) 0 o) = some true) ∧
    (getOp s 1).map (fun o => opReady s 1 o && decide (o.iss = .queue .gate)) = some true := by decide +kernel

/-! ### Commands of queues -/

/-- QueueCommandsAct, NopDoesNothing: NOP and MGR_MSG at the head of queue 0, the others of the Gatehouse's queue. -/
theorem test_queue_commands : entryOk (queued State.reset 0 0) (.host 0) 0 0 noSpec = true ∧
    (entryOk State.reset .gate 0xA1 (fld 6 0 1) signalSpec = true ∧ qTargetBad State.reset .gate (hMod (cf (cmdOf 0xA1 (body (fld 6 0 1))).toNat 4 0 36)) = none) ∧
    (entryOk State.reset .gate 0xA4 (fld 4 0 4080) cancelSpec = true ∧
      (dispatchQueue .gate 0xA4 (cmdOf 0xA4 (body (fld 4 0 4080))).toNat State.reset).2.toOption.isSome = true) ∧
    (entryOk State.reset .gate 0xA7 (fld 4 0 4080) prioSpec = true ∧
      (dispatchQueue .gate 0xA7 (cmdOf 0xA7 (body (fld 4 0 4080))).toNat State.reset).2.toOption.isSome = true) ∧
    (entryOk (queued State.reset 0xA5 (fld 4 0 1)) (.host 0) 0xA5 (fld 4 0 1) mgrSpec = true ∧ qOwner State.reset 0 = 0) ∧
    (inTorus State.reset 0 = true ∧ State.reset.gate.forwardOnly = false ∧ standIn State.reset (hMod (cf (cmdOf 0xA4 (body 0)).toNat 4 0 36)) = ownId State.reset ∧
      standIn State.reset (hMod (cf (cmdOf 0xA7 (body 0)).toNat 4 0 36)) = ownId State.reset) := by decide +kernel

/-! ### Tasks and flags -/

/-- TaskTakesItsSlot: a task of one thread in slot 4080, its descriptor at 0x8000, its program of one command at 0x4000. -/
theorem test_task_takes_slot : let w := fld 0 8 0 + fld 4 0 4080 + fld 4 16 1 + fld 4 24 1 + fld 8 0 0x4000 + fld 10 16 1 + fld 11 0 0x8000
    let x := (cmdOf 0xA0 (body w)).toNat
    entryOk State.reset .gate 0xA0 w taskSpec = true ∧ qSlotOk State.reset .gate 4080 = true ∧ slotKey 0 (cf x 4 0 12) = 4080 ∧
    spanBad State.reset .gate (cf x 8 0 44) 64 = none ∧ spanBad State.reset .gate (cf x 11 0 44) 128 = none ∧
    (slot State.reset 4080).st = .free ∧ (slot State.reset 4080).cooling = false ∧ euServes State.reset (.dsp 0) = true ∧
    (dom State.reset (dPav 0)).service = .inService ∧ domFenced State.reset (dPav 0) = false ∧
    BitVec.ofNat 8 (cf x 4 16 8) = (slot State.reset 4080).gen + 1 ∧ bitsOf x 10 2 = 0 ∧
    (readTaskDesc State.reset 0 (cf x 11 0 44)).2.bind Except.toOption = some 0 ∧ firstBad ((List.range 8).flatMap (targetWordBad 0)) = none := by
  decide +kernel

/-- FlagSetsAreDelivered: a set that nothing holds back, of a command and of none; a set from another module has
arrived, at its turn and behind a message that goes first. -/
theorem test_flag_sets : setReady { State.reset with sets := [{ target := 0, bits := 1 }, { target := 0, bits := 1, op := some 0 }] } { target := 0, bits := 1 } = true ∧
    (let s := arrived running 4 [2 ^ 28, 1]
     (arrival s 0).map (fun m => forMe s m 4) = some true ∧ inTurn s 0 = true ∧
     -- a SIGNAL behind a WRITE of the same thread
     inTurn { s with inbox := (arrived running 2 [0x1000, 1]).inbox ++ s.inbox } 1 = false) := by decide +kernel

/-- SignalsReachFlags: the generation of a task, that of the next task of a FREE slot, and others. -/
theorem test_signal_generations : ((slot running 0).st ≠ .free ∧ (slot running 0).gen = 1) ∧
    ((slot running 1).st = .free ∧ (slot running 1).gen + 1 = 1 ∧ domResetting running (dPav 0) = false) ∧ (2 : BitVec 8) ≠ 1 := by decide +kernel

/-- TasksArePlacedAndEnd: a dispatcher that serves, a READY task to reserve a core for, and one that only a pre-emption can place. -/
theorem test_dispatcher : dispServes contended 0 = true ∧
    (contended.heads.get none 0 = none ∧ (slot contended 1).st = .ready ∧ coreToReserve contended 1 = some 0) ∧
    (bitOf (actN contended (pg clsDSP 0) 0x104) 0 = true ∧ candidate contended 0 = some 1 ∧ victimFor contended 0 1 = some 0) := by decide +kernel

/-- TasksArePlacedAndEnd: a task that runs, one whose thread has ended, one that holds its end back, a FREE slot, and one to be saved. -/
theorem test_task_events : let victim := withSlot { slot0 with victim := true }
    (slot running 0).st = .running ∧ taskFinished { running with thrs := [(0, { slot := some 0, ended := true })] } 0 = true ∧
    ((slot (withSlot { slot0 with st := .doneHeld, flowKind := 1 }) 0).st = .doneHeld ∧
      atRelease (withSlot { slot0 with st := .doneHeld, flowKind := 1 }) { slot0 with st := .doneHeld, flowKind := 1 } = true) ∧
    (slot State.reset 0).st = .free ∧
    ((slot victim 0).st = .running ∧ (slot victim 0).victim = true ∧ safePoint victim 0 = true ∧ (slot (reachBoundary victim 0 0) 0).st = .running ∧
      (let a := abandoned (reachBoundary victim 0 0) 0 0
       let w := withdrawAll a.1 0
       match each (fun (e : Nat × List Byte) => writeLocal 0 (frameAddr w 0 0 + e.1) e.2) (frameParts w 0 0 a.2) w with
       | .ok _ _ => true | .error _ _ => false) = true) := by decide +kernel

/-- PlacedTaskStarts, DenseEngineStartsEmpty: two hardware threads, and a task that holds the dense engine. -/
theorem test_placed_task : ([0, 15] : List Nat).Nodup ∧ (slot running 0).engDns = true := by decide +kernel

/-- CoreIsChosen: an unpinned READY task that fits a core. -/
theorem test_core_is_chosen : let s := withSlot { slot0 with st := .ready }
    (slot s 0).saved = false ∧ wPin (slot s 0).wSp.toNat = false ∧ myTurn s 0 = true ∧ 31 ∈ coresFor s 0 ∧ fits s 0 31 = true ∧ headAllows s 0 31 = true := by
  decide +kernel

/-! ### Engines -/

/-- EnginesServeCommands: a fill that starts, a stream at its gate, a vector command, and a partial whose header has come. -/
theorem test_engines_serve : (let s := strmIssue (strmStart filling 0 0) 0
      strmReady s 0 = true ∧ servesStrm s 0 (streamStep 5) = true ∧ strmReady (strmIssue (strmStart (vecWork 0x53 {}) 0 0) 0) 0 = false) ∧
    (strmReady gated 0 = true ∧ gateWaits gated 0 = true ∧ servesStrm gated 0 gateStep = true) ∧
    (euServes (vecWork 0x53 {}) (.vec 0) = true ∧ (vecNext (vecWork 0x53 {}) 0).map (·.1) = some 0 ∧
      servesOp (vecWork 0x53 {}) 0 (vecStep (some {}) 0) = true) ∧
    (headerHere arrived0 0 0 = some (0, 0) ∧ servesOp arrived0 0 (padStep partial0 0 0 0 0) = true) := by decide +kernel

/-- EnginesServeCommands: a layer being loaded, and a row of a hub whose segments are placed and added, the last among them. -/
theorem test_engines_serve_more : let hb : Hub := { op := 0, pav := 0, i := 0, row := 0, edges := 8 }
    let wk : Walk := { split := 4 }
    let part : HubPart := { core := 0, buf := 0, count := 0, hits := 0 }
    (euServes loading (.hdg 0) = true ∧ (hdgNext loading 0).map (·.1) = some 0 ∧ servesOp loading 0 (hdgStep (hworkOf loading 0) 0 0x98) = true) ∧
    (hubMayPlace (hubbed hb) hb wk 0 = true ∧ hubRecord (hubbed hb) 0 = some 0 ∧ servesOp (hubbed hb) 0 (hubPlace 0 hb 0 0 0x42 wk) = true) ∧
    (slot (hubbed hb) 0).st = .running ∧ servesOp (hubbed hb) 0 (hubAdd 0 hb part 0x42 wk false) = true ∧
    servesOp (hubbed { hb with added := 1 }) 0 (hubAdd 0 { hb with added := 1 } part 0x42 wk true) = true := by decide +kernel

/-- EngineEventsAct: a grant of Hedge that is split, leftover work of a selection and of a merge, a sampler that may join, a summary of a
bound slot and of none, and requests refused with TAG_BUSY. -/
theorem test_engine_events : let sel := outstanding { opOf 0x93 (.sel 0) with cursor := 2 ^ 20, inService := true }
    let merge := outstanding { opOf 0x72 (.merge 0) with grants := [2 ^ 20], holds := [0] }
    let smp := outstanding (opOf 0x60 (.smp 0) (fld 13 0 3))
    let busy := { running with reqs := [(0, some { st := .busy }), (1, some { st := .busy, local' := true })] }
    ((unitOps { outstanding (opOf 0x98 (.hdg 0)) with hworks := [(0, some { split := true })] } (.hdg 0)).find?
      (fun e => ((hworkOf { outstanding (opOf 0x98 (.hdg 0)) with hworks := [(0, some { split := true })] } e.1).map (·.split)).getD false)).isSome = true ∧
    ((unitOps (selTurn sel 0) (.sel 0)).find? (fun e => e.2.inService && decide (e.2.cursor > actN (selTurn sel 0) (pg clsSEL 0) 0x108))).isSome = true ∧
    ((opList (mergeTurn merge 0)).find? (fun e => e.2.holds.contains 0 && decide (e.2.grants.getD 0 0 > actN (mergeTurn merge 0) (pg clsROW 0) 0x810))).isSome = true ∧
    (getOp smp 0).map (fun o => bitOf (cf o.cmd.toNat 13 0 16) 1 && !o.joined.contains 2 && smpFree smp 1 0 && o.inService && euServes smp (.smp 1)) = some true ∧
    (euServes running (.num 0) = true ∧ numSlot running 0 = none ∧ (numSlot (after running (.numBind thr0 (body (fld 0 8 2)))) 0).isSome = true) ∧
    (getReq busy 0).map (fun r => (decide (r.st = .busy), r.local')) = some (true, false) ∧
    (getReq busy 1).map (fun r => (decide (r.st = .busy), r.local', heldBack (updReq busy 1 (fun r => { r with st := .sent })) 1 r)) =
      some (true, true, false) := by decide +kernel

/-! ### The step managers -/

/-- HostRequestsAct: PROFILE, JOB_START, STEP_OPEN, CHECKPOINT, RESUME and REBUILD at a system manager with no step open. -/
theorem test_host_requests : let w := profileWord State.reset
    (asked State.reset 1 0 [w] = true ∧ profileBad w = false ∧ bitsOf w 27 5 = 0) ∧
    (asked State.reset 2 = true ∧ State.reset.gate.steps = [] ∧ opening State.reset = false ∧ State.reset.testMode = false) ∧
    (asked State.reset 3 1 = true ∧ (1 : BitVec 32) = State.reset.lastOpen + 1 ∧ State.reset.gate.halted = false ∧ State.reset.gate.noMirror = []) ∧
    asked State.reset 0x0A = true ∧ (asked State.reset 0x0E = true ∧ State.reset.gate.reason < 4 ∧ State.reset.gate.lost = []) ∧
    asked State.reset 0x10 = true := by decide +kernel

/-- HostRequestsAct: STEP_SEAL, STEP_ABORT and STEP_COMMIT of a step that is open, the last with every acknowledgement in; and a
STEP_ABORT of a step whose COMMIT is not confirmed. -/
theorem test_host_step_requests : let ack : Ack := { mod := 0, step := 1, rows := 0, flags := 0, mask := 0, missing := 0, dense := 0, sums := [] }
    let s := updGate State.reset (fun g => { g with steps := [{ num := 1, acks := [ack] }, { num := 2, decision := 1 }] })
    asked s 4 1 = true ∧ asked s 6 1 = true ∧ asked s 7 1 = true ∧
    (asked s 7 2 = true ∧ (smStep s 2).map (fun x => (x.decision, x.confirmed)) = some (1, false)) ∧
    (smStep s 1).map (fun x => (x.phase, x.decision, allAcked s x, smTainted x)) = some (0, 0, true, false) := by decide +kernel

/-- ManagerMessagesTurnedAway: a profile word of zero, steps that are open, unknown, decided, without acknowledgements or tainted, and a
module halted for a lost journal. -/
theorem test_host_requests_refused : let s := updGate State.reset (fun g => { g with steps := [{ num := 1, decision := 2 }, { num := 2 },
        { num := 3, tainted := true, acks := [{ mod := 0, step := 3, rows := 0, flags := 0, mask := 0, missing := 0, dense := 0, sums := [] }] }] })
    (asked State.reset 1 = true ∧ profileBad 0 = true) ∧ (asked s 2 = true ∧ s.gate.steps ≠ []) ∧ asked { State.reset with testMode := true } 2 = true ∧ (asked s 4 9 = true ∧ smStep s 9 = none) ∧
    (asked s 6 1 = true ∧ asked s 7 1 = true ∧ (smStep s 1).map (·.decision) = some 2) ∧
    (asked s 6 2 = true ∧ (smStep s 2).map (fun x => (x.decision, allAcked s x)) = some (0, false)) ∧
    (asked s 6 3 = true ∧ (smStep s 3).map (fun x => (x.decision, allAcked s x, smTainted x)) = some (0, true, true)) ∧
    (asked (updGate s (fun g => { g with reason := 4 })) 0x0E = true) := by decide +kernel

/-- ManagerMessagesTurnedAway: a message of the sender and number of one already taken. -/
theorem test_duplicate_message : let m := msgOf (mgrWords 5 1)
    let s := updGate (holding State.reset m) (fun g => { g with seen := [(1, 7)] })
    mgrAt s (.held 0) = some m ∧ mgrTurn s (.held 0) m = true ∧ s.gate.forwardOnly = false ∧
    (takeMgr s (.held 0)).gate.seen.contains (m.src, m.num) = true ∧ m.type = 5 := by decide +kernel

/-- MembersAct: each type of message comes at a member, and OPEN prepare at a group manager. -/
theorem test_member_messages :
    (let gm := updGate (setBoth State.reset (pg clsPE 0) 0x118 0 0x00010002) (fun g => { g with spares := [0], sm := some 0 })
     told 3 false gm = true ∧ prepareNext gm (msgOf (mgrWords 3 1) 0) = [2]) ∧
    prepareNext member (msgOf (mgrWords 3 1) 0) = [] ∧ isSm member = false ∧ told 0x0D = true ∧ told 0x0F = true ∧ told 0x11 = true ∧ told 0x12 = true ∧ told 3 true = true ∧
    told 3 = true ∧ member.testMode = false ∧ told 3 true { member with testMode := true } = true ∧
    told 3 false { member with testMode := true } = true ∧ told 1 = true ∧ told 2 = true ∧ told 4 = true ∧ told 6 = true ∧ told 7 = true ∧ told 0x0A = true ∧ told 0x0E = true ∧
    told 0x10 = true := by decide +kernel

/-- ManagersAreToldAndKeepTime: acknowledgements, taints, applied steps, losses and heartbeats, the last of a lost module too. -/
theorem test_managers_told : let s := updGate State.reset (fun g => { g with steps := [{ num := 1 }] })
    let lost := updGate State.reset (fun g => { g with gone := [1], lost := [(1, none)], reason := 3 })
    asked s 5 1 = true ∧ asked s 9 1 = true ∧ (asked s 8 1 = true ∧ (smStep s 1).isSome = true) ∧ asked s 0x0C = true ∧ told 0x0C = true ∧
    asked State.reset 0x0B = true ∧ (asked lost 0x0B = true ∧ isSm lost = true ∧ lost.gate.gone.contains 1 = true ∧ lost.gate.lost.contains (1, none) = true) := by
  decide +kernel

/-- ManagersAreToldAndKeepTime: a member's and the system manager's heartbeat, a group manager that is not the system manager, a message to
send again, the standby, and a profile to activate. -/
theorem test_managers_time : let sm := setBoth State.reset (pg clsPE 0) 0x118 0 0x00000001
    let gm := updGate member (fun g => { g with spares := [0], sm := some 0 })
    let out := updGate State.reset (fun g => { g with outq := [{ dst := 1, msg := msgOf (mgrWords 4 1) }] })
    (isSm member = false ∧ member.gate.forwardOnly = false) ∧ (isSm sm = true ∧ standbyManager sm = some 1) ∧ (isSm gm = false ∧ isGm gm = true) ∧
    (out.gate.outq.find? (fun o => o.msg.num == 7)).map (·.ether) = some false ∧ standbyManager member = some (roleId member) ∧
    (State.reset.steps = [] ∧ (updGate State.reset (fun g => { g with profile := some (profileWord State.reset) })).gate.profile.isSome = true) := by
  decide +kernel

/-! ### The fabric -/

/-- FlitsAreTaken: a link out of service, and a flit with a bad CRC. -/
theorem test_no_flit : (link State.reset 0).st ≠ 2 ∧ up0.st = 2 ∧ goodFlit (linked up0) 0 0 = none := by
  unfold goodFlit
  rw [crc32_eq]
  decide +kernel

/-- FlitsAreTaken: a DATA flit in its order. -/
theorem test_data_flit : (goodFlit (linked up0) 0 (mkFlit 0 0 0 [])).isSome = true ∧ flitKind (mkFlit 0 0 0 []) = 0 ∧ flitSeq (mkFlit 0 0 0 []) = up0.rxNext := by
  unfold goodFlit mkFlit
  rw [crc32_eq]
  decide +kernel

/-- FlitsAreTaken, OutOfOrderFlitDelivers: a DATA flit out of its order. -/
theorem test_late_flit : (goodFlit (linked up0) 0 (mkFlit 4095 0 0 [])).isSome = true ∧ flitKind (mkFlit 4095 0 0 []) = 0 ∧ flitSeq (mkFlit 4095 0 0 []) ≠ up0.rxNext := by
  unfold goodFlit mkFlit
  rw [crc32_eq]
  decide +kernel

/-- FlitsAreTaken: an IDLE flit. -/
theorem test_idle_flit : (goodFlit (linked up0) 0 (mkFlit 0 0 1 [])).isSome = true ∧ flitKind (mkFlit 0 0 1 []) = 1 := by
  unfold goodFlit mkFlit
  rw [crc32_eq]
  decide +kernel

/-- FlitsAreTaken: a NAK of the oldest flit held, before and after the last try. -/
theorem test_nak_flit : (goodFlit (linked up0) 0 (mkFlit 0 4095 2 [])).isSome = true ∧ flitKind (mkFlit 0 4095 2 []) = 2 ∧ flitAck (mkFlit 0 4095 2 []) = 4095 ∧
    ([{ seq := 4095, payload := [] }] : List Sent).head?.map (·.seq) = some 4095 ∧ 0 < retryLimit State.reset 0 ∧ 8 ≥ retryLimit State.reset 0 := by
  unfold goodFlit mkFlit
  rw [crc32_eq]
  decide +kernel

/-- LinksAct: a link in service with a gap and no data, in a slot of data; messages to pass on with a link and without one; training. -/
theorem test_links : let m := mkMsg row4 { dst := 1, cls := 0, mtype := 4 } []
    let s := linked { up0 with gap := true, slot := 63 } { row4 with inbox := [(8, 0, m)] }
    ((link s 0).st = 2 ∧ (link s 0).gap = true ∧ hasData s 0 = false ∧ (link s 0).slot ≠ 0) ∧
    (m.dst ≠ ownId s ∧ (s.inbox.take 0).any (fun e => e.2.2.streamKey == m.streamKey) = false ∧ (passOn s 0 m).isSome = true ∧ (passOn row4 0 m).isSome = false) ∧
    ((link row4 0).st = 0 ∧ axisLen row4 0 ≠ 1 ∧ linkLost row4 0 = false ∧ row4.power.mode = 0 ∧ lanesUp row4 0 training0 ≠ 0 ∧
      lanesFailed row4 0 training0 = [] ∧ rightPartner row4 0 training0 = true) := by decide +kernel

/-! ### Homes and steps -/

/-- HomesPerform: a request of this module, pieces to read and to write, and requests of other modules. -/
theorem test_homes_perform : let s := asking (reqOf .load)
    ((getReq s 0).map (fun r => (decide (r.st = .sent), isOwn s r.addr, heldBack s 0 r, asleep s (gLoc r.addr), isPiece s 0)) = some (true, true, false, false, false)) ∧
    (portAhead (asking (reqOf .piece)) 0 (reqOf .piece) = false ∧ (reqOf .piece).mode = 0 ∧ isOwn s 0x1000 = true ∧ isOwn s (({ reqOf .piece .sent [0x2000] with mode := 1 } : Req).words.getD 0 0) = true) ∧
    (arrival (arrived running 1 [0x1000]) 0).map (fun m => (forMe running m 1, inTurn (arrived running 1 [0x1000]) 0, asleep running (bitsOf (m.pl 0) 0 44))) =
      some (true, true, false) ∧
    (arrival (arrived running 2 [0x1000, 1]) 0).map (fun m => forMe running m 2) = some true ∧
    (arrival (arrived running 3 [0x1000, 1]) 0).map (fun m => forMe running m 3) = some true ∧ running.gate.forwardOnly = false := by decide +kernel

/-- RowHomesAndReplies: row requests, updates and journal records of this module. -/
theorem test_row_homes : let s := asking (reqOf .rowFetch)
    let held := reqOf .rowUpdate .busy [0]
    ((getReq s 0).map (fun q => (decide (q.kind = .rowFetch), isOwn s q.addr)) = some (true, true) ∧ s.heldRows.length = 0) ∧
    ((getReq (asking (reqOf .rowUpdate .sent [0, 0, 0])) 0).isSome = true ∧ (getReq (asking (reqOf .rowCheck)) 0).isSome = true) ∧
    (journalService running = .inService ∧ (journalWrite (setBoth running (pg clsROW 0) 0x850 0 1) 0 [1]).isSome = true) ∧
    (firstHeld (asking held) 0 held = true ∧ bankFree (asking held) held = true ∧ mayLeave (asking held) held = true ∧ isOwn (updReq (asking held) 0 (fun r => { r with st := .sent })) held.addr = true) := by decide +kernel

/-- RowHomesAndReplies: messages of the types that homes take, at a module in a job and at one that only forwards, and replies. -/
theorem test_row_messages : let t (n : Nat) : Bool := ((arrival (arrived running n [0, 0, 0]) 0).map (fun m => forMe running m n)) == some true
    t 5 = true ∧ t 6 = true ∧ t 7 = true ∧ t 8 = true ∧ (t 9 = true ∧ euServes running (.col 0) = true ∧ collAsleep running 0 = false) ∧
    t 0x40 = true ∧ t 0x41 = true ∧ (updGate running (fun g => { g with forwardOnly := true })).gate.forwardOnly = true ∧
    ((reqOf .load (.answered .ok 0)).wantsData = true ∧ (reqOf .store (.answered .ok 0)).wantsData = false) := by decide +kernel

/-- ArrivedWriteStores: two bytes of near memory in service. -/
theorem test_arrived_write : isHost 0x1000 = false ∧ popRange State.reset 0x1000 2 = true ∧ unserved State.reset 0x1000 2 = none ∧
    (meets State.reset 0x1000 2 true).2 = false := by decide +kernel

/-- StepsAreApplied: a confirmed step at home 0, before it begins, stopped, done, and done at every home. -/
theorem test_steps_applied : let x : StepSt := { num := 1, phase := .applying, confirmed := true }
    let s : State := { State.reset with steps := [x] }
    let busy (w : Apply) : State := { s with homes := [(0, { work := some w })] }
    applying s = some x ∧ ((homeUnit s 0).work = none ∧ (homeUnit s 0).applied ≠ x.num ∧ unitServes s 0 = true ∧ unitServes s 19 = true) ∧
    ((homeUnit (busy { step := 1, rows := [], stopped := true }) 0).work).map (·.stopped) = some true ∧
    (((homeUnit (busy { step := 1, rows := [] }) 0).work).map (fun w => (w.step, w.stopped, w.moves)) = some (1, false, []) ∧
      movesUnconfirmed (busy { step := 1, rows := [] }) 0 1 = false ∧ movesElsewhere (busy { step := 1, rows := [] }) 0 1 = false) ∧
    (∀ u : Nat, u < 20 → (homeUnit { s with homes := (List.range 20).map (fun u => (u, { applied := 1 })) } u).applied = x.num) ∧ x.regions = [] := by
  decide +kernel

/-! ### The host interface -/

/-- DoorbellsAct: the owner and another function, an enabled ring and one that is not, and a head that frees every record posted. -/
theorem test_doorbells : let cq := { ring0 with cqs := [(0, { posted := [0], tail := 1 })] }
    bellActs State.reset 0 0 = false ∧ bellActs ring0 0 1 = false ∧ (bellActs ring0 0 0 = true ∧ qEnabled ring0 0 = true) ∧
    (bellActs ready 0 0 = true ∧ qEnabled ready 0 = false) ∧
    (let s := hifSet cq 0x158 (1 + 4 * 4)
     bellActs s 0 0 = true ∧ cqEntries s (qCq s 0) = 16 ∧ (s.cqs.get {} (qCq s 0)).posted.length = 1) := by decide +kernel

/-- RingsAndPortsAct: a ring that may be fetched, a record held for a ring in module memory, a coalescing timer, an invalidation. -/
theorem test_rings : let c := { hifSet ready 0x158 (1 + 2 + 4 * 4) with cqs := [(0, { held := [5] })] }
    let timed := { hifSet ready 0x164 0x100 with cqs := [(0, { timer := true })] }
    (mayFetch ring0 0 = true ∧ ringWaits ring0 0 = false) ∧ (writeRec c 0 5).2 = true ∧
    (bitsOf (cqReg timed 0 0x164) 8 8 ≠ 0 ∧ (timed.cqs.get {} 0).timer = true) ∧
    ({ State.reset with xlateInv := some 0 } : State).xlateInv = some 0 := by decide +kernel

/-- RingsAndPortsAct: a port that is up, in Run and in Rest; a function that is not the PF. -/
theorem test_ports : let s : State := { State.reset with pcie := { up0 := true } }
    (7 : Fin 8) ≠ 0 ∧ s.power.mode < 6 ∧ s.pcie.up0 = true ∧ (updPower s (fun w => { w with mode := 3 })).power.mode = 3 := by decide +kernel

/-- ApertureAndFirmwareAct: eight bytes at the aperture's start, and a byte that it may write; an update under way that fails. -/
theorem test_aperture : let s := barAccess State.reset
    (s.power.mode = 0 ∧ sleeps s (aptAddr s 0) 8 = false ∧ 8 ≤ aptRoom 0 ∧ aptLen s 0 8 = 8 ∧ resets s (aptAddr s 0) 8 = false ∧
      (match serveRead s 16 (aptAddr s 0) 8 with | (_, st, l) => decide (st = .ok ∧ l.length = 8)) = true) ∧
    (sleeps s (aptAddr s 0x800000000) 1 = false ∧ 1 ≤ aptRoom 0x800000000 ∧ aptLen s 0x800000000 1 = 1 ∧ aptForbidden s (aptAddr s 0x800000000, 1) = false) ∧
    (let u := updFw State.reset (fun f => { f with state := 1 })
     u.fw.state = 1 ∧ (stagedImage u).1 ≠ 0) := by decide +kernel

/-! ### Registers -/

/-- RegisterWritesAct, UnlockTakesItsKey: pages that the PF may write, one of them open; test mode may be entered. -/
theorem test_register_writes : let s := { State.reset with pages := [(pg clsNEAR 0, { expert := true }), (pg clsFAR 0, { expert := true })] }
    (pageTaken s .pf (pg clsNEAR 0) = true ∧ (page (accessed s .pf) (pg clsNEAR 0)).expert = true) ∧
    (pageTaken s .pf (pg clsFAR 0) = true ∧ (page (accessed s .pf) (pg clsFAR 0)).expert = true) ∧
    pageTaken s .pf (pg clsDSP 0) = true ∧ pageTaken s .pf (pg clsBLV 0) = true ∧ pageTaken s .pf hif = true ∧
    (pageTaken s .pf (pg clsSMP 0) = true ∧ pageFenceable (pg clsSMP 0) = true ∧ pageCls (pg clsNEAR 0) = clsNEAR) ∧
    (pageTaken s .pf (pg clsGH 0) = true ∧ testAllowed (accessed s .pf) .pf = true) ∧
    (page (accessed s .pf) (pg clsDSP 0)).expert = false ∧ Requester.pf ≠ .ethernet := by decide +kernel

/-- RefusedAccessesDoNothing: management Ethernet may not write a dispatcher, and reads none; a page that is not implemented. -/
theorem test_refused_accesses : allowed (accessed State.reset .ethernet) .ethernet (pg clsDSP 0) = false ∧
    (allowed (accessed State.reset .pf) .pf 0xFFFF = true ∧ pageImpl 0xFFFF = false) ∧
    readable (accessed State.reset .ethernet) .ethernet (pg clsDSP 0) = false := by decide +kernel

/-- RegisterEventsAct: a page that may be read, a commit at its commit point, a snapshot period, and datagrams that are taken. -/
theorem test_register_events : let s := { setBoth State.reset (pg clsBLV 0) 0x108 0 1 with pages := [(pg clsSMP 0, { commitPending := true })] }
    let e := setBoth State.reset (pg clsGH 0) 0x120 0 1
    readable (accessed s .pf) .pf (pg clsSMP 0) = true ∧
    ((page s (pg clsSMP 0)).commitPending = true ∧ pageResetting s (pg clsSMP 0) = false ∧ commitPoint s (pg clsSMP 0) = true) ∧
    (actN s (pg clsBLV 0) 0x108 ≠ 0 ∧ s.power.mode = 0) ∧
    (served (accessed s .ethernet) .gatehouse = true ∧ (accessed s .ethernet).power.mode ≠ 7) ∧
    readable (accessed e .ethernet) .ethernet (pg clsGH 0) = true ∧ pageTaken e .ethernet (pg clsGH 0) = true := by decide +kernel

/-! ### Resets, retries and memory care -/

/-- ResetsAct, ResetsTakeDomainsOut: domains in service, and under reset; a core with work and one without; pages that reset. -/
theorem test_resets : resetsRun State.reset = true ∧ (beginReset State.reset (dCore 511)).isSome = true ∧
    (dom State.reset (dPav 0)).service = .inService ∧ (beginReset State.reset (dGroup 3 3)).isSome = true ∧
    ((dom (domAt (dCore 0) .resetting) (dCore 0)).service ≠ .inService ∧ bitOf (domAt (dCore 0) .resetting).power.unlocked (domDie (.core 0)) = false) ∧
    (dom (domAt (dPav 0) .fenced) (dPav 0)).service ≠ .inService ∧ (hasWork filling (.core 0) = true ∧ hasWork State.reset (.core 0) = false) ∧
    (pageImpl (pg clsPAV 0) = true ∧ pageDomain (pg clsPAV 0) = true ∧ pageCls (pg clsPAV 0) = clsPAV) ∧
    (pageImpl (pg clsLNK 0) = true ∧ pageDomain (pg clsLNK 0) = true ∧ pageCls (pg clsLNK 0) = clsLNK) := by decide +kernel

/-- RequestsAreRetried: a read that completed FENCED and is due, an engine's command that owes a retry, and unanswered requests. -/
theorem test_retries : let r : Req := { reqOf .load (.fenced true) with tries := 1 }
    let s := outstanding { opOf 0x53 (.vec 0) with tries := 1 }
    (decide (r.st = .fenced true ∧ r.op = none ∧ r.kind = .load) = true ∧ isOwn running r.addr = true ∧ r.local' = false ∧ tagFree (asking r) r = true ∧
      heldBack (asking { r with st := .sent, local' := true }) 0 { r with st := .sent, local' := true } = false) ∧
    (getOp s 0).map (fun o => o.far.st == 0 && o.tries != 0 && !o.due && !parkedOut o && decide (memService s o.fencedAt ≠ .resetting) && euServes s o.eu) = some true ∧
    (let w := updDense running 0 (fun d => { d with refills := [{ key := 0, bank := 0, cmd := 0, desc := 0, tries := 1 }] })
     (dense w 0).refills.map (fun r => decide ((slot w r.key).st = .running ∧ r.tries ≠ 0 ∧ memService w r.fencedAt ≠ .resetting) && euServes w (.dns 0)) = [true]) ∧
    ((reqOf .load).unanswered = true ∧ (reqOf .load (.answered .ok 0)).unanswered = false) := by decide +kernel

/-- MemoryIsCaredFor: near memory, copies that run, the last controller's zeros, lines of a row cache, and Gatehouse pairs. -/
theorem test_memory_care : let z := powered (fun w => { w with zeroing := [5] })
    let l := { State.reset with rcache := [(setKey 0 0, [{ tag := 0, valid := 15, dirty := 3 }])] }
    isNear 0 = true ∧ ((chan { State.reset with chans := [(4095, { copying := some none })] } 4095).copying ≠ none ∧
      (chan { State.reset with chans := [(4096, { copying := some none })] } 4096).copying ≠ none) ∧
    (z.power.zeroing.contains 5 = true ∧ z.power.zeroing.filter (· != 5) = [] ∧ z.power.mode = 0 ∧ z.gate.modReady = false ∧ z.testMode = false ∧
      z.gate.pairsLost < 2 ∧ (powered (fun w => { w with zeroing := [5, 6] })).power.zeroing.filter (· != 5) ≠ []) ∧
    (isFar pinned0 (farAddr 0 0) = true ∧ pinRange pinned0 0 (farAddr 0 0) 1 = true ∧ bitOf (actN pinned0 (pg clsFAR 0) 0x110) 0 = true ∧
      asleep pinned0 (farAddr 0 0) = false ∧ memService pinned0 (farAddr 0 0) = .inService ∧ pinnedIn [] < bitsOf (actN pinned0 (pg clsFAR 0) 0x408) 0 4) ∧
    ((l.rcache.get [] (setKey 0 0)).find? (fun x => x.tag == 0)).map (·.dirty) = some 3 ∧
    (State.reset.gate.pairsLost = 0 ∧ (updGate State.reset (fun g => { g with pairsLost := 1 })).gate.pairsLost = 1) := by decide +kernel

/-! ### Noise -/

/-- NoiseActs, SeedsAreDrawn: a source in each state, a pool with room, a full one, an empty one and one of two blocks. -/
theorem test_noise : let src (n : Nat) (l : List (BitVec 256)) : State := { State.reset with rngs := [(0, { noise := n, pool := l })] }
    ((rng (src 1 (List.replicate 63 0)) 0).noise = 1 ∧ (rng (src 1 (List.replicate 63 0)) 0).pool.length < 64) ∧
    (rng (src 1 (List.replicate 64 0)) 0).pool.length = 64 ∧ (rng (src 2 []) 0).noise = 2 ∧ (rng (src 0 []) 0).noise = 0 ∧
    ((rng (src 1 []) 0).noise ≠ 3 ∧ unitFenced (src 1 []) (pg clsRNG 0) = false) ∧ (rng (src 1 [5, 6]) 0).pool = [5, 6] ∧ (rng (src 1 []) 0).pool = [] := by
  decide +kernel

/-! ### Power -/

/-- PowerRequestsAct: a requester of the power page; an idle Pavilion and one at work; a module in each mode. -/
theorem test_power_requests : pageTaken State.reset .pf (pg clsPWR 0) = true ∧ State.reset.power.mode = 0 ∧
    (actN State.reset (pg clsPWR 0) 0x114 ≠ 0 ∧ pavIdle State.reset 0 = true ∧ pavIdle running 0 = false) ∧
    (powered (fun w => { w with mode := 1 })).power.mode = 1 ∧ (powered (fun w => { w with mode := 3 })).power.mode = 3 ∧
    (powered (fun w => { w with mode := 4 })).power.mode = 4 ∧ Wake.smbus ≠ .perst ∧ Wake.smbus ≠ .datagram := by decide +kernel

/-- HoldIsEntered: a Pavilion in Run, and one in Nap. -/
theorem test_hold : State.reset.power.pavs.get 0 0 = 0 ∧ (powered (fun w => { w with pavs := [(0, 2)] })).power.pavs.get 0 0 ≠ 0 := by decide +kernel

/-- ClocksAct: Pavilions awake; input power at, below and above the cap of 3200 W; PLLs locked and unlocked; the reference. -/
theorem test_clocks : let s := powered (fun w => { w with pll := 0x10001, unlocked := 0x10001, refOk := true })
    pavAsleep s 0 = false ∧ s.power.mode ≠ 7 ∧ (powered (fun w => { w with mode := 1 })).power.mode ≠ 0 ∧
    10 * bitsOf (profileWord s) 18 9 = 3200 ∧ (3201 > 3200 ∧ 100 * 3136 ≥ 98 * 3200 ∧ 100 * 3135 < 98 * 3200) ∧
    (railsUp s = true ∧ bitOf s.power.pll 0 = true ∧ bitOf s.power.pll 16 = true ∧ bitOf s.power.unlocked 16 = true) ∧ s.power.refOk = true := by decide +kernel

/-- ProtectionsAct, ShutdownLosesState: rails up, a die at HOT and one that is not, a protection's steps, and a reference held over. -/
theorem test_protections : let s := powered (fun w => { w with hot := [3], steps := 1, clear := 49, holdover := true })
    railsUp s = true ∧ s.power.hot.contains 3 = true ∧ s.power.hot.contains 4 = false ∧ s.power.steps ≠ 0 ∧ (s.power.clear + 1 ≥ 50) ∧
    State.reset.power.clear + 1 < 50 ∧ s.power.mode < 4 ∧ s.power.holdover = true := by decide +kernel

/-- SupplyActs: a module in Run, Rest, Dormant and after a protective shutdown. -/
theorem test_supply : State.reset.power.mode < 3 ∧ (powered (fun w => { w with mode := 3 })).power.mode = 3 ∧
    (powered (fun w => { w with mode := 4 })).power.mode = 4 ∧ (powered (fun w => { w with mode := 6 })).power.mode = 6 ∧
    (∀ a, Smbus.power ≠ .eeprom a) := by
  refine ⟨by decide +kernel, by decide +kernel, by decide +kernel, by decide +kernel, fun _ h => ?_⟩
  cases h

/-- IdsAndCoordinates: the axes of the rule's example, 8 by 1 by 1 by 16. -/
theorem test_axes : let s := setBoth State.reset (pg clsPE 0) 0x118 0 0x0000F007
    axisLen s 0 = 8 ∧ axisLen s 1 = 1 ∧ axisLen s 2 = 1 ∧ axisLen s 3 = 16 := by decide +kernel

end Sys2Proof.Tests
end

section
/-!
PROOF. NOP (R90): the checks of R71 leave it no operand, a queue only loses its entry, and a thread only moves on. The lemmas on
`lowest`, `firstBad`, `lowBit` and `wordsBad` say when a check of reserved bits passes; `issueCmd_of_accepts` and
`queueCmd_of_checked` say what a command does that passes the checks.
-/
namespace Sys2Proof.Machine
open Sys2Proof

/-! ### Checks of reserved bits that pass (R74) -/

@[simp] theorem lowest_eq_none {a b : Option Nat} : lowest a b = none ↔ a = none ∧ b = none := by
  cases a <;> cases b <;> simp [lowest]

/-- The fold of `firstBad`, from any position already found. -/
theorem foldl_lowest_eq_none {l : List (Nat × Bool)} : ∀ {acc : Option Nat},
    l.foldl (fun acc e => if e.2 then lowest acc (some e.1) else acc) acc = none ↔ acc = none ∧ ∀ e ∈ l, e.2 = false := by
  induction l with
  | nil => simp
  | cons e l ih =>
    intro acc
    rw [List.foldl_cons, ih]
    cases he : e.2 <;> simp [he]

/-- No position offends exactly when no condition for an offence holds. -/
theorem firstBad_eq_none {l : List (Nat × Bool)} : firstBad l = none ↔ ∀ e ∈ l, e.2 = false := by
  simp [firstBad, foldl_lowest_eq_none]

@[simp] theorem lowBit_eq_none {w : Nat} : lowBit w = none ↔ w = 0 := by
  simp [lowBit]

/-! ### The words of a command without operands (R62, R65, R66) -/

/-- A NOP whose word 0 passes has no completion target. -/
theorem cplEn_of_word0Bad_nop {w : Nat} {queue : Bool} (h : word0Bad w 0 queue = none) : bitOf w 18 = false := by
  have hbit := firstBad_eq_none.mp h (18, (0 == 0 || 0 == 0xA6) && bitOf w 18) (by simp)
  simpa using hbit

/-- Where neither an operand nor a completion target is named, words 1 to 15 pass only as 0. -/
theorem words_zero_of_wordsBad_noSpec {w op : Nat} (hop : op ≠ 0xA0) (hcpl : bitOf w 18 = false)
    (h : wordsBad w op noSpec = none) : w >>> 32 = 0 := by
  unfold wordsBad at h
  simp only [lowest_eq_none, firstBad_eq_none, hcpl] at h
  obtain ⟨⟨hhead, hresv⟩, -, hbody, -⟩ := h
  have hwords : cf w 1 0 16 = 0 ∧ cf w 2 0 32 = 0 ∧ cf w 3 0 32 = 0 := by simpa [hop] using hhead
  have hhigh : (w >>> 48) % 2 ^ 16 = 0 := by simpa using hresv
  have hrest : w >>> 128 = 0 := by simpa [noSpec, fieldMask] using hbody
  simp only [cf, bitsOf, Nat.shiftRight_eq_div_pow] at hwords hhigh hrest ⊢
  omega

/-- The fields of words 1 and up of a command that ends with word 0 are 0. -/
theorem cf_eq_zero_of_shiftRight {w : Nat} (h : w >>> 32 = 0) {i : Nat} (hi : 1 ≤ i) (lo n : Nat) : cf w i lo n = 0 := by
  obtain ⟨j, rfl⟩ := Nat.exists_eq_add_of_le hi
  have hshift : 32 * (1 + j) + lo = 32 + (32 * j + lo) := by omega
  simp [cf, bitsOf, hshift, Nat.shiftRight_add, h]

/-! ### What a command does that passes its checks -/

/-- An accepted command passes the fetch, word 0 and the register interlock, and runs with its registers substituted. -/
theorem issueCmd_eq_runCmd {t : Thr} {b : Body} {d : CmdDef} {s : State} (ha : accepts t b d s = true) :
    issueCmd t b d s = runCmd s d (issuedCtx t b d s) := by
  simp only [accepts, Bool.and_eq_true, Bool.not_eq_true', beq_iff_eq] at ha
  obtain ⟨⟨⟨⟨⟨hcan, hfetch⟩, hword0⟩, hreg⟩, -⟩, -⟩ := ha
  have hfree : ¬ (bitsOf (issueCtx t b d s).w 20 4 ≠ 0 ∧
      regBusy s (issueCtx t b d s).thr (bitsOf (issueCtx t b d s).w 24 6) = true) := by simpa using hreg
  simp only [issueCmd, hcan, hfetch, startCmd, hword0, if_neg hfree]
  rfl

/-- An accepted command passes the checks of its operand words and its thread's scoreboard, and its effect is made. -/
theorem runCmd_eq_concludeCmd {t : Thr} {b : Body} {d : CmdDef} {s : State} (ha : accepts t b d s = true) :
    runCmd s d (issuedCtx t b d s) =
      concludeCmd s d (issuedCtx t b d s) (heldSpans t b d s) (catchAwait (d.run (issuedCtx t b d s)) s) := by
  simp only [accepts, Bool.and_eq_true, Bool.not_eq_true', beq_iff_eq] at ha
  obtain ⟨⟨-, hwords⟩, hsb⟩ := ha
  have hfree : ¬ sbHolds s (issuedCtx t b d s) (slot s (issuedCtx t b d s).key) (cmdSpans s d (issuedCtx t b d s)) = true :=
    ne_true_of_eq_false hsb
  simp only [runCmd, hwords, if_neg hfree]
  rfl

/-- What it means that a command has an effect: it ends without a fault, and its task still runs. -/
theorem effectOf_eq_some {t : Thr} {b : Body} {d : CmdDef} {s s' : State} {f : Stand} :
    effectOf t b d s = some (f, s') ↔
      catchAwait (d.run (issuedCtx t b d s)) s = .ok f s' ∧ (slot s' (issuedCtx t b d s).key).st = .running := by
  dsimp only [effectOf]
  cases catchAwait (d.run (issuedCtx t b d s)) s with
  | ok f' s'' =>
    simp only [Option.ite_none_right_eq_some, Option.some.injEq, Prod.mk.injEq, EStateM.Result.ok.injEq]
    constructor
    · rintro ⟨hslot, rfl, rfl⟩
      exact ⟨⟨rfl, rfl⟩, hslot⟩
    · rintro ⟨⟨rfl, rfl⟩, hslot⟩
      exact ⟨hslot, rfl, rfl⟩
  | error e s'' => simp

/-- An effect that ends while its task runs leaves the state that `issued` describes, however the command stands. -/
theorem concludeCmd_of_running {t : Thr} {b : Body} {d : CmdDef} {s s' : State} {f : Stand}
    (hslot : (slot s' (issuedCtx t b d s).key).st = .running) :
    concludeCmd s d (issuedCtx t b d s) (heldSpans t b d s) (.ok f s') = issued t b d s f s' := by
  cases f <;> exact if_neg (not_not_intro hslot)

/-- A command that is accepted, and whose effect ends while its task runs, leaves the state that `issued` describes. -/
theorem issueCmd_of_accepts {t : Thr} {b : Body} {d : CmdDef} {s s' : State} {f : Stand}
    (ha : accepts t b d s = true) (he : effectOf t b d s = some (f, s')) : issueCmd t b d s = issued t b d s f s' := by
  obtain ⟨hres, hslot⟩ := effectOf_eq_some.mp he
  rw [issueCmd_eq_runCmd ha, runCmd_eq_concludeCmd ha, hres, concludeCmd_of_running hslot]

/-- The head entry of a queue that the checks of R71 accept is taken, its effect is made, and unless it is a NOP it is outstanding. -/
theorem queueCmd_of_checked {q : QRef} {opc index n : Nat} {b : Body} {sp : CmdSpec}
    {run : Nat → State → State × Except FaultInfo Nat} {s s' : State} (hhead : qHead s q (cmdOf opc b) = some index)
    (hbits : lowest (word0Bad (cmdOf opc b).toNat opc true) (wordsBad (cmdOf opc b).toNat opc sp) = none)
    (hcpl : (cplTarget (cmdOf opc b).toNat).bind (fun x => qTargetBad (qPop s q) q (hMod (x.toNat % 2 ^ 36))) = none)
    (hrun : run (cmdOf opc b).toNat (qPop s q) = (s', .ok n)) :
    queueCmd q opc b sp run s = if opc = 0 then s' else qRetire s' q index opc (cmdOf opc b).toNat n := by
  simp only [queueCmd, hhead, hbits, hcpl, hrun]

/-! ### Taking a queue's entry -/

/-- The queue loses its first entry. -/
theorem qPop_fetched (s : State) (n : Fin 256) :
    ((qPop s (.host n)).sqs.get {} n.val).fetched = (s.sqs.get {} n.val).fetched.drop 1 := by
  simp [qPop, Tab.upd]

/-- Every other queue keeps its entries. -/
theorem qPop_sqs_other (s : State) (n : Fin 256) {k : Nat} (hk : k ≠ n.val) :
    (qPop s (.host n)).sqs.get {} k = s.sqs.get {} k := by
  simp only [qPop, Tab.upd, Tab.get_put_other hk]

/-- Nothing but the queues' entries changes. -/
theorem qPop_frame (s : State) (q : QRef) : ({ qPop s q with sqs := s.sqs } : State) = s := by
  cases q <;> rfl

/-! ### NOP (R90) -/

/-- A NOP's effect is none: it completes at issue, and the state stands. -/
theorem effectOf_nop {t : Thr} {b : Body} {s : State} (hrun : (slot s (issuedCtx t b nopDef s).key).st = .running) :
    effectOf t b nopDef s = some (.now, s) :=
  if_pos hrun

/-- A thread's NOP that is accepted moves the thread on and counts a command of its core, and does nothing else. -/
theorem issueCmd_nop {t : Thr} {b : Body} {s : State} (ha : accepts t b nopDef s = true)
    (hrun : (slot s (issuedCtx t b nopDef s).key).st = .running) :
    issueCmd t b nopDef s =
      updThr (bump s (pg clsCORE (issuedCtx t b nopDef s).pav) 0x40) (thrKey t) (fun th => { th with next := th.next + 1 }) :=
  issueCmd_of_accepts ha (effectOf_nop hrun)

/-- A queue's NOP that is accepted takes its entry, and does nothing else. -/
theorem queueCmd_nop {q : QRef} {b : Body} {s : State} {index : Nat} (hhead : qHead s q (cmdOf 0 b) = some index)
    (hbits : lowest (word0Bad (cmdOf 0 b).toNat 0 true) (wordsBad (cmdOf 0 b).toNat 0 noSpec) = none)
    (hcpl : (cplTarget (cmdOf 0 b).toNat).bind (fun x => qTargetBad (qPop s q) q (hMod (x.toNat % 2 ^ 36))) = none) :
    queueCmd q 0 b noSpec (fun _ s => (s, .ok 0)) s = qPop s q :=
  queueCmd_of_checked hhead hbits hcpl rfl

/-- Counting leaves the threads as they are. -/
@[simp] theorem thr_bump (s : State) (p o n k : Nat) : thr (bump s p o n) k = thr s k := by
  simp [thr]

/-- Settles O60: the checks leave a NOP no word but word 0, a queue's NOP is `qPop`, and a thread's moves its thread on and counts it. -/
theorem nopDoesNothing : Obligations.NopDoesNothing := by
  unfold Obligations.NopDoesNothing
  refine ⟨?words, ?queue, ?thread⟩
  case words =>
    intro w queue hword0 hwords i hi _
    have hzero := words_zero_of_wordsBad_noSpec (by decide) (cplEn_of_word0Bad_nop hword0) hwords
    exact cf_eq_zero_of_shiftRight hzero hi 0 32
  case queue =>
    intro n b s index hhead hbits hcpl
    have hexec : exec (.nop (.queue (.host n)) b) s = .next (qPop s (.host n)) :=
      congrArg Host.Outcome.next (queueCmd_nop hhead hbits hcpl)
    exact ⟨qPop s (.host n), hexec, qPop_fetched s n, fun k hk => qPop_sqs_other s n hk, qPop_frame s (.host n)⟩
  case thread =>
    intro t b s ha hrun
    have hexec : exec (.nop (.thread t) b) s = .next _ := congrArg Host.Outcome.next (issueCmd_nop ha hrun)
    exact ⟨_, hexec, by simp, fun k hk => by simp [thr_updThr_other hk], by simp⟩

end Sys2Proof.Machine
end

section
/-!
PROOF. Placement of an unpinned task (R110): the dispatcher's search over the cores is Mathlib's `List.argmin` or `List.argmax` of the
threads in use, over a list of cores that ascends; so it finds the best core, and the lowest of several that are equally good.
-/
namespace Sys2Proof.Machine
open Sys2Proof

/-! ### The cores that a task may go to -/

/-- The threads in use on a local core, as the dispatcher counts them (R110). -/
def usedThreads (s : State) (p core : Nat) : Nat := 16 - (freeThreads s p core).length

/-- The local cores that a task fits now and that no reservation keeps from it (R109, R111), in the order in which they are searched. -/
def openCores (s : State) (key : Nat) : List Nat := (coresFor s key).filter (fun c => fits s key c && headAllows s key c)

theorem mem_openCores {s : State} {key c : Nat} :
    c ∈ openCores s key ↔ c ∈ coresFor s key ∧ fits s key c = true ∧ headAllows s key c = true := by
  simp [openCores]

/-- A task that is neither saved nor pinned has its cores searched from the lowest up. -/
theorem coresFor_sortedLT {s : State} {key : Nat} (hsaved : (slot s key).saved = false)
    (hpin : (wPresent (slot s key).wSp.toNat && wPin (slot s key).wSp.toNat) = false) : (coresFor s key).SortedLT := by
  simp only [coresFor, hsaved, hpin, Bool.false_eq_true, if_false]
  exact (List.pairwise_lt_range.filter _).sortedLT

theorem openCores_sortedLT {s : State} {key : Nat} (hsaved : (slot s key).saved = false)
    (hpin : (wPresent (slot s key).wSp.toNat && wPin (slot s key).wSp.toNat) = false) : (openCores s key).SortedLT :=
  ((coresFor_sortedLT hsaved hpin).pairwise.filter _).sortedLT

/-! ### The search -/

/-- In an ascending list what stands first is least. -/
theorem le_of_idxOf_le {l : List Nat} (hl : l.SortedLT) {a b : Nat} (ha : a ∈ l) (hb : b ∈ l) (h : l.idxOf a ≤ l.idxOf b) : a ≤ b := by
  have hget := (hl.getElem_le_getElem_iff (hi := List.idxOf_lt_length_iff.mpr ha) (hj := List.idxOf_lt_length_iff.mpr hb)).mpr h
  simpa using hget

/-- `argmin` on an ascending list: no element is better, and none as good is lower. -/
theorem argmin_lowest {f : Nat → Nat} {l : List Nat} (hl : l.SortedLT) {c x : Nat} (hc : c ∈ l.argmin f) (hx : x ∈ l) :
    f c < f x ∨ (f c = f x ∧ c ≤ x) := by
  obtain ⟨hmem, hle, hfirst⟩ := List.mem_argmin_iff.mp hc
  rcases (hle x hx).lt_or_eq with hlt | heq
  · exact .inl hlt
  · exact .inr ⟨heq, le_of_idxOf_le hl hmem hx (hfirst x hx heq.ge)⟩

/-- `argmax` on an ascending list: no element is better, and none as good is lower. -/
theorem argmax_lowest {f : Nat → Nat} {l : List Nat} (hl : l.SortedLT) {c x : Nat} (hc : c ∈ l.argmax f) (hx : x ∈ l) :
    f c > f x ∨ (f c = f x ∧ c ≤ x) := by
  obtain ⟨hmem, hle, hfirst⟩ := List.mem_argmax_iff.mp hc
  rcases (hle x hx).lt_or_eq with hlt | heq
  · exact .inl hlt
  · exact .inr ⟨heq.symm, le_of_idxOf_le hl hmem hx (hfirst x hx heq.ge)⟩

/-- R110: the dispatcher takes the first of the cores with the most threads in use where POLICY is 1 (pack), and with the fewest where it
is 0 (spread). -/
theorem coreFor_eq_search {s : State} {key : Nat} (hturn : myTurn s key = true) :
    coreFor s key = if actN s (pg clsDSP (key / 4096)) 0x408 % 2 = 1 then (openCores s key).argmax (usedThreads s (key / 4096))
      else (openCores s key).argmin (usedThreads s (key / 4096)) := by
  simp only [coreFor, hturn, Bool.not_true, Bool.false_eq_true, if_false]
  split
  all_goals
    refine congrArg (fun step => List.foldl step none (openCores s key)) (funext₂ fun best c => ?_)
    cases best with
    | none => rfl
    | some x => exact if_congr Iff.rfl rfl rfl

/-- A core that the dispatcher takes is one that the task may go to. -/
theorem mem_openCores_of_coreFor {s : State} {key c : Nat} (hturn : myTurn s key = true) (hc : coreFor s key = some c) :
    c ∈ openCores s key := by
  rw [coreFor_eq_search hturn] at hc
  split at hc
  · exact List.argmax_mem hc
  · exact List.argmin_mem hc

/-- The dispatcher takes no core only where there is none to take. -/
theorem coreFor_eq_none {s : State} {key : Nat} (hturn : myTurn s key = true) : coreFor s key = none ↔ openCores s key = [] := by
  rw [coreFor_eq_search hturn]
  split
  · exact List.argmax_eq_none
  · exact List.argmin_eq_none

/-! ### R110 -/

/-- POLICY is 0 (spread) at reset. -/
theorem reset_policy_spread : ∀ p, p < 16 → actN State.reset (pg clsDSP p) 0x408 % 2 = 0 := by decide +kernel

/-- Settles O57: the search is `argmin` or `argmax` of the threads in use, by POLICY, over cores that ascend. -/
theorem coreIsChosen : Obligations.CoreIsChosen := by
  unfold Obligations.CoreIsChosen
  refine ⟨reset_policy_spread, ?_⟩
  intro s key hsaved hpin hturn used may
  have hsorted := openCores_sortedLT hsaved hpin
  refine ⟨?found, fun c hc => ⟨mem_openCores.mp (mem_openCores_of_coreFor hturn hc), fun x hx => ⟨?spread, ?pack⟩⟩⟩
  case found =>
    rintro ⟨c, hc⟩
    have hopen : openCores s key ≠ [] := List.ne_nil_of_mem (mem_openCores.mpr hc)
    exact Option.ne_none_iff_exists'.mp (mt (coreFor_eq_none hturn).mp hopen)
  case spread =>
    intro hpolicy
    rw [coreFor_eq_search hturn, if_neg (by omega)] at hc
    exact argmin_lowest hsorted hc (mem_openCores.mpr hx)
  case pack =>
    intro hpolicy
    rw [coreFor_eq_search hturn, if_pos hpolicy] at hc
    exact argmax_lowest hsorted hc (mem_openCores.mpr hx)

end Sys2Proof.Machine
end

section
/-!
PROOF. A task's first placement (R250): it resets the dense engine of its core, and the reset engine's tiles and banks are those of R250.
-/
namespace Sys2Proof.Machine
open Sys2Proof

/-! ### The reset dense engine -/

/-- An FA40 container of zero bits decodes as +0.0. -/
theorem ofFa40_zero : ∃ e, ofFa40 0 = .fin false 0 e := ⟨_, rfl⟩

/-- A tile that lists no container reads as +0.0 throughout, its KIND being 0. -/
theorem tileVal_reset (i : Nat) : ∃ e, tileVal {} i = .fin false 0 e := by
  simpa [tileVal, Tab.get] using ofFa40_zero

/-- The first placement of a task that declares the dense engine resets its core's engine, whatever that held. -/
theorem dense_startThreads {s : State} {key core : Nat} {hws : List Nat} (hdns : (slot s key).engDns = true) :
    dense (startThreads s key core hws) core = {} := by
  simp only [dense, startThreads, hdns, if_true, updSlot_dense, Tab.get_put_same]

/-! ### R250 -/

/-- Settles O59: the placement leaves the reset engine, from `s` and from `s` with any other engines, which has the same task. -/
theorem denseEngineStartsEmpty : Obligations.DenseEngineStartsEmpty := by
  unfold Obligations.DenseEngineStartsEmpty
  intro s key core hws hdns
  have hother : ∀ d, dense (startThreads { s with dense := d } key core hws) core = {} := fun _ => dense_startThreads hdns
  rw [dense_startThreads hdns]
  refine ⟨?tiles, rfl, rfl, hother⟩
  case tiles =>
    rintro t (rfl | rfl)
    all_goals exact ⟨rfl, tileVal_reset, rfl, rfl, rfl, rfl⟩

end Sys2Proof.Machine
end

section
/-!
PROOF. One step: it performs the command in front of the queue on the state with the queue's rest, so what `exec` keeps (`exec_pres`) every
step keeps, and reset has it.
-/
namespace Sys2Proof.Machine
open Sys2Proof

/-! ### What a step is -/

/-- With a command waiting, a step performs it on the state with the queue's rest. -/
theorem step_of_cons {s : State} {c : Instr} {rest : List Instr} (h : s.pending = c :: rest) :
    step s = exec c { s with pending := rest } := by
  simp only [step, h]

/-- With no command waiting, a step leaves the state. -/
theorem step_of_nil {s : State} (h : s.pending = []) : step s = .next s := by
  simp only [step, h]

/-- What a step that goes on can do: idle on an empty queue, or perform the command in front. -/
theorem step_cases {s t : State} (h : step s = .next t) :
    (s.pending = [] ∧ t = s) ∨ ∃ c rest, s.pending = c :: rest ∧ exec c { s with pending := rest } = .next t := by
  cases hp : s.pending with
  | nil =>
    rw [step_of_nil hp] at h
    cases h
    exact .inl ⟨rfl, rfl⟩
  | cons c rest =>
    rw [step_of_cons hp] at h
    exact .inr ⟨c, rest, rfl, h⟩

/-! ### What a command keeps -/

/-- What a command keeps from the state in which it is performed. -/
theorem pres_of_exec {i : Instr} {s t : State} (h : exec i s = .next t) : Pres s t :=
  (exec_pres i s (pres_refl s)).get t h

/-- The invariant speaks of nothing that is not kept. -/
theorem State.Inv.of_pres {s t : State} (hs : s.Inv) (h : Pres s t) : t.Inv :=
  ⟨h.mem hs.mem, h.host hs.host, h.pool hs.pools⟩

/-- The invariant does not speak of the queue. -/
theorem State.Inv.with_pending {s : State} (hs : s.Inv) (l : List Instr) : State.Inv { s with pending := l } :=
  ⟨hs.mem, hs.host, hs.pools⟩

/-! ### The obligations -/

/-- Settles O1, by the definition of a step. -/
theorem stepRunsFront : Obligations.StepRunsFront := by
  unfold Obligations.StepRunsFront
  exact fun _ _ _ => step_of_cons rfl

/-- Settles O2, by the definition of a step. -/
theorem stepIdlesOnEmptyQueue : Obligations.StepIdlesOnEmptyQueue := by
  unfold Obligations.StepIdlesOnEmptyQueue
  exact fun _ => step_of_nil

/-- Settles O3: a command keeps the queue that it finds, which is the rest of the step's queue. -/
theorem commandsUseTheQueue : Obligations.CommandsUseTheQueue := by
  unfold Obligations.CommandsUseTheQueue
  refine ⟨?commands, ?steps⟩
  case commands =>
    intro i s t h
    exact ⟨(pres_of_exec h).pending, (pres_of_exec h).part⟩
  case steps =>
    intro s t h
    rcases step_cases h with ⟨hnil, rfl⟩ | ⟨c, rest, hcons, hexec⟩
    · simp [hnil]
    · simpa [hcons] using (pres_of_exec hexec).pending

/-- Settles O4: reset lists no byte and no random unit. -/
theorem resetKeepsTables : Obligations.ResetKeepsTables := by
  unfold Obligations.ResetKeepsTables
  exact ⟨rfl, rfl, by simp [State.reset]⟩

/-- Settles O5: an idle step leaves the state, and the command in front keeps what the invariant speaks of. -/
theorem stepKeepsTables : Obligations.StepKeepsTables := by
  unfold Obligations.StepKeepsTables
  intro s t hs h
  rcases step_cases h with ⟨-, rfl⟩ | ⟨c, rest, -, hexec⟩
  · exact hs
  · exact (hs.with_pending rest).of_pres (pres_of_exec hexec)

/-- Settles O7: reset lists no slot, thread, command, request, page or engine, and an unlisted one reads as its default. -/
theorem resetState : Obligations.ResetState := by
  unfold Obligations.ResetState
  exact ⟨fun _ => ⟨rfl, rfl, rfl⟩, fun _ => rfl, rfl, rfl, rfl, rfl, rfl, fun _ => ⟨rfl, rfl, rfl⟩, fun _ => rfl⟩

end Sys2Proof.Machine
end

section
/-!
PROOF. Commands that threads issue (R71, R411): every one of them is `issueCmd` of its definition where its thread may issue, and leaves the
state where it may not; so that what `issueCmd` does with an accepted command, with one of wrong words and with a blocked thread is
proved once for all of them.
-/
namespace Sys2Proof.Machine
open Sys2Proof

/-! ### A thread's command is the issue of its definition -/

/-- What a thread's command does: where its thread may issue, it issues and the vector engine of a VEC_PARTIAL_ADD goes on. -/
def issueStep (i : Instr) (t : Thr) (b : Body) (d : CmdDef) (s : State) : State :=
  if canIssue s t (d.eu t.core.val) = true then afterIssue i t (issueCmd t b d s) else s

/-- Where the thread may not issue, `issueCmd` leaves the state. -/
theorem issueCmd_of_blocked {t : Thr} {b : Body} {d : CmdDef} {s : State} (h : canIssue s t (d.eu t.core.val) = false) :
    issueCmd t b d s = s := by
  simp [issueCmd, h]

/-- A command after which no engine goes on is performed as an issue. -/
theorem exec_eq_issueStep {i : Instr} {t : Thr} {b : Body} {d : CmdDef} {s : State} (hexec : exec i s = .next (issueCmd t b d s))
    (hafter : ∀ u, afterIssue i t u = u) : exec i s = .next (issueStep i t b d s) := by
  rw [hexec, issueStep, hafter]
  split
  · rfl
  · next hcan => rw [issueCmd_of_blocked (by simpa using hcan)]

/-- VEC_PARTIAL_ADD is performed as an issue, after which its vector engine goes on. -/
theorem exec_vecPartialAdd {t : Thr} {b : Body} {s : State} :
    exec (.vecPartialAdd t b) s = .next (issueStep (.vecPartialAdd t b) t b padDef s) := rfl

/-- Whatever the table that lists it, a thread's command is performed as the issue of its definition. -/
theorem exec_of_listed {i : Instr} {t : Thr} {b : Body} {d : CmdDef} {s : State}
    (h : vectorCmd i = some (t, b, d) ∨ streamCmd i = some (t, b, d) ∨ denseCmd i = some (t, b, d) ∨ sparseCmd i = some (t, b, d) ∨
      samplerCmd i = some (t, b, d) ∨ rowCmd i = some (t, b, d) ∨ collCmd s i = some (t, b, d) ∨ randomCmd i = some (t, b, d) ∨
      threadCmd i = some (t, b, d)) : exec i s = .next (issueStep i t b d s) := by
  unfold vectorCmd streamCmd denseCmd sparseCmd samplerCmd rowCmd collCmd randomCmd threadCmd at h
  rcases h with hvec | h | h | h | h | h | h | h | h
  · split at hvec <;> cases hvec
    case h_5 => exact exec_vecPartialAdd
    all_goals exact exec_eq_issueStep rfl (fun _ => rfl)
  all_goals
    split at h <;> cases h
    all_goals exact exec_eq_issueStep rfl (fun _ => rfl)

/-- Every command that a thread issues is performed as the issue of its definition. -/
theorem exec_of_anyThreadCmd {i : Instr} {t : Thr} {b : Body} {d : CmdDef} {s : State} (h : anyThreadCmd s i = some (t, b, d)) :
    exec i s = .next (issueStep i t b d s) := by
  simp only [anyThreadCmd, Option.or_eq_some_iff] at h
  exact exec_of_listed (by tauto)

/-! ### Accepted, wrong and blocked commands -/

/-- An accepted command's thread may issue. -/
theorem canIssue_of_accepts {t : Thr} {b : Body} {d : CmdDef} {s : State} (h : accepts t b d s = true) :
    canIssue s t (d.eu t.core.val) = true := by
  simp only [accepts, Bool.and_eq_true] at h
  obtain ⟨⟨⟨⟨⟨hcan, -⟩, -⟩, -⟩, -⟩, -⟩ := h
  exact hcan

/-- A table whose commands are performed as issues issues. -/
theorem issues_of_exec {tbl : State → Instr → Option (Thr × Body × CmdDef)}
    (h : ∀ {i t b d s}, tbl s i = some (t, b, d) → exec i s = .next (issueStep i t b d s)) : issues tbl := by
  intro i t b d s s' f hi ha he
  rw [h hi, issueStep, if_pos (canIssue_of_accepts ha), issueCmd_of_accepts ha he]

/-- A command whose words are wrong after substitution faults its task. -/
theorem issueCmd_of_wordFault {t : Thr} {b : Body} {d : CmdDef} {s : State} {f : FaultInfo} (hcan : canIssue s t (d.eu t.core.val) = true)
    (hfetch : (fetchFault s (fetchAddr (slot s (issueCtx t b d s).key) (thr s (issueCtx t b d s).thr)
      (thrIndex s (issueCtx t b d s).thr (issueCtx t b d s).key))).2 = none)
    (hword0 : word0Bad (issueCtx t b d s).w d.opc false = none)
    (hreg : ¬(bitsOf (issueCtx t b d s).w 20 4 ≠ 0 ∧ regBusy s (issueCtx t b d s).thr (bitsOf (issueCtx t b d s).w 24 6) = true))
    (hwords : wordFault s d (issuedCtx t b d s) = some f) : issueCmd t b d s = faultTask s (issueCtx t b d s).key d.opc f := by
  have hrun : runCmd s d (issuedCtx t b d s) = faultTask s (issueCtx t b d s).key d.opc f := by
    simp only [runCmd, hwords]
    rfl
  simp only [issueCmd, hcan, hfetch, startCmd, hword0, if_neg hreg]
  exact hrun

/-! ### The obligations -/

/-- Settles O8, from the tables of stream and dense commands. -/
theorem streamAndDenseCommandsIssue : Obligations.StreamAndDenseCommandsIssue := by
  unfold Obligations.StreamAndDenseCommandsIssue
  exact ⟨issues_of_exec (fun h => exec_of_listed (by tauto)), issues_of_exec (fun h => exec_of_listed (by tauto))⟩

/-- Settles O9, from the tables of sparse and vector commands. -/
theorem sparseAndVectorCommandsIssue : Obligations.SparseAndVectorCommandsIssue := by
  unfold Obligations.SparseAndVectorCommandsIssue
  exact ⟨issues_of_exec (fun h => exec_of_listed (by tauto)), issues_of_exec (fun h => exec_of_listed (by tauto))⟩

/-- Settles O10, from the tables of sampler, row and collective commands. -/
theorem graphCommandsIssue : Obligations.GraphCommandsIssue := by
  unfold Obligations.GraphCommandsIssue
  exact ⟨issues_of_exec (fun h => exec_of_listed (by tauto)), issues_of_exec (fun h => exec_of_listed (by tauto)),
    issues_of_exec (fun h => exec_of_listed (by tauto))⟩

/-- Settles O11, from the tables of random, selection and plain thread commands. -/
theorem randomAndThreadCommandsIssue : Obligations.RandomAndThreadCommandsIssue := by
  unfold Obligations.RandomAndThreadCommandsIssue
  exact ⟨issues_of_exec (fun h => exec_of_listed (by tauto)), issues_of_exec (fun h => exec_of_listed (by tauto))⟩

/-- Settles O12: each effect ends at once in the state named, in which the task still runs. -/
theorem threadCommandEffects : Obligations.ThreadCommandEffects := by
  unfold Obligations.ThreadCommandEffects
  refine ⟨?nop, ?ends, ?fence, ?signal⟩
  case nop => exact fun t b s hrun => effectOf_nop hrun
  case ends => exact fun t b s hrun => effectOf_eq_some.mpr ⟨rfl, hrun⟩
  case fence => exact fun t b s hrun => effectOf_eq_some.mpr ⟨rfl, hrun⟩
  case signal =>
    intro t b s c hrun htarget
    refine effectOf_eq_some.mpr ⟨?_, hrun⟩
    show catchAwait (signalRun c) s = _
    simp only [catchAwait, signalRun, get, getThe, MonadStateOf.get, bind, EStateM.bind, EStateM.get, htarget]
    rfl

/-- Settles O13: every thread command of a blocked thread leaves the state. -/
theorem blockedThreadChangesNothing : Obligations.BlockedThreadChangesNothing := by
  unfold Obligations.BlockedThreadChangesNothing
  intro i t b d s hi hcan
  rw [exec_of_anyThreadCmd hi, issueStep, if_neg (by simp [hcan])]

/-- Settles O15: the checks before those of the words pass, so `runCmd` faults the task. -/
theorem badWordsFaultTask : Obligations.BadWordsFaultTask := by
  unfold Obligations.BadWordsFaultTask
  intro i t b d s f hi c hcan hfetch hword0 hreg hwords
  rw [exec_of_anyThreadCmd hi, issueStep, if_pos hcan, issueCmd_of_wordFault hcan hfetch hword0 hreg hwords]

end Sys2Proof.Machine
end

section
/-!
PROOF. How a thread's command retires (R79, R411), how a fault fences its task (R56, R72, R568), and which commands stop the block (R67, R70).
-/
namespace Sys2Proof.Machine
open Sys2Proof

/-! ### Retiring -/

/-- The state with other outstanding commands. -/
def withOps (s : State) (ops : Tab (Option Op)) (n : Nat) : State := { s with ops, nextOp := n }

@[simp] theorem thr_withOps (s : State) (ops : Tab (Option Op)) (n k : Nat) : thr (withOps s ops n) k = thr s k := rfl

/-- The state whose thread has moved on past a command, and waits for it where the command blocks; what is outstanding is given. -/
def movedOn (s : State) (c : Ctx) (ops : Tab (Option Op)) (n : Nat) (blocks : Bool) : State :=
  let s := withOps (bump s (pg clsCORE c.pav) 0x40) ops n
  updThr (if blocks then updThr s c.thr (fun t => { t with waits := some c.op }) else s) c.thr (fun t => { t with next := t.next + 1 })

/-- What `movedOn` leaves of the thread. -/
theorem thr_movedOn (s : State) (c : Ctx) (ops : Tab (Option Op)) (n : Nat) (blocks : Bool) :
    thr (movedOn s c ops n blocks) c.thr =
      { thr s c.thr with next := (thr s c.thr).next + 1, waits := if blocks then some c.op else (thr s c.thr).waits } := by
  cases blocks <;> simp [movedOn]

/-- It leaves every other thread. -/
theorem thr_movedOn_other {s : State} {c : Ctx} {ops : Tab (Option Op)} {n : Nat} {blocks : Bool} {k : Nat} (hk : k ≠ c.thr) :
    thr (movedOn s c ops n blocks) k = thr s k := by
  cases blocks <;> simp [movedOn, thr_updThr_other hk]

/-- It changes threads, counters and what is outstanding only. -/
theorem movedOn_frame (s : State) (c : Ctx) (ops : Tab (Option Op)) (n : Nat) (blocks : Bool) :
    let t := movedOn s c ops n blocks
    t.slots = s.slots ∧ t.mem = s.mem ∧ t.tags = s.tags ∧ t.sets = s.sets ∧ t.reqs = s.reqs ∧ t.dense = s.dense := by
  cases blocks <;> simp [movedOn, withOps]

/-- What retiring does: the thread moves on. A command completed at issue leaves what is outstanding; one that is outstanding has its opcode,
task, unit and word, and unless it is ASYNC its thread waits for it. -/
theorem retire_cases (s : State) (c : Ctx) (opc : Nat) (u : EUnit) (spans : List (Nat × Nat × Bool)) (f : Stand) :
    ∃ ops n blocks, retire s c opc u spans f = movedOn s c ops n blocks ∧ (f = .now → ops = s.ops ∧ n = s.nextOp) ∧
      ∀ k, f = .later k → blocks = !bitOf c.w 17 ∧ n = s.nextOp + 1 ∧ ∃ o, ops = s.ops.put none c.op (some o) ∧ o.opcode = opc ∧ o.eu = u ∧
        o.cmd = BitVec.ofNat 512 c.w ∧ o.slot = some c.key ∧ o.async = bitOf c.w 17 ∧ o.cpl = cplTarget c.w := by
  cases f with
  | now => exact ⟨_, _, false, rfl, fun _ => ⟨bump_ops .., bump_nextOp ..⟩, nofun⟩
  | later k =>
    refine ⟨_, _, _, rfl, nofun, fun _ _ => ⟨rfl, congrArg (· + 1) (bump_nextOp ..), ?_⟩⟩
    refine ⟨_, congrArg (Tab.put none · c.op _) (bump_ops ..), ?_⟩
    exact ⟨rfl, rfl, rfl, rfl, rfl, rfl⟩
  | posted k => exact ⟨_, _, false, rfl, nofun, nofun⟩
  | fenced a => exact ⟨_, _, _, rfl, nofun, nofun⟩
  | await g len eng => exact ⟨_, _, _, rfl, nofun, nofun⟩

/-- Settles O14, from what retiring does. -/
theorem retireMovesThreadOn : Obligations.RetireMovesThreadOn := by
  unfold Obligations.RetireMovesThreadOn
  intro s c opc u spans f
  obtain ⟨ops, n, blocks, heq, hnow, hlater⟩ := retire_cases s c opc u spans f
  rw [heq]
  have hops : (movedOn s c ops n blocks).ops = ops := by cases blocks <;> rfl
  have hnext : (movedOn s c ops n blocks).nextOp = n := by cases blocks <;> rfl
  refine ⟨by rw [thr_movedOn], ?later, fun hf => by rw [hops, hnext]; exact hnow hf, fun k hk => thr_movedOn_other hk,
    movedOn_frame s c ops n blocks⟩
  case later =>
    intro k hf
    obtain ⟨hblocks, hn, o, ho, hopc, heu, hcmd, hslot, hasync, hcpl⟩ := hlater k hf
    refine ⟨?_, o, ?_, hopc, heu, hcmd, hslot, hasync, hcpl, hnext.trans hn⟩
    · rw [thr_movedOn, hblocks]
      cases bitOf c.w 17 <;> rfl
    · rw [getOp, hops, ho, Tab.get_put_same]

/-! ### Faults -/

/-- Settles O16: the slot's last update sets the state and the code, and an orphan's is freed after it. -/
theorem faultFencesTask : Obligations.FaultFencesTask := by
  unfold Obligations.FaultFencesTask
  intro s key opc f
  constructor
  · intro horphan
    simp [faultTask, horphan]
  · intro horphan
    simp [faultTask, horphan, freeSlot]

/-! ### Commands that stop the block -/

/-- Every command but UNDEFINED_OPCODE has a next state. -/
theorem exec_goes_on (i : Instr) (s : State) (h : ∀ iss w, i ≠ .undefinedOpcode iss w) : ∃ t, exec i s = .next t := by
  cases i
  case undefinedOpcode iss w => exact absurd rfl (h iss w)
  all_goals exact ⟨_, rfl⟩

/-- Settles O6: the other commands' meanings end in a next state; UNDEFINED_OPCODE answers by the level at which its opcode is defined. -/
theorem onlyUndefinedOpcodesStop : Obligations.OnlyUndefinedOpcodesStop := by
  unfold Obligations.OnlyUndefinedOpcodesStop
  refine ⟨exec_goes_on, ?thread, ?queue, ?defined, ?test⟩
  case thread =>
    intro t w s hperm htest hcan
    simp [exec, execUndefinedOpcode, hperm, htest, hcan]
  case queue =>
    intro q w s index hperm htest hhead
    simp [exec, execUndefinedOpcode, hperm, htest, hhead]
  case defined =>
    intro iss w s hperm
    simp [exec, execUndefinedOpcode, hperm]
  case test =>
    intro iss w s hperm htest hop
    simp [exec, execUndefinedOpcode, hperm, htest, hop]

end Sys2Proof.Machine
end

section
/-!
PROOF. Commands of queues and their completion (R73, R79, R91, R94, R97), flag sets at their dispatcher (R33 to R38, R107), and how a task takes
its slot and starts (R76, R84).
-/
namespace Sys2Proof.Machine
open Sys2Proof

/-! ### Completion -/

/-- The set of a completion target carries the die that sends it: of a queue's command the host interface's, 16. -/
theorem sets_completeOp_queue (s : State) (x : BitVec 42) (id : Nat) :
    (completeOp s id { cpl := some x }).sets =
      s.sets ++ [{ target := BitVec.ofNat 36 (x.toNat % 2 ^ 36), bits := 1#64 <<< bitsOf x.toNat 36 6, die := 16 }] :=
  rfl

/-- Refutes O17: the completion event of a queue's command names the host interface's die, 16 (R506, R507), where the statement has die 0;
so any queue command with a completion target refutes it, here one of the Gatehouse's that completes right after reset. -/
theorem not_commandCompletes : ¬ Obligations.CommandCompletes := by
  unfold Obligations.CommandCompletes
  rintro ⟨-, -, h⟩
  have hset := (h 0 { cpl := some 0 } State.reset).2.2 0 rfl rfl
  rw [sets_completeOp_queue] at hset
  have hdie := congrArg (List.map FlagSet.die) hset
  simp [State.reset] at hdie

/-! ### Commands of queues -/

/-- A SIGNAL, CANCEL or PRIO_SET carried from another module acts here and is confirmed. -/
theorem carriedAct_of_own {s : State} {opc src max : Nat} {b : Body} {tag : BitVec 16} {epoch : BitVec 8} (hmode : s.power.mode = 0)
    (hforward : s.gate.forwardOnly = false) (hsrc : inTorus s src = true) (hown : standIn s (hMod (cf (cmdOf opc b).toNat 4 0 36)) = ownId s) :
    carriedAct s opc b src max tag epoch =
      let h := cf (cmdOf opc b).toNat 4 0 36
      let t := if opc = 0xA4 then doCancel s (hSlot h) (hGen h) else doPrio s (hSlot h) (hGen h) (cf (cmdOf opc b).toNat 6 0 3) max
      (sendMsg t (mkMsg t { dst := src, cls := 0, mtype := 0x41, die := hSlot h / 4096, stream := 2560, tag := tag.toNat, tagEpoch := epoch.toNat } [])).1 := by
  simp [carriedAct, hmode, hforward, hsrc, hown]

/-- Settles O18: an entry that passes the checks is taken, its effect made, and unless it is a NOP it is outstanding. -/
theorem queueCommandsAct : Obligations.QueueCommandsAct := by
  unfold Obligations.QueueCommandsAct
  intro q b s index run
  refine ⟨?nop, ?signal, ?cancel, ?prio, ?mgr, ?carried⟩
  case nop =>
    rintro ⟨hhead, hbits, hcpl⟩
    exact congrArg Host.Outcome.next (queueCmd_nop hhead hbits hcpl)
  case signal =>
    rintro ⟨hhead, hbits, hcpl⟩ htarget
    refine congrArg Host.Outcome.next ((queueCmd_of_checked hhead hbits hcpl ?_).trans (if_neg (by decide)))
    simp only [htarget]
  case cancel =>
    rintro ⟨hhead, hbits, hcpl⟩ t n hact
    exact congrArg Host.Outcome.next ((queueCmd_of_checked hhead hbits hcpl hact).trans (if_neg (by decide)))
  case prio =>
    rintro ⟨hhead, hbits, hcpl⟩ t n hact
    exact congrArg Host.Outcome.next ((queueCmd_of_checked hhead hbits hcpl hact).trans (if_neg (by decide)))
  case mgr =>
    rintro ⟨hhead, hbits, hcpl⟩ howner
    refine congrArg Host.Outcome.next ((queueCmd_of_checked hhead hbits hcpl ?_).trans (if_neg (by decide)))
    cases q with
    | gate => rfl
    | host n => simp [howner n rfl]
  case carried =>
    intro src max tag epoch hmode hforward hsrc confirmed
    exact ⟨fun hown => congrArg Host.Outcome.next (carriedAct_of_own hmode hforward hsrc hown),
      fun hown => congrArg Host.Outcome.next (carriedAct_of_own hmode hforward hsrc hown)⟩

/-! ### Flag sets -/

/-- Settles O20: a ready set leaves the list for its dispatcher or for a message; a SIGNAL that has arrived acts in its turn. -/
theorem flagSetsAreDelivered : Obligations.FlagSetsAreDelivered := by
  unfold Obligations.FlagSetsAreDelivered
  constructor
  · intro j f s hget hready s1 t
    refine ⟨fun hown => ⟨fun hop => ?_, fun o hop => ?_⟩, fun hother => ?_⟩
    · simp [exec, execFlagSet, hget, hready, s1, t] at hown ⊢
      simp [hown, hop]
    · simp [exec, execFlagSet, hget, hready, s1, t] at hown ⊢
      simp [hown, hop]
    · simp [exec, execFlagSet, hget, hready, s1] at hother ⊢
      simp [hother]
  · intro j m s hm hme
    refine ⟨fun hturn hforward => ?_, fun hturn hforward => ?_, fun hturn => ?_⟩
    all_goals simp [exec, execFabricSignal, *]

@[simp] theorem slot_bump (s : State) (p o n k : Nat) : slot (bump s p o n) k = slot s k := by
  simp [slot]

/-- A set for a task's generation is ORed into its flags, and makes a task ready that waited for no more. -/
theorem applySet_of_current {s : State} {key : Nat} {gen : BitVec 8} {bits : DWord} (hst : (slot s key).st ≠ .free)
    (hgen : gen = (slot s key).gen) :
    applySet s key gen bits = updSlot s key (fun t => { t with
      flags := (slot s key).flags ||| bits
      st := if t.st = .waiting ∧ ((slot s key).flags ||| bits) &&& t.mask = t.mask then .ready else t.st }) := by
  simp [applySet, hst, hgen]

/-- A set for the next generation of a free slot is latched, unless its Pavilion is under reset. -/
theorem applySet_of_next {s : State} {key : Nat} {gen : BitVec 8} {bits : DWord} (hst : (slot s key).st = .free)
    (hgen : gen = (slot s key).gen + 1) (hdom : domResetting s (dPav (key / 4096)) = false) :
    applySet s key gen bits = updSlot s key (fun t => { t with flags := t.flags ||| bits }) := by
  simp [applySet, hst, hgen, hdom]

/-- Any other set is counted. -/
theorem applySet_of_stale {s : State} {key : Nat} {gen : BitVec 8} {bits : DWord}
    (h : ((slot s key).st = .free ∧ gen ≠ (slot s key).gen + 1) ∨ ((slot s key).st ≠ .free ∧ gen ≠ (slot s key).gen)) :
    applySet s key gen bits = bump s (dspPage key) 0x80 := by
  rcases h with ⟨hst, hgen⟩ | ⟨hst, hgen⟩
  all_goals simp only [applySet, hst, hgen, if_true, if_false, false_and]

/-- Settles O21, by the cases of `applySet`. -/
theorem signalsReachFlags : Obligations.SignalsReachFlags := by
  unfold Obligations.SignalsReachFlags
  intro s key gen bits x t
  refine ⟨?current, ?latched, fun hst hgen => applySet_of_stale (.inl ⟨hst, hgen⟩), fun hst hgen => applySet_of_stale (.inr ⟨hst, hgen⟩), ?other⟩
  case current =>
    intro hst hgen
    simp [t, applySet_of_current hst hgen, x]
  case latched =>
    intro hst hgen hdom
    simp [t, applySet_of_next hst hgen hdom, x, show (slot s key).st = .free from hst]
  case other =>
    intro k hk
    unfold t applySet
    dsimp only
    split_ifs <;> simp [slot_updSlot_other hk]

/-! ### A task's first placement -/

/-- A thread that starts: its index, the task's handle and ARG in registers 0 to 2 (R76). -/
def startedThread (key : Nat) (h arg : DWord) (j : Nat) : Thread :=
  { slot := some key, regs := Tab.put 0 (Tab.put 0 (Tab.put 0 [] 0 (BitVec.ofNat 64 j)) 1 h) 2 arg }

theorem startedThread_reg_high {key j r : Nat} {h arg : DWord} (hr : 3 ≤ r) : (startedThread key h arg j).regs.get 0 r = 0 := by
  simp only [startedThread]
  rw [Tab.get_put_other (by omega), Tab.get_put_other (by omega), Tab.get_put_other (by omega)]
  rfl

theorem startedThread_reg_low {key j : Nat} {h arg : DWord} :
    (startedThread key h arg j).regs.get 0 0 = BitVec.ofNat 64 j ∧ (startedThread key h arg j).regs.get 0 1 = h ∧
      (startedThread key h arg j).regs.get 0 2 = arg := by
  simp [startedThread, Tab.get_put]

/-- Bind hardware threads to a task one after another, the first with index `n`. -/
def bindFrom (s : State) (key core : Nat) (h arg : DWord) (hws : List Nat) (n : Nat) : State :=
  (hws.zipIdx n).foldl (fun s e => updThr s (16 * core + e.1) (fun _ => startedThread key h arg e.2)) s

theorem bindThreads_eq_bindFrom (s : State) (key core : Nat) (h arg : DWord) (hws : List Nat) :
    bindThreads s key core h arg hws = bindFrom s key core h arg hws 0 := rfl

theorem bindFrom_cons (s : State) (key core : Nat) (h arg : DWord) (hw : Nat) (hws : List Nat) (n : Nat) :
    bindFrom s key core h arg (hw :: hws) n =
      bindFrom (updThr s (16 * core + hw) (fun _ => startedThread key h arg n)) key core h arg hws (n + 1) := rfl

/-- Threads that are not named stay as they were. -/
theorem thr_bindFrom_other {key core k : Nat} {h arg : DWord} {hws : List Nat} : ∀ {s : State} {n : Nat},
    (∀ hw ∈ hws, k ≠ 16 * core + hw) → thr (bindFrom s key core h arg hws n) k = thr s k := by
  induction hws with
  | nil => exact fun _ => rfl
  | cons hw hws ih =>
    intro s n hk
    rw [bindFrom_cons, ih (fun x hx => hk x (List.mem_cons_of_mem _ hx)), thr_updThr_other (hk hw List.mem_cons_self)]

/-- The j-th of distinct hardware threads starts with index j. -/
theorem thr_bindFrom {key core : Nat} {h arg : DWord} {hws : List Nat} (hnd : hws.Nodup) : ∀ {s : State} {n j hw : Nat},
    hws[j]? = some hw → thr (bindFrom s key core h arg hws n) (16 * core + hw) = startedThread key h arg (n + j) := by
  induction hws with
  | nil => simp
  | cons x hws ih =>
    obtain ⟨hx, hnd⟩ := List.nodup_cons.mp hnd
    intro s n j hw hj
    rw [bindFrom_cons]
    cases j with
    | zero =>
      obtain rfl : x = hw := by simpa using hj
      have hother : ∀ y ∈ hws, 16 * core + x ≠ 16 * core + y := fun y hy he => hx ((Nat.add_left_cancel he) ▸ hy)
      rw [thr_bindFrom_other hother, thr_updThr, Nat.add_zero]
    | succ j =>
      rw [ih hnd (by simpa using hj), Nat.add_right_comm, Nat.add_assoc]

/-- Binding leaves the engines, memory and what is outstanding. -/
theorem bindFrom_frame {key core : Nat} {h arg : DWord} {hws : List Nat} : ∀ {s : State} {n : Nat},
    (bindFrom s key core h arg hws n).dense = s.dense ∧ (bindFrom s key core h arg hws n).mem = s.mem ∧
      (bindFrom s key core h arg hws n).ops = s.ops := by
  induction hws with
  | nil => exact ⟨rfl, rfl, rfl⟩
  | cons hw hws ih =>
    intro s n
    rw [bindFrom_cons]
    exact ih

/-- A started task's threads are those that were bound. -/
theorem thr_startThreads (s : State) (key core : Nat) (hws : List Nat) (k : Nat) :
    thr (startThreads s key core hws) k =
      thr (bindFrom s key core (BitVec.ofNat 64 (handle s key (slot s key).gen.toNat)) (slot s key).arg hws 0) k := by
  simp only [startThreads, bindThreads_eq_bindFrom]
  split <;> rfl

/-- Settles O22: the threads are bound in order, and the engine, where the task declares it, is reset. -/
theorem placedTaskStarts : Obligations.PlacedTaskStarts := by
  unfold Obligations.PlacedTaskStarts
  intro s key core hws hnd t
  obtain ⟨hdense, hmem, hops⟩ := bindFrom_frame (s := s) (key := key) (core := core)
    (h := BitVec.ofNat 64 (handle s key (slot s key).gen.toNat)) (arg := (slot s key).arg) (hws := hws) (n := 0)
  refine ⟨by simp [t, startThreads], by simp [t, startThreads], ?threads, ?dense, ?mem, ?ops⟩
  case threads =>
    intro j hw hj
    have hthr : thr t (16 * core + hw) = startedThread key (BitVec.ofNat 64 (handle s key (slot s key).gen.toNat)) (slot s key).arg j := by
      rw [thr_startThreads, thr_bindFrom hnd hj, Nat.zero_add]
    simp only [thrReg, hthr]
    obtain ⟨hindex, hhandle, harg⟩ := startedThread_reg_low (key := key) (j := j)
      (h := BitVec.ofNat 64 (handle s key (slot s key).gen.toNat)) (arg := (slot s key).arg)
    exact ⟨rfl, rfl, rfl, rfl, hindex, hhandle, harg, fun r hr => startedThread_reg_high hr⟩
  all_goals
    simp only [t, startThreads, bindThreads_eq_bindFrom]
    split <;> simp [hdense, hmem, hops]

/-! ### A task's acceptance -/

/-- A later state that differs from an earlier one in counters only. -/
def OnlyCounts (s t : State) : Prop := ∃ r, t = { s with regs := { s.regs with count := r } }

theorem OnlyCounts.refl (s : State) : OnlyCounts s s := ⟨s.regs.count, rfl⟩

theorem OnlyCounts.bump {s t : State} (h : OnlyCounts s t) (p o n : Nat) : OnlyCounts s (bump t p o n) := by
  obtain ⟨r, rfl⟩ := h
  exact bump_eq _ p o n

theorem OnlyCounts.ite {s x y : State} {c : Prop} [Decidable c] (hx : OnlyCounts s x) (hy : OnlyCounts s y) :
    OnlyCounts s (if c then x else y) := by
  split <;> assumption

theorem OnlyCounts.foldl {α : Type} {s : State} {f : State → α → State} (hf : ∀ t a, OnlyCounts s t → OnlyCounts s (f t a)) (l : List α)
    {t : State} (h : OnlyCounts s t) : OnlyCounts s (l.foldl f t) :=
  List.foldlRecOn l f h (fun t ht a _ => hf t a ht)

/-- Counting the rises of inherited priority changes counters only. -/
theorem onlyCounts_countRises (s0 s1 : State) : OnlyCounts s1 (countRises s0 s1) := by
  refine OnlyCounts.foldl (fun t e ht => ?_) s1.aflows (OnlyCounts.refl s1)
  split
  · exact .ite (ht.bump ..) ht
  · exact ht

/-- It leaves slots, acceptance numbers, memory and threads. -/
theorem countRises_tables (s0 s1 : State) :
    (countRises s0 s1).slots = s1.slots ∧ (countRises s0 s1).accepts = s1.accepts ∧ (countRises s0 s1).mem = s1.mem ∧
      (countRises s0 s1).thrs = s1.thrs := by
  obtain ⟨r, h⟩ := onlyCounts_countRises s0 s1
  simp [h]

/-- Taking an entry off a queue, and ending its wait, leaves them too. -/
theorem unstall_qPop_tables (s : State) (q : QRef) :
    (unstall (qPop s q) q).slots = s.slots ∧ (unstall (qPop s q) q).mem = s.mem ∧ (unstall (qPop s q) q).thrs = s.thrs := by
  cases q <;> exact ⟨rfl, rfl, rfl⟩

/-- What an accepted task changes of the slots and the acceptance numbers, and that it leaves memory and threads. -/
theorem enterTask_tables (s : State) (q : QRef) (index w v : Nat) (old : Slot) (clamped : Bool) (f : OFlow) :
    let p := cf w 4 12 4
    let t := enterTask s q index w v old clamped f
    t.slots = s.slots.put {} (slotKey p (cf w 4 0 12))
        (slotOf s q w v index (min (bitsOf w 12 3) (qPrioMax s q)) clamped old (s.accepts.get 0 p) f.next) ∧
      t.accepts = s.accepts.put 0 p (s.accepts.get 0 p + 1) ∧ t.mem = s.mem ∧ t.thrs = s.thrs := by
  obtain ⟨hslots, hmem, hthrs⟩ := unstall_qPop_tables s q
  dsimp only [enterTask]
  split_ifs
  all_goals simp [countRises_tables, updSlot, Tab.upd, hslots, hmem, hthrs]

/-- Settles O19: the checks of R84 pass, so the task enters its slot. -/
theorem taskTakesItsSlot : Obligations.TaskTakesItsSlot := by
  unfold Obligations.TaskTakesItsSlot
  intro q b s s1 index v o w p key hhead hwords hslot hprog hdesc hfree hcool heu hserv hfence hgen hflow hread htargets t
  have hbad : taskBad s q w = none := by
    simp [taskBad, hwords, hslot, hprog, hdesc, key, p]
  have haccept : acceptTask s q index w = t := by
    simp [acceptTask, hfree, hcool, heu, hserv, hfence, hgen, hflow, acceptFlow, hread, acceptDesc, htargets, key, p, t]
  obtain ⟨hslots, haccepts, hmem, hthrs⟩ := enterTask_tables s1 q index w v (slot s key) (decide (bitsOf w 12 3 > qPrioMax s q)) o
  refine ⟨?exec, ?slot, ?accepts, hmem, hthrs, ?others⟩
  case exec => simp [exec, execTask, hhead, hbad, haccept, w]
  case slot => rw [slot, hslots, Tab.get_put_same]
  case accepts => rw [haccepts, Tab.get_put_same]
  case others => exact fun k hk => by rw [slot, hslots, Tab.get_put_other hk, slot]

end Sys2Proof.Machine
end

section
/-!
PROOF. Bytes of memory: what is written reads back, what is written elsewhere stays (R427), and a WRITE that arrives for memory in service
stores exactly its bytes.
-/
namespace Sys2Proof.Machine
open Sys2Proof

/-! ### One byte, and a list of bytes -/

/-- What a byte reads as after a write. -/
theorem rdB_wrB (s : State) (a b : Nat) (v : Byte) : rdB (wrB s a v) b = if b = a then v else rdB s b := by
  have hbg : bgB (wrB s a v) b = bgB s b := rfl
  unfold rdB
  rw [hbg]
  simp only [wrB, Tab.get_put]
  split
  · rename_i h; rw [h, BitVec.xor_assoc, BitVec.xor_self, BitVec.xor_zero]
  · rfl

/-- A write below a byte or above it leaves it as it was. -/
theorem rdB_wrBytes_outside (l : List Byte) (s : State) (a b : Nat) (h : b < a ∨ b ≥ a + l.length) :
    rdB (wrBytes s a l) b = rdB s b := by
  induction l generalizing s a with
  | nil => rfl
  | cons v r ih =>
    rw [List.length_cons] at h
    have hb : b ≠ a := by omega
    rw [wrBytes, ih _ _ (by omega), rdB_wrB, if_neg hb]

/-- Bytes written are read back. -/
theorem rdBytes_wrBytes (l : List Byte) (s : State) (a : Nat) : rdBytes (wrBytes s a l) a l.length = l := by
  induction l generalizing s a with
  | nil => rfl
  | cons v r ih =>
    rw [List.length_cons, rdBytes, wrBytes, ih, rdB_wrBytes_outside _ _ _ _ (by omega), rdB_wrB, if_pos rfl]

/-- A write changes nothing but memory. -/
theorem wrBytes_eq (l : List Byte) (s : State) (a : Nat) : ∃ m, wrBytes s a l = { s with mem := m } := by
  induction l generalizing s a with
  | nil => exact ⟨s.mem, rfl⟩
  | cons v r ih => obtain ⟨m, hm⟩ := ih (wrB s a v) (a + 1); exact ⟨m, hm⟩

/-! ### What leaves every byte as it was -/

/-- The states read the same byte at every address. -/
structure SameBytes (s t : State) : Prop where
  mem : t.mem = s.mem
  lost : t.lost = s.lost

theorem SameBytes.rfl {s : State} : SameBytes s s := ⟨Eq.refl _, Eq.refl _⟩

theorem SameBytes.trans {r s t : State} (h : SameBytes r s) (h' : SameBytes s t) : SameBytes r t :=
  ⟨h'.mem.trans h.mem, h'.lost.trans h.lost⟩

theorem SameBytes.ite {s x y : State} {c : Prop} [Decidable c] (hx : SameBytes s x) (hy : SameBytes s y) :
    SameBytes s (if c then x else y) := by
  split <;> assumption

theorem SameBytes.foldl {α : Type} {f : State → α → State} (hf : ∀ t a, SameBytes t (f t a)) (l : List α) (s : State) :
    SameBytes s (l.foldl f s) :=
  List.foldlRecOn l f SameBytes.rfl (fun t ht a _ => ht.trans (hf t a))

theorem SameBytes.rdB {s t : State} (h : SameBytes s t) (b : Nat) : rdB t b = rdB s b := by
  simp only [Machine.rdB, bgB, h.mem, h.lost]

theorem SameBytes.rdBytes {s t : State} (h : SameBytes s t) (n a : Nat) : rdBytes t a n = rdBytes s a n := by
  induction n generalizing a with
  | zero => exact Eq.refl _
  | succ n ih => rw [Machine.rdBytes, Machine.rdBytes, h.rdB, ih]

theorem sameBytes_bump (s : State) (p o n : Nat) : SameBytes s (bump s p o n) := ⟨by simp, by simp⟩

theorem sameBytes_addCnt (s : State) (p o i n : Nat) : SameBytes s (addCnt s p o i n) := ⟨by simp, by simp⟩

theorem sameBytes_updSet (s : State) (k : Nat) (f : List Line → List Line) : SameBytes s (updSet s k f) := ⟨Eq.refl _, Eq.refl _⟩

theorem sameBytes_carryAccess (s : State) (x y : Nat) (write : Bool) (cls n : Nat) : SameBytes s (carryAccess s x y write cls n) := by
  have hc (x y : Nat) : SameBytes s (carry s x y cls n) :=
    .foldl (fun t e => (sameBytes_addCnt t ..).trans (sameBytes_addCnt _ ..)) _ s
  exact .ite .rfl (.trans (.ite (hc x y) (hc y x)) (sameBytes_addCnt _ ..))

theorem sameBytes_evict (s : State) (o k : Nat) : SameBytes s (evict s o k) := by
  unfold evict
  dsimp only
  split
  · exact .rfl
  · split
    · exact .rfl
    · exact (sameBytes_updSet s ..).trans (sameBytes_bump ..)

theorem sameBytes_putLine (s : State) (o k : Nat) (x : Line) : SameBytes s (putLine s o k x) :=
  have he := SameBytes.ite (c := (s.rcache.get [] k).any (fun y => y.tag == x.tag)) .rfl (sameBytes_evict s o k)
  .ite he (he.trans (sameBytes_updSet ..))

theorem sameBytes_cacheWrite (s : State) (a : Nat) : SameBytes s (cacheWrite s a) := by
  unfold cacheWrite
  dsimp only
  split
  · exact sameBytes_updSet ..
  · exact .rfl

theorem sameBytes_cacheRead (s : State) (a cls : Nat) : SameBytes s (cacheRead s a cls) := by
  unfold cacheRead
  dsimp only
  split
  · exact sameBytes_bump ..
  · split
    · exact (sameBytes_updSet s ..).trans (sameBytes_bump ..)
    · exact (sameBytes_bump s ..).trans (.ite (sameBytes_putLine ..) .rfl)

theorem sameBytes_countTier (s : State) (a len : Nat) (write : Bool) (cls : Nat) : SameBytes s (countTier s a len write cls) := by
  unfold countTier
  dsimp only
  split
  · exact (sameBytes_bump s ..).trans (.ite (sameBytes_bump ..) .rfl)
  · split
    · exact (sameBytes_bump s ..).trans (.foldl (fun t u => .ite (sameBytes_cacheWrite t u) (sameBytes_cacheRead t u cls)) _ _)
    · exact .rfl

/-- Counting an access leaves every byte as it was. -/
theorem sameBytes_countMem (s : State) (die a len : Nat) (write : Bool) (cls : Nat) : SameBytes s (countMem s die a len write cls) :=
  (sameBytes_carryAccess s ..).trans (sameBytes_countTier ..)

theorem sameBytes_remoteTo (s : State) (core a len : Nat) : SameBytes s (remoteTo s core a len) :=
  .ite .rfl (.ite (sameBytes_bump ..) .rfl)

theorem sameBytes_clearPoison (s : State) (a len : Nat) : SameBytes s (clearPoison s a len) :=
  .ite (.foldl (f := fun s u => setPoison s u false) (fun _ _ => ⟨Eq.refl _, Eq.refl _⟩) _ s) ⟨Eq.refl _, Eq.refl _⟩

/-! ### A write of memory in service -/

/-- What serves a write that meets no error: it is counted, stores its bytes, and clears the poison of the atoms it covers. -/
theorem serveWrite_of_inService {s : State} {die a : Nat} {l : List Byte} {cls core : Nat} (hh : isHost a = false)
    (hp : popRange s a l.length = true) (hu : unserved s a l.length = none) (hm : (meets s a l.length true).2 = false) :
    serveWrite s die a l cls core =
      (clearPoison (wrBytes (remoteTo (countMem (meets s a l.length true).1 die a l.length true cls) core a l.length) a l) a l.length, .ok) := by
  simp [serveWrite, hh, hp, hu, hm]

/-- Settles O35, by induction on the bytes written. -/
theorem writtenBytesReadBack : Obligations.WrittenBytesReadBack := by
  unfold Obligations.WrittenBytesReadBack
  intro s a l
  refine ⟨rdBytes_wrBytes l s a, fun b hb => rdB_wrBytes_outside l s a b hb, ?_⟩
  obtain ⟨m, hm⟩ := wrBytes_eq l s a
  rw [hm]

/-- Settles O36: all that the home does beside writing the bytes leaves every byte as it was. -/
theorem arrivedWriteStores : Obligations.ArrivedWriteStores := by
  unfold Obligations.ArrivedWriteStores
  intro s die a l hh hp hu hm
  rw [serveWrite_of_inService hh hp hu hm]
  refine ⟨rfl, ?_, fun b hb => ?_⟩
  · rw [(sameBytes_clearPoison _ a l.length).rdBytes, rdBytes_wrBytes]
  · rw [(sameBytes_clearPoison _ a l.length).rdB, rdB_wrBytes_outside l _ a b hb, (sameBytes_remoteTo ..).rdB,
      (sameBytes_countMem ..).rdB]

end Sys2Proof.Machine
end

section
/-!
PROOF. Module ids and coordinates (R532): ids count the modules in mixed radix, the axes' lengths being the radices.
-/
namespace Sys2Proof.Machine
open Sys2Proof

theorem axisLen_pos (s : State) (a : Nat) : 0 < axisLen s a := Nat.succ_pos _

/-- The coordinates of the id that coordinates give. -/
theorem idCoord_coordId {s : State} {d m p g : Nat} (hd : d < axisLen s 0) (hm : m < axisLen s 1) (hp : p < axisLen s 2) :
    let id := coordId s d m p g
    idCoord s id 0 = d ∧ idCoord s id 1 = m ∧ idCoord s id 2 = p ∧ idCoord s id 3 = g := by
  have digit {x r n : Nat} (hx : x < r) : (x + r * n) % r = x ∧ (x + r * n) / r = n :=
    ⟨by rw [Nat.add_mul_mod_self_left, Nat.mod_eq_of_lt hx],
      by rw [Nat.add_mul_div_left _ _ (by omega), Nat.div_eq_of_lt hx, Nat.zero_add]⟩
  simp only [idCoord, coordId, ← Nat.div_div_eq_div_mul, digit hd, digit hm, digit hp, and_self]

/-- The id of the coordinates of an id. -/
theorem coordId_idCoord (s : State) (id : Nat) : coordId s (idCoord s id 0) (idCoord s id 1) (idCoord s id 2) (idCoord s id 3) = id := by
  simp only [coordId, idCoord, ← Nat.div_div_eq_div_mul, Nat.mod_add_div]

/-- Settles O58. -/
theorem idsAndCoordinates : Obligations.IdsAndCoordinates := by
  unfold Obligations.IdsAndCoordinates
  intro s
  refine ⟨fun _ _ _ _ => rfl, fun _ => ⟨rfl, rfl, rfl, rfl⟩, fun _ _ _ _ => idCoord_coordId, coordId_idCoord s, fun _ _ => ⟨rfl, rfl⟩, ?_⟩
  intro h0 h1 h2 h3
  simp [coordId, idCoord, h0, h1, h2]

end Sys2Proof.Machine
end

section
/-!
PROOF. Flits at a link.
-/
namespace Sys2Proof.Machine
open Sys2Proof

@[simp] theorem link_emit (s : State) (o : Out) (l : Nat) : link (emit s o) l = link s l := rfl

@[simp] theorem link_bump (s : State) (p o n l : Nat) : link (bump s p o n) l = link s l := by
  simp [link]

/-- A flit that is not accepted marks the gap and asks for the missing flit, once (R510). -/
theorem rxGap_effect (s : State) (l : Nat) :
    (rxGap s l).inbox = s.inbox ∧ (rxGap s l).txq = s.txq ∧ (rxGap s l).mem = s.mem ∧
      (link (rxGap s l) l).rxNext = (link s l).rxNext ∧ (link (rxGap s l) l).gap = true ∧
      (rxGap s l).out = (if (link s l).gap then s.out else .flit l (mkFlit 0 (link s l).rxNext 2 []) :: s.out) := by
  unfold rxGap
  split
  · rename_i hg; exact ⟨rfl, rfl, rfl, rfl, hg, rfl⟩
  · simp [sendNak]

/-- Settles O31. -/
theorem outOfOrderFlitDelivers : Obligations.OutOfOrderFlitDelivers := by
  unfold Obligations.OutOfOrderFlitDelivers
  intro l f segs s hst hgood hkind hseq
  have hexec : exec (.dataFlit l f) s = execDataFlit l f s := rfl
  have hstep : exec (.dataFlit l f) s = .next (rxGap s l) := by simp [hexec, execDataFlit, hst, hgood, hkind, hseq]
  exact ⟨_, hstep, rxGap_effect s l⟩

/-! ### DATA, IDLE and NAK flits -/

/-- A flit that breaks R504 or R505 is counted; where its CRC is right, it is held against the partner. -/
theorem badFlit_eq (s : State) (l : Nat) (f : Flit) : let s1 := bump s (pg clsLNK l) 0x5C
    badFlit s l f = if crc32 (bytesOf f.toNat 252) = bitsOf f.toNat 2016 32 then occur s1 (resource 20 14 (link s l).partner) else s1 := by
  simp only [badFlit, partnerFault, link_bump]

/-- Settles O30. -/
theorem flitsAreTaken : Obligations.FlitsAreTaken := by
  unfold Obligations.FlitsAreTaken
  intro l f s k
  have hdata : exec (.dataFlit l f) s = execDataFlit l f s := rfl
  have hidle : exec (.idleFlit l f) s = execIdleFlit l f s := rfl
  have hnak : exec (.nak l f) s = execNak l f s := rfl
  rw [hdata, hidle, hnak, execDataFlit, execIdleFlit, execNak]
  refine ⟨fun hst => ?out, fun hst hbad => ?bad, fun segs hst hgood => ⟨fun hkind hseq => ?taken, fun hkind hseq => ?gap, fun hkind => ?idles,
    fun hkind hold => ⟨fun htries => ?resets, fun htries => ?resends⟩⟩⟩
  case out => simp [k, hst]
  case bad => simp [k, hst, hbad, badFlit_eq]
  case taken => simp [k, hst, hgood, hkind, hseq]
  case gap => simp [k, hst, hgood, hkind, hseq]
  case idles => simp [k, hst, hgood, hkind]
  case resets => simp [k, hst, hgood, hkind, hold, htries]
  case resends => simp [k, hst, hgood, hkind, hold, Nat.not_le.2 htries]

/-! ### Links send, forward, train and reset -/

/-- Settles O32. -/
theorem linksAct : Obligations.LinksAct := by
  unfold Obligations.LinksAct
  refine ⟨fun l s hst => ⟨fun hgap => ?repeats, fun hdata => ?acks, ?resets, ?slots⟩, fun j l vc m s hj hdst hfirst => ⟨fun t ht => ?passes,
      fun hn => ?refuses⟩,
    fun l t s hst haxis hlost hmode hlanes hfailed => ?trains⟩
  case repeats => exact congrArg Host.Outcome.next (if_pos ⟨hst, hgap⟩)
  case acks => exact congrArg Host.Outcome.next (if_pos ⟨hst, by rw [hdata]; rfl⟩)
  case resets =>
    have hexec : exec (.linkReset l) s = .next (linkReset s l) := rfl
    simp [hexec, linkReset, hst]
  case slots => exact congrArg Host.Outcome.next (if_neg (not_not.2 hst))
  case passes =>
    have hexec : exec (.forward j) s = execForward j s := rfl
    simp [hexec, execForward, hj, hdst, hfirst, ht]
  case refuses =>
    have hexec : exec (.forward j) s = execForward j s := rfl
    simp [hexec, execForward, hj, hdst, hfirst, hn]
  case trains =>
    have hexec : exec (.linkTrained l t) s = execLinkTrained l t s := rfl
    simp [hexec, execLinkTrained, hst, haxis, hlost, hmode, hlanes, hfailed]

end Sys2Proof.Machine
end

section
/-!
PROOF. The step managers: a manager message that comes in its turn acts in the state that its taking leaves, and one seen before is
only counted (R536, R541).
-/
namespace Sys2Proof.Machine
open Sys2Proof

/-! ### Taking a manager message -/

/-- A message that comes acts in the state in which it is taken, counted and remembered. -/
theorem onMgr_of_comes {s : State} {r : MgrRef} {m : MMsg} {type : Nat} {ok : MMsg → Bool} (h : mgrComes s r m type = true)
    (hok : ok m = true) (act : State → MMsg → State) : onMgr s r ok act = act (mgrTaken s r m) m := by
  simp only [mgrComes, Bool.and_eq_true, beq_iff_eq, Bool.not_eq_true'] at h
  obtain ⟨⟨⟨⟨hat, -⟩, hturn⟩, hfwd⟩, hnew⟩ := h
  simp [onMgr, hat, hok, hturn, hfwd, mgrTaken]
  intro hs
  simp [hs] at hnew

theorem mgrComes_type {s : State} {r : MgrRef} {m : MMsg} {type : Nat} (h : mgrComes s r m type = true) : (m.type == type) = true := by
  simp only [mgrComes, Bool.and_eq_true] at h
  exact h.1.1.1.2

/-- A message of a type acts where its instruction takes that type. -/
theorem onMgr_of_type {s : State} {r : MgrRef} {m : MMsg} {type : Nat} (h : mgrComes s r m type = true) (act : State → MMsg → State) :
    onMgr s r (fun m => m.type == type) act = act (mgrTaken s r m) m :=
  onMgr_of_comes h (mgrComes_type h) act

/-- A message seen before is taken and counted. -/
theorem onMgr_of_seen {s : State} {r : MgrRef} {m : MMsg} (hat : mgrAt s r = some m) (hturn : mgrTurn s r m = true)
    (hfwd : s.gate.forwardOnly = false) (hseen : (takeMgr s r).gate.seen.contains (m.src, m.num) = true) {type : Nat} (ht : m.type = type)
    (act : State → MMsg → State) : onMgr s r (fun m => m.type == type) act = bump (takeMgr s r) (pg clsGH 0) 0x40 := by
  rw [List.contains_iff_mem] at hseen
  simp [onMgr, hat, hturn, hfwd, ht, hseen]

/-- An instruction that takes messages of a type acts on one that comes. -/
theorem exec_of_comes {i : Instr} {s : State} {r : MgrRef} {m : MMsg} {type : Nat} {act : State → MMsg → State} {t : State}
    (h : mgrComes s r m type = true) (hexec : exec i s = .next (onMgr s r (fun m => m.type == type) act))
    (hact : act (mgrTaken s r m) m = t) : exec i s = .next t := by
  rw [hexec, onMgr_of_type h, hact]

/-- An instruction that takes messages of a further form too acts on one that comes and has it. -/
theorem exec_of_comes_form {i : Instr} {s : State} {r : MgrRef} {m : MMsg} {type : Nat} {ok : MMsg → Bool} {act : State → MMsg → State}
    {t : State} (h : mgrComes s r m type = true) (hexec : exec i s = .next (onMgr s r ok act)) (hok : m.type == type → ok m = true)
    (hact : act (mgrTaken s r m) m = t) : exec i s = .next t := by
  rw [hexec, onMgr_of_comes h (hok (mgrComes_type h)), hact]

/-! ### Requests of a host -/

/-- A request that is not refused is cast, and what can be settled is. -/
theorem hostCast_zero (s : State) (m : MMsg) (type : Nat) (step : BitVec 32) (words : List Nat) (dsts : List Nat) :
    hostCast s m 0 { left := [], type, step, words } dsts = hostAsks s m type words dsts step := rfl

/-- A change of a step's entry leaves the job's members. -/
theorem members_updSm (s : State) (n : BitVec 32) (f : SmStep → SmStep) : members (updSm s n f) = members s := by
  simp only [members, updSm, updGate, torusSize, axisLen, topo, actN, getAct]

/-- Settles O26. -/
theorem hostRequestsAct : Obligations.HostRequestsAct := by
  unfold Obligations.HostRequestsAct
  intro r m s s1 hreq
  refine ⟨fun h hbad hres => exec_of_comes h rfl ?profile, fun h hsteps hopen htest => ⟨_, rfl, exec_of_comes h rfl ?start⟩,
    fun h hreq' hfields hfields' hopen htest hstep hhalt hmir => ?opens, fun x h hx hphase hdec => ⟨_, rfl, exec_of_comes h rfl ?seals⟩,
    fun x h hx hdec hack htaint => exec_of_comes h rfl ?commit, fun x h hx hdec => exec_of_comes h rfl ?abort,
    fun x h hx hdec hconf => exec_of_comes h rfl ?withdraw, fun h => exec_of_comes h rfl ?checkpoint,
    fun h hreason hlost => exec_of_comes h rfl ?resume, fun h => exec_of_comes h rfl ?rebuild⟩
  case profile => simp [s1, hreq, hbad, hres, hostCast_zero]
  case start => simp [s1, hreq, hsteps, hopen, htest, hostCast_zero]
  case opens =>
    refine exec_of_comes_form h rfl (fun ht => by rw [ht, hreq']; rfl) ?_
    have hw : ¬(bitOf (m.w 8) 31 = true ∧ bitsOf (m.w 8) 0 31 ≠ 0) := fun hw => hw.2 (hfields' hw.1)
    simp [s1, hfields, hw, hopen, htest, acceptOpen, hstep, hhalt, hmir]
  case seals => simp [s1, hreq, hx, hphase, hdec, hostCast_zero, members_updSm]
  case commit => simp [s1, hreq, hx, hdec, hack, htaint]
  case abort => simp [s1, hreq, hx, hdec]
  case withdraw => simp [s1, hreq, hx, hdec, hconf]
  case checkpoint => simp [s1, hreq, hostCast_zero]
  case resume =>
    have hfound : ¬(s1.gate.reason ≥ 4 ∨ s1.gate.lost.any (fun l => l.2.isNone) = true) := by
      rintro (hr | hl)
      · omega
      · obtain ⟨l, hl, hn⟩ := List.any_eq_true.1 hl
        have hsome := hlost l hl
        simp [Option.isNone_iff_eq_none.1 hn] at hsome
    rw [if_pos hreq, if_neg hfound]
    exact hostCast_zero ..
  case rebuild => simp [s1, hreq, hostCast_zero]

/-- Requests of a host that are refused. -/
theorem hostRequestsRefused_holds : hostRequestsRefused := by
  unfold hostRequestsRefused
  intro r m s s1 hreq
  refine ⟨fun h hbad => exec_of_comes h rfl ?profile, fun h hsteps => exec_of_comes h rfl ?start, fun h hx => exec_of_comes h rfl ?seals,
    fun x h hx hdec => exec_of_comes h rfl ?decided, fun x h hx hdec hack => exec_of_comes h rfl ?incomplete,
    fun x h hx hdec hack htaint => exec_of_comes h rfl ?tainted, fun x h hx hdec hconf => exec_of_comes h rfl ?aborts,
    fun h hreason => exec_of_comes h rfl ?halted⟩
  case profile =>
    have hbad' : (profileBad (m.w 8) || bitsOf (m.w 8) 27 5 != 0) = true := by simpa using hbad
    rw [if_pos hreq, if_pos hbad']
    rfl
  case start =>
    have hbusy : s1.gate.steps ≠ [] ∨ opening s1 = true ∨ s1.testMode = true := by
      rcases hsteps with hs | ht
      · exact .inl hs
      · exact .inr (.inr ht)
    dsimp only
    rw [if_pos hreq, if_pos hbusy]
  case seals => simp [s1, hreq, hx]
  case decided => simp [s1, hreq, hx, hdec]
  case incomplete => simp [s1, hreq, hx, hdec, hack]
  case tainted => simp [s1, hreq, hx, hdec, hack, htaint]
  case aborts =>
    have hheld : ¬(x.decision = 1 ∧ (!x.confirmed) = true) := fun hd => by simp [hconf hd.1] at hd
    rw [if_pos hreq, hx]
    dsimp only
    rw [if_neg hdec, if_neg hheld]
  case halted =>
    have hhalt : s1.gate.reason ≥ 4 ∨ s1.gate.lost.any (fun l => l.2.isNone) = true := .inl hreason
    rw [if_pos hreq, if_pos hhalt]
    rfl

/-- A message seen before is discarded, whatever its type. -/
theorem duplicateMessagesDiscarded_holds : duplicateMessagesDiscarded := by
  unfold duplicateMessagesDiscarded
  intro r m s hat hturn hfwd hseen t
  have hdup {type : Nat} (ht : m.type = type) (act : State → MMsg → State) :
      (Host.Outcome.next (onMgr s r (fun m => m.type == type) act) : Host.Outcome State Fault Refusal) = .next t :=
    congrArg Host.Outcome.next (onMgr_of_seen hat hturn hfwd hseen ht act)
  exact ⟨fun h => hdup h _, fun h => hdup h _, fun h => hdup h _, fun h => hdup h _, fun h => hdup h _, fun h => hdup h _,
    fun h => hdup h _, fun h => hdup h _, fun h => hdup h _, fun h => hdup h _, fun h => hdup h _, fun h => hdup h _,
    fun h => hdup h _, fun h => hdup h _, fun h => hdup h _, fun h => hdup h _, fun h => hdup h _⟩

/-- Settles O29. -/
theorem managerMessagesTurnedAway : Obligations.ManagerMessagesTurnedAway := by
  unfold Obligations.ManagerMessagesTurnedAway
  exact ⟨hostRequestsRefused_holds, duplicateMessagesDiscarded_holds⟩

/-! ### Messages of the system manager at a member -/

/-- What raising an event of a page leaves as it was. -/
theorem raisePage_eq (s : State) (n : Nat) (f : Page → Page) :
    ∃ c p o x, raisePage s n f = { s with regs := { s.regs with count := c }, pages := p, out := o, msix := x } := by
  unfold raisePage
  dsimp only
  split
  · unfold interrupt
    dsimp only
    split
    · exact ⟨_, _, _, _, rfl⟩
    · obtain ⟨c, hc⟩ := bump_eq (updPage s n f) (pg clsHIF 0) 0x68 1
      rw [hc]
      exact ⟨_, _, _, _, rfl⟩
  · exact ⟨_, _, _, _, rfl⟩

/-- PROFILE at a member: the word becomes the pending profile (R25, R653). -/
theorem exec_profile_member {r : MgrRef} {m : MMsg} {s : State} (h : mgrComes s r m 1 = true)
    (hreq : isRequest (mgrTaken s r m) m = false) :
    ∃ t, exec (.profile r) s = .next (mgrReply t m) ∧ t.gate.profile = some (m.w 8 % 2 ^ 32) ∧ shN t (pg clsGH 0) 0x10C = m.w 8 % 2 ^ 32 ∧
      t.steps = (mgrTaken s r m).steps ∧ t.mem = (mgrTaken s r m).mem ∧ t.slots = (mgrTaken s r m).slots := by
  generalize hs1 : mgrTaken s r m = s1 at hreq ⊢
  let s2 := updPage (commitGh (setSh s1 (pg clsGH 0) 0x10C 0 (BitVec.ofNat 32 (m.w 8)))) (pg clsGH 0) (fun p => { p with result := 1 })
  refine ⟨raiseEvt s2 (pg clsGH 0) 31, exec_of_comes h rfl (by rw [hs1, hreq]; rfl), ?_⟩
  obtain ⟨c, p, o, x, hraise⟩ := raisePage_eq s2 (pg clsGH 0) (fun p => { p with evt := p.evt ||| (1 <<< 31) })
  have hsh : shN (setSh s1 (pg clsGH 0) 0x10C 0 (BitVec.ofNat 32 (m.w 8))) (pg clsGH 0) 0x10C = m.w 8 % 2 ^ 32 := by simp [shN]
  rw [raiseEvt, hraise]
  simp only [s2, commitGh, updPage_gate, updGate_gate, updPage_steps, updGate_steps, updPage_mem, updGate_mem, updPage_slots, updGate_slots,
      shN, getSh, updPage_regs, updGate_regs]
  exact ⟨congrArg some hsh, hsh, rfl, rfl, rfl⟩

/-- Settles O27. -/
theorem membersAct : Obligations.MembersAct := by
  unfold Obligations.MembersAct
  intro r m s s1
  refine ⟨fun h => exec_of_comes h rfl rfl, fun h => exec_of_comes h rfl rfl, fun h => exec_of_comes h rfl rfl,
    fun h => exec_of_comes h rfl rfl, fun h hreq htest hphase => ?goInTest, fun h hphase hreq htest => ?go,
    fun h hphase hreq => ⟨fun hn => ?answers, fun hn => ?relays⟩, fun hreq => ?members⟩
  case goInTest =>
    refine exec_of_comes_form h rfl (fun ht => by rw [ht, hphase, hreq]; rfl) ?_
    simp [onMember, unlessTest, s1, htest]
  case go =>
    refine exec_of_comes_form h rfl (fun ht => by rw [ht, hphase, hreq]; rfl) ?_
    simp [onMember, unlessTest, s1, htest]
  case answers =>
    refine exec_of_comes_form h rfl (fun ht => by rw [ht, hphase, hreq]; rfl) ?_
    rw [if_pos hn, prepareCode]
  case relays =>
    refine exec_of_comes_form h rfl (fun ht => by rw [ht, hphase, hreq]; rfl) ?_
    rw [if_neg hn, prepareCode]
  case members =>
    have hmine := ne_true_of_eq_false hreq
    refine ⟨fun h => exec_profile_member h hreq, fun h => exec_of_comes h rfl ((if_neg hmine).trans ?start),
      fun h => exec_of_comes h rfl (if_neg hmine), fun h => exec_of_comes h rfl (if_neg hmine), fun h => exec_of_comes h rfl (if_neg hmine),
      fun h => exec_of_comes h rfl (if_neg hmine), fun h => exec_of_comes h rfl (if_neg hmine), fun h => exec_of_comes h rfl (if_neg hmine)⟩
    case start =>
      rw [onMember, unlessTest]
      cases s1.testMode <;> rfl

/-! ### What managers are told, and their own events -/

/-- What members and column managers tell. -/
theorem managersAreTold_holds : managersAreTold := by
  unfold managersAreTold
  intro r m s s1 a others
  refine ⟨fun h => exec_of_comes h rfl rfl, fun h => exec_of_comes h rfl rfl, fun x h => ?applied,
    fun h => ⟨fun hsm => exec_of_comes h rfl (if_pos hsm), fun hsm => exec_of_comes h rfl (if_neg (ne_true_of_eq_false hsm))⟩, fun h => ?beats⟩
  case applied =>
    intro s2 hx
    refine exec_of_comes h rfl ?_
    dsimp only [s1, s2] at hx ⊢
    rw [hx]
  case beats =>
    refine ⟨fun hgone => exec_of_comes h rfl (if_pos ?_), fun hgone hsm hlost hreason =>
      exec_of_comes h rfl ((if_neg ?_).trans ((if_pos hsm).trans (if_pos ⟨hlost, hreason⟩)))⟩
    · rw [hgone]; rfl
    · rw [hgone]; exact Bool.false_ne_true

/-- HEARTBEAT_TICK: the member tells its manager, and the system manager its standby (R536). -/
theorem exec_heartbeatTick {s : State} (h : s.gate.forwardOnly = false) : let s1 := updGate s (fun g => { g with beats := g.beats + 1 })
    let words := mgrWords 0x0B 0 [s1.gate.beats % 2 ^ 32]
    (isSm s1 = false → exec .heartbeatTick s = .next (mgrSend s1 (manager s1) words).1) ∧
    (∀ b, isSm s1 = true → standbyManager s1 = some b → exec .heartbeatTick s = .next (mgrSend s1 b words).1) := by
  intro s1 words
  have htick : exec .heartbeatTick s = .next (if s1.gate.forwardOnly then s1
      else if isSm s1 then (match standbyManager s1 with | some b => (mgrSend s1 b words).1 | none => s1)
      else (mgrSend s1 (manager s1) words).1) := rfl
  have hf : s1.gate.forwardOnly = false := h
  refine ⟨fun hsm => ?_, fun b hsm hb => ?_⟩
  · simp [htick, hf, hsm]
  · simp [htick, hf, hsm, hb]

/-- A message that went unanswered is sent again over management Ethernet (R536). -/
theorem overEthernet_out {s : State} {num : Nat} {o : MOut} (h : s.gate.outq.find? (fun o => o.msg.num == num) = some o) :
    (overEthernet s num).out = .ethernet (standIn s o.dst) num o.msg.words o.msg.list :: s.out := by
  simp [overEthernet, h, standIn]

/-- A pending profile becomes the active one (R25). -/
theorem activateProfile_effect {s : State} {w : Nat} (h : s.gate.profile = some w) :
    (activateProfile s).gate.profile = none ∧ profileWord (activateProfile s) = w % 2 ^ 32 ∧ (activateProfile s).steps = s.steps ∧
      (activateProfile s).mem = s.mem := by
  obtain ⟨c, hc⟩ := bump_eq (updGate (setAct s (pg clsGH 0) 0x10C 0 (BitVec.ofNat 32 w)) (fun g => { g with profile := none })) (pg clsGH 0) 0x4C 1
  have hact := getAct_setAct s (pg clsGH 0) 0x10C 0 (BitVec.ofNat 32 w)
  simp only [activateProfile, h, hc]
  refine ⟨rfl, ?_, rfl, rfl⟩
  exact (congrArg BitVec.toNat hact).trans (BitVec.toNat_ofNat ..)

/-- The managers' own events. -/
theorem managersKeepTime_holds : managersKeepTime := by
  unfold managersKeepTime
  refine ⟨fun s h => exec_heartbeatTick h, fun id alive s => ⟨fun hsm => ?_, fun hsm hgm => ?_⟩, fun num o s ho he => ?_,
    fun s hstand hfwd => ?_, fun w s hsteps hw => ?_⟩
  · exact congrArg Host.Outcome.next (if_pos hsm)
  · exact congrArg Host.Outcome.next ((if_neg (ne_true_of_eq_false hsm)).trans (if_pos hgm))
  · have hexec : exec (.mgrResendTimeout num) s = execMgrResendTimeout num s := rfl
    refine ⟨overEthernet s num, ?_, overEthernet_out ho⟩
    simp [hexec, execMgrResendTimeout, ho, he]
  · exact congrArg Host.Outcome.next (if_neg (by simp [hstand, hfwd]))
  · obtain ⟨hp, hword, hst, hmem⟩ := activateProfile_effect hw
    exact ⟨_, congrArg Host.Outcome.next (if_pos hsteps), hp, hword, hst.trans hsteps, hmem⟩

/-- Settles O28. -/
theorem managersAreToldAndKeepTime : Obligations.ManagersAreToldAndKeepTime := by
  unfold Obligations.ManagersAreToldAndKeepTime
  exact ⟨managersAreTold_holds, managersKeepTime_holds⟩

end Sys2Proof.Machine
end

section
/-!
PROOF. Homes: they perform the requests of this module and of others, take replies, and apply committed steps.
-/
namespace Sys2Proof.Machine
open Sys2Proof

/-! ### Reads, writes and atomics -/

/-- A request that no earlier access holds back, and whose memory is awake, arrives at its home. -/
theorem homeOwn_of_ready {s : State} {id : Nat} {r : Req} {kind : ReqKind} (hr : getReq s id = some r)
    (hkind : r.kind = kind ∨ r.kind = .header ∧ kind = .load) (hst : r.st = .sent) (hown : isOwn s r.addr = true)
    (hback : heldBack s id r = false) (hup : asleep s (gLoc r.addr) = false) : homeOwn s id kind = arriveReq s id r := by
  simp only [homeOwn, hr, hst, hown, hback, hup]
  exact if_pos ⟨hkind, trivial, trivial, rfl, rfl⟩

theorem isPiece_of_getReq {s : State} {id : Nat} {r : Req} (hr : getReq s id = some r) : isPiece s id = decide (r.kind = .piece) := by
  simp [isPiece, hr]

/-- A piece moves at its home: its read, or its write once it holds data (R446). -/
theorem homePiece_of_ready {s : State} {id mode : Nat} {r : Req} (hr : getReq s id = some r) (hkind : r.kind = .piece) (hst : r.st = .sent)
    (hport : portAhead s id r = false) (hmode : r.mode = mode) (hown : isOwn s (if mode = 0 then r.addr else r.words.getD 0 0) = true) :
    homePiece s id mode = if mode = 0 then (dropped s id r).getD (pieceRead s id r) else pieceWrite s id r := by
  rw [homePiece, hr]
  exact if_pos ⟨hkind, hst, by rw [hport]; rfl, hmode, hown⟩

/-- A message of another module that arrives in its turn, for memory that is awake, is served. -/
theorem homeArrived_of_turn {s : State} {i mtype : Nat} {m : Msg} (hm : arrival s i = some m) (hturn : inTurn s i = true)
    (hup : asleep s (bitsOf (m.pl 0) 0 44) = false) (hfwd : s.gate.forwardOnly = false) (hme : forMe s m mtype = true) :
    homeArrived s i mtype = serveMsg (takeArrival s i) m := by
  simp [homeArrived, hm, hturn, hup, hfwd, hme, onArrival]

/-- Settles O33. -/
theorem homesPerform : Obligations.HomesPerform := by
  unfold Obligations.HomesPerform
  have hread (r : HomeReq) (s : State) : exec (.read r) s = execRead r s := rfl
  have hwrite (r : HomeReq) (s : State) : exec (.write r) s = execWrite r s := rfl
  have hatomic (r : HomeReq) (s : State) : exec (.fabricAtomic r) s = execFabricAtomic r s := rfl
  refine ⟨fun id r s hr hst hown hback hup => ⟨fun hkind hpiece => ?load, fun hkind => ?store, fun hkind => ?atomics⟩,
    fun id r s hr hkind hst hport => ⟨fun hmode hown => ?pieceRead, fun hmode hown => ?pieceWrite⟩,
    fun i m s hm hturn hup hfwd => ⟨fun hme => ?readArrived, fun hme => ?writeArrived, fun hme => ?atomicArrived⟩⟩
  case load =>
    have hkind' : r.kind = .load ∨ r.kind = .header ∧ ReqKind.load = .load := hkind.imp_right (fun h => ⟨h, rfl⟩)
    simp [hread, execRead, hpiece, homeOwn_of_ready hr hkind' hst hown hback hup]
  case store => simp [hwrite, execWrite, isPiece_of_getReq hr, hkind, homeOwn_of_ready hr (.inl hkind) hst hown hback hup]
  case atomics => simp [hatomic, execFabricAtomic, homeOwn_of_ready hr (.inl hkind) hst hown hback hup]
  case pieceRead => simp [hread, execRead, isPiece_of_getReq hr, hkind, homePiece_of_ready hr hkind hst hport hmode hown]
  case pieceWrite => simp [hwrite, execWrite, isPiece_of_getReq hr, hkind, homePiece_of_ready hr hkind hst hport hmode hown]
  case readArrived => simp [hread, execRead, homeArrived_of_turn hm hturn hup hfwd hme]
  case writeArrived => simp [hwrite, execWrite, homeArrived_of_turn hm hturn hup hfwd hme]
  case atomicArrived => simp [hatomic, execFabricAtomic, homeArrived_of_turn hm hturn hup hfwd hme]

/-! ### Rows, updates, journal records and collectives -/

/-- A row request of this module is taken at its home once. -/
theorem homeRow_own {s : State} {tag : Nat} {q : Req} {kind : ReqKind} {mtype : Nat} (hq : getReq s tag = some q) (hst : q.st = .sent)
    (hown : isOwn s q.addr = true) (hheld : s.heldRows.any (fun x => x.1 == some tag) = false) (hkind : q.kind = kind) :
    homeRow s (.own tag) kind mtype = takeRow s (some tag, []) := by
  rw [homeRow, hq]
  exact if_pos ⟨hkind, hst, hown, by rw [hheld]; rfl⟩

/-- Requests at the homes of rows, of the journal and of collectives. -/
theorem rowHomesPerform_holds : rowHomesPerform := by
  unfold rowHomesPerform
  have hfetch (r : HomeReq) (s : State) : exec (.rowFetch r) s = .next (homeRow s r .rowFetch 5) := rfl
  have hcheck (r : HomeReq) (s : State) : exec (.rowCheck r) s = .next (homeRow s r .rowCheck 6) := rfl
  have hupdate (r : HomeReq) (s : State) : exec (.rowUpdate r) s = execRowUpdate r s := rfl
  have hjournal (r : HomeReq) (s : State) : exec (.journal r) s = execJournal r s := rfl
  have hcoll (r : HomeReq) (s : State) : exec (.coll r) s = execColl r s := rfl
  have hrelease (tag : Nat) (s : State) : exec (.stagedUpdateRelease tag) s = execStagedUpdateRelease tag s := rfl
  refine ⟨fun tag q s hq hst hown hheld => ⟨fun hkind => ?fetchOwn, fun hkind => ?checkOwn⟩, fun tag q s hq hst hown hkind => ?updateOwn,
    fun tag q s t hq hkind hst hown hserve hwrite => ?records,
    fun i m s hm hfwd => ⟨fun hme => ?fetch, fun hme => ?check, fun hme => ?updates, fun hme hmode => ?journals, fun hme hserve hup => ?colls⟩,
    fun i m s hm hfwd => ⟨fun hme => ?fetchRefused, fun hme => ?checkRefused, fun hme => ?updateRefused⟩,
    fun tag r s hr hkind hst hfirst hbank hleave => ⟨fun hown => ?releaseOwn, fun hown => ?releaseOut⟩⟩
  case fetchOwn => rw [hfetch, homeRow_own hq hst hown hheld hkind]
  case checkOwn => rw [hcheck, homeRow_own hq hst hown hheld hkind]
  case updateOwn => simp [hupdate, execRowUpdate, hq, hst, hown, hkind]
  case records => simp [hjournal, execJournal, journalOwn, hq, hkind, hst, hown, hserve, hwrite, -List.getD_eq_getElem?_getD]
  case fetch => simp [hfetch, homeRow, onArrival, hm, hfwd, hme]
  case check => simp [hcheck, homeRow, onArrival, hm, hfwd, hme]
  case updates => simp [hupdate, execRowUpdate, onArrival, hm, hfwd, hme]
  case journals => simp [hjournal, execJournal, onArrival, hm, hfwd, hme, hmode]
  case colls =>
    rw [hcoll, execColl, hm]
    exact congrArg Host.Outcome.next ((if_pos ⟨hme, hserve, by rw [hup]; rfl⟩).trans (if_neg (ne_true_of_eq_false hfwd)))
  case fetchRefused => simp [hfetch, homeRow, onArrival, hm, hfwd, hme]
  case checkRefused => simp [hcheck, homeRow, onArrival, hm, hfwd, hme]
  case updateRefused => simp [hupdate, execRowUpdate, onArrival, hm, hfwd, hme]
  case releaseOwn => simp [hrelease, execStagedUpdateRelease, hr, hkind, hst, hfirst, hbank, hleave, hown]
  case releaseOut => simp [hrelease, execStagedUpdateRelease, hr, hkind, hst, hfirst, hbank, hleave, hown]

/-! ### Replies -/

/-- The answer of this module's home reaches its request. -/
theorem anyReply_own {s : State} {id : Nat} {q : Req} {st : Status} {v : DWord} {data : Bool} (hq : getReq s id = some q)
    (hst : q.st = .answered st v) (hdata : q.wantsData = data) : anyReply s (.own id) data = replyDone (ownReply s id q st v) := by
  simp [anyReply, hq, hst, hdata]

/-- A reply of another module is taken. -/
theorem anyReply_arrived {s : State} {i : Nat} {m : Msg} {data : Bool} (hm : arrival s i = some m)
    (hme : forMe s m (if data then 0x40 else 0x41) = true) : anyReply s (.arrived i) data = replyDone (takeReply s i m) := by
  simp [anyReply, hm, hme]

/-- Replies reach their requests. -/
theorem repliesAreTaken_holds : repliesAreTaken := by
  unfold repliesAreTaken
  refine ⟨fun id q st v s hq hst => ⟨fun hd => ?_, fun hd => ?_⟩, fun i m s hm => ⟨fun hme => ?_, fun hme => ?_⟩⟩
  · exact congrArg Host.Outcome.next (anyReply_own hq hst hd)
  · exact congrArg Host.Outcome.next (anyReply_own hq hst hd)
  · exact congrArg Host.Outcome.next (anyReply_arrived hm hme)
  · exact congrArg Host.Outcome.next (anyReply_arrived hm hme)

/-- Settles O34. -/
theorem rowHomesAndReplies : Obligations.RowHomesAndReplies := by
  unfold Obligations.RowHomesAndReplies
  exact ⟨rowHomesPerform_holds, repliesAreTaken_holds⟩

/-! ### Applying a committed step -/

/-- No block waits to be moved: nothing moves on. -/
theorem movesOn_of_none {s : State} {u : Nat} {w : Apply} (hw : (homeUnit s u).work = some w) (hm : w.moves = []) : movesOn s u = s := by
  unfold movesOn
  split
  · rename_i x w' _ hw'
    obtain rfl : w = w' := Option.some.inj (hw.symm.trans hw')
    exact if_neg (fun h => h.2.2 hm)
  · rfl

/-- A step applied at every home and in every region is ready to be reported. -/
theorem stepReady_of_applied {s : State} {x : StepSt} (hx : applying s = some x) (hu : ∀ u, u < 20 → (homeUnit s u).applied = x.num)
    (hk : ∀ k ∈ x.regions, x.regionsDone.contains k = true) : stepReady s = some x := by
  have hhomes : (List.range 20).all (fun u => (homeUnit s u).applied == x.num) = true :=
    List.all_eq_true.2 (fun u hr => beq_iff_eq.2 (hu u (List.mem_range.1 hr)))
  rw [stepReady, hx]
  exact if_pos (by rw [hhomes, List.all_eq_true.2 hk]; rfl)

/-- Settles O37. -/
theorem stepsAreApplied : Obligations.StepsAreApplied := by
  unfold Obligations.StepsAreApplied
  intro s x hx
  refine ⟨fun u hwork happ hserve => ?start, fun u w hw hstop hserve => ?resume, fun u w hw hstep hstop hmoves hconf helse => ?applied,
    fun hu hk => ?reports⟩
  case start =>
    have hexec : exec (.applyStart u) s = execApplyStart u s := rfl
    simp [hexec, execApplyStart, hx, hwork, happ, hserve]
  case resume =>
    have hexec : exec (.applyResume u) s = execApplyResume u s := rfl
    simp [hexec, execApplyResume, hx, hw, hstop, hserve]
  case applied =>
    have hexec : exec (.homeApplied u) s = execHomeApplied u s := rfl
    simp [hexec, execHomeApplied, movesOn_of_none hw hmoves, hx, hw, hstep, hstop, hmoves, hconf, helse]
  case reports =>
    have hexec : exec .moduleStepApplied s = execModuleStepApplied s := rfl
    simp [hexec, execModuleStepApplied, stepReady_of_applied hx hu hk]

end Sys2Proof.Machine
end

section
/-!
PROOF. The host interface: doorbells, rings, completion queues, interrupts, ports, the aperture, and firmware updates.
-/
namespace Sys2Proof.Machine
open Sys2Proof

/-- Settles O38. -/
theorem doorbellsAct : Obligations.DoorbellsAct := by
  unfold Obligations.DoorbellsAct
  intro q f v s s1
  have htail : exec (.sqTail q f v) s = execSqTail q f v s := rfl
  have hhead : exec (.cqHead q f v) s = execCqHead q f v s := rfl
  rw [htail, hhead, execSqTail, execCqHead]
  refine ⟨fun hacts => ⟨?tailDropped, ?headDropped⟩, fun hacts => ⟨fun hen => ?tailTaken, fun hen => ?tailKept, ?heads⟩⟩
  case tailDropped => simp [s1, hacts]
  case headDropped => simp [s1, hacts]
  case tailTaken => simp [s1, hacts, hen]
  case tailKept => simp [s1, hacts, hen]
  case heads =>
    intro c x e h n hh hx hn hlen
    have hring : ¬((!bellActs s1 q f || decide (h ≥ e ∨ x.head.toNat ≥ e)) = true) := by
      simp [hacts, Nat.not_le.2 hh, Nat.not_le.2 hx]
    have hfull : ¬(n = 0 ∧ x.posted.length ≥ e) := fun hz => hn hz.1
    refine congrArg Host.Outcome.next ((if_neg hring).trans ?_)
    dsimp only
    rw [if_neg hfull, if_neg (Nat.not_lt.2 hlen)]

/-- The oldest held record is written where it can be. -/
theorem releaseHeld_one {s t : State} {c : Nat} {r : CRec} {rest : List CRec} (hheld : (s.cqs.get {} c).held = r :: rest)
    (hw : writeRec s c r = (t, true)) :
    releaseHeld s c 1 = recordOut (cqSignal { t with cqs := t.cqs.upd {} c (fun q => { q with held := rest }) } c false) r := by
  rw [releaseHeld, hheld]
  dsimp only
  rw [hw]
  rfl

/-- Rings, completion queues, translations and interrupts. -/
theorem ringsAct_holds : ringsAct := by
  unfold ringsAct
  refine ⟨fun q s hmay hwaits => ?fetches, fun c r rest s t hheld hw => congrArg Host.Outcome.next (releaseHeld_one hheld hw),
    fun c s hco htimer => congrArg Host.Outcome.next (if_pos ⟨hco, htimer⟩), fun v s hv => ?invalidates, fun f v w x s => ⟨?writes, ?written,
      ?others⟩⟩
  case fetches => exact congrArg Host.Outcome.next (if_neg (by simp [hmay, hwaits]))
  case invalidates =>
    have hexec : exec .xlateInvDone s = execXlateInvDone s := rfl
    intro t
    rw [hexec, execXlateInvDone, hv]
    rfl
  case writes =>
    have hexec : exec (.msixTableWrite f v w x) s = execMsixTableWrite f v w x s := rfl
    simp [hexec, execMsixTableWrite]
  case written => exact Tab.get_put_same
  case others => exact fun j hj => Tab.get_put_other hj

/-- The events of the PCIe ports. -/
theorem pcieActs_holds : pcieActs := by
  unfold pcieActs
  refine ⟨fun f s hf => congrArg Host.Outcome.next (if_neg (fun h => hf (Fin.ext h))), fun s => congrArg Host.Outcome.next (if_pos rfl),
    fun p s => rfl, fun p up flit w r s hmode => ⟨_, congrArg Host.Outcome.next (if_neg (Nat.not_le.2 hmode)), ?ports⟩,
    fun p f w s hup => ?config⟩
  case ports =>
    refine ⟨?_, ?_, rfl⟩
    · rintro rfl; exact ⟨rfl, rfl, rfl⟩
    · rintro rfl; exact ⟨rfl, rfl, rfl⟩
  case config =>
    have hexec : exec (.configurationRequest p f w) s = execConfigurationRequest p f w s := rfl
    have hport : (if p.val = 0 then s.pcie.up0 else s.pcie.up1) = true := (if_congr Fin.ext_iff rfl rfl).symm.trans hup
    unfold execConfigurationRequest at hexec
    rw [hexec, hport]
    refine ⟨fun hmode => ?_, fun hmode hw => ?_, fun en n hmode hw hf => ⟨_, rfl, ?_⟩⟩
    · have h6 : ¬s.power.mode ≥ 6 := by omega
      simp [h6, hmode]
    · have h6 : ¬s.power.mode ≥ 6 := by omega
      have h34 : ¬(s.power.mode = 3 ∨ s.power.mode = 4) := by omega
      simp [h6, h34, hw]
    · have h6 : ¬s.power.mode ≥ 6 := by omega
      have h34 : ¬(s.power.mode = 3 ∨ s.power.mode = 4) := by omega
      simp [h6, h34, hw, hf]

/-- Settles O39. -/
theorem ringsAndPortsAct : Obligations.RingsAndPortsAct := by
  unfold Obligations.RingsAndPortsAct
  exact ⟨ringsAct_holds, pcieActs_holds⟩

/-! ### The aperture -/

/-- Aperture accesses of memory that the aperture reaches. -/
theorem aperturesAct_holds : aperturesAct := by
  unfold aperturesAct
  intro off s s1 a hmode
  refine ⟨fun len l t hpos hroom hlen hsleep hreset hread => ?_, fun data hdata hsleep hroom hlen hforbid => ?_⟩
  · have hexec : exec (.apertureRead off len) s = execApertureRead off len s := rfl
    have hgo : ¬(s1.power.mode ≠ 0 ∨ len > 0 ∧ (sleeps s1 a len = true ∨ resets s1 a len = true)) := by simp [hmode, hsleep, hreset]
    rw [hexec, execApertureRead, Nat.min_eq_left hroom]
    refine congrArg Host.Outcome.next ?_
    dsimp only
    rw [hlen, if_neg hgo, if_neg (Nat.lt_irrefl len), if_neg (Nat.ne_of_gt hpos), hread, if_pos rfl, Nat.sub_self, List.replicate_zero,
      List.append_nil]
  · have hexec : exec (.apertureWrite off data) s = execApertureWrite off data s := rfl
    have hgo : ¬(s1.power.mode ≠ 0 ∨ data = [] ∨ sleeps s1 a data.length = true) := by simp [hmode, hdata, hsleep]
    have hmay : ¬(aptLen s1 off.toNat data.length < data.length ∨ aptForbidden s1 (a, data.length) = true) := by simp [hlen, hforbid]
    rw [hexec, execApertureWrite, List.take_of_length_le hroom]
    exact congrArg Host.Outcome.next ((if_neg hgo).trans (if_neg hmay))

/-! ### Firmware updates -/

/-- FW_UPDATE_DONE ends an update with the reason of its failure, or with the staged image in its slot. -/
theorem firmwareUpdateEnds_holds : firmwareUpdateEnds := by
  unfold firmwareUpdateEnds
  intro ok s hst i fail
  have hexec : exec (.fwUpdateDone ok) s = execFwUpdateDone ok s := rfl
  have hunder : ¬(s.fw.state ≠ 1 ∧ s.fw.state ≠ 2) := by omega
  have hfail : (if i.1 = 0 ∧ (!ok) = true then 6 else i.1) = fail :=
    if_congr (and_congr_right' (by cases ok <;> decide)) rfl rfl
  rw [hexec, execFwUpdateDone, if_neg hunder]
  dsimp only
  rw [hfail]
  exact ⟨fun hf => by simp only [if_pos hf], fun hf => by simp only [if_neg (not_not.2 hf)]; rfl⟩

/-- Settles O40. -/
theorem apertureAndFirmwareAct : Obligations.ApertureAndFirmwareAct := by
  unfold Obligations.ApertureAndFirmwareAct
  exact ⟨aperturesAct_holds, firmwareUpdateEnds_holds⟩

end Sys2Proof.Machine
end

section
/-!
PROOF. Register accesses: an access that the agent may make of an implemented page acts in the state that waking for it leaves (R619).
-/
namespace Sys2Proof.Machine
open Sys2Proof

/-! ### Writes of a page -/

/-- A write that is taken acts. -/
theorem pageWrite_of_taken {s : State} {r : Requester} {n : Nat} (h : pageTaken s r n = true) (act : State → State) :
    pageWrite s r n act = act (accessed s r) := by
  simp only [pageTaken, Bool.and_eq_true] at h
  obtain ⟨hallow, himpl⟩ := h
  simp only [accessed] at hallow
  simp [pageWrite, hallow, himpl, accessed]

/-- An instruction that writes a page acts where its write is taken. -/
theorem exec_of_taken {i : Instr} {s t : State} {r : Requester} {n : Nat} {act : State → State} (h : pageTaken s r n = true)
    (hexec : exec i s = .next (pageWrite s r n act)) (hact : act (accessed s r) = t) : exec i s = .next t := by
  rw [hexec, pageWrite_of_taken h, hact]

/-- Writes of any page. -/
theorem pageWritesAct_holds : pageWritesAct := by
  unfold pageWritesAct
  intro r n s h s1
  exact ⟨exec_of_taken h rfl rfl, fun on => exec_of_taken h rfl rfl, fun hf => exec_of_taken h rfl (if_pos hf), fun k => exec_of_taken h rfl rfl,
    exec_of_taken h rfl rfl, exec_of_taken h rfl rfl, fun v => exec_of_taken h rfl rfl, fun v => exec_of_taken h rfl rfl,
    fun hcls => exec_of_taken h rfl (if_pos hcls), fun off size v => exec_of_taken h rfl rfl⟩

/-- The sequence of TEST_MODE_ENTER, where it may act: its first write sets the key, its second enters test mode (R601). -/
theorem writeTest_sequence {s : State} {r : Requester} (h : testAllowed s r = true) :
    writeTest (writeTest s r 0xC3) r 0x3C = enterTest (updGate s (fun g => { g with testKey := true })) := by
  have hkey : writeTest s r 0xC3 = updGate s (fun g => { g with testKey := true }) := if_pos h
  have hstill : testAllowed (updGate s (fun g => { g with testKey := true })) r = true := h
  rw [hkey]
  exact if_pos hstill

/-- Writes of one page. -/
theorem unitWritesAct_holds : unitWritesAct := by
  unfold unitWritesAct
  intro r s s1
  exact ⟨fun p v h => exec_of_taken h rfl rfl, fun p v h hx => exec_of_taken h rfl (if_pos hx), fun o v h hx => exec_of_taken h rfl (if_pos hx),
    fun c h => exec_of_taken h rfl rfl,
    fun h => ⟨fun v => exec_of_taken h rfl rfl, fun v => exec_of_taken h rfl rfl, exec_of_taken h rfl rfl⟩,
    fun h => ⟨fun hallow => exec_of_taken h rfl (writeTest_sequence hallow), fun b => exec_of_taken h rfl rfl⟩⟩

/-- Settles O41. -/
theorem registerWritesAct : Obligations.RegisterWritesAct := by
  unfold Obligations.RegisterWritesAct
  exact ⟨pageWritesAct_holds, unitWritesAct_holds⟩

/-! ### Reads, pending commits, snapshots and datagrams -/

/-- A manager message over management Ethernet waits with those that came (R536, R579). -/
theorem exec_mgmtDatagram_manager {src : Fin 4096} {num : BitVec 16} {words : BitVec 384} {list : List DWord} {s : State} :
    let s1 := accessed s .ethernet
    let w := (List.range 12).map (fun i => bitsOf words.toNat (32 * i) 32)
    served s1 .gatehouse = true → s1.power.mode ≠ 7 → bitsOf (w.getD 0 0) 0 8 ≠ 0 → exec (.mgmtDatagram (.manager src num words list)) s =
      .next (updGate s1 (fun g => { g with inq := g.inq ++
        [{ src := src, num := num.toNat, words := w, list := list.map BitVec.toNat, ether := true }] })) := by
  intro s1 w hserved hmode htype
  have hup : ¬((!served s1 .gatehouse || s1.power.mode == 7) = true) := by simp [hserved, hmode]
  exact congrArg Host.Outcome.next ((if_neg hup).trans (if_neg htype))

/-- Settles O43. -/
theorem registerEventsAct : Obligations.RegisterEventsAct := by
  unfold Obligations.RegisterEventsAct
  refine ⟨fun r n off size s h => congrArg Host.Outcome.next (if_pos h), fun n s hpend hreset hpoint => ?_,
    fun s hperiod hmode => congrArg Host.Outcome.next (if_pos ⟨hperiod, hmode⟩), fun src num words list s => exec_mgmtDatagram_manager,
    fun n off s h => congrArg Host.Outcome.next (if_pos h), fun n off size v s h => exec_of_taken h rfl rfl⟩
  exact congrArg Host.Outcome.next (if_pos (by simp [hpend, hreset, hpoint]))

/-! ### The expert level -/

/-- Settles O44. -/
theorem unlockTakesItsKey : Obligations.UnlockTakesItsKey := by
  unfold Obligations.UnlockTakesItsKey
  intro r n key s h hlocked
  have hlocked' : ¬((page (accessed s r) n).expert = true) := ne_true_of_eq_false hlocked
  refine ⟨fun hr hkey => ⟨updPage (accessed s r) n (fun p => { p with expert := true }), ?opens, ?_, rfl, rfl, fun k hk => page_updPage_other hk⟩,
    fun hbad => ?rejects⟩
  case opens =>
    have hgood : ¬(r = .ethernet ∨ key.toNat ≠ 0xA5) := by simp [hr, hkey]
    exact exec_of_taken h rfl ((if_neg hlocked').trans (if_neg hgood))
  case rejects =>
    have hbad' : r = .ethernet ∨ key.toNat ≠ 0xA5 := hbad.imp_right (fun hk he => hk (BitVec.eq_of_toNat_eq he))
    exact exec_of_taken h rfl ((if_neg hlocked').trans (if_pos hbad'))
  · simp

end Sys2Proof.Machine
end

section
/-!
PROOF. Resets of domains, and the retries and timeouts of requests.
-/
namespace Sys2Proof.Machine
open Sys2Proof

/-! ### Resets that begin -/

theorem beginReset_of_inService {s : State} {k : Nat} (h : (dom s k).service = .inService) :
    beginReset s k = some (updDom s k (fun d => { d with service := .resetting, epoch := d.epoch + 1 })) := if_pos h

theorem beginReset_of_out {s : State} {k : Nat} (h : (dom s k).service ≠ .inService) : beginReset s k = none := if_neg h

/-- Settles O46. -/
theorem resetsTakeDomainsOut : Obligations.ResetsTakeDomainsOut := by
  unfold Obligations.ResetsTakeDomainsOut
  intro s t k h
  by_cases hin : (dom s k).service = .inService
  · rw [beginReset_of_inService hin] at h
    obtain rfl := Option.some.inj h
    exact ⟨hin, by simp, by simp, fun j hj => dom_updDom_other hj, rfl⟩
  · rw [beginReset_of_out hin] at h
    exact absurd h (Option.some_ne_none t).symm

/-! ### Domain resets, hangs and state errors -/

theorem resetDone_of_local {s : State} {d : DomRef} (h : ∀ m, d ≠ .remote m) :
    resetDone s d = if (dom s (domKey d)).service ≠ .resetting ∨ bitOf s.power.unlocked (domDie d) then s
      else
        let t := fireInjection (wakeRetries (raiseEvt (domBack s d) (donePage d) 30)) (donePage d)
        serveRequests t t.power.request.length := by
  cases d
  case remote m => exact absurd rfl (h m)
  all_goals rfl

/-- A domain back in service has its epoch done. -/
theorem dom_domBack {s : State} {d : DomRef} (h : ∀ p, d ≠ .pav p) :
    (dom (domBack s d) (domKey d)).service = .inService ∧ (dom (domBack s d) (domKey d)).done = (dom s (domKey d)).epoch := by
  have hback : domBack s d = updDom s (domKey d) (fun x => { x with service := .inService, done := x.epoch }) := by
    cases d
    case pav p => exact absurd rfl (h p)
    all_goals rfl
  simp [hback]

/-- Settles O45. -/
theorem resetsAct : Obligations.ResetsAct := by
  unfold Obligations.ResetsAct
  intro s
  have hcore (c : Fin 512) : exec (.coreReset c) s = .next (coreReset s c) := rfl
  have hpav (p : Fin 16) : exec (.pavilionReset p) s = .next (pavReset s p) := rfl
  have hgroup (o g : Fin 4) : exec (.channelGroupReset o g) s = .next (groupReset s o g) := rfl
  have hpage (n : Fin 65536) : exec (.blockPageReset n) s = .next (pageReset s n) := rfl
  have hdone (d : DomRef) : exec (.resetDone d) s = .next (resetDone s d) := rfl
  refine ⟨fun c s1 hrun hserve hbegin => ?cores, fun c hrun hout => ?coreOut, fun p hrun hout => ?pavOut, fun p hrun hin => ?pavs,
    fun o g s1 hrun hbegin => ?groups, fun n himpl hdom hcls => ?pavPages, fun n himpl hdom hcls => ?linkPages,
    fun d again => ⟨fun hw => congrArg Host.Outcome.next (if_pos hw), fun hw => congrArg Host.Outcome.next (if_neg (ne_true_of_eq_false hw)), rfl⟩,
    fun d hd hres hlock => ⟨?back, fun hp => dom_domBack hp⟩, fun d hd hres => ?notResetting⟩
  case cores => simp [hcore, coreReset, hrun, hserve, hbegin]
  case coreOut => simp [hcore, coreReset, beginReset_of_out hout]
  case pavOut => simp [hpav, pavReset, beginReset_of_out hout]
  case pavs => exact ⟨_, beginReset_of_inService hin, by simp [hpav, pavReset, hrun, beginReset_of_inService hin]⟩
  case groups => simp [hgroup, groupReset, hrun, hbegin]
  case pavPages => simp [hpage, pageReset, himpl, hdom, hcls]
  case linkPages =>
    have hne : clsLNK ≠ clsPAV := by decide
    simp [hpage, pageReset, himpl, hdom, hcls, hne]
  case back => simp [hdone, resetDone_of_local hd, hres, hlock]
  case notResetting => simp [hdone, resetDone_of_local hd, hres]

/-! ### Retries and timeouts -/

theorem isOwn_updReq (s : State) (id : Nat) (f : Req → Req) (g : Nat) : isOwn (updReq s id f) g = isOwn s g := by
  unfold updReq
  split <;> rfl

/-- A load of this module that completed FENCED is sent to its home again (R593). -/
theorem retryReq_own_load {s : State} {id : Nat} {r : Req} (hr : getReq s id = some r) (hst : r.st = .fenced true) (hop : r.op = none)
    (hkind : r.kind = .load) (hown : isOwn s r.addr = true) (htag : tagFree s r = true) :
    retryReq s id = sendOwn (updReq s id (fun _ => { r with st := .sent })) id { r with st := .sent } := by
  simp [retryReq, hr, hst, hop, hkind, htag, isOwn_updReq, hown]

/-- Settles O47. -/
theorem requestsAreRetried : Obligations.RequestsAreRetried := by
  unfold Obligations.RequestsAreRetried
  intro s
  have hretry (r : RetryRef) : exec (.readRetry r) s = execReadRetry r s := rfl
  have htime (tag : Nat) : exec (.requestTimeout tag) s = execRequestTimeout tag s := rfl
  refine ⟨fun id r hr hst hop hkind hown => ?loads, fun id o ho hfar htries hdue hparked hmem hserve => ?ops,
    fun core r rest hrefills hrun htries hmem hserve => ?refills, fun tag r hr => ⟨fun hun => ?times, fun hun => ?answered⟩⟩
  case loads =>
    intro t t' htag
    have hsend : exec (.readRetry (.req id)) s = .next (sendOwn t id { r with st := .sent }) :=
      congrArg Host.Outcome.next (retryReq_own_load hr hst hop hkind hown htag)
    have hback : heldBack t' id { r with st := .sent } = heldBack t' id r := rfl
    refine ⟨fun hheld => ?_, fun hlocal hfree => ?_⟩
    · have hwaits : ¬(r.local' = true ∧ (!heldBack t' id r) = true) := by
        rcases hheld with h | h <;> simp [h]
      exact hsend.trans (congrArg Host.Outcome.next (if_neg hwaits))
    · exact hsend.trans (congrArg Host.Outcome.next (if_pos ⟨hlocal, by rw [hfree]; rfl⟩))
  case ops => simp [hretry, execReadRetry, retryOp, ho, hfar, htries, hdue, hparked, hmem, hserve]
  case refills => simp [hretry, execReadRetry, retryRefill, hrefills, hrun, htries, hmem, hserve]
  case times => simp [htime, execRequestTimeout, hr, hun]
  case answered => simp [htime, execRequestTimeout, hr, hun]

end Sys2Proof.Machine
end

section
/-!
PROOF. The care of memory: scrubbing, retirement copies, zeroing, the row caches' pins and write-backs, and the Gatehouse pairs.
-/
namespace Sys2Proof.Machine
open Sys2Proof

/-- Settles O48. -/
theorem memoryIsCaredFor : Obligations.MemoryIsCaredFor := by
  unfold Obligations.MemoryIsCaredFor
  intro s
  have hcopy (k : Nat) : exec (.retireCopyDone k) s = execRetireCopyDone k s := rfl
  have hzero (p : Fin 16) (c : Fin 64) : exec (.zeroingDone p c) s = execZeroingDone p c s := rfl
  have hpin (o : Fin 4) (l : Nat) : exec (.pinLoad o l) s = execPinLoad o l s := rfl
  have hwrite (o : Fin 4) (l : Nat) : exec (.dirtyWriteback o l) s = execDirtyWriteback o l s := rfl
  have htake : exec .gatehouseTakeover s = execGatehouseTakeover s := rfl
  have hpair : exec .gatehousePairFailure s = execGatehousePairFailure s := rfl
  refine ⟨fun a e => ⟨rfl, fun hnear => congrArg Host.Outcome.next (if_pos hnear)⟩, fun k hk => ⟨fun hnear => ?nearCopies, fun hfar => ?farCopies⟩,
    fun p c => ?zeroes, fun o l => ?pins, fun o l x => ?writes, fun h0 => ⟨?takeover, ?pairFails⟩, fun h1 => ⟨?takeoverOver, ?lastFails⟩⟩
  case nearCopies => simp [hcopy, execRetireCopyDone, hk, hnear]
  case farCopies => simp [hcopy, execRetireCopyDone, hk, Nat.not_lt.2 hfar]
  case zeroes =>
    intro k t hk
    have hzeroing : exec (.zeroingDone p c) s = .next (if t.power.zeroing = [] ∧ t.power.mode = 0 ∧ !t.gate.modReady ∧ !t.testMode ∧
        t.gate.pairsLost < 2 then modReadyUp t else t) := by
      rw [hzero]
      exact congrArg Host.Outcome.next (if_neg (by rw [hk]; exact Bool.false_ne_true))
    exact ⟨fun hleft => hzeroing.trans (congrArg Host.Outcome.next (if_neg (fun h => hleft h.1))),
      fun hleft hmode hready htest hpairs => hzeroing.trans (congrArg Host.Outcome.next (if_pos ⟨hleft, hmode, by rw [hready]; rfl,
        by rw [htest]; rfl, hpairs⟩))⟩
  case pins =>
    intro k a set hfar hrange hon hup hserve hnone hroom t
    have hmay : ¬((!isFar s a || !pinRange s o a 1 || !bitOf (actN s (pg clsFAR o) 0x110) 0 || asleep s a ||
        memService s a != .inService) = true) := by
      simp [hfar, hrange, hon, hup, hserve]
    rw [hpin, execPinLoad]
    refine congrArg Host.Outcome.next ((if_neg hmay).trans ?_)
    dsimp only
    rw [hnone]
    exact (if_neg Bool.false_ne_true).trans (if_neg (Nat.not_le.2 hroom))
  case writes =>
    intro k a hx hdirty hup hserve
    have hgo : ¬(x.dirty = 0 ∨ asleep s a = true ∨ memService s a ≠ .inService) := by simp [hdirty, hup, hserve]
    rw [hwrite, execDirtyWriteback]
    dsimp only
    rw [hx]
    exact congrArg Host.Outcome.next (if_neg hgo)
  case takeover => simp [htake, execGatehouseTakeover, h0]
  case pairFails => simp [hpair, execGatehousePairFailure, h0]
  case takeoverOver => simp [htake, execGatehouseTakeover, h1]
  case lastFails => simp [hpair, execGatehousePairFailure, h1]

end Sys2Proof.Machine
end

section
/-!
PROOF. The noise sources and the draws of seeds (R482 to R485).
-/
namespace Sys2Proof.Machine
open Sys2Proof

@[simp] theorem rng_bump (s : State) (p o n k : Nat) : rng (bump s p o n) k = rng s k := by simp [rng]

@[simp] theorem rng_emit (s : State) (o : Out) (k : Nat) : rng (emit s o) k = rng s k := rfl

/-- What a counter becomes does not depend on the random units. -/
theorem bump_updRng_regs (s : State) (k : Nat) (f : Rng → Rng) (p o n : Nat) : (bump (updRng s k f) p o n).regs = (bump s p o n).regs := by
  unfold bump
  split <;> rfl

/-- Settles O49. -/
theorem noiseActs : Obligations.NoiseActs := by
  unfold Obligations.NoiseActs
  intro p s
  have hblock : exec (.noiseBlock p) s = execNoiseBlock p s := rfl
  refine ⟨fun hon hroom => ?_, fun hfull => ?_, fun hfail => congrArg Host.Outcome.next (if_pos hfail),
    fun hstart => congrArg Host.Outcome.next (if_pos hstart), rfl, fun apt expired => ?_⟩
  · simp [hblock, execNoiseBlock, hon, hroom]
  · simp [hblock, execNoiseBlock, hfull]
  · intro n res hstop hfence
    exact congrArg Host.Outcome.next (if_neg (by simp [hstop, hfence, n]))

/-- A draw of a seed from a pool (R485). -/
theorem seedDraw_cons {s : State} {p : Nat} {b : BitVec 256} {rest : List (BitVec 256)} (h : (rng s p).pool = b :: rest) : seedDraw s p =
    (updRng s p (fun r => { r with pool := rest, seedOk := true, seedHi := BitVec.ofNat 32 (bitsOf b.toNat 32 32) }), bitsOf b.toNat 0 32) := by
  rw [seedDraw, h]

/-- A draw from an empty pool (R485). -/
theorem seedDraw_nil {s : State} {p : Nat} (h : (rng s p).pool = []) :
    seedDraw s p = (bump (updRng s p (fun r => { r with seedOk := false, seedHi := 0 })) (pg clsRNG p) 0x64, 0) := by
  rw [seedDraw, h]

/-- Settles O50. -/
theorem seedsAreDrawn : Obligations.SeedsAreDrawn := by
  unfold Obligations.SeedsAreDrawn
  intro p s
  have hexec : exec (.seedDrawLo p) s = .next (emit (seedDraw s p).1 (.answer 1 [pg clsRNG p, 0x110, (seedDraw s p).2])) := rfl
  rw [hexec]
  refine ⟨fun b rest h => ⟨_, rfl, ?_⟩, fun h => ⟨_, rfl, ?_⟩⟩
  · simp only [seedDraw_cons h]
    refine ⟨rfl, by simp, by simp, ?_, fun k hk => (rng_emit ..).trans (rng_updRng_other hk), rfl, rfl⟩
    simp [bitsOf]
  · simp only [seedDraw_nil h]
    simp [h, bump_updRng_regs]

end Sys2Proof.Machine
end

section
/-!
PROOF. Power, clocks, protections and the supply.
-/
namespace Sys2Proof.Machine
open Sys2Proof

/-! ### Power requests, Hold and wakes -/

/-- A power request is a write of the PWR page. -/
theorem powerWrite_of_taken {s : State} {r : Requester} (h : pageTaken s r (pg clsPWR 0) = true) (kind p mode : Nat) :
    powerWrite s r kind p mode = powerRequest (accessed s r) kind p mode := by
  simp only [pageTaken, Bool.and_eq_true] at h
  exact if_pos h.1

/-- Settles O51. -/
theorem powerRequestsAct : Obligations.PowerRequestsAct := by
  unfold Obligations.PowerRequestsAct
  refine ⟨fun r s h => ?requests, fun p s hmode => ⟨fun hperiod hidle => ?_, fun hbusy => ?_, ?_⟩, fun w b s => ⟨fun hm hw => ?_,
      fun hm hw => ?_, fun hm hw => ?_, fun hm => ?_⟩⟩
  case requests =>
    have hw (kind p mode : Nat) : (Host.Outcome.next (powerWrite s r kind p mode) : Host.Outcome State Fault Refusal) =
        .next (powerRequest (accessed s r) kind p mode) := congrArg Host.Outcome.next (powerWrite_of_taken h kind p mode)
    exact ⟨fun p => ⟨hw _ _ _, hw _ _ _, hw _ _ _⟩, hw _ _ _, hw _ _ _, hw _ _ _, hw _ _ _, hw _ _ _⟩
  · exact congrArg Host.Outcome.next (if_pos ⟨hmode, hperiod, hidle⟩)
  · exact congrArg Host.Outcome.next (if_neg (fun h => ne_true_of_eq_false hbusy h.2.2))
  · exact congrArg Host.Outcome.next (if_pos hmode)
  · refine congrArg Host.Outcome.next ?_
    rcases hm with hm | hm <;> simp [moduleWake, hm, hw]
  · exact congrArg Host.Outcome.next (by simp [moduleWake, hm, hw])
  · exact congrArg Host.Outcome.next (by simp [moduleWake, hm, hw])
  · exact congrArg Host.Outcome.next (by simp [moduleWake, hm])

/-! ### Clocks and loops -/

/-- The far tier's throttling is counted while the module runs (R624). -/
def throttleCounted (t : State) : State :=
  if t.power.mode ≠ 0 then t
  else (List.range 4).foldl (fun s o =>
    if s.power.throttle.get 0 o = 0 then s else addCnt s (pg clsPWR 0) 0x48 0 (s.power.throttle.get 0 o * memPeriod / 16)) t

/-- THERMAL_LOOP_PERIOD: the dies are looked at in turn (R624). -/
theorem exec_thermalLoopPeriod {s : State} (hmode : s.power.mode ≠ 7) (temps : BitVec 160) : exec (.thermalLoopPeriod temps) s =
    .next (throttleCounted ((List.range 20).foldl (fun s d => thermalDie s d (bitsOf temps.toNat (8 * d) 8)) s)) := by
  have hexec : exec (.thermalLoopPeriod temps) s = execThermalLoopPeriod temps s := rfl
  rw [hexec, execThermalLoopPeriod, if_neg hmode, throttleCounted]

/-- POWER_LOOP_PERIOD: what the loop does with the power it measures (R625). -/
theorem exec_powerLoopPeriod {s : State} (hmode : s.power.mode ≠ 7) (watts : BitVec 13) (dv : BitVec 10) (pw : BitVec 256) :
    let t := updPower s (fun w => { w with watts := watts.toNat, volts := dv.toNat })
    let cap := 10 * bitsOf (profileWord t) 18 9
    let use := fun p : Nat => bitsOf pw.toNat (16 * p) 16
    exec (.powerLoopPeriod watts dv pw) s = .next (if t.power.mode ≠ 0 then t
      else if watts.toNat > cap then powerOver (updPower t (fun w => { w with calm := 0 })) use (watts.toNat - cap)
      else if 100 * watts.toNat < 98 * cap then
        let u := updPower t (fun w => { w with calm := w.calm + 1 })
        if u.power.calm < 10 then u else powerUnder u use
      else updPower t (fun w => { w with calm := 0 })) :=
  congrArg Host.Outcome.next (if_neg hmode)

/-- Settles O53. -/
theorem clocksAct : Obligations.ClocksAct := by
  unfold Obligations.ClocksAct
  intro s
  refine ⟨fun p hup => ?core, fun temps hmode => ?thermal, fun watts dv pw hmode => ?power, fun die hrails hpll => ?loss,
    fun die hun => ?relock, fun href => congrArg Host.Outcome.next (if_pos href), fun hmode => congrArg Host.Outcome.next (if_neg hmode)⟩
  case core =>
    have hup' := ne_true_of_eq_false hup
    exact ⟨fun n => congrArg Host.Outcome.next (if_neg hup'), congrArg Host.Outcome.next (if_neg hup'), congrArg Host.Outcome.next (if_neg hup')⟩
  case thermal =>
    intro t
    have hloop : exec (.thermalLoopPeriod temps) s = .next (throttleCounted t) := exec_thermalLoopPeriod hmode temps
    exact ⟨fun hm => hloop.trans (congrArg Host.Outcome.next (if_pos hm)), fun hm => hloop.trans (congrArg Host.Outcome.next (if_neg (not_not.2 hm)))⟩
  case power =>
    intro t cap use
    rw [exec_powerLoopPeriod hmode]
    refine ⟨fun hm => ?_, fun hm hover => ?_, fun hm hcap hclose => ?_, fun hm hunder => ?_⟩
    · exact congrArg Host.Outcome.next (if_pos hm)
    · exact congrArg Host.Outcome.next ((if_neg (not_not.2 hm)).trans (if_pos hover))
    · exact congrArg Host.Outcome.next ((if_neg (not_not.2 hm)).trans ((if_neg (Nat.not_lt.2 hcap)).trans (if_neg (Nat.not_lt.2 hclose))))
    · have hcap : ¬watts.toNat > cap := by omega
      exact congrArg Host.Outcome.next ((if_neg (not_not.2 hm)).trans ((if_neg hcap).trans (if_pos hunder)))
  case loss =>
    intro u
    have hgo : ¬((!railsUp s || !bitOf s.power.pll die) = true) := by simp [hrails, hpll]
    exact ⟨fun hd => congrArg Host.Outcome.next ((if_neg hgo).trans (if_pos hd)),
      fun hd => congrArg Host.Outcome.next ((if_neg hgo).trans (if_neg (Nat.not_lt.2 hd)))⟩
  case relock =>
    have hgo : ¬((!bitOf s.power.unlocked die) = true) := by simp [hun]
    exact ⟨congrArg Host.Outcome.next ((if_neg hgo).trans (if_pos rfl)),
      fun hd => congrArg Host.Outcome.next ((if_neg hgo).trans ((if_neg Bool.false_ne_true).trans (if_neg (Nat.not_lt.2 hd))))⟩

/-! ### Protections -/

/-- Settles O54. -/
theorem protectionsAct : Obligations.ProtectionsAct := by
  unfold Obligations.ProtectionsAct
  intro s f
  refine ⟨fun die hrails hcool => ?hot, fun die hhot => ?release, fun die => rfl, fun hrails => congrArg Host.Outcome.next (if_pos hrails),
    fun hrails hsteps => ?electrical, fun hmode => ?input, fun hover => congrArg Host.Outcome.next (if_pos hover)⟩
  case hot =>
    have hgo : ¬((!railsUp s || s.power.hot.contains die.val) = true) := by rw [hrails, hcool]; exact Bool.false_ne_true
    exact congrArg Host.Outcome.next (if_neg hgo)
  case release =>
    have hgo : ¬((!s.power.hot.contains die.val) = true) := by rw [hhot]; exact Bool.false_ne_true
    exact congrArg Host.Outcome.next (if_neg hgo)
  case electrical =>
    have hgo : ¬((!railsUp s || s.power.steps == 0) = true) := by simp [hrails, hsteps]
    exact ⟨congrArg Host.Outcome.next ((if_neg hgo).trans (if_pos rfl)),
      fun hc => congrArg Host.Outcome.next ((if_neg hgo).trans ((if_neg Bool.false_ne_true).trans (if_neg (Nat.not_le.2 hc)))),
      fun hc => congrArg Host.Outcome.next ((if_neg hgo).trans ((if_neg Bool.false_ne_true).trans (if_pos hc)))⟩
  case input => exact congrArg Host.Outcome.next (if_neg (by omega))

/-! ### The supply -/

/-- Settles O56. -/
theorem supplyActs : Obligations.SupplyActs := by
  unfold Obligations.SupplyActs
  intro b s
  have hperst : exec (.perst b) s = execPerst b s := rfl
  refine ⟨rfl, rfl, fun hm => ?_, fun hm => ?_, fun hm => ?_, fun hm => ?_, fun a => rfl, fun c hc hm => ?_⟩
  · rw [hperst, execPerst]
    interval_cases h : s.power.mode <;> rfl
  · simp [hperst, execPerst, hm]
  · simp [hperst, execPerst, hm]
  · simp [hperst, execPerst, hm]
  · cases c
    case eeprom a => exact absurd rfl (hc a)
    all_goals exact congrArg Host.Outcome.next (if_neg hm)

end Sys2Proof.Machine
end

section
/-!
PROOF. Engines serve the command whose turn it is, and their other events: split grants, gangs, group summaries, and busy tags.
-/
namespace Sys2Proof.Machine
open Sys2Proof

/-! ### Serving a command -/

/-- A command that its unit serves. -/
theorem serveOp_of_serves {s s' : State} {id : Nat} {act : Ctx → Op → Cm Unit} (h : serves s id act s') : serveOp s id act = servedOp s id s' := by
  obtain ⟨o, ho, hdue, hfar, hact⟩ := h
  have hgo : ¬((decide (o.tries > 0) && !o.due || o.far.st != 0) = true) := by
    rcases hdue with h0 | hd
    · simp [h0, hfar]
    · simp [hd, hfar]
  rw [serveOp, ho]
  dsimp only
  rw [if_neg hgo, hact]
  rfl

/-- A stream command that is served. -/
theorem strmServe_of_serves {s s' : State} {id : Nat} {act : Ctx → Strm → Cm Unit} (h : servesStream s id act s') :
    strmServe s id act = strmSettle (servedOp s id s') id := by
  obtain ⟨o, x, ho, hx, hact⟩ := h
  rw [strmServe, ho, hx]
  dsimp only
  rw [hact]
  rfl

/-- Settles O24. -/
theorem enginesServeCommands : Obligations.EnginesServeCommands := by
  unfold Obligations.EnginesServeCommands
  have hpiece (id : Nat) (s : State) : exec (.stmPieceIssue id) s = execStmPieceIssue id s := rfl
  have hgate (id : Nat) (s : State) : exec (.gatePoll id) s = execGatePoll id s := rfl
  have hvec (c : Fin 512) (s : State) : exec (.vecOperation c) s = execVecOperation c s := rfl
  have harrive (id i : Nat) (s : State) : exec (.partialArrival id i) s = execPartialArrival id i s := rfl
  have hhdg (p : Fin 16) (s : State) : exec (.hdgGrant p) s = execHdgGrant p s := rfl
  have hplace (h : Nat) (core : Fin 32) (s : State) : exec (.hubSegmentPlace h core) s = execHubSegmentPlace h core s := rfl
  have hadd (h : Nat) (s : State) : exec (.hubPartialAdd h) s = execHubPartialAdd h s := rfl
  refine ⟨fun id o s s' ho => ?pieces, fun id s s' hready hwaits hserve => ?gates, fun c id o s s' hon hnext hserve => ?operations,
    fun id i tag h o w s s' ho hw hhere hserve => ?partials, fun p id o s s' hon hnext hserve => ?grants,
    fun h buf core hb o wk s s' hbuf hhub ho hwk hmay hserve => ?places, fun h hb part o wk s s' hhub ho hwk hpart hrun => ?adds⟩
  case pieces =>
    intro s1 s2
    rw [hpiece, execStmPieceIssue, ho]
    exact ⟨fun hready hserve => congrArg Host.Outcome.next ((if_pos hready).trans (strmServe_of_serves hserve)),
      fun hnot => congrArg Host.Outcome.next (if_neg (ne_true_of_eq_false hnot))⟩
  case gates => simp [hgate, execGatePoll, hready, hwaits, strmServe_of_serves hserve]
  case operations => simp [hvec, execVecOperation, hon, hnext, serveOp_of_serves hserve]
  case partials => simp [harrive, execPartialArrival, ho, hw, hhere, serveOp_of_serves hserve]
  case grants => simp [hhdg, execHdgGrant, hon, hnext, serveOp_of_serves hserve]
  case places => simp [hplace, execHubSegmentPlace, hhub, ho, hwk, hbuf, hmay, serveOp_of_serves hserve]
  case adds =>
    intro last hserve
    simp [hadd, execHubPartialAdd, hhub, hpart, ho, hwk, hrun, serveOp_of_serves hserve, last]

/-! ### Summaries and busy tags -/

/-- What a monitor absorbs (R330, R331). -/
theorem absorb_effect (s : State) (g : Summary) : (absorb s g).sums = s.sums ∧
    (∀ b, numSlot s g.slot = some b → (absorb s g).numSlots = s.numSlots.put none g.slot (some (b.absorb g))) ∧
    (numSlot s g.slot = none → (absorb s g).numSlots = s.numSlots) := by
  have hslot : numSlot (bump s (pg clsNUM (g.slot / 256)) 0x40) g.slot = numSlot s g.slot := by simp [numSlot]
  simp only [absorb, hslot]
  cases numSlot s g.slot <;> simp

/-- Settles O25. -/
theorem engineEventsAct : Obligations.EngineEventsAct := by
  unfold Obligations.EngineEventsAct
  refine ⟨fun p e s he => ?hedge, fun p e s => ?select, fun p e s => ?merge, fun id p e o s ho hlo hhi hgang hnew hfree hin hon hdom => ?gang,
    fun j g s hg hon => ?summary, fun id r s hr hst => ?busy⟩
  case hedge =>
    have hexec : exec (.hdgGrantSplit p) s = execHdgGrantSplit p s := rfl
    rw [hexec, execHdgGrantSplit, he]
  case select =>
    intro s1 grant he
    have hexec : exec (.selGrantSplit p) s = .next (selSplit s p) := rfl
    rw [hexec, selSplit, he]
  case merge =>
    intro s1 grant he
    have hexec : exec (.mergeGrantSplit p) s = .next (mergeSplit s p) := rfl
    rw [hexec, mergeSplit, he]
  case gang =>
    have hexec : exec (.smpGangJoin id p e) s = execSmpGangJoin id p e s := rfl
    rw [hexec, execSmpGangJoin, ho]
    exact congrArg Host.Outcome.next (if_pos ⟨hlo, hhi, hgang, by rw [hnew]; rfl, hfree, hin, hon, hdom⟩)
  case summary =>
    have hexec : exec (.groupSummary j) s = .next (absorb { s with sums := s.sums.eraseIdx j } g) := by
      have hexec : exec (.groupSummary j) s = execGroupSummary j s := rfl
      rw [hexec, execGroupSummary, hg]
      exact congrArg Host.Outcome.next (if_pos hon)
    obtain ⟨hsums, hbound, hfree⟩ := absorb_effect { s with sums := s.sums.eraseIdx j } g
    exact ⟨_, hexec, hsums, hbound, hfree⟩
  case busy =>
    intro s1
    have hexec : exec (.tagBusyRetry id) s = .next (sendOwn s id r) := by
      have hexec : exec (.tagBusyRetry id) s = execTagBusyRetry id s := rfl
      rw [hexec, execTagBusyRetry, hr]
      exact congrArg Host.Outcome.next (if_pos hst)
    rw [hexec]
    refine ⟨fun hlocal hfree => congrArg Host.Outcome.next (if_pos ⟨hlocal, by rw [hfree]; rfl⟩), fun hheld => congrArg Host.Outcome.next (if_neg ?_)⟩
    rcases hheld with h | h
    · exact fun hc => ne_true_of_eq_false h hc.1
    · intro hc
      rw [h] at hc
      exact Bool.false_ne_true hc.2

end Sys2Proof.Machine
end

section
/-!
PROOF. The dispatcher places, reserves and pre-empts, and a task ends its quantum, is saved, is done and is released.
-/
namespace Sys2Proof.Machine
open Sys2Proof

/-- PLACEMENT, HEAD_RESERVE and PREEMPTION_CHECK. -/
theorem dispatcherActs_holds : dispatcherActs := by
  unfold dispatcherActs
  refine ⟨fun p bucket s hserve => congrArg Host.Outcome.next (if_pos hserve), fun x s c => ?reserves,
      fun p s cand v hon hserve hcand hvic => ?preempts⟩
  case reserves =>
    intro key hfree hst hserve hcore
    have hexec : exec (.headReserve x) s = execHeadReserve x s := rfl
    have hgo : ¬((s.heads.get none x.pav).isSome = true ∨ (!decide ((slot s key).st = .ready ∨ (slot s key).st = .preempted)) = true ∨
        (!dispServes s x.pav) = true) := by simp [hfree, hst, hserve]
    rw [hexec, execHeadReserve]
    exact congrArg Host.Outcome.next ((if_neg hgo).trans (by rw [hcore]))
  case preempts =>
    have hexec : exec (.preemptionCheck p) s = execPreemptionCheck p s := rfl
    simp [hexec, execPreemptionCheck, hon, hserve, hcand, hvic]

/-! ### A task's own events -/

/-- A task whose frame is written, off its core: its refills end, its commands are parked, and its threads are free (R129). -/
def takenOff (s : State) (key core : Nat) (engDns : Bool) : State :=
  updSlot (dropThreads (park (updDense s core (fun d => { d with refills := if engDns then [] else d.refills })) key core) key) key
    (fun t => { t with st := .preempted, saved := true, victim := false })

theorem slot_takenOff (s : State) (key core : Nat) (engDns : Bool) : (slot (takenOff s key core engDns) key).st = .preempted ∧
    (slot (takenOff s key core engDns) key).saved = true ∧ (slot (takenOff s key core engDns) key).victim = false := by
  simp [takenOff]

theorem takenOff_mem (s : State) (key core : Nat) (engDns : Bool) : (takenOff s key core engDns).mem = s.mem := by
  have hoff (u : State) : (dropThreads (park u key core) key).mem = u.mem := rfl
  rw [takenOff, updSlot_mem, hoff, updDense_mem]

/-- What a context save leaves once its frame is written: the task is off its core, saved, and memory is as the frame's writes left it (R129). -/
theorem saveContext_of_written {s0 s s1 : State} {x : SlotRef} {pending : Option Nat}
    (h : each (fun (e : Nat × List Byte) => writeLocal x.pav (frameAddr s x.pav x.n + e.1) e.2)
      (frameParts s (slotKey x.pav x.n) (32 * x.pav.val + (slot s (slotKey x.pav x.n)).core) pending) s = .ok () s1) :
    let t := saveContext s0 s x pending
    let key := slotKey x.pav x.n
    (slot t key).st = .preempted ∧ (slot t key).saved = true ∧ (slot t key).victim = false ∧ t.mem = s1.mem := by
  intro t key
  let u := takenOff s1 key (32 * x.pav.val + (slot s key).core) (slot s key).engDns
  let v := if (slot s key).engDns then bump u (pg clsDNS x.pav) 0x74 else u
  let sv : Saved := { thrs := (threadsOf s1 key).map (fun k => (thr s1 k).waits), pending }
  have ht : t = bump { v with saves := v.saves.put none key (some sv) } (pg clsDSP x.pav) 0x8C := by
    simp only [t, saveContext, h]
    rfl
  have hv : slot v key = slot u key ∧ v.mem = u.mem := by
    simp only [v]
    split <;> simp
  have hslot : slot t key = slot u key := by
    rw [ht, slot_bump]
    exact hv.1
  have hmem : t.mem = u.mem := by
    rw [ht, bump_mem]
    exact hv.2
  rw [hslot, hmem, takenOff_mem]
  obtain ⟨hst, hsaved, hvictim⟩ := slot_takenOff s1 key (32 * x.pav.val + (slot s key).core) (slot s key).engDns
  exact ⟨hst, hsaved, hvictim, rfl⟩

/-- What a task's own events do. -/
theorem taskEventsAct_holds : taskEventsAct := by
  unfold taskEventsAct
  intro x s key
  refine ⟨fun hrun => congrArg Host.Outcome.next (if_pos hrun), fun hfin => ?_, fun hheld hrel => congrArg Host.Outcome.next (if_pos ⟨hheld, hrel⟩),
    fun hfree => congrArg Host.Outcome.next (if_pos hfree), fun s1 => ?_⟩
  · have hexec : exec (.taskDone x) s = execTaskDone x s := rfl
    rw [hexec, execTaskDone]
    exact congrArg Host.Outcome.next (if_neg (by rw [hfin]; exact Bool.false_ne_true))
  · intro core a w hrun hvic hsafe hstill hwrite
    have hexec : exec (.contextSave x) s = .next (saveContext s w x a.2) := by
      have hgo : ¬((slot s key).st ≠ .running ∨ (!(slot s key).victim) = true ∨ (!safePoint s key) = true) := by simp [hrun, hvic, hsafe]
      exact congrArg Host.Outcome.next ((if_neg hgo).trans (if_neg (not_not.2 hstill)))
    exact ⟨_, hexec, saveContext_of_written hwrite⟩

/-- Settles O23. -/
theorem tasksArePlacedAndEnd : Obligations.TasksArePlacedAndEnd := by
  unfold Obligations.TasksArePlacedAndEnd
  exact ⟨dispatcherActs_holds, taskEventsAct_holds⟩

end Sys2Proof.Machine
end
